-- ==== Sys2Proof/Word.lean ====
section
/-! DEFINITION. The words the manual names: bytes, 32-bit register words, 64-bit instruction words and
registers, 512-bit queue words and descriptors; and the sparse table every addressed store of the machine
is held in (a list of index and content pairs). -/

namespace Sys2Proof

/-- A byte of memory or of a packet. -/
abbrev Byte := BitVec 8

/-- A 32-bit word: a host-window register, an FP32 pattern, a program-store half. -/
abbrev Word := BitVec 32

/-- A 64-bit word: an instruction word, a scalar register, a digest. -/
abbrev DWord := BitVec 64

/-- A 512-bit word: a queue word's payload (R207) or a descriptor (R105). -/
abbrev Line := BitVec 512

/-- A sparse table from an index to a content: strictly rising indices, no entry equal to the content an
unlisted index reads as (`Machine.Tab.wf` says so, `Machine.Tab.get` reads, `Machine.Tab.set` writes). -/
abbrev Tab (α : Type) := List (Nat × α)

end Sys2Proof
end

