-- ==== Sys2Proof/Syntax.lean ====
section
/-! DEFINITION. The commands of the block: one constructor of `Instr` for each row of
spec/opcode_table.json, with the row's operands. A row that is an instruction of a layer program carries the
context that issues it and the fields of its 64-bit word (R36); every other row carries what the event
brings from outside the part of the block it acts on. -/

namespace Sys2Proof

/-- A hardware context: logical sequencer × 4 + context, as SYSR selector 3 numbers it (R32, R66). -/
abbrev Ctx := Fin 128

/-- A scalar register x0 to x31 (R34). -/
abbrev Reg := Fin 32

/-- A half-batch: 0 is half A, 1 is half B (R20). -/
abbrev Half := Fin 2

/-- The fields of an instruction word beside its opcode (R36); the three register fields hold 0 to 31, as
R37 asks, the six flag bits are bits [37:32] of the word. -/
structure Fields where
  dst : Reg
  srcA : Reg
  srcB : Reg
  flags : BitVec 6
  imm : BitVec 32
  deriving DecidableEq, Repr

/-- A queue word: 64 bytes with its kind and its end mark (R207). -/
structure QWord where
  data : Line
  kind : BitVec 3
  last : Bool
  deriving DecidableEq, Repr

/-- The three operations of a memory request (R296). -/
inductive MemOp
  | read
  | write
  | add
  deriving DecidableEq, Repr

/-- The formats of the memory-side adders (R296, R301). -/
inductive AddFmt
  | fp32
  | bf16
  | int32
  | int64
  deriving DecidableEq, Repr

/-- A request of a unit to the memory port for some 64-byte sectors of one 256-byte line (R294, R296). -/
structure MemReq where
  /-- The line number, address[47:8]. -/
  line : BitVec 40
  op : MemOp
  fmt : AddFmt
  /-- First 64-byte sector of the line. -/
  sector : Fin 4
  /-- Sectors minus 1. -/
  nm1 : Fin 4
  /-- The receive-path class of R300; clear for dispatch traffic. -/
  recv : Bool
  /-- The half of the requesting command, if it has one (R305, R308). -/
  half : Option Half
  /-- The unit that requests: its requests are accepted in order (R298). 15 is the queue storage. -/
  unit : Fin 16
  /-- Write data of a WRITE or an ADD, lowest byte first. -/
  data : List Byte
  /-- Byte enables of the data (R297). -/
  enable : List Bool
  deriving DecidableEq, Repr

/-- One item on which a kickoff step fails: its cause, its item coded as in a log entry (R330), and whether
the run of the action that the policy selects passes (R332). -/
structure KFail where
  cause : Byte
  item : BitVec 16
  retryOk : Bool
  deriving DecidableEq, Repr

/-- What K0 finds (R325): the count of REFCLK edges over 4096 oscillator periods, the frequency it shows in
Hz (0 when there are no edges), the PLL's lock time in REFCLK, and whether every word of the image was read. -/
structure K0In where
  count : Word
  hertz : Nat
  lockTime : Word
  readOk : Bool
  deriving DecidableEq, Repr

/-- What K1 finds (R325): whether every boundary had five rising edges, and whether the dividers released again do. -/
structure K1In where
  phaseOk : Bool
  retryOk : Bool
  deriving DecidableEq, Repr

/-- What K4 finds (R325): the line count that each stack's controllers report, the margins of each stack, and
the pseudo-channels that fail. -/
structure K4In where
  lines : List Nat
  marginT : List Byte
  marginV : List Byte
  fails : List KFail
  deriving DecidableEq, Repr

/-- What K5 finds (R319, R325): the failed lanes of each physical link port, the ports that fail, and the superperiod count that
the first words of a follower's partner show once the link is up. -/
structure K5In where
  lanes : List (Nat × BitVec 18)
  fails : List KFail
  partner : DWord
  deriving DecidableEq, Repr

/-- The unit classes that have a bench (R3, R338). -/
inductive UnitClass
  | scoreTile
  | scoutTile
  | sequencer
  | linkPort
  deriving DecidableEq, Repr

/-- Why a logical unit is declared failed (R338): a repeated operation failed its residue check again, two fetch-parity failures on
one line, a control-flow signature mismatch, or the watchdog. -/
inductive UnitFail
  | residue
  | parity
  | signature
  | watchdog
  deriving DecidableEq, Repr

/-- What a checker of R353 has found, when it is no event of a row of its own: a single-bit error, corrected; a double-bit error in a
word that a half owns, in the gate store or the replica table of a half's work, or in the program store, the descriptors, the
sync objects or the checkpoint; a residue mismatch whose repeat passed; a line fetched again for its parity; Huddle's copies
that do not match its records. -/
inductive Found
  | nothing
  | single
  | double (h : Half)
  | doubleTable (gate : Bool) (h : Half)
  | doubleShared
  | repeated
  | refetched
  | unconserved (h : Half)
  deriving DecidableEq, Repr

/-- What the Referee takes up for a half (R357, R360): the half, and what a checker has found with it. -/
structure FoundIn where
  half : Half
  found : Found
  deriving DecidableEq, Repr

/-- The in-service test of R338: why the logical unit is declared failed, and whether the bench unit passes its test. -/
structure BenchTest where
  why : UnitFail
  ok : Bool
  deriving DecidableEq, Repr

/-- What the progress watchdog of R353 found without progress: a unit's accepted command, or a context. -/
inductive WdTarget
  | command (c : Ctx) (serial : BitVec 16)
  | context (c : Ctx)
  deriving DecidableEq, Repr

/-- The steps of the part: every row of spec/opcode_table.json. -/
inductive Instr
  /-- NOP (R65): Local instruction that does nothing. -/
  | nop (c : Ctx) (f : Fields)
  /-- END (R45): Makes the context FREE once its outstanding commands have completed. -/
  | endProg (c : Ctx) (f : Fields)
  /-- LI (R65): Loads the sign-extended immediate into xD. -/
  | li (c : Ctx) (f : Fields)
  /-- LUI (R65): Writes the immediate into bits [63:32] of xD and keeps its low word. -/
  | lui (c : Ctx) (f : Fields)
  /-- ADD (R65): Writes xA plus operand B to xD. -/
  | add (c : Ctx) (f : Fields)
  /-- SUB (R65): Writes xA minus operand B to xD. -/
  | sub (c : Ctx) (f : Fields)
  /-- AND (R65): Writes the bitwise AND of xA and operand B to xD. -/
  | and (c : Ctx) (f : Fields)
  /-- OR (R65): Writes the bitwise OR of xA and operand B to xD. -/
  | or (c : Ctx) (f : Fields)
  /-- XOR (R65): Writes the bitwise exclusive-or of xA and operand B to xD. -/
  | xor (c : Ctx) (f : Fields)
  /-- SHL (R65): Shifts xA left by operand B modulo 64. -/
  | shl (c : Ctx) (f : Fields)
  /-- SHR (R65): Shifts xA right logically by operand B modulo 64. -/
  | shr (c : Ctx) (f : Fields)
  /-- MUL (R65): Writes the low 64 bits of xA times operand B to xD. -/
  | mul (c : Ctx) (f : Fields)
  /-- MIN (R65): Writes the signed minimum of xA and operand B to xD. -/
  | min (c : Ctx) (f : Fields)
  /-- MAX (R65): Writes the signed maximum of xA and operand B to xD. -/
  | max (c : Ctx) (f : Fields)
  /-- BEQ (R65): Branches by the immediate when xA equals xB. -/
  | beq (c : Ctx) (f : Fields)
  /-- BNE (R65): Branches by the immediate when xA differs from xB. -/
  | bne (c : Ctx) (f : Fields)
  /-- BLT (R65): Branches when xA is less than xB, signed. -/
  | blt (c : Ctx) (f : Fields)
  /-- BGE (R65): Branches when xA is at least xB, signed. -/
  | bge (c : Ctx) (f : Fields)
  /-- BLTU (R65): Branches when xA is less than xB, unsigned. -/
  | bltu (c : Ctx) (f : Fields)
  /-- LOOP (R46): Pushes a loop with an immediate trip count and body length. -/
  | loop (c : Ctx) (f : Fields)
  /-- LOOPV (R46): Pushes a loop whose trip count comes from xA at run time. -/
  | loopv (c : Ctx) (f : Fields)
  /-- STAT (R66): Writes the context's LAST and FIRST completion codes to xD. -/
  | stat (c : Ctx) (f : Fields)
  /-- SYSR (R66): Writes the system value selected by imm[7:0] to xD. -/
  | sysr (c : Ctx) (f : Fields)
  /-- SIGNAL (R50): Adds the S-form amount to a sync object. -/
  | signal (c : Ctx) (f : Fields)
  /-- WAIT (R51): Optionally writes a threshold and blocks the context until the object's count reaches it. -/
  | wait (c : Ctx) (f : Fields)
  /-- REMOTE_SIGNAL (R52): Sends a signal to a sync object on another chip and completes on link acknowledgement. -/
  | remoteSignal (c : Ctx) (f : Fields)
  /-- CSSET (R67): Loads a completion-sync slot with a sync object index. -/
  | csset (c : Ctx) (f : Fields)
  /-- DESC_LOAD (R68): Copies a descriptor image from the program store into a slot and validates it. -/
  | descLoad (c : Ctx) (f : Fields)
  /-- DESC_CLONE (R68): Copies a valid descriptor slot into another slot and validates it. -/
  | descClone (c : Ctx) (f : Fields)
  /-- DESC_INVAL (R68): Makes a descriptor slot invalid. -/
  | descInval (c : Ctx) (f : Fields)
  /-- FIT (R69): Checks a layer manifest against engine resources and reports or refuses on shortfall. -/
  | fit (c : Ctx) (f : Fields)
  /-- NORM (R71): Normalises each source row by RMS or mean-variance and writes it to the destination. -/
  | norm (c : Ctx) (f : Fields)
  /-- POS (R72): Writes summed sinusoidal position and timestep codes for each row. -/
  | pos (c : Ctx) (f : Fields)
  /-- SCORE (R73): Multiplies rows by the gate, reduces in the fixed tree and adds bias, steering and noise. -/
  | score (c : Ctx) (f : Fields)
  /-- SMAX (R74): Clamps logits and computes the softmax over all experts or the selected k. -/
  | smax (c : Ctx) (f : Fields)
  /-- TOPK (R75): Ranks and writes the k + C best experts per row and records k and C in the slot. -/
  | topk (c : Ctx) (f : Fields)
  /-- ADMIT (R76): Admits each token's choices against replica capacity with cascade and drop, emitting admission records. -/
  | admitRows (c : Ctx) (f : Fields)
  /-- ADMISSION_STALL_END (R169): A return reservation becomes possible and the stalled admission resumes. -/
  | admissionStallEnd
  /-- SCOUT (R83): Predicts active neuron blocks for received rows and delivers them with masks to egress. -/
  | scout (c : Ctx) (f : Fields)
  /-- HUDDLE (R77): Groups a half's admission records into per-chip copies, buckets them and splices buckets into send queues. -/
  | huddle (c : Ctx) (f : Fields)
  /-- PACK (R78): Packs each tile of rows with admitted choices into the smallest allowed form. -/
  | pack (c : Ctx) (f : Fields)
  /-- KEEP (R79): Prunes W2 or TERN predictor weights to n per group of m and writes WIDX rows. -/
  | keep (c : Ctx) (f : Fields)
  /-- VOLLEY (R251): Reserves send-list space for a send queue and hands it to the list builder. -/
  | volley (c : Ctx) (f : Fields)
  /-- RECV_IN (R81): Takes token packets of a half from a dispatch ingest queue, assigning reorder slots and stamping tags. -/
  | recvIn (c : Ctx) (f : Fields)
  /-- RECV_NET (R82): Unpacks a half's received copies into rows until every origin's arrival entry is done. -/
  | recvNet (c : Ctx) (f : Fields)
  /-- REBOUND_COMBINE (R84): Weights and accumulates a half's answers and emits results in token order. -/
  | reboundCombine (c : Ctx) (f : Fields)
  /-- REBOUND_RET (R85): Drains a return-class queue and forwards each answer to its origin. -/
  | reboundRet (c : Ctx) (f : Fields)
  /-- FUSE (R86): Computes act(x times scale plus bias) element by element. -/
  | fuse (c : Ctx) (f : Fields)
  /-- MICRO (R86): Runs a micro-programmed SFU function on each element. -/
  | micro (c : Ctx) (f : Fields)
  /-- COPY (R87): Copies a tensor, as through a temporary when operands overlap. -/
  | copy (c : Ctx) (f : Fields)
  /-- XPOSE (R120): Copies a tensor with its two innermost dimensions exchanged through register tiles. -/
  | xpose (c : Ctx) (f : Fields)
  /-- GATHER (R124): Copies destination rows from indexed source rows. -/
  | gather (c : Ctx) (f : Fields)
  /-- SCATTER (R124): Writes source rows to indexed destination rows, later rows winning. -/
  | scatter (c : Ctx) (f : Fields)
  /-- SCATTER_ADD (R125): Adds source rows into indexed destination rows. -/
  | scatterAdd (c : Ctx) (f : Fields)
  /-- STEP (R53): Waits for the context's outstanding commands and puts it in STEPWAIT. -/
  | stepInsn (c : Ctx) (f : Fields)
  /-- SAVE (R88): Arms a capture of the engine state image at the next step boundary. -/
  | saveInsn (c : Ctx) (f : Fields)
  /-- RESTORE (R88): Arms a load of a saved image at the next step boundary. -/
  | restoreInsn (c : Ctx) (f : Fields)
  /-- QCTL_FLUSH (R222): Empties a queue, entering resync if a packet was cut. -/
  | qctlFlush (c : Ctx) (f : Fields)
  /-- QCTL_DROPREST (R223): Discards the packet at a queue's head in kickoff, test or recovery state. -/
  | qctlDroprest (c : Ctx) (f : Fields)
  /-- QCTL_COUNT (R89): Writes a queue's packet counter to xD. -/
  | qctlCount (c : Ctx) (f : Fields)
  /-- EPOCH (R89): Makes a table's shadow bank active under the next epoch. -/
  | epoch (c : Ctx) (f : Fields)
  /-- CNT (R89): Writes a numbered event counter to xD. -/
  | cnt (c : Ctx) (f : Fields)
  /-- SEED (R89): Stages a 64-bit generator seed for the next step boundary. -/
  | seed (c : Ctx) (f : Fields)
  /-- UNIT_COMMAND_COMPLETION (R41): A unit finishes a command: register value, completion code, sync signal and release are applied in order. -/
  | unitCommandCompletion (c : Ctx) (serial : BitVec 16)
  /-- ICACHE_MISS_FILL (R44): An instruction-cache line fill completes and the missing context may issue. -/
  | icacheMissFill (c : Ctx)
  /-- SYNC_WAITER_RELEASE (R51): A sync object's count reaches a waiter's threshold and the waiter is released. -/
  | syncWaiterRelease (obj : Fin 32768)
  /-- WAIT_TIMEOUT (R51): A WAIT lasts GCTL_WAIT_LIMIT FCLK and ends with TIMEOUT. -/
  | waitTimeout (c : Ctx)
  /-- STEP_BOUNDARY (R53): All step-group members are in STEPWAIT: staged values apply, the step record posts, the step advances and the whistle is tested. -/
  | stepBoundary
  /-- SAVE_IMAGE_WRITTEN (R347): The SAVE image write completes, SAVE completes and the boundary release proceeds. -/
  | saveImageWritten
  /-- CTX_START (R59): Starts a FREE context at its start program counter with its arguments. -/
  | ctxStart (c : Ctx) (clr : Bool)
  /-- CTX_HALT (R59): Stops a context from issuing; it becomes HALTED once outstanding commands complete. -/
  | ctxHalt (c : Ctx) (clr : Bool)
  /-- CTX_RESUME (R59): Continues a TRAPPED or HALTED context at its held program counter. -/
  | ctxResume (c : Ctx) (clr : Bool)
  /-- CTX_SKIP (R59): Continues a TRAPPED context at the instruction after the held one. -/
  | ctxSkip (c : Ctx) (clr : Bool)
  /-- CTX_CLRERR (R59): Clears the context's first error code and its program counter. -/
  | ctxClrerr (c : Ctx)
  /-- CTX_FREE (R59): Makes a HALTED context FREE. -/
  | ctxFree (c : Ctx) (clr : Bool)
  /-- PS_LOCK_WRITE (R43): Sets or clears program-store region locks, invalidating cache lines on lock. -/
  | psLockWrite (hi : Bool) (v : Word)
  /-- PROGRAM_STORE_WRITE (R43): Host write of program-store words, refused in locked regions. -/
  | programStoreWrite (w : Fin 1048576) (v : Word)
  /-- GLD_GO (R151): Starts a gate load of the named gate-table entry after checks. -/
  | gldGo (v : Word)
  /-- GATE_LOAD_COMPLETE (R151): A gate load finishes, signals its sync object and ends any fill-pending wait. -/
  | gateLoadComplete
  /-- RLD_GO (R162): Starts a replica-table load of the named entry after checks. -/
  | rldGo (v : Word)
  /-- REPLICA_LOAD_COMPLETE (R162): A replica-table load finishes and signals its sync object. -/
  | replicaLoadComplete
  /-- EPOCH_RELEASE (R89): An old epoch's tokens in flight reach zero and its bank is released. -/
  | epochRelease (t : Fin 4)
  /-- TREG_ENABLE (R103): Setting a tensor region's EN checks size, capacity and overlap. -/
  | tregEnable (n : Fin 256)
  /-- POOL_ENABLE (R232): Setting a pool's EN checks its areas, class and quotas and starts building its ring. -/
  | poolEnable (n : Fin 8) (v : Word)
  /-- POOL_RING_BUILT (R232): The pool's free ring is built and READY is set. -/
  | poolRingBuilt (n : Fin 8)
  /-- POOL_QUOTA_WRITE (R233): Writes a requester's quota, refused if the pool's quota sum would exceed its buffers. -/
  | poolQuotaWrite (n : Fin 8) (r : Fin 256) (v : Word)
  /-- POOL_ALLOCATE (R234): A unit requests a buffer from a pool under quota and class rules. -/
  | poolAllocate (n : Fin 8) (r : Fin 256)
  /-- POOL_FREE (R235): A buffer returned to a pool is checked and enters the cache. -/
  | poolFree (n : Fin 8) (r : Fin 256) (addr : BitVec 48)
  /-- POOL_CACHE_REFILL (R234): A pool's cache fetch from or write-back to its ring completes. -/
  | poolCacheRefill (n : Fin 8)
  /-- INGEST_GROUP_ENABLE (R214): Setting an ingest group's EN checks its span, queue and halves. -/
  | ingestGroupEnable (p : Fin 32) (v : Word)
  /-- EGRESS_GROUP_ENABLE (R218): Setting an egress group's EN checks its span and queue. -/
  | egressGroupEnable (p : Fin 32) (v : Word)
  /-- QUE_CFG_FLUSH (R222): Host flush of a queue through its queue-table entry. -/
  | queCfgFlush (q : Fin 4096)
  /-- HIST_RD_WRITE (R177): Host advances the histogram ring's read counter, refused with BOUNDS if it passes WR. -/
  | histRdWrite (v : Word)
  /-- OBH_RD_WRITE (R345): Host advances the output-block header ring's read counter. -/
  | obhRdWrite (v : Word)
  /-- MB_SIGNAL (R376): Mailbox command adding an amount to a sync object. -/
  | mbSignal
  /-- MB_ALLOC (R377): Mailbox command allocating a GENERAL pool buffer for a host requester. -/
  | mbAlloc
  /-- MB_FREE (R377): Mailbox command returning a host requester's buffer. -/
  | mbFree
  /-- MB_PING (R376): Mailbox command returning a fixed response word. -/
  | mbPing
  /-- WHISTLE_GRANT (R378): Grants whistles, releasing a pending boundary and raising the standing count. -/
  | whistleGrant (n : Byte)
  /-- WHISTLE_CLEAR (R378): Sets the standing whistle count to zero. -/
  | whistleClear
  /-- REB_CANCEL (R289): Cancels every OPEN reorder slot of a batch and frees its answers. -/
  | rebCancel (batch : BitVec 14)
  /-- VOL_INSTCLR (R265): Clears Volley instances, arrival entries and reach table while idle. -/
  | volInstclr
  /-- PORT_OUT_WRITE (R272): Takes a link port out of service or allows it to retrain. -/
  | portOutWrite (l : Fin 64) (out : Bool)
  /-- KCTL_RELEASE (R333): Moves the engine from test hold to service. -/
  | kctlRelease
  /-- HOST_WARM_RESET (R321): Host-requested warm reset through REF_KCTL.WARM. -/
  | hostWarmReset
  /-- KCTL_FORGET (R332): Appends a FORGET entry that ends later repeat walks. -/
  | kctlForget
  /-- REF_IMG_WRITE (R334): Host write of the policy table or standing record, persisted before completion. -/
  | refImgWrite (w : Fin 2048) (v : Word)
  /-- MEM_RESUME (R305): Clears lost-contents PENDING and releases held re-issues. -/
  | memResume
  /-- MAINT_MARGIN_T (R313): Host maintenance command running a time margin scan on a pseudo-channel. -/
  | maintMarginT (stack : BitVec 5) (pc : BitVec 6)
  /-- MAINT_MARGIN_V (R313): Host maintenance command running a voltage margin scan on a pseudo-channel. -/
  | maintMarginV (stack : BitVec 5) (pc : BitVec 6)
  /-- MAINT_ROWQ (R313): Host maintenance command querying a row unit's remap state. -/
  | maintRowq (stack : BitVec 5) (pc : BitVec 6)
  /-- MAINT_REMAP (R309): Maintenance command remapping a row unit to a spare row. -/
  | maintRemap (stack : BitVec 5) (pc : BitVec 6)
  /-- MAINT_CREAD (R313): Host maintenance command reading a stack controller register. -/
  | maintCread (stack : BitVec 5) (pc : BitVec 6)
  /-- MAINT_CWRITE (R313): Host maintenance command writing a stack controller register. -/
  | maintCwrite (stack : BitVec 5) (pc : BitVec 6)
  /-- MAINT_TAKEOVER (R304): Maintenance command making the stack's spare pseudo-channel serve a failed one. -/
  | maintTakeover (stack : BitVec 5) (pc : BitVec 6)
  /-- MAINT_RESULT (R309): A stack controller answers a maintenance command with its result. -/
  | maintResult (v : Word)
  /-- REPAIR_CLEAR (R368): Clears REF_FSTAT.REPAIR when the step group is stopped. -/
  | repairClear
  /-- PC_DIVCLR (R352): Clears the recorded pair-compare divergence. -/
  | pcDivclr
  /-- MWIN_START (R391): Arms the measurement window to start at the next superperiod boundary. -/
  | mwinStart
  /-- MWIN_STOP (R391): Arms the measurement counters to freeze at the next superperiod boundary. -/
  | mwinStop
  /-- OBS_SEL_WRITE (R390): Writes a pin selection or mode, refused for MODE 11, adopted at the next superperiod boundary. -/
  | obsSelWrite (p : Fin 16) (v : Word)
  /-- PAGED_WINDOW_WRITE (R384): Host write through the paged window into a table, judged against active and released banks. -/
  | pagedWindowWrite (w : Fin 2097152) (v : Word)
  /-- FLAG_CLEAR (R366): W1C write clearing status flags without changing their counters. -/
  | flagClear (mask : Word)
  /-- INT_PEND_CLEAR (R382): W1C write clearing interrupt pending bits. -/
  | intPendClear (mask : Word)
  /-- LOW_WORD_READ (R369): Read of a _LO register that captures its high word. -/
  | lowWordRead (off : BitVec 24)
  /-- REGISTER_WRITE (R394): Host write to any other register, judged field by field by access code. -/
  | registerWrite (off : BitVec 24) (v : Word)
  /-- LIVE_ADOPT (R365): A unit group adopts a live register value at its packet boundary and sets its adoption bit. -/
  | liveAdopt (u : Fin 15)
  /-- POWER_ON_RESET (R322): PORST_N asserted: all outputs take their reset state and everything on the block resets. -/
  | powerOnReset
  /-- WARM_RESET (R322): WARM_RST_N asserted: reset with the image copy and listed fields surviving. -/
  | warmReset
  /-- RESET_RELEASE (R322): A reset pin is released through the REFCLK synchroniser and kickoff begins. -/
  | resetRelease (power warm : Bool)
  /-- LOCK_LOSS (R318): The PLL loses lock in service; the Referee logs it and performs a lock-loss reset. -/
  | lockLoss
  /-- KICKOFF_K0 (R325): Checks the reference, locks the PLL, reads the image and increments the kickoff count. -/
  | kickoffK0 (i : K0In)
  /-- KICKOFF_K1 (R325): Aligns the clock dividers to the superperiod, optionally to SPM_IN. -/
  | kickoffK1 (i : K1In)
  /-- KICKOFF_K2 (R325): March self-tests and repairs every on-block SRAM. -/
  | kickoffK2 (fails : List KFail)
  /-- KICKOFF_K3 (R325): Self-tests units and assigns logical indices from the bench. -/
  | kickoffK3 (fails : List KFail)
  /-- KICKOFF_K4 (R325): Trains and margins the stacks and reapplies recorded takeovers. -/
  | kickoffK4 (i : K4In)
  /-- KICKOFF_K5 (R325): Trains link ports with spare-lane mapping and port substitution. -/
  | kickoffK5 (i : K5In)
  /-- KICKOFF_K6 (R325): Loads the vendor micro-programs, checks their digest and writes the behaviour identity. -/
  | kickoffK6 (fails : List KFail)
  /-- KICKOFF_K7 (R325): Loads and reads back the default tables. -/
  | kickoffK7 (fails : List KFail)
  /-- KICKOFF_K8 (R325): Enters service or test hold and raises the kickoff interrupt. -/
  | kickoffK8
  /-- NVS_COMMAND_DONE (R327): The non-volatile store completes a word read or write. -/
  | nvsCommandDone (rdata : Word)
  /-- NVS_TIMEOUT (R325): A non-volatile word access exceeds REF_NVS_TMO. -/
  | nvsTimeout
  /-- SPM_MARKER (R319): A superperiod marker edge arrives on SPM_IN and is checked against the boundary. -/
  | spmMarker (early : BitVec 7)
  /-- SPM_MARKER_TIMEOUT (R325): No SPM_IN marker arrives within 1 ms during K1. -/
  | spmMarkerTimeout
  /-- SUPERPERIOD_BOUNDARY (R316): All clock edges coincide; the superperiod count advances and boundary-timed actions apply. -/
  | superperiodBoundary
  /-- OBS_UPDATE_PERIOD (R389): An observation update period ends and each pin shows its computed value. -/
  | obsUpdatePeriod (samples : List (List Bool))
  /-- INGEST_PACKET (R215): Words from an ingest group are taken into their queue as a packet stream. -/
  | ingestPacket (p : Fin 32) (ports : List (Bool × List QWord))
  /-- QUEUE_SPILL_FILL (R211): A spill block read completes and its words enter the queue head. -/
  | queueSpillFill (q : Fin 4096)
  /-- EGRESS_WORDS (R218): An egress group presents words from its queue unless held. -/
  | egressWords (p : Fin 32) (hold : Bool)
  /-- MEM_REQUEST_ISSUE (R300): A memory port issues a request to a pseudo-channel when it has credit. -/
  | memRequestIssue (r : MemReq)
  /-- MEM_RESPONSE (R296): A stack controller answers a request with data and status. -/
  | memResponse (m : Fin 40) (tag : Byte) (status : BitVec 2)
  /-- RETRAIN_START (R302): A pseudo-channel begins retraining and its requests go to the hold queue. -/
  | retrainStart (ch : Fin 640)
  /-- RETRAIN_DONE (R302): A pseudo-channel ends retraining and its held requests drain in order. -/
  | retrainDone (ch : Fin 640)
  /-- RETRAIN_WINDOW_EXPIRY (R303): Retrain done does not arrive within MEM_RTWIN and the channel is taken over. -/
  | retrainWindowExpiry (ch : Fin 640)
  /-- CHANNEL_FAILED (R304): A controller reports a failed channel and it is taken over or its stack lost. -/
  | channelFailed (ch : Fin 640)
  /-- SPARE_READY (R304): The spare pseudo-channel is ready and held requests go to it. -/
  | spareReady (stack : Fin 20)
  /-- SEND_LIST_BUILD (R251): The list builder turns send-queue packets into send-list entries and frames. -/
  | sendListBuild
  /-- EOH_SEND (R252): All buckets of a Huddle bank have been sent and an EOH goes to every chip. -/
  | eohSend (h : Half)
  /-- FRAME_SEND (R255): A link port chooses and sends the next cell or frame by priority and credit. -/
  | frameSend (l : Fin 64)
  /-- CONTROL_BLOCK_RECEIVE (R244): A superframe control block arrives with ACK, NAK, credit and port state. -/
  | controlBlockReceive (l : Fin 64) (bytes : List Byte)
  /-- FRAME_RECEIVE (R257): A frame passes its CRC checks and is checked for kind, destination, tag and duplication. -/
  | frameReceive (l : Fin 64) (bytes : List Byte)
  /-- COPY_SEGMENT (R258): A COPY segment is reassembled into a RECEIVE buffer; a complete copy enters its receive queue. -/
  | copySegment
  /-- ANSWER_SEGMENT (R279): An ANSWER segment at the origin is checked against its reorder slot and kept or discarded. -/
  | answerSegment
  /-- SIGNAL_PACKET (R266): A remote SIGNAL arrives, is applied once and acknowledged. -/
  | signalPacket
  /-- SIGACK (R266): A remote signal acknowledgement arrives and completes the REMOTE.SIGNAL. -/
  | sigack
  /-- EOH_PACKET (R262): An EOH arrives and updates the origin's arrival entry. -/
  | eohPacket
  /-- DISCARD_PACKET (R262): A DISCARD arrives and marks older-generation copies of the half stale. -/
  | discardPacket
  /-- FAULTN_PACKET (R353): A fault notice arrives and faults the named half. -/
  | faultnPacket
  /-- PSTATE_PACKET (R270): A PSTATE arrives and replaces the sender's reach-table entry. -/
  | pstatePacket
  /-- DIGEST_PACKET (R352): A partner's unit digest arrives and is compared with the local one. -/
  | digestPacket
  /-- ACK_TIMEOUT (R247): A frame is not acknowledged in time and is sent again, or its port retrains after four tries. -/
  | ackTimeout (l : Fin 64) (seq : BitVec 24)
  /-- PARTIAL_TIMEOUT (R259): A partial packet does not complete within VOL_RXTMO and is discarded. -/
  | partialTimeout (origin : Fin 8192) (pid : Word)
  /-- CONSERVATION_TIMEOUT (R263): An origin's copies stay short of its EOH count past VOL_RXTMO and a FAULTN goes out. -/
  | conservationTimeout (h : Half) (origin : Fin 8192)
  /-- DUP_FILTER_EXPIRY (R258): A completed packet's key leaves the duplicate filter after 4 µs. -/
  | dupFilterExpiry (origin : Fin 8192) (pid : Word)
  /-- SIGNAL_RESEND_TIMEOUT (R266): No SIGACK arrives within VOL_SIGTMO and the signal is sent again. -/
  | signalResendTimeout (seq : BitVec 16)
  /-- REMOTE_SIGNAL_TIMEOUT (R67): A REMOTE.SIGNAL is not acknowledged 10 µs after issue and ends with TIMEOUT. -/
  | remoteSignalTimeout (c : Ctx)
  /-- LANE_FAIL (R267): A lane fails and its port leaves service to retrain. -/
  | laneFail (l : Fin 64) (lane : Fin 18)
  /-- PORT_RETRAIN_DONE (R267): Retraining maps a spare lane and the port returns to service. -/
  | portRetrainDone (l : Fin 64)
  /-- PORT_SUBSTITUTION (R268): A bench port takes a failed port's logical index and plane. -/
  | portSubstitution (l : Fin 64)
  /-- PC_PARTNER_TIMEOUT (R352): A compare-table entry waits REF_PC_TMO for its partner and is dropped. -/
  | pcPartnerTimeout (step : DWord) (unit : Fin 8) (h : Half)
  /-- RESULT_EMISSION (R286): The emission pointer reaches a finished row and its result packet is emitted. -/
  | resultEmission (h : Half)
  /-- SCOUT_BIN_READY (R198): A scout bin fills, waits out SCOUT_BIN.WAIT or meets LAST and is processed. -/
  | scoutBinReady (e : Fin 4096)
  /-- STAGING_LOAD_COMPLETE (R199): An expert's predictor weights finish loading into scout staging. -/
  | stagingLoadComplete (e : Fin 4096)
  /-- AUDIT_REPORT (R201): A core audit report is compared with the predicted mask and its entry freed. -/
  | auditReport
  /-- WATCHDOG_EXPIRY (R353): A unit or context makes no progress for REF_WDOG and its half is faulted. -/
  | watchdogExpiry (t : WdTarget) (testOk : Bool)
  /-- EARLY_FAULT_RECOVERY (R357): A fault before the half's EOH leaves discards the half and bumps its generation. -/
  | earlyFaultRecovery (h : FoundIn)
  /-- REPLAY (R358): Contexts return to the checkpoint and replay the step against their journals. -/
  | replay
  /-- LATE_FAULT (R360): A fault after the half's EOH leaves cancels its slots and stops at the next boundary for repair. -/
  | lateFault (h : FoundIn)
  /-- UNIT_SUBSTITUTION (R338): A bench unit passes its in-service test and takes a failed unit's logical index. -/
  | unitSubstitution (u : UnitClass) (i : Fin 64) (test : BenchTest)
  /-- UNDEFINED_INSTRUCTION (R37): A context reaches an instruction with an undefined opcode, an out-of-range register field or an undefined flag; it records FORMAT and traps whatever TRAPEN says. -/
  | undefinedInstruction (c : Ctx)
  /-- UNLOCKED_REGION_FETCH (R43): A context fetches an instruction from an unlocked program-store region, or from beyond the store, and traps with OFFSIDE at that instruction. -/
  | unlockedRegionFetch (c : Ctx)
  /-- PLL_LOCK_TIMEOUT (R325): The PLL does not report lock within 50 µs in K0, giving cause 0x03 and the policy action. -/
  | pllLockTimeout (altOk : Bool)
  /-- LINK_PARTNER_TIMEOUT (R325): No control block arrives from a port's partner within REF_LINK_TMO in K5, giving cause 0x53 and the policy action. -/
  | linkPartnerTimeout (l : Fin 64)
  deriving DecidableEq, Repr

end Sys2Proof
end

