-- ==== Sys2Proof/Decode.lean ====
section
/-! DEFINITION. The words of the block. The table of commands gives no row bits, so no table word spells a
command (`decodeTableWord`); the 64-bit instruction word of the layer programs (R36 to R39, R64) is read and
written here. -/

namespace Sys2Proof

/-- The command that a word of the command table spells: no row of the table has bits. -/
def decodeTableWord (nbits w : Nat) : Option Instr :=
  let _ := nbits
  let _ := w
  none

/-- Opcode and operands of an instruction of a layer program (R64); none for the other rows. -/
def opcodeOf : Instr → Option (Nat × Ctx × Fields)
  | .nop c f => some (0x01, c, f)
  | .endProg c f => some (0x02, c, f)
  | .li c f => some (0x03, c, f)
  | .lui c f => some (0x04, c, f)
  | .add c f => some (0x08, c, f)
  | .sub c f => some (0x09, c, f)
  | .and c f => some (0x0A, c, f)
  | .or c f => some (0x0B, c, f)
  | .xor c f => some (0x0C, c, f)
  | .shl c f => some (0x0D, c, f)
  | .shr c f => some (0x0E, c, f)
  | .mul c f => some (0x0F, c, f)
  | .min c f => some (0x10, c, f)
  | .max c f => some (0x11, c, f)
  | .beq c f => some (0x14, c, f)
  | .bne c f => some (0x15, c, f)
  | .blt c f => some (0x16, c, f)
  | .bge c f => some (0x17, c, f)
  | .bltu c f => some (0x18, c, f)
  | .loop c f => some (0x1A, c, f)
  | .loopv c f => some (0x1B, c, f)
  | .stat c f => some (0x1C, c, f)
  | .sysr c f => some (0x1D, c, f)
  | .signal c f => some (0x20, c, f)
  | .wait c f => some (0x21, c, f)
  | .remoteSignal c f => some (0x22, c, f)
  | .csset c f => some (0x23, c, f)
  | .descLoad c f => some (0x30, c, f)
  | .descClone c f => some (0x30, c, f)
  | .descInval c f => some (0x30, c, f)
  | .fit c f => some (0x31, c, f)
  | .norm c f => some (0x40, c, f)
  | .pos c f => some (0x41, c, f)
  | .score c f => some (0x42, c, f)
  | .smax c f => some (0x43, c, f)
  | .topk c f => some (0x44, c, f)
  | .admitRows c f => some (0x45, c, f)
  | .scout c f => some (0x46, c, f)
  | .huddle c f => some (0x47, c, f)
  | .pack c f => some (0x48, c, f)
  | .keep c f => some (0x49, c, f)
  | .volley c f => some (0x4A, c, f)
  | .recvIn c f => some (0x4B, c, f)
  | .recvNet c f => some (0x4B, c, f)
  | .reboundCombine c f => some (0x4C, c, f)
  | .reboundRet c f => some (0x4C, c, f)
  | .fuse c f => some (0x58, c, f)
  | .micro c f => some (0x59, c, f)
  | .copy c f => some (0x60, c, f)
  | .xpose c f => some (0x61, c, f)
  | .gather c f => some (0x62, c, f)
  | .scatter c f => some (0x63, c, f)
  | .scatterAdd c f => some (0x64, c, f)
  | .stepInsn c f => some (0x70, c, f)
  | .saveInsn c f => some (0x71, c, f)
  | .restoreInsn c f => some (0x72, c, f)
  | .qctlFlush c f => some (0x78, c, f)
  | .qctlDroprest c f => some (0x78, c, f)
  | .qctlCount c f => some (0x78, c, f)
  | .epoch c f => some (0x79, c, f)
  | .cnt c f => some (0x7A, c, f)
  | .seed c f => some (0x7B, c, f)
  | _ => none

/-- The flag bits [37:32] that an opcode defines (R37, R38, R51, R67, R69, R70): WT, SG and CS for every unit
command, ORD for ADMIT, REBOUND and SCATTER.ADD, bit [37] for SCOUT (AUD) and TOPK (RTB); CONSUME of WAIT, the
slot of CSSET and QRY of FIT. -/
def flagMask (op : Nat) : BitVec 6 :=
  if op = 0x21 ∨ op = 0x31 then 0b000001#6
  else if op = 0x23 then 0b000011#6
  else if op = 0x45 ∨ op = 0x4C ∨ op = 0x64 then 0b011111#6
  else if op = 0x44 ∨ op = 0x46 then 0b101111#6
  else if 0x40 ≤ op ∧ op < 0x70 then 0b001111#6
  else 0#6

/-- The sub-operation byte imm[31:24] (R39, R70). -/
def Fields.sub (f : Fields) : Nat := (f.imm.extractLsb' 24 8).toNat

/-- The row that an opcode and the fields of the word spell (R64). An opcode with several rows is split by the
bits that R68, R70 and R89 name; a reserved value goes to the row that refuses it with FORMAT. -/
def rowOf (op : Nat) (c : Ctx) (f : Fields) : Option Instr :=
  match op with
  | 0x01 => some (.nop c f)
  | 0x02 => some (.endProg c f)
  | 0x03 => some (.li c f)
  | 0x04 => some (.lui c f)
  | 0x08 => some (.add c f)
  | 0x09 => some (.sub c f)
  | 0x0A => some (.and c f)
  | 0x0B => some (.or c f)
  | 0x0C => some (.xor c f)
  | 0x0D => some (.shl c f)
  | 0x0E => some (.shr c f)
  | 0x0F => some (.mul c f)
  | 0x10 => some (.min c f)
  | 0x11 => some (.max c f)
  | 0x14 => some (.beq c f)
  | 0x15 => some (.bne c f)
  | 0x16 => some (.blt c f)
  | 0x17 => some (.bge c f)
  | 0x18 => some (.bltu c f)
  | 0x1A => some (.loop c f)
  | 0x1B => some (.loopv c f)
  | 0x1C => some (.stat c f)
  | 0x1D => some (.sysr c f)
  | 0x20 => some (.signal c f)
  | 0x21 => some (.wait c f)
  | 0x22 => some (.remoteSignal c f)
  | 0x23 => some (.csset c f)
  | 0x30 => some (if f.sub = 1 then .descClone c f else if f.sub = 2 then .descInval c f else .descLoad c f)
  | 0x31 => some (.fit c f)
  | 0x40 => some (.norm c f)
  | 0x41 => some (.pos c f)
  | 0x42 => some (.score c f)
  | 0x43 => some (.smax c f)
  | 0x44 => some (.topk c f)
  | 0x45 => some (.admitRows c f)
  | 0x46 => some (.scout c f)
  | 0x47 => some (.huddle c f)
  | 0x48 => some (.pack c f)
  | 0x49 => some (.keep c f)
  | 0x4A => some (.volley c f)
  | 0x4B => some (if f.sub % 2 = 0 then .recvIn c f else .recvNet c f)
  | 0x4C => some (if f.sub % 4 = 1 then .reboundRet c f else .reboundCombine c f)
  | 0x58 => some (.fuse c f)
  | 0x59 => some (.micro c f)
  | 0x60 => some (.copy c f)
  | 0x61 => some (.xpose c f)
  | 0x62 => some (.gather c f)
  | 0x63 => some (.scatter c f)
  | 0x64 => some (.scatterAdd c f)
  | 0x70 => some (.stepInsn c f)
  | 0x71 => some (.saveInsn c f)
  | 0x72 => some (.restoreInsn c f)
  | 0x78 => some (if f.sub = 0 then .qctlFlush c f else if f.sub = 1 then .qctlDroprest c f else .qctlCount c f)
  | 0x79 => some (.epoch c f)
  | 0x7A => some (.cnt c f)
  | 0x7B => some (.seed c f)
  | _ => none

/-- The instruction word of an opcode with its fields (R36). -/
def packWord (op : Nat) (f : Fields) : DWord :=
  BitVec.ofNat 8 op ++ BitVec.ofNat 6 f.dst.val ++ BitVec.ofNat 6 f.srcA.val ++ BitVec.ofNat 6 f.srcB.val
    ++ f.flags ++ f.imm

/-- The word of an instruction of a layer program; the zero word, which is undefined (R64), for another row. -/
def encodeWord (i : Instr) : DWord :=
  match opcodeOf i with
  | some (op, _, f) => packWord op f
  | none => 0#64

/-- A register field of six bits; the values 32 to 63 are not registers (R37). -/
def regField (v : BitVec 6) : Option Reg := if h : v.toNat < 32 then some ⟨v.toNat, h⟩ else none

/-- The fields of a word, if its three register fields name registers (R36, R37). -/
def fieldsOf (w : DWord) : Option Fields :=
  match regField (w.extractLsb' 50 6), regField (w.extractLsb' 44 6), regField (w.extractLsb' 38 6) with
  | some d, some a, some b => some ⟨d, a, b, w.extractLsb' 32 6, w.extractLsb' 0 32⟩
  | _, _, _ => none

/-- The instruction that context `c` reads from a word; none for an undefined opcode, a register field from 32
to 63 and a set flag that the opcode does not define (R37). -/
def decodeWord (c : Ctx) (w : DWord) : Option Instr :=
  let op := (w.extractLsb' 56 8).toNat
  match fieldsOf w with
  | none => none
  | some f => if f.flags &&& ~~~flagMask op = 0#6 then rowOf op c f else none

end Sys2Proof
end

