-- ==== Sys2Proof/Machine/Table.lean ====
section
/-! DEFINITION. Reading and writing a sparse table, and the byte stores built on one: little-endian access,
since every multi-byte value of the manual is little-endian (Scope and Conventions, Notation). -/

namespace Sys2Proof.Machine

/-- The content of index `k`; an unlisted index reads as `d`. -/
def Tab.get {α : Type} (d : α) : Tab α → Nat → α
  | [], _ => d
  | (i, a) :: t, k => if i = k then a else Tab.get d t k

/-- The table with index `k` removed from its list. -/
def Tab.drop {α : Type} : Tab α → Nat → Tab α
  | [], _ => []
  | (i, a) :: t, k => if i = k then Tab.drop t k else (i, a) :: Tab.drop t k

/-- The table with content `v` put at index `k`, in rising order of the index. -/
def Tab.put {α : Type} : Tab α → Nat → α → Tab α
  | [], k, v => [(k, v)]
  | (i, a) :: t, k, v =>
    if i = k then (k, v) :: t else if k < i then (k, v) :: (i, a) :: t else (i, a) :: Tab.put t k v

/-- The table after content `v` is written at index `k`; writing what an unlisted index reads as removes
the entry, so that equal stores are equal data. -/
def Tab.set {α : Type} [DecidableEq α] (d : α) (t : Tab α) (k : Nat) (v : α) : Tab α :=
  if v = d then Tab.drop t k else Tab.put t k v

/-- Every listed index exceeds `lo`, and the indices rise strictly. -/
def Tab.rising {α : Type} : Option Nat → Tab α → Bool
  | _, [] => true
  | lo, (i, _) :: t => (match lo with | none => true | some l => decide (l < i)) && Tab.rising (some i) t

/-- The canonical form of a table whose unlisted indices read as `d`. -/
def Tab.wf {α : Type} [DecidableEq α] (d : α) (t : Tab α) : Bool :=
  Tab.rising none t && t.all fun c => decide (c.2 ≠ d)

/-- The table with `f` applied to the content of index `k`. -/
def Tab.upd {α : Type} [DecidableEq α] (d : α) (t : Tab α) (k : Nat) (f : α → α) : Tab α :=
  Tab.set d t k (f (Tab.get d t k))

/-- The least index below `n` that is not listed, searching up from `k`. -/
def Tab.firstFree {α : Type} (t : Tab α) : Nat → Nat → Option Nat
  | _, 0 => none
  | k, n + 1 => if t.any (fun c => c.1 == k) then Tab.firstFree t (k + 1) n else some k

/-! Byte stores. -/

/-- One byte; an unlisted address reads zero. -/
def bytesGet (m : Tab Byte) (a : Nat) : Byte := Tab.get 0#8 m a

/-- One byte written. -/
def bytesSet (m : Tab Byte) (a : Nat) (v : Byte) : Tab Byte := Tab.set 0#8 m a v

/-- `n` bytes from address `a`, lowest first. -/
def bytesRead (m : Tab Byte) (a : Nat) : Nat → List Byte
  | 0 => []
  | n + 1 => bytesGet m a :: bytesRead m (a + 1) n

/-- The bytes of `bs` written from address `a`. -/
def bytesWrite (m : Tab Byte) (a : Nat) : List Byte → Tab Byte
  | [] => m
  | b :: bs => bytesWrite (bytesSet m a b) (a + 1) bs

/-- The number whose little-endian bytes are given. -/
def leNat : List Byte → Nat
  | [] => 0
  | b :: bs => b.toNat + 256 * leNat bs

/-- The `n` little-endian bytes of a number. -/
def natLe : Nat → Nat → List Byte
  | 0, _ => []
  | n + 1, v => BitVec.ofNat 8 v :: natLe n (v / 256)

/-- An `n`-byte little-endian number of a byte store. -/
def loadLe (m : Tab Byte) (a n : Nat) : Nat := leNat (bytesRead m a n)

/-- An `n`-byte little-endian number written to a byte store. -/
def storeLe (m : Tab Byte) (a n v : Nat) : Tab Byte := bytesWrite m a (natLe n v)

/-- Bits `[hi:lo]` of a number. -/
def bitsOf (v hi lo : Nat) : Nat := (v >>> lo) % 2 ^ (hi + 1 - lo)

/-- Bit `i` of a number. -/
def bitOf (v i : Nat) : Bool := Nat.testBit v i

/-- `v` with bits `[hi:lo]` replaced by the low bits of `x`. -/
def putBits (v hi lo x : Nat) : Nat :=
  v - (bitsOf v hi lo) * 2 ^ lo + (x % 2 ^ (hi + 1 - lo)) * 2 ^ lo

/-- The quotient rounded up. -/
def ceilDiv (a b : Nat) : Nat := (a + b - 1) / b

/-- 1 for true and 0 for false. -/
def b2n (b : Bool) : Nat := if b then 1 else 0

/-- The bytes of a line, byte 0 first. -/
def lineBytes (l : Line) : List Byte := natLe 64 l.toNat

/-- The line whose first bytes are given; the bytes after them are zero. -/
def lineOf (bs : List Byte) : Line := BitVec.ofNat 512 (leNat (bs.take 64))

/-- Bytes cut into lines of 64, the last padded with zero bytes; fuel bounds the count. -/
def linesOf : Nat → List Byte → List Line
  | 0, _ => []
  | n + 1, bs => match bs with
    | [] => []
    | _ => lineOf bs :: linesOf n (bs.drop 64)

end Sys2Proof.Machine
end

