-- ==== Sys2Proof/Machine/Float.lean ====
section
/-! DEFINITION. Binary floating point, exactly: a value is a sign with a natural number scaled by a power of two,
every operation forms its exact result and rounds it once, to nearest with ties to even (R93, R126, R127). -/

namespace Sys2Proof.Machine

/-- A floating-point value: not a number, an infinity, or sign · `m` · 2^`e`. -/
inductive Fl
  | nan
  | inf (neg : Bool)
  | fin (neg : Bool) (m : Nat) (e : Int)
  deriving DecidableEq, Repr

/-- A binary format: significand bits with the hidden one, exponent of the smallest subnormal, exponent of the
leading bit of the largest finite values. -/
structure FFmt where
  p : Nat
  emin : Int
  etop : Int
  deriving DecidableEq, Repr

def fmtF32 : FFmt := ⟨24, -149, 127⟩
def fmtBF16 : FFmt := ⟨8, -133, 127⟩
def fmtE5 : FFmt := ⟨3, -16, 15⟩
def fmtE4 : FFmt := ⟨4, -9, 8⟩

/-- Bits of a number. -/
def bitLen (n : Nat) : Nat := if n = 0 then 0 else Nat.log2 n + 1

/-- `m`·2^`e` on the grid of 2^`q`, to nearest with ties to even. -/
def roundGrid (m : Nat) (e q : Int) : Nat :=
  if q ≤ e then m * 2 ^ (e - q).toNat
  else
    let k := (q - e).toNat
    let t := m >>> k
    let r := m % 2 ^ k
    if 2 * r > 2 ^ k then t + 1 else if 2 * r = 2 ^ k then t + t % 2 else t

/-- `m`·2^`e` on the grid of 2^`q`, towards the larger magnitude. -/
def roundGridUp (m : Nat) (e q : Int) : Nat :=
  if q ≤ e then m * 2 ^ (e - q).toNat
  else
    let k := (q - e).toNat
    if m % 2 ^ k = 0 then m >>> k else (m >>> k) + 1

/-- Exponent of the last place of a format for a value whose leading bit is that of `m`·2^`e`. -/
def FFmt.ulp (f : FFmt) (m : Nat) (e : Int) : Int := Max.max (e + bitLen m - f.p) f.emin

/-- The value rounded to a format, to nearest with ties to even; beyond its range an infinity. -/
def Fl.round (f : FFmt) : Fl → Fl
  | .nan => .nan
  | .inf n => .inf n
  | .fin n m e =>
    if m = 0 then .fin n 0 0 else
    let q := f.ulp m e
    let t := roundGrid m e q
    if q + bitLen t - 1 > f.etop then .inf n else .fin n t q

/-- `m`·2^`e` with a little more when `rest`: two guard bits, the last of which says so. -/
def sticky (m : Nat) (rest : Bool) : Nat := 4 * m + b2n rest

/-! ### Patterns -/

/-- A pattern of `eb` exponent bits and `mb` fraction bits, read as IEEE 754 reads it. -/
def Fl.ofBits (eb mb v : Nat) : Fl :=
  let n := bitOf v (eb + mb)
  let x := bitsOf v (eb + mb - 1) mb
  let f := v % 2 ^ mb
  let bias : Int := 2 ^ (eb - 1) - 1
  if x = 2 ^ eb - 1 then (if f = 0 then .inf n else .nan)
  else if x = 0 then .fin n f (1 - bias - mb)
  else .fin n (2 ^ mb + f) (x - bias - mb)

/-- The pattern of a value that the format holds; a NaN is `qnan` (R93). -/
def Fl.toBits (eb mb qnan : Nat) : Fl → Nat
  | .nan => qnan
  | .inf n => b2n n * 2 ^ (eb + mb) + (2 ^ eb - 1) * 2 ^ mb
  | .fin n m e =>
    let bias : Int := 2 ^ (eb - 1) - 1
    let lo : Int := 1 - bias - mb
    let s := b2n n * 2 ^ (eb + mb)
    if m = 0 then s else
    let q := Max.max (e + bitLen m - (mb + 1)) lo
    let t := roundGrid m e q
    if t < 2 ^ mb then s + t
    else s + ((q + bias + mb).toNat * 2 ^ mb + (t - 2 ^ mb))

/-- FP32 of a pattern (R91). -/
def f32 (w : Word) : Fl := Fl.ofBits 8 23 w.toNat

/-- The FP32 pattern of a value, rounded (R93). -/
def toF32 (x : Fl) : Word := BitVec.ofNat 32 ((x.round fmtF32).toBits 8 23 0x7FC00000)

/-- BF16 of a pattern (R91). -/
def bf16 (v : BitVec 16) : Fl := Fl.ofBits 8 7 v.toNat

/-- The BF16 pattern of a value, rounded (R93). -/
def toBF16 (x : Fl) : BitVec 16 := BitVec.ofNat 16 ((x.round fmtBF16).toBits 8 7 0x7FC0)

/-- FP8 E5M2 of a pattern (R91). -/
def fp8e5 (v : Byte) : Fl := Fl.ofBits 5 2 v.toNat

/-- The FP8 E5M2 pattern of a value: a finite value beyond range saturates (R93). -/
def toFP8E5 (x : Fl) : Byte :=
  match x with
  | .fin n _ _ =>
    match x.round fmtE5 with
    | .inf _ => BitVec.ofNat 8 (b2n n * 128 + 0x7B)
    | y => BitVec.ofNat 8 (y.toBits 5 2 0x7F)
  | y => BitVec.ofNat 8 (y.toBits 5 2 0x7F)

/-- FP8 E4M3 of a pattern: no infinity, NaN only at S.1111.111 (R91). -/
def fp8e4 (v : Byte) : Fl :=
  let k := v.toNat
  let x := bitsOf k 6 3
  let f := k % 8
  if x = 15 ∧ f = 7 then .nan
  else if x = 0 then .fin (bitOf k 7) f (-9)
  else .fin (bitOf k 7) (8 + f) (x - 10)

/-- The FP8 E4M3 pattern of a value: beyond range and infinity give the largest finite value (R93). -/
def toFP8E4 (x : Fl) : Byte :=
  match x with
  | .nan => 0x7F#8
  | .inf n => BitVec.ofNat 8 (b2n n * 128 + 0x7E)
  | .fin n m e =>
    if m = 0 then BitVec.ofNat 8 (b2n n * 128) else
    let q := fmtE4.ulp m e
    let t := roundGrid m e q
    if q + bitLen t - 1 > 8 ∨ (q = 5 ∧ 14 < t) then BitVec.ofNat 8 (b2n n * 128 + 0x7E)
    else if t < 8 then BitVec.ofNat 8 (b2n n * 128 + t)
    else if t = 16 then BitVec.ofNat 8 (b2n n * 128 + (q + 11).toNat * 8)
    else BitVec.ofNat 8 (b2n n * 128 + (q + 10).toNat * 8 + (t - 8))

/-- An integer as a value. -/
def Fl.ofInt (i : Int) : Fl := .fin (decide (i < 0)) i.natAbs 0

/-- A value rounded to an integer, ties to even; NaN and infinity have none. -/
def Fl.toInt : Fl → Option Int
  | .fin n m e => let t : Int := roundGrid m e 0; some (if n then -t else t)
  | _ => none

/-- A value truncated to an integer. -/
def Fl.trunc : Fl → Option Int
  | .fin n m e =>
    let t : Int := if 0 ≤ e then m * 2 ^ e.toNat else m >>> (-e).toNat
    some (if n then -t else t)
  | _ => none

/-- A value rounded to an integer in `lo` to `hi`: beyond it the nearer end, NaN gives 0 (R93). -/
def Fl.toIntSat (lo hi : Int) (x : Fl) : Int :=
  match x with
  | .nan => 0
  | .inf n => if n then lo else hi
  | y => match y.toInt with
    | some i => if i < lo then lo else if hi < i then hi else i
    | none => 0

/-! ### Exact sums and products -/

/-- The signed integer of a finite value on the grid of 2^`q`, for `q` at most its exponent. -/
def signedAt (n : Bool) (m : Nat) (e q : Int) : Int :=
  let v : Int := m * 2 ^ (e - q).toNat
  if n then -v else v

/-- The exact sum; an exact zero is −0 only when both operands are (R127). -/
def Fl.add : Fl → Fl → Fl
  | .nan, _ => .nan
  | _, .nan => .nan
  | .inf a, .inf b => if a = b then .inf a else .nan
  | .inf a, .fin _ _ _ => .inf a
  | .fin _ _ _, .inf b => .inf b
  | .fin a m e, .fin b k g =>
    if m = 0 ∧ k = 0 then .fin (a && b) 0 0
    else if m = 0 then .fin b k g
    else if k = 0 then .fin a m e
    else
      let q := Min.min e g
      let v := signedAt a m e q + signedAt b k g q
      if v = 0 then .fin false 0 0 else .fin (decide (v < 0)) v.natAbs q

/-- The value with its sign changed. -/
def Fl.neg : Fl → Fl
  | .nan => .nan
  | .inf a => .inf !a
  | .fin a m e => .fin (!a) m e

/-- The exact product. -/
def Fl.mul : Fl → Fl → Fl
  | .nan, _ => .nan
  | _, .nan => .nan
  | .inf a, .inf b => .inf (a != b)
  | .inf a, .fin b m _ => if m = 0 then .nan else .inf (a != b)
  | .fin a m _, .inf b => if m = 0 then .nan else .inf (a != b)
  | .fin a m e, .fin b k g => .fin (a != b) (m * k) (e + g)

/-- The quotient, with enough bits and a sticky bit for one rounding. -/
def Fl.div : Fl → Fl → Fl
  | .nan, _ => .nan
  | _, .nan => .nan
  | .inf _, .inf _ => .nan
  | .inf a, .fin b _ _ => .inf (a != b)
  | .fin a _ _, .inf b => .fin (a != b) 0 0
  | .fin a m e, .fin b k g =>
    if k = 0 then (if m = 0 then .nan else .inf (a != b))
    else if m = 0 then .fin (a != b) 0 0
    else
      let sh := 80 + bitLen k
      let n := m * 2 ^ sh
      .fin (a != b) (sticky (n / k) (decide (n % k ≠ 0))) (e - g - sh - 2)

/-- A value compared with zero and with another value, as numbers; false on NaN. -/
def Fl.lt : Fl → Fl → Bool
  | .nan, _ => false
  | _, .nan => false
  | .inf a, .inf b => a && !b
  | .inf a, .fin _ _ _ => a
  | .fin _ _ _, .inf b => !b
  | .fin a m e, .fin b k g => let q := Min.min e g; decide (signedAt a m e q < signedAt b k g q)

/-- Equality as numbers: +0.0 equals −0.0, and a NaN equals nothing. -/
def Fl.eqv : Fl → Fl → Bool
  | .inf a, .inf b => a == b
  | .fin a m e, .fin b k g => let q := Min.min e g; decide (signedAt a m e q = signedAt b k g q)
  | _, _ => false

/-- The value is a NaN. -/
def Fl.isNan : Fl → Bool
  | .nan => true
  | _ => false

/-- The value is finite and not zero. -/
def Fl.isNonzero : Fl → Bool
  | .fin _ m _ => decide (m ≠ 0)
  | _ => false

/-! ### Integer roots -/

/-- Bits of the square root of `n` below 2^`k`, added to `r` while the square stays at most `n`. -/
def isqrtGo (n : Nat) : Nat → Nat → Nat
  | 0, r => r
  | k + 1, r => let t := r + 2 ^ k; isqrtGo n k (if t * t ≤ n then t else r)

/-- The integer square root. -/
def isqrt (n : Nat) : Nat := isqrtGo n (bitLen n / 2 + 1) 0

/-- An even exponent: `m`·2^`e` with `e` even. -/
def evenExp (m : Nat) (e : Int) : Nat × Int := if e % 2 = 0 then (m, e) else (2 * m, e - 1)

/-- Square root, for one rounding (R127). -/
def Fl.sqrt : Fl → Fl
  | .nan => .nan
  | .inf n => if n then .nan else .inf false
  | .fin n m e =>
    if m = 0 then .fin n 0 0 else if n then .nan else
    let (m1, e1) := evenExp m e
    let v := m1 * 2 ^ 128
    let r := isqrt v
    .fin false (sticky r (decide (r * r ≠ v))) (e1 / 2 - 64 - 2)

/-- Reciprocal square root, for one rounding (R127). -/
def Fl.rsqrt : Fl → Fl
  | .nan => .nan
  | .inf n => if n then .nan else .fin false 0 0
  | .fin n m e =>
    if m = 0 then .inf n else if n then .nan else
    let (m1, e1) := evenExp m e
    let k := 128 + bitLen m1
    let r := isqrt (2 ^ (2 * k) / m1)
    .fin false (sticky r (decide (r * r * m1 ≠ 2 ^ (2 * k)))) (-(e1 / 2) - k - 2)

/-! ### Exponential, logarithm, sine and cosine: fixed point with many more bits than any FP32 result needs -/

/-- Fraction bits of the fixed point. -/
def fxBits : Nat := 400

/-- One in fixed point. -/
def fxOne : Int := 2 ^ fxBits

/-- A product in fixed point. -/
def fxMul (a b : Int) : Int := a * b / fxOne

/-- A finite value in fixed point, cut below the last place. -/
def fxOf (n : Bool) (m : Nat) (e : Int) : Int :=
  let k := e + fxBits
  let v : Int := if 0 ≤ k then m * 2 ^ k.toNat else m >>> (-k).toNat
  if n then -v else v

/-- A fixed-point number that stands for one which is not a fraction of the grid, ready to be rounded once. -/
def fxVal (v : Int) : Fl :=
  if v < 0 then .fin true (sticky v.natAbs true) (-(fxBits : Int) - 2)
  else .fin false (sticky v.natAbs true) (-(fxBits : Int) - 2)

/-- Sum of `t`, `t`·`z`/(`i`), `t`·`z`²/(`i`(`i`+1)), … with `n` terms. -/
def expTerms (z : Int) : Nat → Nat → Int → Int
  | 0, _, _ => 0
  | n + 1, i, t => t + expTerms z n (i + 1) (fxMul t z / (i : Int))

/-- Repeated squaring. -/
def fxSquare : Nat → Int → Int
  | 0, v => v
  | n + 1, v => fxSquare n (fxMul v v)

/-- e^x (R126, R127). -/
def Fl.exp : Fl → Fl
  | .nan => .nan
  | .inf n => if n then .fin false 0 0 else .inf false
  | .fin n m e =>
    if m = 0 then .fin false 1 0
    else if Fl.lt (.fin false 128 0) (.fin n m e) then .inf false
    else if Fl.lt (.fin n m e) (.fin true 128 0) then .fin false 1 (-1000)
    else fxVal (fxSquare 12 (expTerms (fxOf n m e / 4096) 60 1 fxOne))

/-- Sum of `t`/`i`, `t`·`z2`/(`i`+2), … with `n` terms: the series of the inverse tangents. -/
def atanTerms (z2 : Int) : Nat → Nat → Int → Int
  | 0, _, _ => 0
  | n + 1, i, t => t / (i : Int) + atanTerms z2 n (i + 2) (fxMul t z2)

/-- The natural logarithm of 2. -/
def fxLn2 : Int := 2 * atanTerms (fxOne / 9) 130 1 (fxOne / 3)

/-- Natural logarithm (R127). -/
def Fl.ln : Fl → Fl
  | .nan => .nan
  | .inf n => if n then .nan else .inf false
  | .fin n m e =>
    if m = 0 then .inf true else if n then .nan else
    let k : Int := e + bitLen m
    let y : Int := fxOf false m (-(bitLen m : Int))
    let (y, k) := if 3 * y < 2 * fxOne then (2 * y, k - 1) else (y, k)
    if y = fxOne ∧ k = 0 then .fin false 0 0 else
    let z := (y - fxOne) * fxOne / (y + fxOne)
    fxVal (k * fxLn2 + 2 * atanTerms (fxMul z z) 100 1 z)

/-- π/2. -/
def fxHalfPi : Int :=
  let a := atanTerms (-(fxOne / 25)) 100 1 (fxOne / 5)
  let b := atanTerms (-(fxOne / (239 * 239))) 40 1 (fxOne / 239)
  2 * (4 * a - b)

/-- Sum of `t`, −`t`·`z2`/(`i`(`i`+1)), … with `n` terms: the series of sine and cosine. -/
def sinTerms (z2 : Int) : Nat → Nat → Int → Int
  | 0, _, _ => 0
  | n + 1, i, t => t + sinTerms z2 n (i + 2) (-(fxMul t z2 / ((i * (i + 1) : Nat) : Int)))

/-- Sine of the angle plus `q` quarter turns, the argument reduced exactly (R126). -/
def sinQuarter (n : Bool) (m : Nat) (e : Int) (q : Int) : Fl :=
  let x := fxOf n m e
  let k := x / fxHalfPi
  let r := x - k * fxHalfPi
  let z2 := fxMul r r
  match ((k + q) % 4).toNat with
  | 0 => fxVal (sinTerms z2 90 2 r)
  | 1 => fxVal (sinTerms z2 90 1 fxOne)
  | 2 => fxVal (-(sinTerms z2 90 2 r))
  | _ => fxVal (-(sinTerms z2 90 1 fxOne))

/-- Sine (R126, R127). -/
def Fl.sin : Fl → Fl
  | .fin n m e => if m = 0 then .fin n 0 0 else sinQuarter n m e 0
  | _ => .nan

/-- Cosine (R126, R127). -/
def Fl.cos : Fl → Fl
  | .fin n m e => if m = 0 then .fin false 1 0 else sinQuarter n m e 1
  | _ => .nan

/-! ### The operations of R126 on FP32 patterns -/

/-- One rounding to FP32. -/
def rn (x : Fl) : Fl := x.round fmtF32

def fAdd (a b : Fl) : Fl := rn (a.add b)
def fSub (a b : Fl) : Fl := rn (a.add b.neg)
def fMul (a b : Fl) : Fl := rn (a.mul b)
def fDiv (a b : Fl) : Fl := rn (a.div b)
/-- Fused multiply-add: a·b + c with one rounding. -/
def fFma (a b c : Fl) : Fl := rn ((a.mul b).add c)
def fExp (a : Fl) : Fl := rn a.exp
def fLn (a : Fl) : Fl := rn a.ln
def fSqrt (a : Fl) : Fl := rn a.sqrt
def fRsqrt (a : Fl) : Fl := rn a.rsqrt
def fRcp (a : Fl) : Fl := rn ((Fl.fin false 1 0).div a)
def fSin (a : Fl) : Fl := rn a.sin
def fCos (a : Fl) : Fl := rn a.cos

/-- Zero and one. -/
def flZero : Fl := .fin false 0 0
def flOne : Fl := .fin false 1 0

/-! ### The row accumulator (R99) -/

/-- One addition into the row accumulator: 48 significant bits, no limit of range. -/
def acc48Add (a b : Fl) : Fl :=
  match a.add b with
  | .fin n m e =>
    if m = 0 then .fin n 0 0 else
    let q := Max.max e (e + bitLen m - 48)
    .fin n (roundGrid m e q) q
  | x => x

/-! ### Directed rounding (R189, R193, R194) -/

/-- `m`·2^`e` on the grid of 2^`q`, towards zero. -/
def roundGridDown (m : Nat) (e q : Int) : Nat :=
  if q ≤ e then m * 2 ^ (e - q).toNat else m >>> (q - e).toNat

/-- The largest finite FP32 magnitude. -/
def flMax : Fl := .fin false (2 ^ 24 - 1) 104

/-- The value rounded to FP32 towards +infinity. -/
def rnUp : Fl → Fl
  | .nan => .nan
  | .inf n => .inf n
  | .fin n m e =>
    if m = 0 then .fin n 0 0 else
    let q := fmtF32.ulp m e
    let t := if n then roundGridDown m e q else roundGridUp m e q
    if q + bitLen t - 1 > fmtF32.etop then (if n then flMax.neg else .inf false) else .fin n t q

/-- The value rounded to FP32 towards −infinity. -/
def rnDown (x : Fl) : Fl := (rnUp x.neg).neg

def addUp (a b : Fl) : Fl := rnUp (a.add b)
def addDown (a b : Fl) : Fl := rnDown (a.add b)
def mulUp (a b : Fl) : Fl := rnUp (a.mul b)

/-- The magnitude. -/
def Fl.abs : Fl → Fl
  | .nan => .nan
  | .inf _ => .inf false
  | .fin _ m e => .fin false m e

end Sys2Proof.Machine
end

