-- ==== Sys2Proof/Config.lean ====
section
/-! DEFINITION. What an implementation fixes and the manual leaves open: the free values, constants without a
body, and the record a free value of FIT is given in. -/

namespace Sys2Proof

/-- What FIT needs of a layer manifest (R18, R69). The manual names the manifest's 256 bytes and the checks made
with them, not where each number stands in them. -/
structure Manifest where
  /-- The shape of R18: d_model, experts E, choices k, cascade candidates beyond k. -/
  dModel : Nat
  experts : Nat
  choices : Nat
  cands : Nat
  /-- Fewest and most replicas of an expert, and replicas in total. -/
  repMin : Nat
  repMax : Nat
  repTotal : Nat
  steered : Nat
  /-- Expert FFN width, layers of the program set, tokens of a half, chips of the system. -/
  ffn : Nat
  layers : Nat
  halfTokens : Nat
  chips : Nat
  /-- Gate bytes of the layer. -/
  gateBytes : Nat
  /-- The ingest ports that the program assigns to return (R27). -/
  returnPorts : List (Fin 32)
  /-- The largest dense payload of the program, in bytes (R231). -/
  payload : Nat
  /-- Copies that the capacities of all local replicas admit for one half (R29). -/
  recvCopies : Nat
  /-- Answers that both halves may need (R28). -/
  answers : Nat
  /-- The largest spill area of a queue, and all of them together, in bytes (R30). -/
  spillMax : Nat
  spillSum : Nat
  /-- First slot and slot count of the program (R48). -/
  slotFirst : Nat
  slotCount : Nat
  queues : Nat
  sequencers : Nat
  links : Nat
  /-- Predictor bytes of one expert for one scout tile set (R199). -/
  predictor : Nat
  /-- Tokens of both halves (R28). -/
  tokens : Nat
  deriving DecidableEq, Repr, Inhabited

namespace Config

/-- Free: which of the 2^32 − 1 values other than zero identifies the behaviour (R7). -/
opaque behaviourKey : Fin 4294967295

/-- The 32-bit behaviour identity that K6 writes: an opaque value, never zero (R7). -/
def behaviourId : Word := BitVec.ofNat 32 (behaviourKey.val + 1)

/-- Free: the fused silicon stepping of `GCTL_ID_STEP` (R6). -/
opaque stepping : Byte

/-- Free: the bytes of the vendor areas of the SFU table, the Dywason function set that K6 loads (R136, R139). -/
opaque vendor : Nat → Byte

/-- Free: the manifest that the 256 bytes at a FIT's image spell (R69). -/
opaque manifest : List Byte → Manifest

/-- Free: the result of a micro-program step whose operand has no meaning in R137, a POLY of degree 0 or a BUILTIN of selector 7, by
its step word and the value of its register A (log entry 80). -/
opaque microOpen : Nat → Word → Word

/-- Free: the place that a Flow-mode run gives item `i` of the `n`-th choice of order (R58, R125, R170, R283). -/
opaque flowKey : Nat → Nat → Nat

/-- Free: a byte that a read of poisoned or lost contents delivers, by draw (R304, R305). -/
opaque lostByte : Nat → Byte

end Config

end Sys2Proof
end

