-- ==== Sys2Proof/Machine/RegMap.lean ====
section
/-! DEFINITION. The register map of the host window (R6, R49, R59, R102, R159, R181, R206, R238, R239, R272, R292,
R314, R333, R368, R372, R375, R380 to R382, R393): for every register its fields, each with its access code (R11)
and its reset value. Fields whose state stands elsewhere in `State` are listed too; `Machine.roView` shows them. -/

namespace Sys2Proof.Machine

/-- The access codes of R11. -/
inductive Acc
  | ro
  | rw
  | rws
  | rwl
  | w1c
  | wo
  deriving DecidableEq, Repr

/-- A field of a register: its bits, its access code, its reset value. -/
structure RField where
  hi : Nat
  lo : Nat
  acc : Acc
  rst : Nat
  deriving DecidableEq, Repr

/-- A register, or a family of `n1`·`n2` registers at `base` + `s1`·i + `s2`·j. -/
structure RegRow where
  base : Nat
  n1 : Nat
  s1 : Nat
  n2 : Nat
  s2 : Nat
  fields : List RField
  deriving DecidableEq, Repr

/-- A single register. -/
def reg1 (base : Nat) (fields : List RField) : RegRow := ⟨base, 1, 0, 1, 0, fields⟩

/-- Registers of identity and global control, flags, mailbox. -/
def regsGlobal1 : List RegRow :=
  [reg1 0x000000 [⟨31, 0, .ro, 0x44595753⟩],
   reg1 0x000004 [⟨15, 0, .ro, 2⟩],
   reg1 0x000008 [⟨7, 4, .ro, 0⟩, ⟨3, 0, .ro, 0⟩],
   reg1 0x000010 [⟨31, 0, .ro, 0⟩],
   reg1 0x001000 [⟨0, 0, .rw, 0⟩],
   reg1 0x001004 [⟨0, 0, .ro, 0⟩],
   reg1 0x001008 [⟨2, 0, .ro, 1⟩, ⟨8, 8, .ro, 0⟩],
   reg1 0x00100C [⟨13, 0, .rws, 0⟩],
   reg1 0x001010 [⟨13, 0, .rws, 1⟩],
   reg1 0x001014 [⟨0, 0, .rws, 0⟩],
   reg1 0x001018 [⟨1, 0, .ro, 0⟩, ⟨3, 2, .ro, 0⟩],
   reg1 0x00101C [⟨31, 0, .ro, 0⟩],
   reg1 0x001020 [⟨31, 0, .ro, 0⟩],
   reg1 0x001024 [⟨16, 0, .rw, 0x10000⟩],
   reg1 0x001040 [⟨31, 0, .rwl, 0⟩],
   reg1 0x001044 [⟨31, 0, .rwl, 0⟩],
   reg1 0x001048 [⟨31, 0, .rwl, 0⟩],
   reg1 0x001060 [⟨0, 0, .ro, 0⟩, ⟨1, 1, .ro, 0⟩, ⟨2, 2, .ro, 0⟩],
   reg1 0x001064 [⟨31, 0, .ro, 0⟩],
   reg1 0x001068 [⟨31, 0, .ro, 0⟩],
   reg1 0x00106C [⟨0, 0, .rw, 0⟩, ⟨7, 1, .rw, 0⟩],
   reg1 0x001070 [⟨31, 0, .ro, 0⟩],
   reg1 0x001080 [⟨14, 0, .ro, 0x7fff⟩, ⟨31, 31, .ro, 1⟩],
   reg1 0x001084 [⟨31, 0, .ro, 0⟩]]

/-- Registers of identity and global control, flags, mailbox. -/
def regsGlobal2 : List RegRow :=
  [reg1 0x001100 [⟨4, 0, .rwl, 0⟩, ⟨9, 8, .rwl, 0⟩],
   reg1 0x002000 [⟨19, 0, .w1c, 0⟩],
   ⟨0x002100, 20, 0x4, 1, 0x0, [⟨31, 0, .ro, 0⟩]⟩,
   reg1 0x002200 [⟨31, 0, .ro, 0⟩],
   reg1 0x002204 [⟨31, 0, .ro, 0⟩],
   reg1 0x002208 [⟨31, 0, .ro, 0⟩],
   reg1 0x00220C [⟨31, 0, .ro, 0⟩],
   reg1 0x002210 [⟨31, 0, .ro, 0⟩],
   reg1 0x002214 [⟨31, 0, .ro, 0⟩],
   reg1 0x002800 [⟨15, 0, .w1c, 0⟩],
   reg1 0x002804 [⟨15, 0, .rwl, 1⟩],
   reg1 0x002808 [⟨19, 0, .rwl, 0⟩],
   reg1 0x003000 [⟨7, 0, .rwl, 0⟩, ⟨31, 31, .wo, 0⟩],
   ⟨0x003004, 4, 0x4, 1, 0x0, [⟨31, 0, .rwl, 0⟩]⟩,
   reg1 0x003014 [⟨31, 0, .ro, 0⟩],
   reg1 0x003018 [⟨31, 0, .ro, 0⟩],
   reg1 0x00301C [⟨7, 0, .ro, 0⟩, ⟨8, 8, .ro, 0⟩, ⟨23, 16, .ro, 0⟩],
   reg1 0x003020 [⟨23, 0, .ro, 0⟩, ⟨31, 24, .ro, 0⟩],
   reg1 0x003024 [⟨31, 0, .ro, 0⟩],
   reg1 0x003030 [⟨7, 0, .wo, 0⟩, ⟨31, 31, .wo, 0⟩],
   reg1 0x003034 [⟨7, 0, .ro, 0⟩, ⟨8, 8, .ro, 0⟩],
   reg1 0x003040 [⟨4, 0, .ro, 0⟩],
   reg1 0x003044 [⟨4, 0, .rwl, 0⟩],
   ⟨0x003400, 256, 0x4, 1, 0x0, [⟨31, 0, .ro, 0⟩]⟩]

/-- Registers of sequencers and sync objects. -/
def regsSeq : List RegRow :=
  [⟨0x010000, 32, 0x800, 4, 0x100, [⟨0, 0, .wo, 0⟩, ⟨1, 1, .wo, 0⟩, ⟨2, 2, .wo, 0⟩, ⟨3, 3, .wo, 0⟩, ⟨4, 4, .wo, 0⟩, ⟨5, 5, .wo, 0⟩]⟩,
   ⟨0x010004, 32, 0x800, 4, 0x100, [⟨2, 0, .ro, 0⟩, ⟨3, 3, .ro, 0⟩, ⟨6, 4, .ro, 0⟩, ⟨12, 8, .ro, 0⟩]⟩,
   ⟨0x010008, 32, 0x800, 4, 0x100, [⟨21, 3, .rwl, 0⟩]⟩,
   ⟨0x01000C, 32, 0x800, 4, 0x100, [⟨21, 3, .ro, 0⟩]⟩,
   ⟨0x010010, 32, 0x800, 4, 0x100, [⟨31, 0, .rwl, 0⟩]⟩,
   ⟨0x010014, 32, 0x800, 4, 0x100, [⟨31, 0, .rwl, 0⟩]⟩,
   ⟨0x010018, 32, 0x800, 4, 0x100, [⟨31, 0, .rwl, 0⟩]⟩,
   ⟨0x01001C, 32, 0x800, 4, 0x100, [⟨31, 0, .rwl, 0⟩]⟩,
   ⟨0x010020, 32, 0x800, 4, 0x100, [⟨31, 0, .rwl, 0⟩]⟩,
   ⟨0x010024, 32, 0x800, 4, 0x100, [⟨31, 0, .rwl, 0⟩]⟩,
   ⟨0x010028, 32, 0x800, 4, 0x100, [⟨31, 0, .rwl, 0⟩]⟩,
   ⟨0x01002C, 32, 0x800, 4, 0x100, [⟨31, 0, .rwl, 0⟩]⟩,
   ⟨0x010030, 32, 0x800, 4, 0x100, [⟨7, 0, .ro, 0⟩, ⟨15, 8, .ro, 0⟩]⟩,
   ⟨0x010034, 32, 0x800, 4, 0x100, [⟨21, 3, .ro, 0⟩]⟩,
   ⟨0x010038, 32, 0x800, 4, 0x100, [⟨11, 1, .rwl, 0⟩]⟩,
   ⟨0x01003C, 32, 0x800, 4, 0x100, [⟨14, 0, .ro, 0⟩, ⟨31, 31, .ro, 0⟩]⟩,
   ⟨0x010400, 32, 0x800, 1, 0x0, [⟨7, 0, .ro, 0⟩]⟩,
   ⟨0x010404, 32, 0x800, 1, 0x0, [⟨31, 0, .ro, 0⟩]⟩,
   ⟨0x010408, 32, 0x800, 1, 0x0, [⟨31, 0, .ro, 0⟩]⟩,
   ⟨0x020000, 32768, 0x8, 1, 0x0, [⟨31, 0, .rwl, 0⟩]⟩,
   ⟨0x020004, 32768, 0x8, 1, 0x0, [⟨31, 0, .rwl, 0⟩]⟩]

/-- Registers of score, gate loader, gate table, SFU. -/
def regsScore : List RegRow :=
  [reg1 0x060000 [⟨0, 0, .ro, 0⟩, ⟨1, 1, .ro, 0⟩, ⟨9, 2, .ro, 0⟩, ⟨17, 10, .ro, 0⟩, ⟨19, 18, .ro, 0⟩, ⟨20, 20, .ro, 0⟩, ⟨21, 21, .ro, 0⟩],
   reg1 0x060004 [⟨7, 0, .rwl, 0⟩, ⟨16, 8, .rwl, 1⟩, ⟨17, 17, .rwl, 0⟩, ⟨31, 31, .wo, 0⟩],
   reg1 0x060008 [⟨14, 0, .rwl, 0⟩, ⟨15, 15, .rwl, 0⟩],
   reg1 0x06000C [⟨31, 0, .rws, 0⟩],
   reg1 0x060010 [⟨7, 0, .ro, 0⟩, ⟨10, 8, .ro, 0⟩],
   reg1 0x060014 [⟨31, 0, .ro, 0⟩],
   reg1 0x060018 [⟨0, 0, .ro, 0⟩, ⟨8, 1, .ro, 0⟩],
   ⟨0x060100, 64, 0x4, 1, 0x0, [⟨6, 0, .ro, 0⟩]⟩,
   ⟨0x061000, 256, 0x10, 1, 0x0, [⟨31, 8, .rw, 0⟩]⟩,
   ⟨0x061004, 256, 0x10, 1, 0x0, [⟨15, 0, .rw, 0⟩, ⟨20, 16, .rw, 0⟩, ⟨23, 21, .rw, 0⟩]⟩,
   ⟨0x061008, 256, 0x10, 1, 0x0, [⟨11, 0, .rw, 0⟩, ⟨22, 16, .rw, 0⟩]⟩,
   ⟨0x06100C, 256, 0x10, 1, 0x0, [⟨0, 0, .rw, 0⟩]⟩,
   reg1 0x062000 [⟨0, 0, .ro, 0⟩, ⟨1, 1, .ro, 0⟩, ⟨9, 2, .ro, 0⟩, ⟨10, 10, .ro, 0⟩]]

/-- Registers of admission. -/
def regsAdm : List RegRow :=
  [reg1 0x070000 [⟨0, 0, .ro, 0⟩, ⟨1, 1, .ro, 0⟩, ⟨9, 2, .ro, 0⟩, ⟨17, 10, .ro, 0⟩, ⟨18, 18, .ro, 0⟩, ⟨19, 19, .ro, 0⟩, ⟨20, 20, .ro, 0⟩],
   reg1 0x070004 [⟨7, 0, .rwl, 0⟩, ⟨16, 8, .rwl, 1⟩, ⟨17, 17, .rwl, 0⟩, ⟨31, 31, .wo, 0⟩],
   reg1 0x070008 [⟨14, 0, .rwl, 0⟩, ⟨15, 15, .rwl, 0⟩],
   reg1 0x07000C [⟨7, 0, .ro, 0⟩, ⟨10, 8, .ro, 0⟩],
   reg1 0x070010 [⟨31, 19, .rw, 0⟩],
   reg1 0x070014 [⟨15, 0, .rw, 0⟩],
   reg1 0x070018 [⟨0, 0, .rws, 0⟩, ⟨4, 1, .rw, 0⟩],
   reg1 0x07001C [⟨12, 0, .ro, 0⟩],
   reg1 0x070020 [⟨12, 0, .rwl, 0⟩],
   reg1 0x070024 [⟨14, 0, .rwl, 0⟩, ⟨15, 15, .rwl, 0⟩],
   reg1 0x070030 [⟨31, 0, .rws, 0⟩],
   reg1 0x070034 [⟨31, 0, .rws, 0⟩],
   reg1 0x070038 [⟨0, 0, .rws, 0⟩],
   reg1 0x070040 [⟨31, 0, .ro, 0⟩],
   reg1 0x070044 [⟨31, 0, .ro, 0⟩],
   reg1 0x070048 [⟨31, 0, .rw, 0⟩],
   ⟨0x071000, 256, 0x10, 1, 0x0, [⟨31, 8, .rws, 0⟩]⟩,
   ⟨0x071004, 256, 0x10, 1, 0x0, [⟨15, 0, .rws, 0⟩]⟩,
   ⟨0x07100C, 256, 0x10, 1, 0x0, [⟨0, 0, .rws, 0⟩]⟩]

/-- Registers of scout. -/
def regsScout : List RegRow :=
  [reg1 0x080000 [⟨0, 0, .ro, 0⟩, ⟨1, 1, .ro, 0⟩, ⟨9, 2, .ro, 0⟩, ⟨17, 10, .ro, 0⟩],
   reg1 0x080004 [⟨6, 0, .rws, 0⟩],
   reg1 0x080008 [⟨15, 0, .rwl, 8⟩],
   reg1 0x08000C [⟨31, 0, .rws, 0⟩],
   reg1 0x080010 [⟨31, 0, .ro, 0⟩],
   reg1 0x080014 [⟨15, 0, .ro, 0⟩],
   reg1 0x080018 [⟨31, 0, .rwl, 0⟩],
   reg1 0x08001C [⟨15, 0, .rwl, 0⟩],
   reg1 0x080020 [⟨31, 0, .ro, 0⟩],
   reg1 0x080024 [⟨31, 0, .ro, 0⟩],
   reg1 0x080028 [⟨31, 0, .ro, 0⟩],
   reg1 0x08002C [⟨11, 0, .rws, 0⟩, ⟨15, 15, .rws, 0⟩],
   reg1 0x080030 [⟨15, 0, .rws, 0⟩],
   reg1 0x080034 [⟨31, 0, .ro, 0⟩],
   reg1 0x080038 [⟨31, 0, .ro, 0⟩],
   reg1 0x08003C [⟨31, 0, .ro, 0⟩],
   ⟨0x080100, 16, 0x4, 1, 0x0, [⟨4, 0, .ro, 0⟩]⟩]

/-- Registers of ports, Huddle, queues. -/
def regsQue : List RegRow :=
  [⟨0x090000, 32, 0x4, 1, 0x0, [⟨11, 0, .rw, 0⟩, ⟨13, 12, .rw, 0⟩, ⟨14, 14, .rw, 0⟩, ⟨31, 31, .rw, 0⟩]⟩,
   ⟨0x090100, 32, 0x4, 1, 0x0, [⟨11, 0, .rw, 0⟩, ⟨13, 12, .rw, 0⟩, ⟨31, 31, .rw, 0⟩]⟩,
   reg1 0x090200 [⟨11, 0, .rws, 0⟩, ⟨24, 12, .rws, 1⟩],
   reg1 0x090204 [⟨11, 0, .rws, 0⟩, ⟨24, 12, .rws, 1⟩],
   reg1 0x090208 [⟨2, 0, .rw, 0⟩],
   reg1 0x09020C [⟨0, 0, .ro, 0⟩, ⟨1, 1, .ro, 0⟩, ⟨2, 2, .ro, 0⟩, ⟨3, 3, .ro, 0⟩],
   reg1 0x090210 [⟨31, 0, .ro, 0⟩],
   reg1 0x090214 [⟨31, 0, .ro, 0⟩],
   reg1 0x090218 [⟨31, 0, .ro, 0⟩],
   reg1 0x09021C [⟨31, 0, .ro, 0⟩],
   reg1 0x090220 [⟨31, 0, .ro, 0⟩],
   reg1 0x090300 [⟨31, 0, .ro, 0⟩],
   reg1 0x090304 [⟨31, 0, .ro, 0⟩],
   reg1 0x090308 [⟨31, 0, .ro, 0⟩],
   reg1 0x09030C [⟨31, 0, .ro, 0⟩]]

/-- Registers of buffer pools. -/
def regsPool : List RegRow :=
  [⟨0x0A0000, 8, 0x40, 1, 0x0, [⟨31, 12, .rw, 0⟩]⟩,
   ⟨0x0A0004, 8, 0x40, 1, 0x0, [⟨15, 0, .rw, 0⟩]⟩,
   ⟨0x0A0008, 8, 0x40, 1, 0x0, [⟨31, 12, .rw, 0⟩]⟩,
   ⟨0x0A000C, 8, 0x40, 1, 0x0, [⟨15, 0, .rw, 0⟩]⟩,
   ⟨0x0A0010, 8, 0x40, 1, 0x0, [⟨23, 0, .rw, 0⟩]⟩,
   ⟨0x0A0014, 8, 0x40, 1, 0x0, [⟨1, 0, .rw, 0⟩, ⟨3, 2, .rw, 0⟩, ⟨31, 31, .rw, 0⟩]⟩,
   ⟨0x0A0018, 8, 0x40, 1, 0x0, [⟨23, 0, .ro, 0⟩, ⟨31, 31, .ro, 0⟩]⟩,
   ⟨0x0A001C, 8, 0x40, 1, 0x0, [⟨23, 0, .ro, 0⟩]⟩,
   ⟨0x0A0020, 8, 0x40, 1, 0x0, [⟨31, 0, .ro, 0⟩]⟩,
   ⟨0x0A1000, 2048, 0x4, 1, 0x0, [⟨23, 0, .rw, 0⟩]⟩,
   ⟨0x0A3000, 2048, 0x4, 1, 0x0, [⟨23, 0, .ro, 0⟩]⟩]

/-- Registers of Volley. -/
def regsVol1 : List RegRow :=
  [reg1 0x0B0000 [⟨13, 0, .rw, 1⟩],
   reg1 0x0B0004 [⟨12, 0, .rw, 0⟩],
   reg1 0x0B0008 [⟨2, 0, .rw, 0⟩],
   reg1 0x0B000C [⟨11, 0, .rw, 0⟩, ⟨27, 16, .rw, 0⟩],
   reg1 0x0B0010 [⟨11, 0, .rw, 0⟩, ⟨27, 16, .rw, 0⟩],
   reg1 0x0B0014 [⟨5, 0, .rw, 0⟩, ⟨20, 8, .rw, 0⟩, ⟨31, 31, .rw, 0⟩],
   reg1 0x0B0018 [⟨15, 0, .rwl, 0xfa⟩],
   reg1 0x0B001C [⟨15, 0, .rwl, 0x4e2⟩],
   reg1 0x0B0020 [⟨15, 0, .rwl, 0x9c4⟩],
   reg1 0x0B0024 [⟨23, 0, .rwl, 0x4000⟩],
   reg1 0x0B0028 [⟨7, 0, .ro, 0⟩, ⟨15, 8, .ro, 0⟩, ⟨23, 16, .ro, 0⟩, ⟨31, 24, .ro, 0⟩],
   reg1 0x0B002C [⟨0, 0, .wo, 0⟩],
   reg1 0x0B0030 [⟨3, 0, .ro, 0xf⟩],
   reg1 0x0B0040 [⟨31, 0, .ro, 0⟩],
   reg1 0x0B0044 [⟨31, 0, .ro, 0⟩],
   reg1 0x0B0048 [⟨31, 0, .ro, 0⟩],
   reg1 0x0B004C [⟨31, 0, .ro, 0⟩],
   reg1 0x0B0050 [⟨31, 0, .ro, 0⟩],
   reg1 0x0B0054 [⟨31, 0, .ro, 0⟩],
   reg1 0x0B0058 [⟨31, 0, .ro, 0⟩],
   reg1 0x0B005C [⟨31, 0, .ro, 0⟩],
   reg1 0x0B0060 [⟨31, 0, .ro, 0⟩],
   reg1 0x0B0064 [⟨31, 0, .ro, 0⟩],
   ⟨0x0B1000, 64, 0x40, 1, 0x0, [⟨2, 0, .ro, 0⟩, ⟨4, 4, .ro, 0⟩, ⟨14, 8, .ro, 0⟩, ⟨20, 16, .ro, 0⟩]⟩]

/-- Registers of Volley. -/
def regsVol2 : List RegRow :=
  [⟨0x0B1004, 64, 0x40, 1, 0x0, [⟨29, 0, .ro, 0⟩]⟩,
   ⟨0x0B1008, 64, 0x40, 1, 0x0, [⟨29, 0, .ro, 0⟩]⟩,
   ⟨0x0B100C, 64, 0x40, 1, 0x0, [⟨19, 0, .ro, 0⟩]⟩,
   ⟨0x0B1010, 64, 0x40, 1, 0x0, [⟨31, 0, .ro, 0⟩]⟩,
   ⟨0x0B1014, 64, 0x40, 1, 0x0, [⟨31, 0, .ro, 0⟩]⟩,
   ⟨0x0B1018, 64, 0x40, 1, 0x0, [⟨31, 0, .ro, 0⟩]⟩,
   ⟨0x0B101C, 64, 0x40, 1, 0x0, [⟨0, 0, .rwl, 0⟩]⟩]

/-- Registers of Rebound. -/
def regsReb : List RegRow :=
  [reg1 0x0C0000 [⟨12, 0, .rw, 0⟩, ⟨13, 13, .rw, 0⟩, ⟨14, 14, .rw, 0⟩],
   reg1 0x0C0004 [⟨18, 0, .ro, 0x40000⟩],
   reg1 0x0C0008 [⟨23, 0, .ro, 0⟩],
   reg1 0x0C000C [⟨23, 0, .ro, 0⟩],
   reg1 0x0C0010 [⟨17, 0, .ro, 0x20000⟩],
   reg1 0x0C0014 [⟨15, 0, .ro, 0⟩, ⟨31, 31, .ro, 0⟩],
   reg1 0x0C0018 [⟨15, 0, .ro, 0⟩, ⟨31, 31, .ro, 0⟩],
   reg1 0x0C0020 [⟨13, 0, .wo, 0⟩, ⟨31, 31, .wo, 0⟩],
   reg1 0x0C0024 [⟨18, 0, .ro, 0⟩, ⟨31, 31, .ro, 0⟩],
   reg1 0x0C0040 [⟨31, 0, .ro, 0⟩],
   reg1 0x0C0044 [⟨31, 0, .ro, 0⟩],
   reg1 0x0C0048 [⟨31, 0, .ro, 0⟩],
   reg1 0x0C004C [⟨31, 0, .ro, 0⟩],
   reg1 0x0C0050 [⟨31, 0, .ro, 0⟩],
   reg1 0x0C0054 [⟨31, 0, .ro, 0⟩],
   reg1 0x0C0058 [⟨31, 0, .ro, 0⟩]]

/-- Registers of memory port and tensor regions. -/
def regsMem1 : List RegRow :=
  [reg1 0x0D0000 [⟨22, 0, .ro, 0⟩],
   reg1 0x0D0004 [⟨7, 0, .rw, 0x64⟩, ⟨15, 8, .rw, 0x32⟩],
   reg1 0x0D0008 [⟨13, 0, .rwl, 0x2ee0⟩],
   reg1 0x0D000C [⟨7, 0, .rwl, 4⟩],
   reg1 0x0D0010 [⟨0, 0, .ro, 0⟩],
   reg1 0x0D0014 [⟨31, 0, .ro, 0⟩],
   reg1 0x0D0018 [⟨15, 0, .ro, 0⟩],
   reg1 0x0D001C [⟨0, 0, .wo, 0⟩],
   reg1 0x0D0020 [⟨8, 0, .ro, 0⟩, ⟨31, 31, .ro, 0⟩],
   reg1 0x0D0024 [⟨31, 0, .ro, 0⟩],
   reg1 0x0D0028 [⟨31, 0, .ro, 0⟩],
   reg1 0x0D002C [⟨31, 0, .ro, 0⟩],
   reg1 0x0D0030 [⟨31, 0, .ro, 0⟩],
   reg1 0x0D0034 [⟨31, 0, .ro, 0⟩],
   reg1 0x0D0038 [⟨31, 0, .ro, 0⟩],
   ⟨0x0D1000, 20, 0x10, 1, 0x0, [⟨1, 0, .ro, 0⟩, ⟨8, 4, .ro, 0⟩]⟩,
   ⟨0x0D1004, 20, 0x10, 1, 0x0, [⟨31, 0, .ro, 0⟩]⟩,
   ⟨0x0D1008, 20, 0x10, 1, 0x0, [⟨31, 0, .ro, 0⟩]⟩,
   reg1 0x0D2000 [⟨4, 0, .rwl, 0⟩, ⟨10, 5, .rwl, 0⟩, ⟨23, 16, .rwl, 0⟩, ⟨31, 31, .wo, 0⟩],
   reg1 0x0D2004 [⟨31, 0, .rwl, 0⟩],
   reg1 0x0D2008 [⟨31, 0, .rwl, 0⟩],
   reg1 0x0D200C [⟨7, 0, .ro, 0⟩, ⟨8, 8, .ro, 0⟩],
   ⟨0x0D8000, 256, 0x10, 1, 0x0, [⟨31, 12, .rw, 0⟩]⟩,
   ⟨0x0D8004, 256, 0x10, 1, 0x0, [⟨15, 0, .rw, 0⟩]⟩]

/-- Registers of memory port and tensor regions. -/
def regsMem2 : List RegRow :=
  [⟨0x0D8008, 256, 0x10, 1, 0x0, [⟨27, 0, .rw, 0⟩]⟩,
   ⟨0x0D800C, 256, 0x10, 1, 0x0, [⟨0, 0, .rw, 0⟩]⟩]

/-- Registers of Referee. -/
def regsRef1 : List RegRow :=
  [reg1 0x0E0000 [⟨3, 0, .ro, 0⟩, ⟨6, 4, .ro, 0⟩, ⟨15, 8, .ro, 0⟩],
   reg1 0x0E0004 [⟨15, 0, .ro, 0⟩],
   reg1 0x0E0008 [⟨15, 0, .ro, 0⟩],
   reg1 0x0E000C [⟨0, 0, .rw, 0⟩, ⟨1, 1, .wo, 0⟩, ⟨2, 2, .wo, 0⟩, ⟨3, 3, .wo, 0⟩],
   reg1 0x0E0010 [⟨15, 0, .rw, 0x200⟩],
   reg1 0x0E0014 [⟨15, 0, .rw, 0xc8⟩],
   reg1 0x0E0018 [⟨7, 0, .rw, 8⟩, ⟨15, 8, .rw, 6⟩],
   reg1 0x0E001C [⟨31, 0, .ro, 0⟩],
   reg1 0x0E0020 [⟨0, 0, .ro, 0⟩, ⟨1, 1, .ro, 0⟩],
   reg1 0x0E0100 [⟨0, 0, .ro, 0⟩, ⟨1, 1, .ro, 0⟩, ⟨2, 2, .ro, 0⟩],
   reg1 0x0E0104 [⟨31, 0, .ro, 0⟩],
   reg1 0x0E0108 [⟨11, 0, .rwl, 0x800⟩],
   reg1 0x0E010C [⟨0, 0, .wo, 0⟩],
   reg1 0x0E0110 [⟨0, 0, .rws, 0⟩, ⟨4, 1, .rw, 0⟩],
   reg1 0x0E0114 [⟨31, 6, .rw, 0⟩],
   reg1 0x0E0118 [⟨15, 0, .rw, 0⟩],
   reg1 0x0E011C [⟨12, 0, .ro, 0⟩],
   reg1 0x0E0120 [⟨12, 0, .rwl, 0⟩],
   reg1 0x0E0124 [⟨31, 0, .ro, 0⟩],
   reg1 0x0E0128 [⟨31, 0, .ro, 0⟩],
   reg1 0x0E0140 [⟨0, 0, .rwl, 0⟩],
   reg1 0x0E0144 [⟨12, 0, .rw, 0⟩],
   reg1 0x0E0148 [⟨15, 0, .rwl, 0x64⟩],
   reg1 0x0E014C [⟨7, 0, .ro, 0⟩, ⟨8, 8, .ro, 0⟩, ⟨31, 31, .ro, 0⟩]]

/-- Registers of Referee. -/
def regsRef2 : List RegRow :=
  [reg1 0x0E0150 [⟨31, 0, .ro, 0⟩],
   reg1 0x0E0154 [⟨31, 0, .ro, 0⟩],
   reg1 0x0E0158 [⟨0, 0, .wo, 0⟩],
   ⟨0x0E1000, 256, 0x8, 1, 0x0, [⟨31, 0, .rws, 0⟩]⟩,
   ⟨0x0E1004, 256, 0x8, 1, 0x0, [⟨31, 0, .rws, 0⟩]⟩,
   ⟨0x0E1800, 256, 0x8, 1, 0x0, [⟨31, 0, .ro, 0⟩]⟩,
   ⟨0x0E1804, 256, 0x8, 1, 0x0, [⟨31, 0, .ro, 0⟩]⟩,
   ⟨0x0E2000, 512, 0x4, 1, 0x0, [⟨31, 0, .ro, 0⟩]⟩]

/-- Registers of observation port. -/
def regsObs : List RegRow :=
  [reg1 0x0F0000 [⟨0, 0, .rwl, 0⟩, ⟨3, 1, .rwl, 0⟩],
   ⟨0x0F0100, 16, 0x4, 1, 0x0, [⟨5, 0, .rwl, 0⟩, ⟨13, 8, .rwl, 0⟩, ⟨17, 16, .rwl, 0⟩]⟩,
   reg1 0x0F0200 [⟨0, 0, .wo, 0⟩, ⟨1, 1, .wo, 0⟩],
   reg1 0x0F0204 [⟨0, 0, .ro, 0⟩, ⟨1, 1, .ro, 0⟩],
   reg1 0x0F0208 [⟨31, 0, .ro, 0⟩],
   reg1 0x0F0210 [⟨31, 0, .ro, 0⟩],
   reg1 0x0F0214 [⟨31, 0, .ro, 0⟩],
   reg1 0x0F0218 [⟨31, 0, .ro, 0⟩],
   reg1 0x0F021C [⟨31, 0, .ro, 0⟩],
   reg1 0x0F0220 [⟨31, 0, .ro, 0⟩],
   reg1 0x0F0224 [⟨31, 0, .ro, 0⟩],
   reg1 0x0F0228 [⟨31, 0, .ro, 0⟩],
   reg1 0x0F022C [⟨31, 0, .ro, 0⟩],
   reg1 0x0F0230 [⟨31, 0, .ro, 0⟩],
   reg1 0x0F0234 [⟨31, 0, .ro, 0⟩]]

/-- The rows of the 64 KiB page that an offset lies in (R371). -/
def regMap (off : Nat) : List RegRow :=
  match off / 0x10000 with
  | 0x00 => regsGlobal1 ++ regsGlobal2
  | 0x06 => regsScore
  | 0x07 => regsAdm
  | 0x08 => regsScout
  | 0x09 => regsQue
  | 0x0A => regsPool
  | 0x0B => regsVol1 ++ regsVol2
  | 0x0C => regsReb
  | 0x0D => regsMem1 ++ regsMem2
  | 0x0E => regsRef1 ++ regsRef2
  | 0x0F => regsObs
  | _ => regsSeq

/-- The row covers the offset. -/
def RegRow.covers (r : RegRow) (off : Nat) : Bool :=
  if off < r.base then false else
  let d := off - r.base
  if r.s1 = 0 then d == 0 else
  let i := d / r.s1
  let e := d % r.s1
  if r.s2 = 0 then decide (i < r.n1) && (e == 0)
  else decide (i < r.n1) && (e % r.s2 == 0) && decide (e / r.s2 < r.n2)

/-- The fields of the register at an offset; none at a reserved offset (R10). -/
def fieldsAt (off : Nat) : List RField :=
  match (regMap off).find? (fun r => r.covers off) with
  | some r => r.fields
  | none => []

/-- The reset value of the register at an offset. -/
def resetAt (off : Nat) : Word :=
  BitVec.ofNat 32 ((fieldsAt off).foldl (fun v f => putBits v f.hi f.lo f.rst) 0)

/-- The bits that the fields with one of the given access codes cover. -/
def maskOf (fs : List RField) (a : Acc) : Word :=
  BitVec.ofNat 32 (fs.foldl (fun v f => if f.acc = a then putBits v f.hi f.lo (2 ^ (f.hi + 1 - f.lo) - 1) else v) 0)

end Sys2Proof.Machine
end

