-- ==== Sys2Proof/Machine/State.lean ====
section
/-! DEFINITION. The state of the block: every register, table, queue, buffer, counter, mode and pin the manual
gives PDE-2, as plain data, with the state right after a power-on reset. Which rule names each piece of state
stands beside it; INVENTORY.md lists them with their reset values. -/

namespace Sys2Proof.Machine

/-- Why the machine stops with a fault. -/
inductive Fault
  /-- Raised by MEM_REQUEST_ISSUE for a line beyond the stack capacity of R293, an address the manual says does
  not exist (R103, R107 and R232 keep every tensor, region and pool inside it). Safe: the machine stops. -/
  | beyondStacks
  deriving DecidableEq, Repr

/-- Why a command has no meaning here. -/
inductive Refusal
  /-- A row whose meaning is not written: raised by no arm of `exec`. Safe: the machine stops. -/
  | notModelled (mnemonic : String)
  deriving DecidableEq, Repr

/-! ### Sequencers, contexts and sync objects (R32 to R59) -/

/-- The states of a context (R33). -/
inductive CtxState
  | free
  | running
  | waiting
  | stepwait
  | trapped
  | halted
  deriving DecidableEq, Repr

/-- An entry of the loop stack (R46, R346): iteration index, trip count, first body instruction as a byte
offset, body length in instructions, and the register of the index. -/
structure Loop where
  iter : Nat
  trip : Nat
  first : Nat
  body : Nat
  dst : Reg
  deriving DecidableEq, Repr

/-- What a WAITING context waits for (R33, R38, R51). -/
inductive WaitOn
  | nothing
  | object (obj : Nat) (consume : Bool)
  | command (serial : BitVec 16)
  deriving DecidableEq, Repr

/-- What a context does once its outstanding commands have completed (R45, R53, R59). -/
inductive Drain
  | no
  | toStepwait
  | toFree
  | toHalted
  deriving DecidableEq, Repr

/-- A hardware context (R33, R34, R46, R56, R59, R117, R118). The program counter is a byte offset. -/
structure Context where
  st : CtxState
  pc : Nat
  x : Tab DWord
  cs : Tab Nat
  loops : List Loop
  precise : Bool
  last : Byte
  first : Byte
  firstPc : Nat
  wait : WaitOn
  drain : Drain
  /-- A trap that is not precise and acts before the next issue (R57). -/
  trapDue : Bool
  serial : BitVec 16
  /-- The latest writer of each tracked slot, by serial (R118). -/
  writers : Tab (Option (BitVec 16))
  deriving DecidableEq, Repr

/-- A sync object (R49); its waiter set is the contexts whose `wait` names it. -/
structure SyncObj where
  cnt : Word
  thr : Word
  deriving DecidableEq, Repr

/-- A descriptor slot (R47, R105). -/
structure Slot where
  bits : Line
  valid : Bool
  deriving DecidableEq, Repr

/-- What a unit has found when it finishes a command: the code, and the value for xD (R41). -/
structure UResult where
  code : Byte
  value : DWord
  deriving DecidableEq, Repr

/-- Rows of a SCORE that have entered it and not left: up to which row, and the gate and bias epochs that they bind to, the latter
plus 1 and 0 for none (R73, R146, R152). -/
structure Bind where
  upto : Nat
  epoch : Byte
  bank : Fin 2
  biasEpoch : Nat
  biasBank : Nat
  deriving DecidableEq, Repr

/-- A unit command from its issue to its completion (R40, R48, R63, R118). -/
structure UCmd where
  c : Ctx
  serial : BitVec 16
  /-- The row and its fields. -/
  op : Instr
  pc : Nat
  /-- Final slot of the first descriptor, of the second, and the final queue, as the form has them (R39, R61). -/
  slotA : Nat
  slotB : Nat
  queue : Nat
  /-- Copies taken at issue (R48): first descriptor, second, and companion slot. -/
  dA : Line
  dB : Line
  comp : Line
  /-- Recorded writers of the tracked slots it reads, as they stood at issue (R118). -/
  wA : Option (BitVec 16)
  wB : Option (BitVec 16)
  wC : Option (BitVec 16)
  half : Option Half
  /-- The unit has accepted it and bound it to its table epoch (R60, R140, R164, R188). -/
  started : Bool
  /-- The bank it is bound to. -/
  bank : Fin 2
  /-- The epoch it is bound to. -/
  epoch : Byte
  /-- Rows of its inputs that drained progress words cover, and whether the word with LAST is among them (R118). -/
  covA : Nat
  covB : Nat
  covC : Nat
  endA : Bool
  endB : Bool
  endC : Bool
  /-- Rows or packets finished so far, two counts, and a stage of its own. -/
  row : Nat
  n1 : Nat
  n2 : Nat
  stage : Nat
  /-- Rows of a SCORE in flight, by the epochs they bind to. -/
  segs : List Bind
  /-- Rows that it has produced, once its work is done, and the value for xD. -/
  out : Option Nat
  value : DWord
  /-- Rows that its progress words cover so far, for its destination and for its companion slot, and whether the
  word with LAST has been posted (R117). -/
  postD : Nat
  postC : Nat
  lastD : Bool
  lastC : Bool
  /-- Slots that DESC has rewritten since it issued (R115). -/
  rew : List Nat
  result : Option UResult
  deriving DecidableEq, Repr

/-- A remote signal on its way (R52, R266). -/
structure SigOut where
  seq : BitVec 16
  c : Ctx
  pc : Nat
  dest : Nat
  obj : Nat
  amount : Nat
  deriving DecidableEq, Repr

/-- An armed SAVE or RESTORE (R88, R347, R348). -/
structure Capture where
  restore : Bool
  c : Ctx
  pc : Nat
  addr : Nat
  deriving DecidableEq, Repr

/-! ### Double-banked tables and their loaders (R89, R139, R151, R160, R162, R187) -/

/-- One double-banked table (R89): the active epoch if there is one, its bank, whether the earlier bank is
still unreleased, and whether the active epoch is fill pending. -/
structure Banked where
  active : Option Byte
  bank : Fin 2
  oldHeld : Bool
  fill : Bool
  deriving DecidableEq, Repr

/-- A gate as a gate-table entry describes it (R149, R150, R159). -/
structure GateMeta where
  entry : Byte
  base : Nat
  fmt : Nat
  sblk : Nat
  e : Nat
  d : Nat
  deriving DecidableEq, Repr

/-- A table loader (R151, R162): a load waiting or running, the entry it loads, whether a load has started
since the last switch, whether an AUTO start is deferred, and what the last start recorded. -/
structure Loader where
  busy : Bool
  /-- The load has been started since the last switch of its table. -/
  fresh : Bool
  deferred : Bool
  gate : GateMeta
  layer : Byte
  cause : BitVec 3
  deriving DecidableEq, Repr

/-- The tables of EPOCH: 0 replica, 1 gate, 2 SFU with scout, 3 bias (R89), their stores and their loaders. -/
structure Tables where
  rep : Banked
  gate : Banked
  sfu : Banked
  bias : Banked
  repLd : Loader
  gateLd : Loader
  /-- The gate of the active gate epoch. -/
  gateNow : GateMeta
  /-- The gate of the epoch before it, while its space is not released. -/
  gateOld : GateMeta
  repMem : Tab Byte
  gateMem : Tab Byte
  sfuMem : Tab Byte
  scoutMem : Tab Byte
  biasMem : Tab Byte
  /-- The vendor areas hold the Dywason set loaded by K6 (R136, R325). -/
  rom : Bool
  /-- The steering table, 256 KiB, and its staged writes by word offset (R174). -/
  steer : Tab Byte
  steerStaged : Tab (Option Word)
  deriving DecidableEq, Repr

/-! ### Admission, scout (R160 to R206) -/

/-- The admission unit (R165, R169, R175, R180). -/
structure Admission where
  /-- Capacity counters of the bound bank. -/
  caps : Tab Nat
  /-- Demand of steering entry j of layer l in half h, at 128·l + 2·j + h. -/
  demand : Tab Nat
  /-- Choice count of layer l in half h, at 2·l + h. -/
  choices : Tab Nat
  /-- E of the layer's most recently bound bank. -/
  layerE : Tab Nat
  /-- Demand of each expert in the running half, for the histogram (R177). -/
  expDemand : Tab Nat
  /-- Records of the running ADMIT that wait to fill a queue word (R168). -/
  recs : List (BitVec 128)
  /-- A choice waits for a return reservation (R169). -/
  stalled : Bool
  /-- Step-record counts of the step: field index f of half h at 2·f + h (R180). -/
  srec : Tab Nat
  /-- Step-record flags gathered in the step (R180). -/
  sflags : BitVec 16
  deriving DecidableEq, Repr

/-- A scout bin: the rows of one expert that wait, in row order, whether it is ready, and the FCLK since a row was added (R198). -/
structure Bin where
  expert : Nat
  rows : List Nat
  ready : Bool
  age : Nat
  deriving DecidableEq, Repr

/-- A half of the staging store: the expert and the epoch it holds, and the expert's WIDX rows (R199). -/
structure Staged where
  expert : Nat
  epoch : Byte
  rows : List (List Byte)
  deriving DecidableEq, Repr

/-- A live audit entry (R200). -/
structure Audit where
  num : Nat
  tag : BitVec 96
  nb : Nat
  mask : List Bool
  deriving DecidableEq, Repr

/-- The scout (R198 to R203). -/
structure Scout where
  /-- The bins: those ready, in the order in which they became so, and the others behind them (R198). -/
  bins : List Bin
  /-- The two staging halves (R199). -/
  staging : List Staged
  /-- Rows whose delivery packet has not entered its egress queue whole: the queue and the row's address (R197). -/
  due : List (Nat × Nat)
  audits : List Audit
  /-- Rows delivered and rows in dense fallback in this step (R203). -/
  rows : Nat
  fallbacks : Nat
  /-- Products below the unit of `SCOUT_PROD.COUNT` (R206). -/
  prod : Nat
  deriving DecidableEq, Repr

/-! ### Queues, pools, Huddle (R207 to R239) -/

/-- The classes of a queue (R237). -/
inductive QClass
  | disabled
  | dispatch
  | ret
  | unit
  deriving DecidableEq, Repr

/-- A packet queue with its queue-table entry (R209 to R213, R219 to R223, R237). -/
structure Queue where
  cls : QClass
  path : Bool
  spBase : Nat
  spBlocks : Nat
  /-- Watermarks as last written, and as adopted. -/
  wmHi : Nat
  wmLo : Nat
  adHi : Nat
  adLo : Nat
  head : List QWord
  /-- Blocks of the middle in the stacks, oldest first: address and words held (R210, R227). -/
  mid : List (Nat × Nat)
  /-- Spill blocks written so far, which places the next one. -/
  wr : Nat
  tail : List QWord
  pkt : BitVec 24
  hold : Bool
  resync : Bool
  /-- The rest of an arriving packet is being discarded because the queue was full (R213, R220). -/
  cut : Bool
  /-- Runs of words of cut packets, marked for the consumer to discard (R213): words between the run before and this one, and
  words of the run. -/
  cuts : List (Nat × Nat)
  /-- The last word received had its end mark set; true before the first word. -/
  atEnd : Bool
  /-- The kind of the packet last received, which each of its words must carry (R207, R208). -/
  kind : BitVec 3
  /-- The packet at the head has been read in part. -/
  inPacket : Bool
  /-- The packet that the consumer has read in part was cut: it discards what it has read (R213). -/
  marked : Bool
  /-- Watermarks have been written that the queue has not adopted yet (R220, R365). -/
  due : Bool
  /-- Bucket blocks that the head holds words of: the block's address, and the words to leave until its last has (R224). -/
  blks : List (Nat × Nat)
  deriving DecidableEq, Repr

/-- A buffer pool beside its registers (R231 to R236, R239). -/
structure Pool where
  ready : Bool
  /-- Buffers taken from the ring in order so far; buffers beyond it have never been allocated. -/
  fresh : Nat
  /-- Buffers returned, oldest first, by buffer number. -/
  freed : List Nat
  /-- Buffers allocated: the bitmap. -/
  bitmap : Tab Bool
  /-- Buffers in the cache; the rest of the free buffers are in the ring (R234). -/
  cached : Nat
  /-- Entries that the cache has written back to the ring. -/
  back : Nat
  /-- Buffers held by each requester. -/
  held : Tab Nat
  /-- Requests that wait, oldest first: the requester, and the buffers that HUDDLE or VOLLEY reserves with the request, 0 for a single
  buffer (R234). -/
  waiting : List (Nat × Nat)
  /-- The half that each buffer was last taken for (R235). -/
  halves : Tab (Option Half)
  /-- Quarantined buffers (R236). -/
  quar : Tab Bool
  deriving DecidableEq, Repr

/-- The pack directory entry of a row: form map and packed length (R230). -/
structure PackEnt where
  forms : List (BitVec 2)
  len : Nat
  deriving DecidableEq, Repr

/-- A Huddle bank, one for each half (R224 to R230, R238, R252). -/
structure HudBank where
  rows : Tab Bool
  dir : Tab (Option PackEnt)
  /-- A HUDDLE of this bank has completed, and its EOH has not left. -/
  open_ : Bool
  packed : Bool
  /-- Copies made and not yet handed to the ports. -/
  unsent : Nat
  batch : BitVec 14
  gen : BitVec 2
  deriving DecidableEq, Repr

/-- Huddle (R224 to R230). -/
structure Huddle where
  bankA : HudBank
  bankB : HudBank
  /-- The half of the most recently completed HUDDLE (R228). -/
  lastDone : Option Half
  /-- Bucket blocks not yet read in each bucket buffer, by buffer address (R224). -/
  blocks : Tab Nat
  /-- Records that the running HUDDLE has read, and the buffers it has reserved, by number (R224, R225). -/
  recs : List (BitVec 128)
  resv : List Nat
  deriving DecidableEq, Repr

/-! ### Volley (R240 to R272) -/

/-- A frame (R245): header fields, inline bytes and segment bytes. -/
structure Frame where
  dest : Nat
  origin : Nat
  kind : Nat
  half : Half
  inst : Byte
  seg : Nat
  pid : Word
  len : Nat
  inline_ : List Byte
  data : List Byte
  deriving DecidableEq, Repr

/-- A frame in a retry buffer: its link sequence and how often it has been sent (R247). -/
structure Retry where
  seq : BitVec 24
  tries : Nat
  resend : Bool
  frame : Frame
  deriving DecidableEq, Repr

/-- A logical link port (R244, R247, R248, R255, R267 to R272). -/
structure Port where
  /-- `VOL_PST.STATE`: 0 untrained, 1 training, 2 in service, 3 half width, 4 retraining, 5 out of service. -/
  st : Nat
  /-- The bench port that holds the logical port, if one does. -/
  spare : Option Nat
  lanes : Nat
  /-- Physical lanes of the logical lanes, and the physical lanes that have failed. -/
  lmap : List Nat
  bad : List Nat
  txq : List Frame
  retry : List Retry
  nextSeq : BitVec 24
  /-- The receiving side: the next link sequence expected, sequences to be sent as NAK, and sequences whose frames have not arrived
  good (R247). -/
  rxSeq : BitVec 24
  naks : List (BitVec 24)
  missing : List (BitVec 24)
  /-- Cells the partner has granted in all, and cells sent in all (R244, R248). -/
  granted : Word
  sent : Word
  /-- Cells this port has granted its partner in all, and cells of the receive store in use. -/
  grants : Word
  rxCells : Nat
  /-- The partner's port state as its last good control block gave it. -/
  partner : Byte
  /-- Control blocks sent, which number the superframe, and cells of the superframe sent, 640 when the next control block is due
  (R243, R244). -/
  sf : BitVec 16
  cell : Nat
  deriving DecidableEq, Repr

/-- A posted VOLLEY (R251): its send queue, the PACKED descriptor, the packets that its queue held, the packet ids of the
entries built so far (none for a packet discarded or looped back), the pool of its send list, and the send-list buffers
it still holds, each with its place in the list. -/
structure VJob where
  queue : Nat
  desc : Line
  total : Nat
  sent : List (Option Word)
  pool : Nat
  bufs : List (Nat × Nat)
  deriving DecidableEq, Repr

/-- A COPY packet being reassembled (R258), or an ANSWER packet whose segments are awaited (R259); its buffer, or for an
ANSWER 1 once a segment has been discarded (R279). -/
structure Part where
  origin : Nat
  pid : Word
  kind : Nat
  half : Half
  inst : Byte
  len : Nat
  segs : List Nat
  buf : Nat
  tag : BitVec 96
  deriving DecidableEq, Repr

/-- An arrival entry (R262). -/
structure Arrival where
  taken : Bool
  batch : BitVec 14
  gen : BitVec 2
  cnt : Nat
  eohSeen : Bool
  eohCnt : Nat
  deriving DecidableEq, Repr

/-- A held early EOH, or an early DISCARD, with the buffers of the early copies that arrived before it (R261, R264). -/
structure EarlyEoh where
  discard : Bool
  half : Half
  origin : Nat
  batch : BitVec 14
  gen : BitVec 2
  count : Nat
  ahead : List Nat
  deriving DecidableEq, Repr

/-- A pair-compare digest cell (R351). -/
structure Digest where
  step : DWord
  unit : Nat
  half : Half
  items : Word
  value : DWord
  deriving DecidableEq, Repr

/-- An entry of the compare table: a digest and whose it is (R352). -/
structure Compare where
  mine : Bool
  d : Digest
  deriving DecidableEq, Repr

/-- The window of signal sequences received from one origin chip (R266). -/
structure SigWin where
  top : BitVec 16
  seen : BitVec 64
  any : Bool
  deriving DecidableEq, Repr

/-- Volley. -/
structure Volley where
  ports : Tab Port
  rot : Nat
  jobs : List VJob
  /-- Send-list buffers reserved for the VOLLEY that starts (R251). -/
  resv : List Nat
  pid : Word
  /-- Copies handed to the ports for each destination: half h, chip d at 8192·h + d (R252). -/
  destCnt : Tab Nat
  sendInst : List Byte
  openInst : List Byte
  /-- The first EOH of the half's send instance has left this chip (R357). -/
  eohLeft : List Bool
  /-- Frames that passed the checks of R257 and wait to be processed, with the port they came by. -/
  rx : List (Option (Fin 64) × Frame)
  parts : List Part
  dups : List (Nat × Word)
  arrivals : Tab Arrival
  earlyEoh : List EarlyEoh
  /-- RECEIVE buffers of copies that RECV.NET skips (R262). -/
  skip : List Nat
  /-- Frames that wait for an eligible port, for room in a port's frame queue, or for room for loopback in the receive store (R248,
  R255, R256). -/
  stuck : List Frame
  /-- RECEIVE buffer, plus 1, of the copy that RECV.NET wrote the RXI8 row at an address from (R197); and rows of each
  RECEIVE buffer, by address, that have not been delivered yet. -/
  rowBuf : Tab Nat
  bufRefs : Tab Nat
  reach : Tab DWord
  /-- Rows that RECV.NET has written of the half's open instance: where a replay goes on (R358, log entry 23). -/
  recvRows : List Nat
  sigSeq : BitVec 16
  sigs : List SigOut
  wins : Tab SigWin
  digests : List Digest
  deriving DecidableEq, Repr

/-! ### Rebound (R273 to R292) -/

/-- The states of a reorder slot (R273). -/
inductive RState
  | free
  | open_
  | cancelled
  deriving DecidableEq, Repr

/-- An answer at the origin, from its first kept segment (R280, R282). -/
structure Answer where
  choice : Nat
  weight : BitVec 16
  fmt : Nat
  n : Nat
  len : Nat
  /-- Segments arrived, and whether they are kept. -/
  segs : List Nat
  kept : Bool
  /-- Packet bytes by offset. -/
  bytes : Tab Byte
  /-- Parked in the stacks at this address, when it is (R282). -/
  slotAddr : Option Nat
  /-- It waits parked, whole, to be added. -/
  parked : Bool
  deriving DecidableEq, Repr

/-- A reorder slot record with what is held for it (R273, R281, R282, R285). -/
structure RSlot where
  st : RState
  half : Half
  row : Nat
  batch : BitVec 14
  gen : BitVec 2
  known : Bool
  adm : BitVec 16
  seen : BitVec 16
  done : BitVec 16
  /-- Reservations held. -/
  res : Nat
  gidx : Nat
  acc : Option (List Word)
  /-- The answer slot in the stacks that holds the memory-side sum, when there is one (R284). -/
  msAddr : Option Nat
  answers : List Answer
  /-- The converted result, held until emission, and the answer slot that holds it when it is not in the combine
  store (R285). -/
  result : Option (List Byte)
  resAddr : Option Nat
  deriving DecidableEq, Repr

/-- What a RECV.NET delivered and a REBOUND.RET is to forward (R85, R278). -/
structure NetDone where
  slot : Nat
  half : Half
  choices : Nat
  served : Bool
  deriving DecidableEq, Repr

/-- Rebound. -/
structure Rebound where
  slots : Tab RSlot
  /-- The free-slot ring: position p below 262,144 first holds slot p; released slots follow (R274). -/
  ring : Tab Nat
  ringHead : Nat
  ringTail : Nat
  /-- Row map: row r of half h at 65,536·h + r holds slot + 1; 0 where there is none. -/
  rowMap : Tab Nat
  /-- Rows that the half's RECV.IN set, when it has completed (R288). -/
  rows : List (Option Nat)
  aslots : Nat
  used : Nat
  cfree : Nat
  /-- Answer slots in the stacks in use, by number. -/
  aused : List Nat
  cancelled : Nat
  /-- Emission pointers, and whether a COMBINE of the half runs. -/
  eptr : List Nat
  active : List Bool
  emitted : List Nat
  nets : List NetDone
  /-- Answers forwarded for each half and not yet counted by a RET (R278). -/
  fwd : List Nat
  /-- The row buffer of RECV.IN (R217) and the words of an answer that RET has read (R278): by queue, the words read so far of
  the packet at its head. -/
  bufs : Tab (List QWord)
  /-- Rows that RECV.IN has taken of each half since its last COMBINE: the rows a replay reads back (R358). -/
  taken : List Nat
  deriving DecidableEq, Repr

/-! ### Memory port (R293 to R314) -/

/-- An entry of a channel's hold queue, or a request in flight under a tag. -/
structure Flight where
  port : Nat
  tag : Byte
  ch : Nat
  req : MemReq
  deriving DecidableEq, Repr

/-- A maintenance command in progress (R309, R313). -/
structure Maint where
  host : Bool
  stack : Nat
  pc : Nat
  op : Byte
  arg : Word
  /-- The value of `MEM_MAINT_RSP` that a CWRITE carries (R313). -/
  val : Word
  /-- A REMAP of the Referee that keeps the contents of its unit (R308). -/
  keep : Bool
  /-- The port it has been sent on and its request tag, once it has been sent (R296). -/
  tag : Option (Nat × Nat)
  deriving DecidableEq, Repr

/-- A stack (R304, R306, R314). -/
structure Stack where
  st : Nat
  spare : Nat
  spareReady : Bool
  /-- The spare failed before it served a channel (R325, log entry 95). -/
  noSpare : Bool
  deriving DecidableEq, Repr

/-- The memory port. -/
structure MemPort where
  nlines : Nat
  stk : Tab Stack
  /-- Channels under retraining. -/
  retraining : List Nat
  /-- Requests accepted and not yet issued, with their channels, oldest first over all ports, channels and classes (R300). -/
  rq : List (Nat × MemReq)
  /-- Hold queues, oldest first over all channels. -/
  holdq : List (Nat × MemReq)
  /-- Requests that wait in their units, oldest first (R298, R302). -/
  wait : List MemReq
  flights : List Flight
  /-- Read and write credit of each port, in bytes (R299). -/
  rdCredit : Tab Nat
  wrCredit : Tab Nat
  /-- Superperiods of the latest corrections of each row unit, newest first, at 2^20·channel + unit (R308). -/
  corr : Tab (List Nat)
  /-- Channels that failed when their stack's spare was in use (R306). -/
  dead : List Nat
  /-- Lines marked poisoned, and channels all of whose lines were poisoned but the cured ones (R304, R305). -/
  poison : Tab Bool
  lostCh : List Nat
  cured : Tab Bool
  lostPending : Bool
  lostAddr : Nat
  /-- Halves that a poisoned read has faulted since the last MEM_RESUME (R305). -/
  lostHalves : List Half
  maint : List Maint
  /-- Row units withheld in this run beside the list (R310, R312): channel and unit. -/
  quarNow : List (Nat × Nat)
  qfull : Bool
  deriving DecidableEq, Repr

/-! ### Referee (R318 to R368) -/

/-- A detected fault that the Referee has not yet handled (R353). -/
structure FaultRep where
  mech : Byte
  half : Option Half
  item : BitVec 16
  logical : BitVec 16
  detail : DWord
  lost : Bool
  deriving DecidableEq, Repr

/-- A journal entry (R356): the instruction, its effective indices, its half, and once known its code and
value. -/
structure JEnt where
  op : Instr
  idx : List Nat
  serial : BitVec 16
  half : Option Half
  unit : Bool
  result : Option UResult
  deriving DecidableEq, Repr

/-- The Referee. -/
structure Referee where
  faults : List FaultRep
  frec : Tab Word
  fseq : Word
  recov : Bool
  replay : Bool
  repair : Bool
  /-- The step checkpoint and the journals (R356), by context. -/
  check : Tab (Option Context)
  journal : Tab (List JEnt)
  jpos : Tab Nat
  /-- Halves being re-executed in the replay, and discards of each half in the step (R359). -/
  rehalves : List Half
  discards : List Nat
  /-- Rows of each half already emitted before its discard (R357), and a half whose re-issue is held. -/
  emitted : List Nat
  heldFor : List Half
  /-- A half waits for its replay. -/
  replayDue : Bool
  gens : List (BitVec 2)
  compares : List Compare
  divUnit : Byte
  divHalf : Half
  divValid : Bool
  divStep : DWord
  /-- Component digests (R343): region r, gate-table entry n, and of each half input and output. -/
  regDig : Tab DWord
  progDig : DWord
  gateDig : Tab DWord
  inDig : List DWord
  outDig : List DWord
  /-- Gate-table entry that each half's SCORE bound. -/
  halfGate : List Nat
  /-- The half of the rows of the tensor at a base address, as the step's commands have written them (R356). -/
  rowHalf : Tab (Option Half)
  /-- Logical unit to physical unit, where it is not the reset one: class·64 + index. -/
  phys : Tab (Option Nat)
  /-- Item counts and set digests being formed: unit u of half h at 2·u + h (R350). -/
  acc : Tab (Nat × DWord)
  /-- Events of each mechanism that were masked (R353). -/
  masked : Tab Nat
  deriving DecidableEq, Repr

/-! ### Kickoff (R321 to R334) -/

/-- Kickoff: `REF_KSTAT`, the on-block image, the store outside, and the word accesses in progress. -/
structure Kickoff where
  /-- 0 reset, 1 running, 2 ready, 3 stopped, 4 test hold. -/
  st : Nat
  /-- The next step to run, and the last step run. -/
  step : Nat
  /-- This start reads the image (power-on), and the words of it read so far (R325, R327). -/
  readImage : Bool
  rd : Nat
  stopStep : Nat
  cause : Byte
  item : BitVec 16
  /-- On-block copy of the non-volatile image, and the integrator's store behind the port (R327). -/
  img : Tab Word
  nvs : Tab Word
  nvsq : List (Nat × Word)
  persist : Bool
  wrerr : Bool
  locked : Bool
  aligned : Bool
  spmok : Bool
  /-- FOLLOW is ignored in this run (R332, cause 0x11). -/
  alone : Bool
  /-- 1 once K0 has read the image and counted this start. -/
  note : Nat
  /-- The PLL did not report lock in time while the image was still being read, and whether the alternate loop bandwidth locks. -/
  lockMiss : Option Bool
  /-- Units marked out in this run, words 0 to 8 of the standing record: a mark that the host clears acts at the next start (R334). -/
  marks : Tab Word
  /-- Stacks that were LOST when the last run ended, for the K4 of this start (R306, log entry 95). -/
  lostStk : List Nat
  /-- Lock-time or marker timeouts already answered by the policy in this step. -/
  tried : List Byte
  /-- The engine is held in reset by a pin. -/
  power : Bool
  warm : Bool
  deriving DecidableEq, Repr

/-! ### Observation port, host window, pins -/

/-- The observation port (R387 to R393). -/
structure Observe where
  run : Bool
  /-- 0 nothing armed, 1 START, 2 STOP. -/
  arm : Nat
  pins : BitVec 16
  /-- Measurement counts (R391): 0 superperiods, 1 and 2 packet bytes sent and received, 3 MACs, 4 and 5 lines read and
  written. -/
  cnt : Tab Nat
  deriving DecidableEq, Repr

/-- Output pins as the last step that drove them left them (R31, R322). -/
structure Pins where
  fcHold : BitVec 32
  /-- Words last presented on each egress group, by leader (R218). -/
  egr : Tab (List QWord)
  /-- The frame last sent on each logical port, or the control block bytes. -/
  lnk : Tab (List Byte)
  /-- The request last driven on each memory port. -/
  memReq : Tab (BitVec 96)
  rdata : Word
  /-- `HW_ACK`: the last host access was acknowledged in this cycle. -/
  hwAck : Bool
  /-- `SPM_OUT`: a superperiod boundary has just passed (R319). -/
  spmOut : Bool
  deriving DecidableEq, Repr

/-- The state of the block. -/
structure State where
  /-- Commands that wait, first in first out. -/
  pending : List Instr
  /-- The fused grade: false A, true B (R3, R372). -/
  gradeB : Bool
  /-- Host-window registers whose value is not their reset value, by offset. -/
  regs : Tab (Option Word)
  /-- Live registers that the group reading them has not adopted yet: the value still in force (R364, R365). -/
  lag : Tab (Option Word)
  /-- Staged registers: mask and value that take effect at the next boundary (R363). -/
  staged : Tab (Option (Word × Word))
  /-- High words captured by a read of the low word, by offset of the high word (R369). -/
  capt : Tab Word
  ctxs : Tab Context
  /-- Instruction-cache lines: sequencer·256 + set, most recently used first (R44). -/
  icache : Tab (List Nat)
  /-- The context of each sequencer that issued last, plus 1 (R32). -/
  lastIssue : Tab Nat
  /-- The other contexts of each sequencer that stood ready when it last issued (R32; log entry 55). -/
  stood : Tab (List Nat)
  /-- The last instruction of the context takes more than one FCLK (R66), so that its next may not be ready yet. -/
  slow : Tab Bool
  /-- Program store, by 32-bit word (R42). -/
  ps : Tab Word
  sync : Tab SyncObj
  /-- Host writes of sync objects not yet adopted: object, threshold?, value (R49). -/
  syncWr : List (Nat × Bool × Word)
  slots : Tab Slot
  ucmds : List UCmd
  step : DWord
  spcnt : DWord
  seed : DWord
  seedNext : Option DWord
  standing : Nat
  /-- A boundary has passed and waits for a grant (R54). -/
  boundary : Bool
  arm : Option Capture
  /-- A SAVE image is being written and the release waits (R347). -/
  saving : Option Capture
  tbl : Tables
  adm : Admission
  scout : Scout
  hud : Huddle
  queues : Tab Queue
  /-- Words of a packet that its unit has still to push into a queue that was full, by queue (R213). -/
  flow : Tab (List QWord)
  pools : Tab Pool
  vol : Volley
  reb : Rebound
  mp : MemPort
  /-- The stacks: byte address and byte; an unlisted byte reads zero (log entry 1). -/
  mem : List Host.Cell
  ref : Referee
  kick : Kickoff
  obs : Observe
  pins : Pins
  /-- The model's own counter of free values drawn (log entry 3); no statement rests on it. -/
  free : Nat
  deriving DecidableEq, Repr

/-! ### Reset -/

/-- A context after reset: FREE, with every register zero (R34, R59). -/
def Context.reset : Context :=
  ⟨.free, 0, [], [], [], false, 0, 0, 0, .nothing, .no, false, 0, []⟩

/-- A sync object after reset (R49). -/
def SyncObj.reset : SyncObj := ⟨0, 0⟩

/-- A descriptor slot after reset (R47). -/
def Slot.reset : Slot := ⟨0, false⟩

/-- A banked table with no active epoch: both banks released, bank 0 the shadow (R89). -/
def Banked.reset : Banked := ⟨none, 0, false, false⟩

/-- No gate. -/
def GateMeta.none : GateMeta := ⟨0, 0, 0, 0, 0, 0⟩

/-- A loader with nothing started. -/
def Loader.reset : Loader := ⟨false, false, false, GateMeta.none, 0, 0⟩

/-- The tables before K6 and K7 (R325). -/
def Tables.reset : Tables :=
  ⟨.reset, .reset, .reset, .reset, .reset, .reset, GateMeta.none, GateMeta.none, [], [], [], [], [], false, [], []⟩

/-- A queue after reset: disabled, with the watermarks of R237. -/
def Queue.reset : Queue :=
  ⟨.disabled, false, 0, 0, 0xFFFFF, 0, 31, 0, [], [], 0, [], 0, false, false, false, [], true, 0, false, false, false, []⟩

/-- A pool after reset. -/
def Pool.reset : Pool := ⟨false, 0, [], [], 0, 0, [], [], [], []⟩

/-- A Huddle bank after reset. -/
def HudBank.reset : HudBank := ⟨[], [], false, false, 0, 0, 0⟩

/-- A link port after reset: untrained, with nothing sent. -/
def Port.reset : Port := ⟨0, none, 0, [], [], [], [], 0, 0, [], [], 0, 0, 0, 0, 0, 0, 640⟩

/-- A fresh arrival entry (R262). -/
def Arrival.reset : Arrival := ⟨false, 0, 0, 0, false, 0⟩

/-- A free reorder slot (R273). -/
def RSlot.reset : RSlot :=
  ⟨.free, 0, 0, 0, 0, false, 0, 0, 0, 0, 0, none, none, [], none, none⟩

/-- A stack before K4. -/
def Stack.reset : Stack := ⟨0, 0, false, false⟩

/-- A signal window with nothing received. -/
def SigWin.reset : SigWin := ⟨0, 0, false⟩

/-- Volley after reset. -/
def Volley.reset : Volley :=
  ⟨[], 0, [], [], 0, [], [0, 0], [0, 0], [false, false], [], [], [], [], [], [], [], [], [], [], [0, 0], 0, [], [], []⟩

/-- Rebound after reset: the ring holds every slot in ascending order (R274). -/
def Rebound.reset : Rebound :=
  ⟨[], [], 0, 262144, [], [none, none], 0, 0, 131072, [], 0, [0, 0], [false, false], [0, 0], [], [0, 0], [], [0, 0]⟩

/-- The memory port after reset. -/
def MemPort.reset : MemPort :=
  ⟨0, [], [], [], [], [], [], [], [], [], [], [], [], [], false, 0, [], [], [], false⟩

/-- The Referee after reset. -/
def Referee.reset : Referee :=
  ⟨[], [], 0, false, false, false, [], [], [], [], [0, 0], [0, 0], [], false, [0, 0], [], 0, 0, false, 0,
   [], 0, [], [0, 0], [0, 0], [0, 0], [], [], [], []⟩

/-- Kickoff at reset: held in reset, the image to be read. -/
def Kickoff.reset : Kickoff :=
  ⟨0, 0, true, 0, 0, 0, 0, [], [], [], false, false, false, false, false, false, 0, none, [], [], [], true, false⟩

/-- The block right after power-on reset, with `PORST_N` asserted (R322, R372): every output in its reset
state, every register at its reset value, no command waiting. -/
def State.reset : State :=
  { pending := [], gradeB := false, regs := [], lag := [], staged := [], capt := [], ctxs := [], icache := []
    lastIssue := [], stood := [], slow := [], ps := [], sync := [], syncWr := [], slots := [], ucmds := [], step := 0, spcnt := 0
    seed := 0, seedNext := none, standing := 0, boundary := false, arm := none, saving := none
    tbl := .reset, adm := ⟨[], [], [], [], [], [], false, [], 0⟩, scout := ⟨[], [], [], [], 0, 0, 0⟩
    hud := ⟨.reset, .reset, none, [], [], []⟩, queues := [], flow := [], pools := [], vol := .reset, reb := .reset, mp := .reset
    mem := [], ref := .reset, kick := .reset, obs := ⟨false, 0, 0, []⟩
    pins := ⟨0xFFFFFFFF#32, [], [], [], 0, false, false⟩, free := 0 }

end Sys2Proof.Machine
end

