-- ==== Sys2Proof/Machine/Ops.lean ====
section
/-! DEFINITION. The named operations over registers, flags, stack memory, contexts and sync objects that every
command is written with. -/

namespace Sys2Proof.Machine

/-- What a step answers. -/
abbrev Out := Host.Outcome State Fault Refusal

/-! ### Completion codes (R14) -/

def codeOk : Byte := 0x00#8
def codeOffside : Byte := 0x01#8
def codeOverlap : Byte := 0x02#8
def codeBounds : Byte := 0x03#8
def codeAlign : Byte := 0x04#8
def codeQuota : Byte := 0x05#8
def codeFit : Byte := 0x06#8
def codeEpoch : Byte := 0x07#8
def codeFormat : Byte := 0x08#8
def codeTimeout : Byte := 0x09#8
def codeFault : Byte := 0x0A#8
def codeUnsup : Byte := 0x0B#8

/-- The lowest code among the checks that apply (R16); none if no check applies. -/
def lowest : List (Bool × Byte) → Option Byte
  | [] => none
  | (b, k) :: l =>
    match lowest l with
    | none => if b then some k else none
    | some j => if b && decide (k ≤ j) then some k else some j

/-! ### Host-window registers -/

/-- The stored value of the register at an offset. -/
def State.reg (s : State) (off : Nat) : Word := (Tab.get none s.regs off).getD (resetAt off)

/-- The register at an offset takes a value. -/
def State.setReg (s : State) (off : Nat) (v : Word) : State :=
  { s with regs := Tab.set none s.regs off (if v = resetAt off then none else some v) }

/-- The value in force: that of a live register which its reader has not adopted yet is the earlier one (R365). -/
def State.regNow (s : State) (off : Nat) : Word := (Tab.get none s.lag off).getD (s.reg off)

/-- Bits `[hi:lo]` of a stored register. -/
def State.fld (s : State) (off hi lo : Nat) : Nat := bitsOf (s.reg off).toNat hi lo

/-- Bits `[hi:lo]` of a register in force. -/
def State.fldNow (s : State) (off hi lo : Nat) : Nat := bitsOf (s.regNow off).toNat hi lo

/-- Bits `[hi:lo]` of a register take a value. -/
def State.setFld (s : State) (off hi lo v : Nat) : State :=
  s.setReg off (BitVec.ofNat 32 (putBits (s.reg off).toNat hi lo v))

/-- A wrapping event counter advances by `n`. -/
def State.bump (s : State) (off n : Nat) : State := s.setReg off (s.reg off + BitVec.ofNat 32 n)

/-- Status flag `b` is set and its counter advances by `n` (R366, R380). -/
def State.raiseFlag (s : State) (b n : Nat) : State :=
  (s.setFld 0x2000 b b 1).bump (0x2100 + 4 * b) n

/-- Interrupt pending bit `b` is set (R382). -/
def State.raiseInt (s : State) (b : Nat) : State := s.setFld 0x2800 b b 1

/-! ### The part as a whole -/

/-- Logical sequencers of the grade (R3, R32). -/
def State.nSeq (s : State) : Nat := if s.gradeB then 24 else 32

/-- Logical score tiles of the grade (R3). -/
def State.nTile (s : State) : Nat := if s.gradeB then 48 else 64

/-- Logical scout tiles of the grade (R3). -/
def State.nScout (s : State) : Nat := if s.gradeB then 12 else 16

/-- Logical link ports of the grade (R3). -/
def State.nLink (s : State) : Nat := if s.gradeB then 48 else 64

/-- This chip's index, `VOL_CHIP.INDEX`. -/
def State.chip (s : State) : Nat := s.fld 0x0B0004 12 0

/-- The system size in chips, `VOL_SYS.SIZE`. -/
def State.sysSize (s : State) : Nat := s.fld 0x0B0000 13 0

/-- Ordered mode (R58). -/
def State.ordered (s : State) : Bool := s.fld 0x1000 0 0 == 1

/-- Current generation of a half (R24). -/
def State.gen (s : State) (h : Nat) : BitVec 2 := s.ref.gens.getD h 0

/-- Batch id in force for a half (R81, R372). -/
def State.batch (s : State) (h : Nat) : BitVec 14 := BitVec.ofNat 14 (s.fld (0x100C + 4 * h) 13 0)

/-- The declared half size (R374). -/
def State.halfTokens (s : State) : Nat :=
  let v := s.fld 0x1024 16 0
  if v = 0 ∨ 65536 < v then 65536 else v

/-- `GCTL_STATE.STATE` (R372): 0 reset, 1 kickoff, 2 service, 3 test hold, 4 recovery, 5 stopped. -/
def State.engine (s : State) : Nat :=
  match s.kick.st with
  | 0 => 0
  | 1 => 1
  | 2 => if s.ref.recov then 4 else 2
  | 3 => 5
  | _ => 3

/-- A draw of the model's own free values: the number of the draw, and the state after it. -/
def State.draw (s : State) : Nat × State := (s.free, { s with free := s.free + 1 })

/-! ### Stack memory -/

/-- The canonical form of the stacks' contents: rising addresses, and no listed byte that reads as an unlisted one. -/
def Memory.wf (m : List Host.Cell) : Bool := Tab.wf 0#8 m

/-- The byte the stacks hold at an address. -/
def State.byte (s : State) (a : Nat) : Byte := Tab.get 0#8 s.mem a

/-- One byte of the stacks is written. -/
def State.setByte (s : State) (a : Nat) (v : Byte) : State := { s with mem := Tab.set 0#8 s.mem a v }

/-- `n` bytes of the stacks from an address. -/
def State.bytes (s : State) (a n : Nat) : List Byte := bytesRead s.mem a n

/-- Bytes written to the stacks from an address. -/
def State.setBytes (s : State) (a : Nat) (bs : List Byte) : State := { s with mem := bytesWrite s.mem a bs }

/-- An `n`-byte little-endian number of the stacks. -/
def State.num (s : State) (a n : Nat) : Nat := loadLe s.mem a n

/-- An `n`-byte little-endian number written to the stacks. -/
def State.setNum (s : State) (a n v : Nat) : State := { s with mem := storeLe s.mem a n v }

/-- Bytes of stack memory that the address map covers (R293). -/
def State.stackBytes (s : State) : Nat := s.mp.nlines * 163840

/-- The rotation h of the group of line `q`·640 (R294). -/
def lineRot (q : Nat) : Nat := (q % 2 ^ 32 * 0x9E3779B1 % 2 ^ 32) / 65536 * 640 / 65536

/-- The logical channel of a line (R294). -/
def lineChan (l : Nat) : Nat := (l % 640 + lineRot (l / 640)) % 640

/-- The line that channel `c` holds at channel line `n` (R311). -/
def chanLine (c n : Nat) : Nat := n * 640 + (c + 640 - lineRot n) % 640

/-- A line is poisoned: marked so, or of a channel whose contents were lost and not written in full since (R304,
R305). -/
def State.lineLost (s : State) (l : Nat) : Bool :=
  Tab.get false s.mp.poison l || (s.mp.lostCh.contains (lineChan l) && !Tab.get false s.mp.cured l)

/-- A line is written in full and good again (R305); a line of a dead channel is not written (R306). -/
def State.cure (s : State) (l : Nat) : State :=
  if s.lineLost l && !s.mp.dead.contains (lineChan l) then
    { s with mp := { s.mp with poison := Tab.set false s.mp.poison l false
                               cured := if s.mp.lostCh.contains (lineChan l) then Tab.set false s.mp.cured l true
                                        else s.mp.cured } }
  else s

/-- The first poisoned line of a byte range, if there is one. -/
def State.lostIn (s : State) (a n : Nat) : Option Nat :=
  if s.mp.poison = [] ∧ s.mp.lostCh = [] then none
  else (List.range ((a + n + 255) / 256 - a / 256)).findSome? fun i =>
    if s.lineLost (a / 256 + i) then some (a / 256 + i) else none

/-- The lines wholly inside a byte range have been written. -/
def State.cureRange (s : State) (a n : Nat) : State :=
  if s.mp.poison = [] ∧ s.mp.lostCh = [] then s
  else (List.range ((a + n) / 256 - (a + 255) / 256)).foldl (fun t i => t.cure ((a + 255) / 256 + i)) s

/-! ### Contexts (R32 to R35, R45, R46, R56, R57) -/

/-- Context `c`. -/
def State.ctx (s : State) (c : Nat) : Context := Tab.get Context.reset s.ctxs c

/-- Context `c` becomes `x`. -/
def State.setCtx (s : State) (c : Nat) (x : Context) : State := { s with ctxs := Tab.set Context.reset s.ctxs c x }

/-- Register `r` of a context; x0 reads zero (R34). -/
def Context.xr (x : Context) (r : Reg) : DWord := if r = 0 then 0#64 else Tab.get 0#64 x.x r

/-- Register `r` of a context is written; a write of x0 is discarded (R34). -/
def Context.setX (x : Context) (r : Reg) (v : DWord) : Context :=
  if r = 0 then x else { x with x := Tab.set 0#64 x.x r v }

/-- First register offset of a context (R59). -/
def ctxBase (c : Nat) : Nat := 0x010000 + 0x800 * (c / 4) + 0x100 * (c % 4)

/-- Bytes of the program store (R42). -/
def psBytes : Nat := 0x400000

/-- The instruction word at a byte offset of the program store (R42); low word first. -/
def State.psWord (s : State) (pc : Nat) : DWord :=
  Tab.get 0#32 s.ps (pc / 4 + 1) ++ Tab.get 0#32 s.ps (pc / 4)

/-- Region `r` of the program store is locked (R43). -/
def State.locked (s : State) (r : Nat) : Bool :=
  if r < 32 then bitOf (s.reg 0x1040).toNat r else if r < 64 then bitOf (s.reg 0x1044).toNat (r - 32) else false

/-- A program counter may be fetched from: inside the store, and in a locked region (R43). -/
def State.fetchable (s : State) (pc : Nat) : Bool := decide (pc < psBytes) && s.locked (pc / 0x10000)

/-- Instruction-cache set of a context's sequencer that a program counter falls in (R44). -/
def icSet (c pc : Nat) : Nat := (c / 4) * 256 + pc / 64 % 256

/-- The instruction cache of the context's sequencer holds the line of the program counter (R44). -/
def State.icHeld (s : State) (c pc : Nat) : Bool := (Tab.get [] s.icache (icSet c pc)).contains (pc / 64)

/-- The line becomes the most recently used of its set, the least recently used of four leaving when the line
was not held (R44). -/
def State.icTouch (s : State) (c pc : Nat) : State :=
  { s with icache := Tab.upd [] s.icache (icSet c pc) fun l => ((pc / 64) :: l.filter (fun k => k ≠ pc / 64)).take 4 }

/-- Unit commands of a context that have not completed (R40). -/
def State.outstanding (s : State) (c : Nat) : Nat := (s.ucmds.filter fun u => u.c.val = c).length

/-- An opcode of a unit command (R64). -/
def isUnitOp (op : Nat) : Bool := decide (0x40 ≤ op) && decide (op < 0x70)

/-- Opcodes whose unit command returns a value to xD (R64). -/
def returnsValue (op : Nat) : Bool := decide (0x45 ≤ op) && decide (op ≤ 0x4C) && decide (op ≠ 0x4A)

/-- An instruction returns a value to xD when it completes (R64, R78 to R85); REBOUND.RET gives none (R85). -/
def returnsOf (i : Instr) : Bool :=
  match i with
  | .reboundRet _ _ => false
  | _ => match opcodeOf i with | some (op, _, _) => returnsValue op | none => false

/-- The registers that an instruction reads (R35, R39, R65 to R68). -/
def readsOf (op : Nat) (f : Fields) : List Reg :=
  if op = 0x04 then [f.dst]
  else if op < 0x08 then []
  else if op < 0x1A then [f.srcA, f.srcB]
  else if op = 0x1B ∨ op = 0x20 ∨ op = 0x22 ∨ op = 0x23 ∨ op = 0x71 ∨ op = 0x72 ∨ op = 0x78 ∨ op = 0x7B then [f.srcA]
  else if op = 0x21 ∨ op = 0x30 then [f.srcA, f.srcB]
  else if isUnitOp op then [f.srcA, f.srcB]
  else []

/-- Register `r` waits for a unit command of the context to return a value (R35). -/
def State.regBusy (s : State) (c : Nat) (r : Reg) : Bool :=
  r ≠ 0 && s.ucmds.any fun u => decide (u.c.val = c) &&
    returnsOf u.op && (match opcodeOf u.op with | some (_, _, f) => decide (f.dst = r) | none => false)

/-- A REMOTE.SIGNAL of the context waits for its acknowledgement (R52). -/
def State.remoteOpen (s : State) (c : Nat) : Bool := s.vol.sigs.any fun g => decide (g.c.val = c)

/-- Context `c` is ready to issue instruction `i` (R32, R35, R37, R43, R44, R60): it is RUNNING, its next instruction is `i`,
held in the instruction cache; it is below its limit of 16 outstanding commands; the registers that `i` reads are written; a
STAT finds no REMOTE.SIGNAL open. -/
def State.ready (s : State) (c : Ctx) (i : Instr) : Bool :=
  let x := s.ctx c
  decide (x.st = .running) && decide (x.drain = .no) && !x.trapDue && decide (c.val < 4 * s.nSeq) &&
  s.fetchable x.pc && s.icHeld c x.pc && decide (decodeWord c (s.psWord x.pc) = some i) &&
  decide (s.outstanding c < 16) &&
  (match opcodeOf i with
   | some (op, _, f) => (readsOf op f).all (fun r => !s.regBusy c r) && (decide (op ≠ 0x1C) || !s.remoteOpen c)
   | none => false)

/-- Context `c` is ready to issue its next instruction. -/
def State.readyCtx (s : State) (c : Ctx) : Bool :=
  match decodeWord c (s.psWord (s.ctx c).pc) with
  | some i => s.ready c i
  | none => false

/-- Place of context `c` in the round-robin search of its sequencer: it starts after the context that issued last, at context 0
while none has (R32). -/
def State.turnOf (s : State) (c : Nat) : Nat := (c % 4 + 4 - Tab.get 0 s.lastIssue (c / 4) % 4) % 4

/-- No context that stood ready when the sequencer last issued, and still is, comes before `c` in round-robin order (R32; log
entry 55). -/
def State.turn (s : State) (c : Ctx) : Bool :=
  (Tab.get [] s.stood (c.val / 4)).all fun d =>
    decide (s.turnOf c.val ≤ s.turnOf d) || !s.readyCtx ⟨d % 128, Nat.mod_lt _ (by decide)⟩

/-- Context `c` issues instruction `i` in this step: it is ready (R32) and its turn has come. -/
def State.canIssue (s : State) (c : Ctx) (i : Instr) : Bool := s.ready c i && s.turn c

/-- Opcodes of local instructions whose latency is more than one FCLK, or may be (R66). -/
def slowOp (op : Nat) : Bool :=
  decide (op = 0x0F) || (decide (0x14 ≤ op) && decide (op ≤ 0x18)) || decide (op = 0x30) || decide (op = 0x31) ||
  (decide (0x78 ≤ op) && decide (op ≤ 0x7A))

/-- The contexts of sequencer `n` but `c` that stand ready, the time of their last instruction having passed. -/
def State.standing_ (s : State) (n c : Nat) : List Nat :=
  ((List.range 4).map (4 * n + ·)).filter fun d => decide (d ≠ c) && !Tab.get false s.slow d &&
    s.readyCtx ⟨d % 128, Nat.mod_lt _ (by decide)⟩

/-- The issue itself: the sequencer's issue count, the context that issued last and those that stood ready, the cache line used
(R32, R44, R59). -/
def State.noteIssue (s : State) (c : Ctx) : State :=
  let n := c.val / 4
  (({ s with
      lastIssue := Tab.set 0 s.lastIssue n (c.val % 4 + 1), stood := Tab.set [] s.stood n (s.standing_ n c.val)
      slow := Tab.set false s.slow c.val (slowOp (bitsOf (s.psWord (s.ctx c).pc).toNat 63 56)) } : State).bump
    (0x010404 + 0x800 * n) 1).icTouch c (s.ctx c).pc

/-- Loop-end handling after the instruction at `pc`: the loops that remain, innermost first, and the loop that
starts another pass, if one does (R46). -/
def loopEnd (pc : Nat) : List Loop → List Loop × Option Loop
  | [] => ([], none)
  | l :: ls =>
    if pc + 8 = l.first + 8 * l.body then
      if l.iter + 1 < l.trip then ({ l with iter := l.iter + 1 } :: ls, some { l with iter := l.iter + 1 })
      else loopEnd pc ls
    else (l :: ls, none)

/-- The context goes on after the instruction at `pc` (R46). -/
def Context.after (x : Context) (pc : Nat) : Context :=
  match loopEnd pc x.loops with
  | (ls, some l) => { (x.setX l.dst (BitVec.ofNat 64 l.iter)) with loops := ls, pc := l.first }
  | (ls, none) => { x with loops := ls, pc := pc + 8 }

/-- The completion code of the instruction at `pc` enters the context status (R56). -/
def Context.record (x : Context) (code : Byte) (pc : Nat) : Context :=
  if code ≠ codeOk ∧ x.first = 0#8 then { x with last := code, first := code, firstPc := pc }
  else { x with last := code }

/-- A trap on the code is enabled in the context (R57, R59): never on OK or FAULT. -/
def State.trapOn (s : State) (c : Nat) (code : Byte) : Bool :=
  decide (code ≠ codeOk) && decide (code ≠ codeFault) && decide (code.toNat ≤ 11) &&
  bitOf (s.regNow (ctxBase c + 0x38)).toNat code.toNat

/-- Context `c` enters TRAPPED holding `pc` (R57): the pending trap interrupt is set. -/
def State.trap (s : State) (c pc : Nat) (precise : Bool) : State :=
  (s.setCtx c { s.ctx c with st := .trapped, pc := pc, precise := precise, drain := .no, trapDue := false
                             wait := .nothing }).raiseInt 2

/-- A local instruction ends with a code (R15, R56, R57): the code is recorded, and the context traps precisely
or goes on behind the instruction. -/
def State.retire (s : State) (c : Nat) (code : Byte) : State :=
  let pc := (s.ctx c).pc
  let s1 := s.setCtx c ((s.ctx c).record code pc)
  if s.trapOn c code then s1.trap c pc true else s1.setCtx c ((s1.ctx c).after pc)

/-- A local instruction ends with OK and writes a register. -/
def State.retireX (s : State) (c : Nat) (r : Reg) (v : DWord) : State :=
  (s.setCtx c ((s.ctx c).setX r v)).retire c codeOk

/-- A taken branch to a byte offset (R45, R46): outside the store it traps at the branch; otherwise every loop
whose body it leaves is popped. -/
def State.branch (s : State) (c : Nat) (target : Int) : State :=
  let pc := (s.ctx c).pc
  if target < 0 ∨ (psBytes : Int) ≤ target then
    (s.setCtx c ((s.ctx c).record codeOffside pc)).trap c pc true
  else
    let t := target.toNat
    let x := (s.ctx c).record codeOk pc
    s.setCtx c { x with pc := t
                        loops := x.loops.dropWhile fun l => decide (t < l.first) || decide (l.first + 8 * l.body ≤ t) }

/-- Once the outstanding commands of a draining context have completed it enters the state it drains to
(R45, R53, R59). -/
def State.drained (s : State) (c : Nat) : State :=
  let x := s.ctx c
  if s.outstanding c ≠ 0 ∨ s.remoteOpen c then s else
  match x.drain with
  | .no => s
  | .toStepwait => s.setCtx c { x with st := .stepwait, drain := .no }
  | .toFree => s.setCtx c ({ x with st := .free, drain := .no }.record codeOk x.pc)
  | .toHalted => s.setCtx c { x with st := .halted, drain := .no, trapDue := false }

/-! ### Sync objects (R49, R50) -/

/-- Sync object `n`. -/
def State.obj (s : State) (n : Nat) : SyncObj := Tab.get SyncObj.reset s.sync n

/-- Sync object `n` becomes `o`. -/
def State.setObj (s : State) (n : Nat) (o : SyncObj) : State := { s with sync := Tab.set SyncObj.reset s.sync n o }

/-- An object is signalled (R50): the count saturates, and a signal that would exceed the range sets the
sync-saturation flag and counts. -/
def State.signal (s : State) (n amount : Nat) : State :=
  let o := s.obj n
  if o.cnt.toNat + amount ≤ 0xFFFFFFFF then s.setObj n { o with cnt := BitVec.ofNat 32 (o.cnt.toNat + amount) }
  else (s.setObj n { o with cnt := 0xFFFFFFFF#32 }).raiseFlag 0 1

/-! ### Descriptor slots (R47) -/

/-- Descriptor slot `n`. -/
def State.slot (s : State) (n : Nat) : Slot := Tab.get Slot.reset s.slots n

/-- Descriptor slot `n` becomes `d`. -/
def State.setSlot (s : State) (n : Nat) (d : Slot) : State := { s with slots := Tab.set Slot.reset s.slots n d }

/-- Count `f` of the step record rises by `n` for half `h` (R180): field `f` stands at byte 8 + 4·f. -/
def State.countRec (s : State) (f h n : Nat) : State :=
  { s with adm := { s.adm with srec := (Tab.upd 0 s.adm.srec (2 * f + h) (fun v => v + n)) } }

/-- Measurement count `k` rises by `n` while the window runs (R391). -/
def State.measure (s : State) (k n : Nat) : State :=
  if s.obs.run then { s with obs := { s.obs with cnt := (Tab.upd 0 s.obs.cnt k fun v => v + n) } } else s

/-- Fault reported to the Referee (R353). -/
def State.report (s : State) (r : FaultRep) : State := { s with ref := { s.ref with faults := s.ref.faults ++ [r] } }

/-- A read meets a poisoned line (R305): it counts, the first since the last MEM_RESUME is recorded and raises the
memory interrupt, and a lost-contents fault of the requesting half is reported. -/
def State.lostRead (s : State) (l : Nat) (h : Option Half) : State :=
  let s1 := s.bump 0x0D0038 1
  let s2 := if s1.mp.lostPending then s1
    else ({ s1 with mp := { s1.mp with lostPending := true, lostAddr := 256 * l } } : State).raiseInt 4
  let s3 : State := match h with
    | some h => { s2 with mp := { s2.mp with lostHalves := if s2.mp.lostHalves.contains h then s2.mp.lostHalves else h :: s2.mp.lostHalves } }
    | none => s2
  s3.report ⟨0x0A, h, 0, 0xFFFF, BitVec.ofNat 64 (256 * l), false⟩

end Sys2Proof.Machine
end

