-- ==== Sys2Proof/Machine/Operands.lean ====
section
/-! DEFINITION. Operands: the immediate forms of an instruction (R39, R61), the descriptor and its checks (R105 to
R111, R123), and the elements, rows and blocks that a command reads and writes through one (R91 to R98, R100, R101,
R106, R113). -/

namespace Sys2Proof.Machine

/-! ### Immediate forms (R39) -/

/-- First descriptor of a DD form: imm[11:0] + xA[11:0], modulo 4096. -/
def ddFirst (x : Context) (f : Fields) : Nat := (bitsOf f.imm.toNat 11 0 + (x.xr f.srcA).toNat % 4096) % 4096

/-- Second descriptor of a DD form: imm[23:12] + xB[11:0], modulo 4096. -/
def ddSecond (x : Context) (f : Fields) : Nat := (bitsOf f.imm.toNat 23 12 + (x.xr f.srcB).toNat % 4096) % 4096

/-- Queue of a DQ form: imm[23:12] + xA[11:0], modulo 4096. -/
def dqQueue (x : Context) (f : Fields) : Nat := (bitsOf f.imm.toNat 23 12 + (x.xr f.srcA).toNat % 4096) % 4096

/-- Descriptor of a DQ form: imm[11:0] + xB[11:0], modulo 4096 (R61). -/
def dqDesc (x : Context) (f : Fields) : Nat := (bitsOf f.imm.toNat 11 0 + (x.xr f.srcB).toNat % 4096) % 4096

/-- Object of an S form: imm[14:0] + xA[14:0], modulo 32,768. -/
def sObj (x : Context) (f : Fields) : Nat := (bitsOf f.imm.toNat 14 0 + (x.xr f.srcA).toNat % 32768) % 32768

/-- Amount of an S form: imm[31:15], unsigned. -/
def sAmount (f : Fields) : Nat := bitsOf f.imm.toNat 31 15

/-- The immediate of an I form, sign-extended to 64 bits. -/
def immI (f : Fields) : DWord := f.imm.signExtend 64

/-- Operand B of the arithmetic instructions (R65): xB plus the sign-extended immediate. -/
def opndB (x : Context) (f : Fields) : DWord := x.xr f.srcB + immI f

/-! ### Formats (R91, R94, R100, R101) -/

def INT8 : Nat := 0x01
def FP8E4 : Nat := 0x02
def FP8E5 : Nat := 0x03
def BF16 : Nat := 0x04
def INT32 : Nat := 0x05
def FP32 : Nat := 0x06
def INT64 : Nat := 0x07
def W2 : Nat := 0x08
def TERN : Nat := 0x09
def CHOICE : Nat := 0x10
def PACKED : Nat := 0x11
def WIDX : Nat := 0x12
def RXI8 : Nat := 0x13

/-- Codes 0x01 to 0x07 are element formats. -/
def isElem (f : Nat) : Bool := decide (1 ≤ f) && decide (f ≤ 7)

/-- Formats that may carry scales. -/
def is8bit (f : Nat) : Bool := decide (1 ≤ f) && decide (f ≤ 3)

/-- Valid format codes. -/
def fmtValid (f : Nat) : Bool := (decide (1 ≤ f) && decide (f ≤ 9)) || (decide (0x10 ≤ f) && decide (f ≤ 0x13))

/-- Bytes of an element, record or byte unit; 68 for a weight block. -/
def unitSize (f : Nat) : Nat :=
  if f ≤ 3 then 1 else if f = 4 then 2 else if f ≤ 6 then 4 else if f = 7 then 8
  else if f ≤ 9 then 68 else if f = 0x10 then 8 else 1

/-- Alignment of a format in bytes (R91). -/
def fmtAlign (f : Nat) : Nat :=
  if f ≤ 3 then 1 else if f = 4 then 2 else if f ≤ 6 then 4 else if f = 7 then 8
  else if f ≤ 9 then 4 else if f = 0x10 then 8 else 64

/-- Block size of a scale block code for a run of `n` elements (R94); 0 for no scales. -/
def scaleBlock (code n : Nat) : Nat :=
  match code with
  | 1 => 32
  | 2 => 64
  | 3 => 128
  | 4 => 256
  | 5 => n
  | _ => 0

/-- Bytes of the scale header of a run of `n` elements (R94). -/
def scaleHeader (code n : Nat) : Nat :=
  let b := scaleBlock code n
  if b = 0 then 0 else 64 * ceilDiv (2 * ceilDiv n b) 64

/-! ### The descriptor (R105) -/

/-- A descriptor, field by field. -/
structure Desc where
  base : Nat
  fmt : Nat
  rank : Nat
  sblk : Nat
  trk : Bool
  pq : Nat
  fparam : Nat
  /-- SHAPE0 to SHAPE5. -/
  shape : List Nat
  /-- Strides of dimensions 0 to 5; that of dimension 0 is not used. -/
  stride : List Nat
  vext : Nat
  shmode : Nat
  gext : Nat
  goff : Nat
  gbase : Nat
  gsize : Nat
  xt : Bool
  deriving DecidableEq, Repr

/-- The descriptor that 512 bits hold (R105). -/
def descOf (l : Line) : Desc :=
  let v := l.toNat
  { base := bitsOf v 47 0, fmt := bitsOf v 52 48, rank := bitsOf v 55 53, sblk := bitsOf v 58 56
    trk := bitOf v 59, pq := bitsOf v 71 60, fparam := bitsOf v 87 72
    shape := [bitsOf v 107 88, bitsOf v 127 108, bitsOf v 147 128, bitsOf v 167 148, bitsOf v 187 168,
      bitsOf v 207 188]
    stride := [0, bitsOf v 243 208, bitsOf v 279 244, bitsOf v 315 280, bitsOf v 351 316, bitsOf v 387 352]
    vext := bitsOf v 407 388, shmode := bitsOf v 419 408, gext := bitsOf v 449 420, goff := bitsOf v 479 450
    gbase := bitsOf v 492 480, gsize := bitsOf v 505 493 + 1, xt := bitOf v 506 }

/-- The 512 bits with VEXT replaced (R115). -/
def withVext (l : Line) (n : Nat) : Line := BitVec.ofNat 512 (putBits l.toNat 407 388 n)

/-- The 512 bits with k and C recorded in FPARAM[7:0] (R75). -/
def withKC (l : Line) (k c : Nat) : Line := BitVec.ofNat 512 (putBits l.toNat 79 72 (k + 32 * c))

/-- Extent of dimension `i`. -/
def Desc.ext (d : Desc) (i : Nat) : Nat := d.shape.getD i 0

/-- Stride of dimension `i`. -/
def Desc.str (d : Desc) (i : Nat) : Nat := d.stride.getD i 0

/-- Outermost extent. -/
def Desc.rows (d : Desc) : Nat := d.ext (d.rank - 1)

/-- k of a CHOICE tensor (R100). -/
def Desc.k (d : Desc) : Nat := bitsOf d.fparam 4 0

/-- C of a CHOICE tensor (R100). -/
def Desc.c (d : Desc) : Nat := bitsOf d.fparam 7 5

/-- Bytes of a run's scale header. -/
def Desc.header (d : Desc) : Nat := if d.sblk = 0 then 0 else scaleHeader d.sblk (d.ext 0)

/-- Bytes of one run (R106). -/
def Desc.runBytes (d : Desc) : Nat :=
  let n := d.ext 0
  if d.fmt = W2 then ceilDiv n 256 * 68
  else if d.fmt = TERN then ceilDiv n 320 * 68
  else if d.fmt = RXI8 then 64 + n
  else d.header + n * unitSize d.fmt

/-- Alignment of the base (R107): 64 for a scaled tensor. -/
def Desc.align (d : Desc) : Nat := if d.sblk ≠ 0 then 64 else fmtAlign d.fmt

/-- Unit of the strides (R107). -/
def Desc.strideUnit (d : Desc) : Nat :=
  if d.fmt = W2 ∨ d.fmt = TERN then 68 else if d.sblk ≠ 0 then 64 else fmtAlign d.fmt

/-- The dimensions above 0. -/
def Desc.outer (d : Desc) : List Nat := (List.range d.rank).tail

/-- End of the full-shape footprint (R107). -/
def Desc.last (d : Desc) : Nat :=
  d.outer.foldl (fun a i => a + (d.ext i - 1) * d.str i) (d.base + d.runBytes)

/-- Sharding mode of dimension `i` (R109). -/
def Desc.mode (d : Desc) (i : Nat) : Nat := bitsOf d.shmode (2 * i + 1) (2 * i)

/-- Dimensions that are BLOCK or CYCLIC. -/
def Desc.sharded (d : Desc) : List Nat := (List.range d.rank).filter fun i => 2 ≤ d.mode i

/-- FPARAM is not valid for the format (R107). -/
def fparamBad (fmt p : Nat) : Bool :=
  if fmt = CHOICE then
    decide (p ≠ 0) && (decide (bitsOf p 4 0 = 0) || decide (16 < bitsOf p 4 0) || decide (4 < bitsOf p 7 5) ||
      decide (256 ≤ p))
  else if fmt = PACKED then decide (bitsOf p 4 0 < 1) || decide (4 < bitsOf p 4 0) || decide (32 ≤ p)
  else decide (p ≠ 0)

/-! ### Allocations (R102, R103, R231) -/

/-- Base, size in bytes and enable of tensor region `n`. -/
def State.region (s : State) (n : Nat) : Nat × Nat × Bool :=
  let b := 0x0D8000 + 0x10 * n
  (s.fld b 31 12 * 4096 + s.fld (b + 4) 15 0 * 2 ^ 32, s.fld (b + 8) 27 0 * 4096, s.fld (b + 12) 0 0 == 1)

/-- Registers of pool `n` (R239). -/
def poolReg (n k : Nat) : Nat := 0x0A0000 + 0x40 * n + k

/-- Buffer bytes of pool `n`. -/
def State.bufBytes (s : State) (n : Nat) : Nat :=
  match s.fld (poolReg n 0x14) 1 0 with
  | 0 => 4096
  | 1 => 65536
  | _ => 1048576

/-- Base of the buffer area of pool `n`. -/
def State.poolBase (s : State) (n : Nat) : Nat :=
  s.fld (poolReg n 0) 31 12 * 4096 + s.fld (poolReg n 4) 15 0 * 2 ^ 32

/-- Base of the ring area of pool `n`. -/
def State.poolRing (s : State) (n : Nat) : Nat :=
  s.fld (poolReg n 8) 31 12 * 4096 + s.fld (poolReg n 12) 15 0 * 2 ^ 32

/-- Buffers of pool `n`. -/
def State.poolCount (s : State) (n : Nat) : Nat := s.fld (poolReg n 0x10) 23 0

/-- Class of pool `n`: 0 GENERAL, 1 RECEIVE, 2 RETURN. -/
def State.poolClass (s : State) (n : Nat) : Nat := s.fld (poolReg n 0x14) 3 2

/-- Pool `n` is enabled. -/
def State.poolEn (s : State) (n : Nat) : Bool := s.fld (poolReg n 0x14) 31 31 == 1

/-- Bytes of the ring area of pool `n` (R232): the ring and the bitmap, rounded up to 4 KiB. -/
def State.ringBytes (s : State) (n : Nat) : Nat :=
  4096 * ceilDiv (8 * s.poolCount n + ceilDiv (s.poolCount n) 8) 4096

/-- Pool `n`. -/
def State.pool (s : State) (n : Nat) : Pool := Tab.get Pool.reset s.pools n

/-- Pool `n` becomes `p`. -/
def State.setPool (s : State) (n : Nat) (p : Pool) : State := { s with pools := Tab.set Pool.reset s.pools n p }

/-- The allocation that holds a byte address, as its first byte and the byte after its last: an enabled tensor
region, or a pool buffer that a requester holds (R102). -/
def State.allocation (s : State) (a : Nat) : Option (Nat × Nat) :=
  match (List.range 256).findSome? (fun n =>
    let (b, z, en) := s.region n
    if en && decide (b ≤ a) && decide (a < b + z) then some (b, b + z) else none) with
  | some r => some r
  | none => (List.range 8).findSome? fun n =>
    if s.poolEn n && decide (s.poolBase n ≤ a) then
      let z := s.bufBytes n
      let i := (a - s.poolBase n) / z
      if decide (i < s.poolCount n) && Tab.get false (s.pool n).bitmap i then
        some (s.poolBase n + i * z, s.poolBase n + (i + 1) * z)
      else none
    else none

/-! ### Validation at DESC (R107, R111) -/

/-- The sharding fields leave the group, the system or the global range, or the local extent falls short (R111). -/
def Desc.shardBad (d : Desc) (chip : Nat) : Bool :=
  match d.sharded with
  | [i] =>
    let g := d.gsize
    let p := chip - d.gbase
    let blk := ceilDiv d.gext g
    let share := if d.mode i = 2 then Min.min blk (d.gext - p * blk) else ceilDiv (d.gext - p) g
    decide (8192 < d.gbase + g) || decide (chip < d.gbase) || decide (d.gbase + g ≤ chip) ||
      decide (2 ^ 30 < d.goff + d.gext) || decide (d.ext i < share)
  | _ => false

/-- The code of a descriptor's validation, in the order of R107. -/
def State.validate (s : State) (l : Line) : Byte :=
  let d := descOf l
  if !fmtValid d.fmt || decide (d.rank = 0) || decide (d.rank = 7) then codeFormat
  else if decide (5 < d.sblk) || (decide (d.sblk ≠ 0) && !is8bit d.fmt) then codeFormat
  else if fparamBad d.fmt d.fparam then codeFormat
  else if d.xt && (decide (d.fmt ≠ FP32) || decide (d.rank ≠ 2) || d.trk) then codeFormat
  else if decide (1 < d.sharded.length) then codeFormat
  else match s.allocation d.base with
  | none => codeOffside
  | some (_, hi) =>
    if (List.range d.rank).any fun i => decide (d.ext i = 0) then codeBounds
    else if decide (d.rows < d.vext) then codeBounds
    else if decide (hi < d.last) then codeBounds
    else if d.shardBad s.chip then codeBounds
    else if decide (d.base % d.align ≠ 0) then codeAlign
    else if d.outer.any fun i => decide (d.str i % d.strideUnit ≠ 0) then codeAlign
    else codeOk

/-- Stride and extent pairs in ascending order of the stride. -/
def insertStride (x : Nat × Nat) : List (Nat × Nat) → List (Nat × Nat)
  | [] => [x]
  | y :: l => if x.1 ≤ y.1 then x :: y :: l else y :: insertStride x l

/-- Every stride is at least the one before it times its extent. -/
def stridesApart : Nat → List (Nat × Nat) → Bool
  | _, [] => true
  | lo, (st, n) :: l => decide (lo ≤ st) && stridesApart (st * n) l

/-- Two element positions of the layout may share a byte (R108). -/
def Desc.aliases (d : Desc) : Bool :=
  let l := (d.outer.filter fun i => d.ext i ≠ 1).foldr (fun i l => insertStride (d.str i, d.ext i) l) []
  !stridesApart d.runBytes l

/-- The full-shape footprints intersect (R123). -/
def Desc.overlaps (a b : Desc) : Bool := decide (a.base < b.last) && decide (b.base < a.last)

/-! ### Global indices (R109, R110) -/

/-- Global index of local index `i` in dimension `n`. -/
def Desc.global (d : Desc) (chip n i : Nat) : Nat :=
  let p := chip - d.gbase
  match d.mode n with
  | 2 => d.goff + p * ceilDiv d.gext d.gsize + i
  | 3 => d.goff + i * d.gsize + p
  | _ => i

/-- Global token index of row `r` (R110), of 30 bits. -/
def Desc.token (d : Desc) (chip r : Nat) : Nat :=
  let n := d.rank - 1
  (if 2 ≤ d.mode n then d.global chip n r else r + d.goff) % 2 ^ 30

/-! ### Rows and elements (R94, R95, R106) -/

/-- Start addresses of the runs of a row, dimension 1 fastest. -/
def runsFrom (d : Desc) (start : Nat) : List Nat → List Nat
  | [] => [start]
  | i :: l => (List.range (d.ext i)).flatMap fun k => runsFrom d (start + k * d.str i) l

/-- Start addresses of the runs of row `r` of a tensor of rank 2 or more. -/
def Desc.rowRuns (d : Desc) (r : Nat) : List Nat :=
  runsFrom d (d.base + r * d.str (d.rank - 1)) (d.outer.dropLast.reverse)

/-- Elements of a row. -/
def Desc.rowLen (d : Desc) : Nat :=
  if d.rank ≤ 1 then 1 else (List.range (d.rank - 1)).foldl (fun a i => a * d.ext i) 1

/-- The FP32 value that a stored element stands for, before its scale (R91). -/
def elemVal (fmt v : Nat) : Fl :=
  if fmt = INT8 then .ofInt (BitVec.ofNat 8 v).toInt
  else if fmt = FP8E4 then fp8e4 (BitVec.ofNat 8 v)
  else if fmt = FP8E5 then fp8e5 (BitVec.ofNat 8 v)
  else if fmt = BF16 then bf16 (BitVec.ofNat 16 v)
  else if fmt = INT32 then rn (.ofInt (BitVec.ofNat 32 v).toInt)
  else if fmt = FP32 then f32 (BitVec.ofNat 32 v)
  else rn (.ofInt (BitVec.ofNat 64 v).toInt)

/-- The stored element of a value (R93). -/
def elemBits (fmt : Nat) (x : Fl) : Nat :=
  if fmt = INT8 then (BitVec.ofInt 8 (x.toIntSat (-127) 127)).toNat
  else if fmt = FP8E4 then (toFP8E4 x).toNat
  else if fmt = FP8E5 then (toFP8E5 x).toNat
  else if fmt = BF16 then (toBF16 x).toNat
  else if fmt = INT32 then (BitVec.ofInt 32 (x.toIntSat (-(2 ^ 31)) (2 ^ 31 - 1))).toNat
  else if fmt = FP32 then (toF32 x).toNat
  else (BitVec.ofInt 64 (x.toIntSat (-(2 ^ 63)) (2 ^ 63 - 1))).toNat

/-- The BF16 scale of element `j` of a run of `n` elements that starts at `a` (R94); 1.0 without scales. -/
def State.scaleAt (s : State) (sblk n a j : Nat) : Fl :=
  let b := scaleBlock sblk n
  if b = 0 then flOne else bf16 (BitVec.ofNat 16 (s.num (a + 2 * (j / b)) 2))

/-- The `n` elements of a run at `a`, without their scales. -/
def State.runRaw (s : State) (fmt sblk n a : Nat) : List Fl :=
  let h := if sblk = 0 then 0 else scaleHeader sblk n
  (List.range n).map fun j => elemVal fmt (s.num (a + h + j * unitSize fmt) (unitSize fmt))

/-- The `n` elements of a run at `a` in FP32, each times its scale (R95). -/
def State.runVals (s : State) (fmt sblk n a : Nat) : List Fl :=
  if sblk = 0 then s.runRaw fmt sblk n a
  else ((s.runRaw fmt sblk n a).zipIdx).map fun (v, j) => fMul v (s.scaleAt sblk n a j)

/-- Row `r` of a tensor of an element format in FP32. -/
def State.rowVals (s : State) (d : Desc) (r : Nat) : List Fl :=
  if d.rank = 1 then
    [fMul (elemVal d.fmt (s.num (d.base + d.header + r * unitSize d.fmt) (unitSize d.fmt)))
      (s.scaleAt d.sblk (d.ext 0) d.base r)]
  else (d.rowRuns r).flatMap fun a => s.runVals d.fmt d.sblk (d.ext 0) a

/-- The largest magnitude among the finite values of a block. -/
def maxFinite : List Fl → Fl
  | [] => flZero
  | .fin _ m e :: l => let k := maxFinite l; if Fl.lt k (.fin false m e) then .fin false m e else k
  | _ :: l => maxFinite l

/-- The scale of a block (R95): the largest finite magnitude divided by Q, rounded towards +infinity to BF16; 1.0
for a block with no finite non-zero element. -/
def blockScale (fmt : Nat) (l : List Fl) : BitVec 16 :=
  let q : Nat := if fmt = INT8 then 127 else if fmt = FP8E4 then 448 else 57344
  match (maxFinite l) with
  | .fin _ m e =>
    if m = 0 then 0x3F80#16 else
    match (Fl.fin false m e).div (.fin false q 0) with
    | .fin _ k g =>
      let u := fmtBF16.ulp k g
      toBF16 (.fin false (roundGridUp k g u) u)
    | _ => 0x3F80#16
  | _ => 0x3F80#16

/-- Consecutive pieces of `b` values; fuel bounds their number. -/
def piecesOf {α : Type} (b : Nat) : Nat → List α → List (List α)
  | 0, _ => []
  | n + 1, l => match l with
    | [] => []
    | _ => l.take b :: piecesOf b n (l.drop b)

/-- The bytes of a run that holds the values, scales first when the run is scaled (R94, R95). The bytes that round
the header up are not part of it. -/
def runWrites (fmt sblk : Nat) (l : List Fl) (a : Nat) : List (Nat × List Byte) :=
  let z := unitSize fmt
  if sblk = 0 then [(a, l.flatMap fun v => natLe z (elemBits fmt v))]
  else
    let b := scaleBlock sblk l.length
    let ps := piecesOf b l.length l
    let sc := ps.map (blockScale fmt)
    [(a, sc.flatMap fun w => natLe 2 w.toNat),
     (a + scaleHeader sblk l.length,
      ((ps.zip sc).flatMap fun (p, w) => p.flatMap fun v => natLe z (elemBits fmt (fDiv v (bf16 w)))))]

/-- Pieces of bytes written to the stacks. -/
def State.writes (s : State) : List (Nat × List Byte) → State
  | [] => s
  | (a, bs) :: l => (s.setBytes a bs).writes l

/-- Values at positions of a scaled tensor of rank 1: each block that takes one gets the scale of the values written into it
(R94, R95; log entry 79). A later value of a position stands. -/
def sparseRun (d : Desc) (l : List (Nat × Fl)) : List (Nat × List Byte) :=
  let b := scaleBlock d.sblk (d.ext 0)
  let at_ (j : Nat) : Option Fl := (l.reverse.find? fun p => decide (p.1 = j)).map (·.2)
  (List.range (ceilDiv (d.ext 0) b)).flatMap fun k =>
    match (List.range (Min.min b (d.ext 0 - k * b))).filterMap fun i => (at_ (k * b + i)).map fun v => (k * b + i, v) with
    | [] => []
    | es =>
      let w := blockScale d.fmt (es.map (·.2))
      (d.base + 2 * k, natLe 2 w.toNat) ::
        es.map fun e => (d.base + d.header + e.1, natLe 1 (elemBits d.fmt (fDiv e.2 (bf16 w))))

/-- A scaled tensor of rank 1: its rows are the elements of one run, whose blocks share a scale. -/
def Desc.scaledLine (d : Desc) : Bool := decide (d.rank = 1) && decide (d.sblk ≠ 0)

/-- Row `r` of a tensor of an element format is written with values, but of a scaled tensor of rank 1. -/
def State.putRow (s : State) (d : Desc) (r : Nat) (l : List Fl) : State :=
  if d.rank = 1 then
    s.setNum (d.base + d.header + r * unitSize d.fmt) (unitSize d.fmt) (elemBits d.fmt (l.getD 0 flZero))
  else
    let n := d.ext 0
    s.writes (((d.rowRuns r).zip (piecesOf n (d.rowRuns r).length l)).flatMap fun (a, p) =>
      runWrites d.fmt d.sblk p a)

/-- Rows 0 to `n` − 1 of a tensor of an element format are written in turn with the values that `f` gives for each row; those of a
scaled tensor of rank 1 together, once every row is known (R95). -/
def State.putRows (s : State) (d : Desc) (n : Nat) (f : State → Nat → List Fl × State) : State :=
  if d.scaledLine then
    let r := (List.range n).foldl (fun (p : List (Nat × Fl) × State) r =>
      let (y, t) := f p.2 r
      (p.1 ++ [(r, y.getD 0 flZero)], t)) ([], s)
    r.2.writes (sparseRun d r.1)
  else (List.range n).foldl (fun t r => let (y, t) := f t r; t.putRow d r y) s

/-- Address of record or unit `j` in row `r` of a tensor of rank 2 without scales. -/
def Desc.unitAddr (d : Desc) (r j : Nat) : Nat :=
  d.base + r * (if d.rank = 1 then unitSize d.fmt else d.str (d.rank - 1)) + j * unitSize d.fmt

/-! ### Choice records (R100) -/

/-- A choice record. -/
structure ChoiceRec where
  value : Word
  expert : Nat
  replica : Nat
  outcome : Nat
  index : Nat
  deriving DecidableEq, Repr

/-- The record that 64 bits hold. -/
def choiceOf (v : Nat) : ChoiceRec :=
  ⟨BitVec.ofNat 32 v, bitsOf v 43 32, bitsOf v 47 44, bitsOf v 49 48, bitsOf v 53 50⟩

/-- The 64 bits of a record. -/
def ChoiceRec.bits (c : ChoiceRec) : Nat :=
  c.value.toNat + c.expert % 4096 * 2 ^ 32 + c.replica % 16 * 2 ^ 44 + c.outcome % 4 * 2 ^ 48 + c.index % 16 * 2 ^ 50

/-- Record `j` of row `r` of a choice tensor. -/
def State.choice (s : State) (d : Desc) (r j : Nat) : ChoiceRec := choiceOf (s.num (d.unitAddr r j) 8)

/-- Record `j` of row `r` of a choice tensor is written. -/
def State.setChoice (s : State) (d : Desc) (r j : Nat) (c : ChoiceRec) : State :=
  s.setNum (d.unitAddr r j) 8 c.bits

/-! ### Weight blocks (R96 to R98) -/

/-- One byte into the CRC-16 of R97. -/
def crc16Byte (c : Nat) (b : Byte) : Nat :=
  (List.range 8).foldl (fun c _ => if c % 65536 / 32768 = 1 then (2 * c % 65536) ^^^ 0x1021 else 2 * c % 65536)
    (c ^^^ (b.toNat * 256))

/-- The block check of a 68-byte block: bytes 0, 1 and 4 to 67 (R97). -/
def blockCheck (bs : List Byte) : Nat := (bs.take 2 ++ bs.drop 4).foldl crc16Byte 0xFFFF

/-- The block is good: its check agrees and, for TERN, no byte exceeds 242 (R96, R97). -/
def blockGood (fmt : Nat) (bs : List Byte) : Bool :=
  decide (blockCheck bs = leNat ((bs.drop 2).take 2)) &&
  (decide (fmt ≠ TERN) || (bs.drop 4).all fun b => decide (b.toNat ≤ 242))

/-- Code of weight `j` of a block: −2 to +1 in W2, −1 to +1 in TERN (R96). -/
def weightCode (fmt : Nat) (bs : List Byte) (j : Nat) : Int :=
  if fmt = W2 then
    match bitsOf (bs.getD (4 + j / 4) 0).toNat (2 * (j % 4) + 1) (2 * (j % 4)) with
    | 0 => 0
    | 1 => 1
    | 2 => -2
    | _ => -1
  else
    match (bs.getD (4 + j / 5) 0).toNat / 3 ^ (j % 5) % 3 with
    | 0 => 0
    | 1 => 1
    | _ => -1

/-- Weights of a block. -/
def blockLen (fmt : Nat) : Nat := if fmt = W2 then 256 else 320

end Sys2Proof.Machine
end

