-- ==== Sys2Proof/WellFormed.lean ====
section
/-! DEFINITION. Which commands are well formed: an instruction of a layer program carries only flags its opcode
defines and the sub-operation of its row (R37, R38, R70); an event carries data of the shape its port has. -/

namespace Sys2Proof

/-- The fields spell an instruction of the row itself: its word decodes to it. -/
def Instr.wordOk (i : Instr) : Bool :=
  match opcodeOf i with
  | some (op, c, f) => decide (f.flags &&& ~~~flagMask op = 0#6) && decide (rowOf op c f = some i)
  | none => true

/-- Bytes of an element of an adder format. -/
def addSize : AddFmt → Nat
  | .fp32 => 4
  | .bf16 => 2
  | .int32 => 4
  | .int64 => 8

/-- A memory request stays in its line, a WRITE or an ADD carries its data with one enable for each byte, and the enables of an ADD
cover whole elements (R296, R297, R301). -/
def MemReq.ok (r : MemReq) : Bool :=
  decide (r.sector.val + r.nm1.val < 4) &&
  (match r.op with
   | .read => r.data.isEmpty && r.enable.isEmpty
   | _ => decide (r.data.length = 64 * (r.nm1.val + 1)) && decide (r.enable.length = r.data.length)) &&
  (decide (r.op ≠ .add) || (List.range r.enable.length).all fun j =>
    decide (r.enable.getD j false = r.enable.getD (j / addSize r.fmt * addSize r.fmt) false))

/-- An event carries data of the shape the manual gives its port. -/
def Instr.eventOk : Instr → Bool
  | .memRequestIssue r => r.ok
  | .ingestPacket p ports => decide (p.val + ports.length ≤ 32) && ports.all fun x => decide (x.2.length ≤ 8)
  | .kickoffK4 i => decide (i.lines.length = 20) && decide (i.marginT.length = 20) && decide (i.marginV.length = 20)
  | .kickoffK5 i => i.lanes.all fun p => decide (p.1 < 68)
  | .obsUpdatePeriod l => l.all fun p => decide (p.length = 64)
  | .controlBlockReceive _ bs => decide (bs.length = 160)
  | .frameReceive _ bs => decide (64 ≤ bs.length) && decide (bs.length ≤ 2048) && decide (bs.length % 64 = 0)
  | .lowWordRead off => decide (off.toNat % 4 = 0)
  | _ => true

/-- Every check of a command. -/
def Instr.wf (i : Instr) : Bool := i.wordOk && i.eventOk

end Sys2Proof
end

