-- ==== Sys2Proof/Machine/Traffic.lean ====
section
/-! DEFINITION. Requests of the units to the memory port: their channels and ports (R294, R295), acceptance in order with the hold
queues (R298, R302, R306), the two request queues of each pseudo-channel and their issue under credit (R299, R300), the adds of
the controllers (R301), and the requests of the packet queues (R212). -/

namespace Sys2Proof.Machine

/-! ### Stacks and channels -/

/-- Stack `k`. -/
def State.stack (s : State) (k : Nat) : Stack := Tab.get Stack.reset s.mp.stk k

/-- Stack `k` becomes `x`. -/
def State.setStack (s : State) (k : Nat) (x : Stack) : State :=
  { s with mp := { s.mp with stk := Tab.set Stack.reset s.mp.stk k x } }

/-- The spare of its stack serves channel `c`. -/
def State.onSpare (s : State) (c : Nat) : Bool :=
  let k := s.stack (c / 32)
  decide (2 ≤ k.st) && !k.noSpare && decide (k.spare = c % 32) && !s.mp.dead.contains c

/-- The physical pseudo-channel that serves channel `c` (R295). -/
def State.physPc (s : State) (c : Nat) : Nat := if s.onSpare c then 32 else c % 32

/-- The memory port that serves channel `c` (R295). -/
def portOfChan (c : Nat) : Nat := 2 * (c / 32) + c % 32 / 16

/-- A margin scan has taken channel `c` out of service (R313). -/
def State.inMaint (s : State) (c : Nat) : Bool :=
  s.mp.maint.any fun m => decide (m.stack = c / 32) && decide (m.pc = s.physPc c) &&
    (decide (m.op = 0x01#8) || decide (m.op = 0x02#8))

/-- The Referee works on the row unit of line `l` of channel `c`, whose contents it keeps (R308). -/
def State.unitBusy (s : State) (c l : Nat) : Bool :=
  s.mp.maint.any fun m => !m.host && m.keep && decide (m.stack = c / 32) && decide (m.pc = s.physPc c) &&
    decide (m.arg.toNat % 2 ^ 20 = l / 640 / 8)

/-- No request goes to channel `c` now: it retrains, its spare is not ready, or it is out of service for a scan. -/
def State.blocked (s : State) (c : Nat) : Bool :=
  s.mp.retraining.contains c || (s.onSpare c && !(s.stack (c / 32)).spareReady) || s.inMaint c

/-- New requests to channel `c` enter its hold queue: it is blocked, or held requests have still to go out (R302). -/
def State.holds (s : State) (c : Nat) : Bool :=
  s.blocked c || s.mp.holdq.any fun e => decide (e.1 = c) && !s.unitBusy c e.2.line.toNat

/-- Bytes of a sector count. -/
def reqBytes (r : MemReq) : Nat := 64 * (r.nm1.val + 1)

/-- Bytes that a request takes in a hold queue (R302). -/
def reqHold (r : MemReq) : Nat := match r.op with | .read => 16 | _ => 16 + reqBytes r

/-- The share of a hold queue that a request's class may fill (R302). -/
def holdShare (r : MemReq) : Nat := if r.recv then 65536 else 49152

/-- Bytes held for channel `c`. -/
def State.heldBytes (s : State) (c : Nat) : Nat :=
  (s.mp.holdq.filter fun e => decide (e.1 = c)).foldl (fun a e => a + reqHold e.2) 0

/-! ### What a request does (R297, R301, R305) -/

/-- The element of an adder format: bytes, and the sum of two stored elements (R125, R301). -/
def addElem (f : AddFmt) (a b : Nat) : Nat :=
  match f with
  | .fp32 => elemBits FP32 (fAdd (elemVal FP32 a) (elemVal FP32 b))
  | .bf16 => elemBits BF16 ((elemVal BF16 a).add (elemVal BF16 b))
  | .int32 => (a + b) % 2 ^ 32
  | .int64 => (a + b) % 2 ^ 64

/-- Address of the first byte of a request. -/
def reqAddr (r : MemReq) : Nat := 256 * r.line.toNat + 64 * r.sector.val

/-- Bytes written under their enables (R297). -/
def State.writeEnabled (s : State) (a : Nat) : List Byte → List Bool → State
  | b :: bs, e :: es => (if e then s.setByte a b else s).writeEnabled (a + 1) bs es
  | _, _ => s

/-- The memory-side add of a request: each element whose bytes are enabled (R301). -/
def State.addEnabled (s : State) (r : MemReq) : State :=
  let z := addSize r.fmt
  (List.range (reqBytes r / z)).foldl (fun t j =>
    if r.enable.getD (j * z) false then
      t.setNum (reqAddr r + j * z) z (addElem r.fmt (t.num (reqAddr r + j * z) z) (leNat ((r.data.drop (j * z)).take z)))
    else t) s

/-- The request writes its line in full (R305). -/
def fullWrite (r : MemReq) : Bool :=
  decide (r.op = .write) && decide (r.sector.val = 0) && decide (r.nm1.val = 3) && r.enable.all id

/-- What a request does to the stacks when it is carried out. A write of a whole line cures a poisoned one (R305). -/
def State.carryOut (s : State) (r : MemReq) : State :=
  match r.op with
  | .read => s
  | .write =>
    let t := s.writeEnabled (reqAddr r) r.data r.enable
    if fullWrite r then t.cure r.line.toNat else t
  | .add => if s.lineLost r.line.toNat then s else s.addEnabled r

/-! ### Issue (R296, R299, R300) -/

/-- The lowest tag that no request of port `m` in flight and no maintenance command carries (R297). -/
def State.freeTag (s : State) (m : Nat) : Option Nat :=
  (List.range 256).find? fun t => !(s.mp.flights.any (fun f => decide (f.port = m) && decide (f.tag.toNat = t)) ||
    s.mp.maint.any fun x => decide (x.tag = some (m, t)))

/-- The code of an operation and of an adder format in a request. -/
def opBits : MemOp → Nat
  | .read => 0
  | .write => 1
  | .add => 2
def fmtBits : AddFmt → Nat
  | .fp32 => 0
  | .bf16 => 1
  | .int32 => 2
  | .int64 => 3

/-- The 96 bits of a request on `MEM_REQ` (R296). -/
def State.reqBits (s : State) (c tag : Nat) (r : MemReq) : BitVec 96 :=
  BitVec.ofNat 96 (1 + s.physPc c * 4 + r.line.toNat / 640 % 2 ^ 23 * 2 ^ 8 + opBits r.op * 2 ^ 31 +
    (if r.op = .add then fmtBits r.fmt else 0) * 2 ^ 34 + r.sector.val * 2 ^ 36 + r.nm1.val * 2 ^ 38 + tag * 2 ^ 40 +
    b2n r.recv * 2 ^ 48)

/-- A request goes out on its port (R296). A line that was lost after the request was accepted holds what a write of it in full gave
it. -/
def State.sendReq (s : State) (c : Nat) (r : MemReq) (tag : Nat) : State :=
  let m := portOfChan c
  let t := if fullWrite r then s.cure r.line.toNat else s
  let t := if r.op = .write then t else t.measure 4 1
  let t := if r.op = .read then t else t.measure 5 1
  { t with mp := { t.mp with flights := t.mp.flights ++ [⟨m, BitVec.ofNat 8 tag, c, r⟩] }
           pins := { t.pins with memReq := Tab.set 0 t.pins.memReq m (s.reqBits c tag r) } }

/-- Credit that a request needs and spends (R299). -/
def State.hasCredit (s : State) (m : Nat) (r : MemReq) : Bool :=
  (decide (r.op = .write) || decide (reqBytes r ≤ Tab.get 0 s.mp.rdCredit m)) &&
  (decide (r.op = .read) || decide (reqBytes r ≤ Tab.get 0 s.mp.wrCredit m))
def State.spend (s : State) (m : Nat) (r : MemReq) : State :=
  { s with mp := { s.mp with
      rdCredit := if r.op = .write then s.mp.rdCredit else Tab.upd 0 s.mp.rdCredit m (fun v => v - reqBytes r)
      wrCredit := if r.op = .read then s.mp.wrCredit else Tab.upd 0 s.mp.wrCredit m (fun v => v - reqBytes r) } }

/-- A request that stands at the front of its queue: held or not, its channel, and the request. -/
abbrev Front := Bool × Nat × MemReq

/-- Fronts among the requests of port `m`, oldest first: of its accepted requests the first of each pseudo-channel and class, of its
held ones the first of each channel once nothing older of the channel is left. -/
def State.fronts (s : State) (m : Nat) : List Front :=
  let mine (l : List (Nat × MemReq)) := l.filter fun e => decide (portOfChan e.1 = m) && !s.blocked e.1
  let rq := (mine s.mp.rq).foldl (fun (acc : List (Nat × MemReq)) e =>
    if acc.any fun x => decide (x.1 = e.1) && decide (x.2.recv = e.2.recv) then acc else acc ++ [e]) []
  let hq := ((mine s.mp.holdq).filter fun e => !s.unitBusy e.1 e.2.line.toNat).foldl (fun (acc : List (Nat × MemReq)) e =>
    if acc.any (fun x => decide (x.1 = e.1)) || rq.any fun x => decide (x.1 = e.1) then acc else acc ++ [e]) []
  hq.map (fun e => (true, e)) ++ rq.map fun e => (false, e)

/-- The request that port `m` issues next (R300): the oldest receive-path request that has credit, or a dispatch request when no
receive-path request is ready. -/
def State.nextReq (s : State) (m : Nat) : Option Front :=
  let ready := (s.fronts m).filter fun f => s.hasCredit m f.2.2
  (ready.find? fun f => f.2.2.recv).or ready.head?

/-- Port `m` issues requests while it has credit and tags; fuel bounds them. -/
def State.issueReqs (s : State) (m : Nat) : Nat → State
  | 0 => s
  | n + 1 =>
    match s.nextReq m, s.freeTag m with
    | some (held, c, r), some tag =>
      let t : State := if held then { s with mp := { s.mp with holdq := s.mp.holdq.erase (c, r) } }
        else { s with mp := { s.mp with rq := s.mp.rq.erase (c, r) } }
      State.issueReqs ((t.spend m r).sendReq c r tag) m n
    | _, _ => s

/-- Port `m` issues what it can. -/
def State.issuePort (s : State) (m : Nat) : State :=
  if s.mp.rq = [] ∧ s.mp.holdq = [] then s else s.issueReqs m (s.mp.rq.length + s.mp.holdq.length)

/-! ### Acceptance (R298, R302, R306) -/

/-- The memory port accepts a request, which is carried out in the order of acceptance (R298): one to a dead channel is answered as
poisoned; one to a channel that holds enters its hold queue within its class's share; any other enters the port's queue of its
pseudo-channel and class. None while the hold queue has no room. -/
def State.memAccept (s : State) (r : MemReq) : Option State :=
  let l := r.line.toNat
  let c := lineChan l
  if s.mp.dead.contains c then some (if r.op = .write then s else s.lostRead l r.half)
  else if s.holds c || s.unitBusy c l then
    if s.heldBytes c + reqHold r ≤ holdShare r then
      let t := s.carryOut r
      some { t with mp := { t.mp with holdq := t.mp.holdq ++ [(c, r)] } }
    else none
  else
    let t := s.carryOut r
    some (({ t with mp := { t.mp with rq := t.mp.rq ++ [(c, r)] } } : State).issuePort (portOfChan c))

/-- A request of a unit: behind those of the unit that wait, or accepted; one that cannot be accepted waits (R298). -/
def State.memRequest (s : State) (r : MemReq) : State :=
  let wait : State := { s with mp := { s.mp with wait := s.mp.wait ++ [r] } }
  if s.mp.wait.any fun x => decide (x.unit = r.unit) then wait
  else match s.memAccept r with
    | some t => t
    | none => wait

/-- Requests that wait in their units are given to the port again, in order. -/
def State.retryWait (s : State) : State :=
  if s.mp.wait = [] then s else s.mp.wait.foldl State.memRequest { s with mp := { s.mp with wait := [] } }

/-- Every port issues what it can, and requests that wait in their units are given to it again. -/
def State.memRun (s : State) : State :=
  if s.mp.rq = [] ∧ s.mp.holdq = [] ∧ s.mp.wait = [] then s else ((List.range 40).foldl State.issuePort s).retryWait

/-! ### Requests of the packet queues (R212) -/

/-- The spill traffic of queue `q` is receive-path traffic: it is of the return class, or has its PATH bit set. -/
def State.spillRecv (s : State) (q : Nat) : Bool :=
  let x := Tab.get Queue.reset s.queues q
  decide (x.cls = .ret) || x.path

/-- The queue storage reads or writes the four lines of the block at an address for queue `q` (R210, R212). -/
def State.spillReqs (s : State) (q a : Nat) (op : MemOp) : State :=
  if s.mp.nlines * 640 < a / 256 + 4 then s else
  (List.range 4).foldl (fun t i =>
    t.memRequest ⟨BitVec.ofNat 40 (a / 256 + i), op, .fp32, 0, 3, s.spillRecv q, none, 15, [], []⟩) s

end Sys2Proof.Machine
end

