-- ==== Sys2Proof/Machine/Queue.lean ====
section
/-! DEFINITION. Buffer pools and packet queues: taking and returning a buffer (R231 to R236), a word's way through a
queue with its middle in the stacks (R207 to R213), flow control (R219, R220), flush and DROPREST (R221 to R223),
and progress words (R117, R118). -/

namespace Sys2Proof.Machine

/-! ### Buffer pools -/

/-- The first buffer from `i` on that is not quarantined, below `n`; fuel bounds the search. -/
def firstSound (quar : Tab Bool) (n : Nat) : Nat → Nat → Option Nat
  | 0, _ => none
  | k + 1, i => if n ≤ i then none else if Tab.get false quar i then firstSound quar n k (i + 1) else some i

/-- Free buffers of a pool of `n` buffers that an allocation can reach: those of the ring never handed out, and
those returned; quarantined ones are skipped (R234, R236). -/
def Pool.freeCount (p : Pool) (n : Nat) : Nat :=
  (n - p.fresh - (p.quar.filter fun c => decide (p.fresh ≤ c.1) && decide (c.1 < n)).length)
    + (p.freed.filter fun i => !Tab.get false p.quar i).length

/-- The buffer that the next allocation takes, and the pool's free store after it (R234, R236). -/
def Pool.next (p : Pool) (n : Nat) : Option (Nat × Pool) :=
  match firstSound p.quar n (p.quar.length + 1) p.fresh with
  | some i => some (i, { p with fresh := i + 1 })
  | none =>
    match p.freed.dropWhile fun i => Tab.get false p.quar i with
    | [] => none
    | i :: l => some (i, { p with fresh := n, freed := l })

/-- Address of buffer `i` of pool `n`. -/
def State.bufAddr (s : State) (n i : Nat) : Nat := s.poolBase n + i * s.bufBytes n

/-- The allocation bitmap of a pool stands behind its ring: the bit of buffer `i` follows the bitmap in the ring area (R232). -/
def State.bitmapByte (s : State) (n i : Nat) : State :=
  let m := (s.pool n).bitmap
  s.setByte (s.poolRing n + 8 * s.poolCount n + i / 8)
    (BitVec.ofNat 8 ((List.range 8).foldl (fun v j => v + b2n (Tab.get false m (i / 8 * 8 + j)) * 2 ^ j) 0))

/-- Requester `r` takes a buffer of pool `n` for a half, if one is free: its number, with the state after. -/
def State.poolTake (s : State) (n r : Nat) (h : Option Half) : Option (Nat × State) :=
  let p := s.pool n
  match p.next (s.poolCount n) with
  | none => none
  | some (i, q) =>
    some (i, (s.setPool n { q with bitmap := Tab.set false q.bitmap i true, halves := Tab.set none q.halves i h
                                   held := Tab.upd 0 q.held r (· + 1), cached := q.cached - 1 }).bitmapByte n i)

/-- Requester `r` takes `k` buffers of pool `n` for a half: their numbers, oldest first, with the state after. -/
def State.poolTakes (s : State) (n r : Nat) (h : Option Half) : Nat → Option (List Nat × State)
  | 0 => some ([], s)
  | k + 1 =>
    match s.poolTake n r h with
    | none => none
    | some (i, t) =>
      match State.poolTakes t n r h k with
      | none => none
      | some (l, t') => some (i :: l, t')

/-- Quota of requester `r` in pool `n` (R233, R239). -/
def State.quota (s : State) (n r : Nat) : Nat := s.fld (0x0A1000 + 4 * (8 * r + n)) 23 0

/-- Sum of the quotas of pool `n` that bind: requesters 0, 1 and 16 to 255 (R233). -/
def State.quotaSum (s : State) (n : Nat) : Nat :=
  (List.range 256).foldl (fun a r => if r = 0 ∨ r = 1 ∨ 16 ≤ r then a + s.quota n r else a) 0

/-- Quarantined buffers of pool `n`. -/
def State.quarCount (s : State) (n : Nat) : Nat := ((s.pool n).quar.filter fun c => c.2).length

/-- Requester `r` may take `k` more buffers of GENERAL pool `n` under its quota (R233, R234). -/
def State.underQuota (s : State) (n r k : Nat) : Bool := decide (Tab.get 0 (s.pool n).held r + k ≤ s.quota n r)

/-- The check of a returned pointer (R235). -/
def State.freeCode (s : State) (n a : Nat) : Byte :=
  let z := s.bufBytes n
  let b := s.poolBase n
  if a < b ∨ b + s.poolCount n * z ≤ a then codeBounds
  else if (a - b) % z ≠ 0 then codeAlign
  else if Tab.get false (s.pool n).bitmap ((a - b) / z) then codeOk else codeOffside

/-- The half that HUDDLE or VOLLEY reserves buffers for: that of the command that waits for them. -/
def State.reserver (s : State) (r : Nat) : Option Half :=
  (s.ucmds.find? fun u => u.started && u.result.isNone && decide (u.stage = 0) &&
    (match u.op with | .huddle _ _ => decide (r = 0) | .volley _ _ => decide (r = 1) | _ => false)).bind (·.half)

/-- Requests that wait are served in arrival order while buffers are free (R234): a single buffer goes to its requester, a
reservation to Huddle or Volley once all its buffers are there. Fuel bounds them. -/
def State.serveWaiting (s : State) (n : Nat) : Nat → State
  | 0 => s
  | f + 1 =>
    let p := s.pool n
    match p.waiting with
    | [] => s
    | (r, k) :: l =>
      if !p.ready then s else
      match (s.setPool n { p with waiting := l }).poolTakes n r (if k = 0 then none else s.reserver r) (Max.max 1 k) with
      | none => s
      | some (bs, t) =>
        let t : State := if k = 0 then t
          else if r = 0 then { t with hud := { t.hud with resv := bs } } else { t with vol := { t.vol with resv := bs } }
        State.serveWaiting t n f

/-- Buffer `i` of pool `n` returns from requester `r`: a quarantined one is withheld (R236), and a request that waits is served
(R234). -/
def State.poolGive (s : State) (n r i : Nat) : State :=
  let p := s.pool n
  let t := (s.setPool n { p with bitmap := Tab.set false p.bitmap i false
                                 held := Tab.upd 0 p.held r (· - 1)
                                 freed := if Tab.get false p.quar i then p.freed else p.freed ++ [i]
                                 cached := if Tab.get false p.quar i then p.cached else p.cached + 1 }).bitmapByte n i
  t.serveWaiting n p.waiting.length

/-- A unit returns a pointer: checked, and a refused one is counted and reported as a fault of the half that held the buffer
(R235). -/
def State.unitFree (s : State) (n r a : Nat) : State :=
  let i := (a - s.poolBase n) / s.bufBytes n
  if s.freeCode n a = codeOk then s.poolGive n r i
  else (s.bump (poolReg n 0x20) 1).report
    ⟨0x0B, if s.freeCode n a = codeBounds then none else Tab.get none (s.pool n).halves i, 0, 0xFFFF, 0, false⟩

/-- The enabled pool of a class, if there is one: 1 RECEIVE, 2 RETURN. -/
def State.poolOf (s : State) (cls : Nat) : Option Nat :=
  (List.range 8).find? fun n => s.poolEn n && decide (s.poolClass n = cls)

/-! ### Queue storage (R209 to R211) -/

/-- Queue `q`. -/
def State.queue (s : State) (q : Nat) : Queue := Tab.get Queue.reset s.queues q

/-- Queue `q` becomes `x`. -/
def State.setQueue (s : State) (q : Nat) (x : Queue) : State := { s with queues := Tab.set Queue.reset s.queues q x }

/-- Sideband byte of a word: end mark in [0], kind in [3:1] (R207). -/
def sideOf (w : QWord) : Nat := b2n w.last + 2 * w.kind.toNat

/-- Word `j` of the block at an address (R210). -/
def State.blockWord (s : State) (a j : Nat) : QWord :=
  let sb := (s.byte (a + 960 + j)).toNat
  ⟨BitVec.ofNat 512 (s.num (a + 64 * j) 64), BitVec.ofNat 3 (bitsOf sb 3 1), bitOf sb 0⟩

/-- The `n` words of a block. -/
def State.blockWords (s : State) (a n : Nat) : List QWord := (List.range n).map (s.blockWord a)

/-- A block of up to 15 words is written whole: words in its first 960 bytes, the sidebands behind them (R210). -/
def State.putBlock (s : State) (a : Nat) (ws : List QWord) : State :=
  let s1 := ws.zipIdx.foldl (fun t (w, j) => t.setNum (a + 64 * j) 64 w.data.toNat) s
  (s1.setBytes (a + 960) ((List.range 64).map fun j =>
    match ws[j]? with | some w => BitVec.ofNat 8 (sideOf w) | none => 0#8)).cureRange a 1024

/-- Words that a queue holds (R237: occupancy). -/
def Queue.occ (x : Queue) : Nat := x.head.length + (x.mid.foldl (fun a b => a + b.2) 0) + x.tail.length

/-- Capacity of a queue in words (R210). -/
def Queue.cap (x : Queue) : Nat := 32 + 15 * x.spBlocks

/-- Blocks of the spill area in use. -/
def Queue.spilled (x : Queue) : Nat :=
  (x.mid.filter fun b => decide (x.spBase ≤ b.1) && decide (b.1 < x.spBase + 1024 * x.spBlocks)).length

/-- Words that can still enter. -/
def Queue.room (x : Queue) : Nat :=
  (16 - x.tail.length) + 15 * (x.spBlocks - x.spilled) + (if x.mid = [] then 16 - x.head.length else 0)

/-- All words of a queue, oldest first. -/
def State.queueWords (s : State) (q : Nat) : List QWord :=
  let x := s.queue q
  x.head ++ (x.mid.flatMap fun b => s.blockWords b.1 b.2) ++ x.tail

/-- The pool buffer that a bucket block lies in; none for an address that is no block of a bucket. -/
def State.bucketOf (s : State) (a : Nat) : Option Nat :=
  let n := s.fld 0x090208 2 0
  let b := s.poolBase n + (a - s.poolBase n) / s.bufBytes n * s.bufBytes n
  if s.poolBase n ≤ a ∧ Tab.get 0 s.hud.blocks b ≠ 0 then some b else none

/-- The last word of a bucket block has been read (R224): when no block of its buffer is left the buffer returns to the
pool. -/
def State.blockRead (s : State) (a : Nat) : State :=
  match s.bucketOf a with
  | none => s
  | some b =>
    let t : State := { s with hud := { s.hud with blocks := Tab.upd 0 s.hud.blocks b (· - 1) } }
    if Tab.get 0 s.hud.blocks b = 1 then t.unitFree (s.fld 0x090208 2 0) 0 b else t

/-- The head reads the oldest block of the middle when it has 15 free places (R211). -/
def State.spillFill (s : State) (q : Nat) : State :=
  let x := s.queue q
  match x.mid with
  | [] => s
  | (a, n) :: l =>
    if 1 < x.head.length then s else
    (s.spillReqs q a .read).setQueue q
      { x with head := x.head ++ s.blockWords a n, mid := l
               blks := if (s.bucketOf a).isSome then x.blks ++ [(a, x.head.length + n)] else x.blks }

/-- A word has left the head: the bucket blocks whose last word it was have been read. -/
def State.wordLeft (s : State) (q : Nat) : State :=
  let x := s.queue q
  if x.blks = [] then s else
  let t := s.setQueue q { x with blks := (x.blks.filter fun b => decide (1 < b.2)).map fun b => (b.1, b.2 - 1) }
  (x.blks.filter fun b => decide (b.2 ≤ 1)).foldl (fun t b => t.blockRead b.1) t

/-- Words pass from the tail to the head while the middle is empty and the head has a free place; otherwise the
tail writes a block to the middle when it holds 15 words and the spill area has room (R211). -/
def State.settleQueue (s : State) (q : Nat) : State :=
  let x := s.queue q
  if x.mid = [] ∧ x.head.length < 16 then
    let k := 16 - x.head.length
    s.setQueue q { x with head := x.head ++ x.tail.take k, tail := x.tail.drop k }
  else if 15 ≤ x.tail.length ∧ x.spilled < x.spBlocks then
    let a := x.spBase + 1024 * (x.wr % x.spBlocks)
    ((s.putBlock a (x.tail.take 15)).spillReqs q a .write).setQueue q
      { x with tail := x.tail.drop 15, mid := x.mid ++ [(a, 15)], wr := x.wr + 1 }
  else s

/-- A word enters a queue that has room for it (R209). -/
def State.enter (s : State) (q : Nat) (w : QWord) : State :=
  let x := s.queue q
  (s.setQueue q { x with tail := x.tail ++ [w], atEnd := w.last, kind := w.kind
                         pkt := if w.last then x.pkt + 1 else x.pkt }).settleQueue q

/-- Trailing words of a list behind its last end-marked word. -/
def openWords (ws : List QWord) : Nat := (ws.reverse.takeWhile fun w => !w.last).length

/-- Words of a queue from the end of its last run of marked words on. -/
def Queue.behindCuts (x : Queue) : Nat := x.occ - x.cuts.foldl (fun a c => a + c.1 + c.2) 0

/-- The packet that is arriving at a queue is given up at word `w`: its words in the queue are marked for the consumer, the rest of
it is discarded as it arrives, and a consumer that has read part of it discards that (R213). -/
def State.cutPacket (s : State) (q : Nat) (w : QWord) : State :=
  let x := s.queue q
  let b := x.behindCuts
  let n := if x.atEnd then 0 else Min.min (openWords (s.queueWords q)) b
  let whole := decide (x.occ = n)
  s.setQueue q { x with cut := !w.last, atEnd := w.last, cuts := if n = 0 then x.cuts else x.cuts ++ [(b - n, n)]
                        marked := x.marked || (whole && x.inPacket), inPacket := x.inPacket && !whole }

/-- A word arrives at a queue from a port (R213, R220, R222): discarded in resync, and while the rest of a cut packet
arrives; at a full queue the packet is cut. The flag says that a packet was cut by this word. -/
def State.arrive (s : State) (q : Nat) (w : QWord) : Bool × State :=
  let x := s.queue q
  if x.resync then (false, (s.setQueue q { x with resync := !w.last, atEnd := w.last }).bump 0x090304 1)
  else if x.cut then (false, s.setQueue q { x with cut := !w.last, atEnd := w.last })
  else if x.room = 0 then (true, s.cutPacket q w)
  else (false, s.enter q w)

/-- The consumer learns whether the packet it has read part of was cut; the mark is taken (R213). -/
def State.takeMark (s : State) (q : Nat) : Bool × State :=
  let x := s.queue q
  if x.marked then (true, s.setQueue q { x with marked := false }) else (false, s)

/-- A unit pushes words into a queue that has room for them. -/
def State.pushWords (s : State) (q : Nat) : List QWord → State
  | [] => s
  | w :: ws => (s.enter q w).pushWords q ws

/-- A unit pushes words while the queue has room (R213), or while the queue in resync discards them (R222): the words left. -/
def flowIn (q : Nat) : List QWord → State → List QWord × State
  | [], s => ([], s)
  | w :: ws, s =>
    let x := s.queue q
    if x.resync then flowIn q ws ((s.setQueue q { x with resync := !w.last, atEnd := w.last }).bump 0x090304 1)
    else if x.room = 0 then (w :: ws, s)
    else flowIn q ws (s.enter q w)

/-- A packet's words enter a queue as far as it has room; the unit stalls with the rest (R213). -/
def State.push (s : State) (q : Nat) (ws : List QWord) : State :=
  let (l, t) := flowIn q ws s
  { t with flow := Tab.set [] t.flow q l }

/-- A unit stalls in the middle of a packet at queue `q`. -/
def State.flowing (s : State) (q : Nat) : Bool := decide (Tab.get [] s.flow q ≠ [])

/-- A row of a copy has been delivered: with the last of them the RECEIVE buffer returns (R197). -/
def State.rowDelivered (s : State) (a : Nat) : State :=
  match Tab.get 0 s.vol.rowBuf a with
  | 0 => s
  | b + 1 =>
    let n := Tab.get 0 s.vol.bufRefs b - 1
    let t : State := { s with vol := { s.vol with rowBuf := Tab.set 0 s.vol.rowBuf a 0, bufRefs := Tab.set 0 s.vol.bufRefs b n } }
    if n = 0 then (match t.poolOf 1 with | some p => t.unitFree p 2 b | none => t) else t

/-- The last word of the packet that was entering an egress queue has entered it: the row in it is delivered (R197). -/
def State.rowsOut (s : State) (q : Nat) : State :=
  if s.flowing q then s else
  (s.scout.due.filter fun d => decide (d.1 = q)).foldl (fun t d => t.rowDelivered d.2)
    { s with scout := { s.scout with due := s.scout.due.filter fun d => decide (d.1 ≠ q) } }

/-- A stalled unit goes on with its packet. -/
def State.flowOn (s : State) (q : Nat) : State := if s.flowing q then (s.push q (Tab.get [] s.flow q)).rowsOut q else s

/-- The words of a packet of a kind: the last has its end mark set (R207). -/
def packetOf (kind : Nat) (ls : List Line) : List QWord :=
  ls.zipIdx.map fun (l, j) => ⟨l, BitVec.ofNat 3 kind, decide (j + 1 = ls.length)⟩

/-- The word behind the first `n` of a queue is one less away from a marked run. -/
def stepCuts : List (Nat × Nat) → List (Nat × Nat)
  | [] => []
  | (0, n) :: l => if n ≤ 1 then l else (0, n - 1) :: l
  | (k + 1, n) :: l => (k, n) :: l

/-- One word leaves a queue, marked or not (R209, R211). -/
def State.rawPop (s : State) (q : Nat) : Option (QWord × State) :=
  let s1 := if (s.queue q).head = [] then s.spillFill q else s
  let x := s1.queue q
  match x.head with
  | [] => none
  | w :: l =>
    some (w, ((s1.setQueue q { x with head := l, inPacket := !w.last, cuts := stepCuts x.cuts
                                      pkt := if w.last then x.pkt - 1 else x.pkt }).wordLeft q).settleQueue q)

/-- The consumer discards the marked words at the head of a queue (R213); fuel bounds them. -/
def State.skipCuts (s : State) (q : Nat) : Nat → State
  | 0 => s
  | n + 1 =>
    match (s.queue q).cuts with
    | (0, _) :: _ =>
      (match s.rawPop q with
       | some (_, t) => State.skipCuts (t.setQueue q { t.queue q with inPacket := false }) q n
       | none => s)
    | _ => s

/-- The consumer is past the marked words at the head. -/
def State.skipCut (s : State) (q : Nat) : State :=
  match (s.queue q).cuts with
  | (0, _) :: _ => s.skipCuts q (s.queue q).occ
  | _ => s

/-- The consumer takes the next word of a queue that is not marked (R213). -/
def State.popWord (s : State) (q : Nat) : Option (QWord × State) := (s.skipCut q).rawPop q

/-- The first packet of a queue that is not marked, if it is there whole. -/
def State.peekPacket (s : State) (q : Nat) : Option (List QWord) :=
  let ws := (s.skipCut q).queueWords q
  match ws.findIdx? (·.last) with
  | none => none
  | some i => some (ws.take (i + 1))

/-- `n` words leave a queue. -/
def State.dropWords (s : State) (q : Nat) : Nat → State
  | 0 => s
  | n + 1 => match s.popWord q with
    | none => s
    | some (_, t) => State.dropWords t q n

/-- A malformed or unexpected packet is discarded (R208, R217, R374). -/
def State.malformed (s : State) : State := (s.bump 0x090300 1).raiseFlag 9 1

/-! ### Flow control (R214, R219, R220) -/

/-- `QUE_ING` of port `p`: enabled, queue, ports, HALFSEL. -/
def State.ing (s : State) (p : Nat) : Bool × Nat × Nat × Bool :=
  let a := 0x090000 + 4 * p
  (s.fld a 31 31 == 1, s.fld a 11 0, 2 ^ s.fld a 13 12, s.fld a 14 14 == 1)

/-- The leader of the enabled ingest group that port `p` belongs to. -/
def State.ingLeader (s : State) (p : Nat) : Option Nat :=
  (List.range 32).find? fun l => let (en, _, g, _) := s.ing l; en && decide (l ≤ p) && decide (p < l + g)

/-- Queues that the group led by port `l` feeds. -/
def State.ingQueues (s : State) (l : Nat) : List Nat :=
  let (_, q, _, hs) := s.ing l
  if hs then [q, (q + 1) % 4096] else [q]

/-- Free reorder slots (R274). -/
def State.freeSlots (s : State) : Nat := s.reb.ringTail - s.reb.ringHead

/-- FC_HOLD of one port at the next FCLK edge (R219). -/
def State.holdOf (s : State) (p : Nat) : Bool :=
  match s.ingLeader p with
  | none => true
  | some l =>
    let qs := (s.ingQueues l).map s.queue
    if qs.any fun x => decide (x.cls = .ret) then false
    else if (qs.any fun x => decide (x.adHi ≤ x.occ)) || decide (s.freeSlots = 0) then true
    else if qs.all fun x => decide (x.occ ≤ x.adLo) then false
    else bitOf s.pins.fcHold.toNat p

/-- FC_HOLD of all ports is driven anew. -/
def State.holdUpdate (s : State) : State :=
  { s with pins := { s.pins with fcHold := BitVec.ofNat 32 ((List.range 32).foldl
      (fun v p => v + b2n (s.holdOf p) * 2 ^ p) 0) } }

/-- FC_HOLD of the ports that feed a queue rises for a flush of it (R219). -/
def State.holdFlush (s : State) (q : Nat) : State :=
  { s with pins := { s.pins with fcHold := BitVec.ofNat 32 ((List.range 32).foldl (fun v p =>
      let up := match s.ingLeader p with
        | some l => (s.ingQueues l).contains q && decide ((s.queue q).cls ≠ .ret)
        | none => false
      v + b2n (bitOf s.pins.fcHold.toNat p || up) * 2 ^ p) 0) } }

/-- A queue adopts its watermarks: H at most the capacity less 32 words a port of the group that feeds it, and W at
most H − 1; each limit applied sets the queue-configuration flag (R220). -/
def State.adoptMarks (s : State) (q : Nat) : State :=
  let x := s.queue q
  let g := ((List.range 32).find? fun l => (s.ing l).1 && (s.ingQueues l).contains q).map fun l => (s.ing l).2.2.1
  let hi := match g with | some g => Min.min x.wmHi (x.cap - 32 * g) | none => x.wmHi
  let lo := if g.isSome then Min.min x.wmLo (hi - 1) else x.wmLo
  let s1 := s.setQueue q { x with adHi := hi, adLo := lo, due := false }
  let s2 := if hi ≠ x.wmHi then s1.raiseFlag 11 1 else s1
  if lo ≠ x.wmLo then s2.raiseFlag 11 1 else s2

/-! ### Flush and DROPREST (R222, R223) -/

/-- A flush: head, tail and middle are emptied and the packet counter is zero; a cut packet leaves resync. -/
def State.flush (s : State) (q : Nat) : State :=
  let x := s.queue q
  let s1 := (x.blks ++ x.mid).foldl (fun t b => t.blockRead b.1) s
  (s1.setQueue q { x with head := [], mid := [], tail := [], blks := [], cuts := [], pkt := 0, inPacket := false, cut := false
                          resync := x.resync || !x.atEnd, marked := x.marked || x.inPacket }).holdFlush q

/-- DROPREST on the packet at the head; of a packet that was cut its marked words go, and the rest of it is being discarded already
(R213). -/
def State.dropRest (s : State) (q : Nat) : State :=
  let ws := s.queueWords q
  if ws = [] then s
  else if (match (s.queue q).cuts with | (0, _) :: _ => true | _ => false) then s.skipCut q else
  match ws.findIdx? (·.last) with
  | some i => let t := s.dropWords q (i + 1)
              t.setQueue q { t.queue q with inPacket := false, marked := (s.queue q).marked || (s.queue q).inPacket }
  | none => let t := s.dropWords q ws.length
            t.setQueue q { t.queue q with resync := true, inPacket := false
                                          marked := (s.queue q).marked || (s.queue q).inPacket }

/-! ### Progress words (R117) -/

/-- A progress word: first row, row count, LAST, and the writer's serial. -/
def progressWord (first count : Nat) (last : Bool) (serial : BitVec 16) : QWord :=
  ⟨BitVec.ofNat 512 (first % 2 ^ 20 + count % 2 ^ 20 * 2 ^ 20 + b2n last * 2 ^ 40 + serial.toNat * 2 ^ 48), 5#3, true⟩

/-- First row, row count, LAST and serial of a progress word. -/
def progressOf (w : QWord) : Nat × Nat × Bool × BitVec 16 :=
  let v := w.data.toNat
  (bitsOf v 19 0, bitsOf v 39 20, bitOf v 40, BitVec.ofNat 16 (bitsOf v 63 48))

end Sys2Proof.Machine
end

