-- ==== Sys2Proof/Machine/Unit.lean ====
section
/-! DEFINITION. Unit commands: their roles, the unit that runs them, issue (R40, R48, R60 to R63), the progress words
that chain them (R62, R116 to R118), completion (R41, R57, R115), and the journal of the Referee that every
instruction but the control class passes (R356, R358). -/

namespace Sys2Proof.Machine

/-! ### Journal and replay (R356, R358) -/

/-- Journal of context `c`. -/
def State.journal (s : State) (c : Nat) : List JEnt := Tab.get [] s.ref.journal c

/-- The journal entry that the next instruction of context `c` is matched with, in a replay. -/
def State.replayEntry (s : State) (c : Nat) : Option JEnt :=
  if s.ref.replay then (s.journal c)[Tab.get 0 s.ref.jpos c]? else none

/-- The replay has gone past one entry of context `c`; it ends once no context has one left. -/
def State.nextEntry (s : State) (c : Nat) : State :=
  let pos := Tab.upd 0 s.ref.jpos c (· + 1)
  let more := s.ref.journal.any fun j => decide (Tab.get 0 pos j.1 < j.2.length)
  { s with ref := { s.ref with jpos := pos, replay := more } }

/-- An entry is added to the journal of context `c`; a full journal is a step loss (R356, R360). -/
def State.addEntry (s : State) (c : Nat) (e : JEnt) : State :=
  if 1024 ≤ (s.journal c).length then s.report ⟨0x00, none, 0, 0xFFFF, 0, true⟩
  else
    let s1 : State := { s with ref := { s.ref with journal := (Tab.upd [] s.ref.journal c fun l => l ++ [e]) } }
    { s1 with ref := { s1.ref with jpos := Tab.set 0 s1.ref.jpos c (s1.journal c).length } }

/-- The row is REMOTE.SIGNAL. -/
def isRemote : Instr → Bool
  | .remoteSignal _ _ => true
  | _ => false

/-- The code and value of an entry become known. -/
def State.closeEntry (s : State) (c : Nat) (unit : Bool) (serial : BitVec 16) (r : UResult) : State :=
  { s with ref := { s.ref with journal := (Tab.upd [] s.ref.journal c fun l =>
      l.map fun e => if e.unit = unit ∧ e.serial = serial ∧ e.result = none ∧ isRemote e.op = false
        then { e with result := some r } else e) } }

/-- The entry of a REMOTE.SIGNAL under signal sequence `seq` that has no code yet. -/
def JEnt.openRemote (e : JEnt) (seq : BitVec 16) : Bool := isRemote e.op && decide (e.serial = seq) && e.result.isNone

/-- The code of the REMOTE.SIGNAL under a signal sequence becomes known. -/
def State.closeRemote (s : State) (c : Nat) (seq : BitVec 16) (r : UResult) : State :=
  { s with ref := { s.ref with journal := (Tab.upd [] s.ref.journal c fun l =>
      l.map fun e => if e.openRemote seq then { e with result := some r } else e) } }

/-- A replay has not come to the context's REMOTE.SIGNAL under a sequence yet. -/
def State.aheadRemote (s : State) (c : Nat) (seq : BitVec 16) : Bool :=
  s.ref.replay && ((s.journal c).drop (Tab.get 0 s.ref.jpos c)).any fun e => e.openRemote seq

/-- In a replay the context comes to a REMOTE.SIGNAL that is still outstanding: it waits for it (R358). -/
def State.awaitsRemote (s : State) (c : Nat) (i : Instr) : Bool :=
  match s.replayEntry c with
  | some e => isRemote i && decide (e.op = i) && e.result.isNone
  | none => false

/-- The context's last entry is that of a local instruction that waits and is given up: it will issue again (R59). -/
def State.dropOpen (s : State) (c : Nat) : State :=
  match (s.journal c).getLast? with
  | some e =>
    if e.unit || e.result.isSome || isRemote e.op then s
    else
      let l := (s.journal c).dropLast
      { s with ref := { s.ref with journal := Tab.set [] s.ref.journal c l, jpos := Tab.set 0 s.ref.jpos c l.length } }
  | none => s

/-- A replay has not come to the context's unit command with a serial yet. -/
def State.ahead (s : State) (c : Nat) (serial : BitVec 16) : Bool :=
  s.ref.replay && ((s.journal c).drop (Tab.get 0 s.ref.jpos c)).any fun e => e.unit && decide (e.serial = serial)

/-- The half that the unit reports enters the entry (R356). -/
def State.halfEntry (s : State) (c : Nat) (serial : BitVec 16) (h : Option Half) : State :=
  { s with ref := { s.ref with journal := (Tab.upd [] s.ref.journal c fun l =>
      l.map fun e => if e.unit ∧ e.serial = serial then { e with half := h } else e) } }

/-- An instruction that differs from its journal entry makes the fault a step loss (R358). -/
def State.mismatch (s : State) : State := s.report ⟨0x00, none, 0, 0xFFFF, 0, true⟩

/-- A matched entry that is satisfied from the journal: its code and value are applied and the context goes on. -/
def State.satisfy (s : State) (c : Nat) (f : Fields) (writes : Bool) (r : UResult) : State :=
  let x := (s.ctx c).record r.code (s.ctx c).pc
  let x := if writes && decide (r.code = codeOk) then x.setX f.dst r.value else x
  (s.setCtx c (x.after x.pc)).nextEntry c

/-- A local instruction outside the control class: journalled as it runs, and satisfied from the journal in a
replay. `writes` says that it returns a value to xD. -/
def State.journalled (s : State) (c : Nat) (i : Instr) (f : Fields) (idx : List Nat) (writes : Bool)
    (body : State → State) : State :=
  match s.replayEntry c with
  | some e =>
    if e.op ≠ i ∨ e.idx ≠ idx then s.mismatch
    else match e.result with
      | some r => s.satisfy c f writes r
      | none => body (s.nextEntry c)
  | none =>
    let t := body s
    let x := t.ctx c
    let r : Option UResult := if x.wait ≠ .nothing ∨ x.drain ≠ .no ∨ t.vol.sigSeq ≠ s.vol.sigSeq then none
      else some ⟨x.last, if writes then x.xr f.dst else 0⟩
    t.addEntry c ⟨i, idx, if isRemote i then s.vol.sigSeq else (s.ctx c).serial, none, false, r⟩

/-! ### Roles of a command's slots -/

/-- It reads the tensor of its first slot. -/
def readsA : Instr → Bool
  | .recvIn _ _ | .recvNet _ _ | .reboundCombine _ _ | .reboundRet _ _ => false
  | _ => true

/-- It writes the tensor of its first slot. -/
def writesA : Instr → Bool
  | .recvIn _ _ | .recvNet _ _ | .admitRows _ _ | .reboundCombine _ _ => true
  | _ => false

/-- It has a second descriptor, and writes its tensor: the DD form. -/
def writesB (i : Instr) : Bool :=
  match opcodeOf i with
  | some (op, _, _) => decide (op = 0x40) || decide (op = 0x41) || decide (op = 0x42) || decide (op = 0x43) ||
      decide (op = 0x44) || decide (op = 0x48) || decide (op = 0x49) || (decide (0x58 ≤ op) && decide (op ≤ 0x64))
  | none => false

/-- It reads the companion slot: NORM with POSADD, SCOUT, FUSE with BIAS or SCALE, GATHER, SCATTER, SCATTER.ADD. -/
def readsC : Instr → Bool
  | .norm _ f => bitOf f.sub 1
  | .scout _ _ => true
  | .fuse _ f => bitOf f.sub 4 || bitOf f.sub 5
  | .gather _ _ | .scatter _ _ | .scatterAdd _ _ => true
  | _ => false

/-- It writes the companion slot: RECV.IN. -/
def writesC : Instr → Bool
  | .recvIn _ _ => true
  | _ => false

/-- It writes the rows that its index tensor names: SCATTER, SCATTER.ADD. -/
def scatters : Instr → Bool
  | .scatter _ _ | .scatterAdd _ _ => true
  | _ => false

/-- The unit whose command queue an instruction enters: 0 SFU, 1 score tiles, 2 top-k selectors, 3 admission,
4 scout, 5 Huddle, 6 packer, 7 Volley send, 8 ingest, 9 Volley receive, 10 COMBINE path, 11 RET path, 12 memory
port (R64, R85). -/
def unitOf : Instr → Nat
  | .norm _ _ | .pos _ _ | .smax _ _ | .fuse _ _ | .micro _ _ => 0
  | .score _ _ => 1
  | .topk _ _ => 2
  | .admitRows _ _ => 3
  | .scout _ _ => 4
  | .huddle _ _ => 5
  | .pack _ _ | .keep _ _ => 6
  | .volley _ _ => 7
  | .recvIn _ _ => 8
  | .recvNet _ _ => 9
  | .reboundCombine _ _ => 10
  | .reboundRet _ _ => 11
  | _ => 12

/-- Fields of the command's word. -/
def UCmd.f (u : UCmd) : Fields := match opcodeOf u.op with | some (_, _, f) => f | none => ⟨0, 0, 0, 0, 0⟩

/-- Flags of R38. -/
def UCmd.wt (u : UCmd) : Bool := u.f.flags.getLsbD 0
def UCmd.sg (u : UCmd) : Bool := u.f.flags.getLsbD 1
def UCmd.cs (u : UCmd) : Nat := bitsOf u.f.flags.toNat 3 2
def UCmd.ord (u : UCmd) : Bool := u.f.flags.getLsbD 4
def UCmd.flag37 (u : UCmd) : Bool := u.f.flags.getLsbD 5

/-- Descriptors as copied at issue (R48). -/
def UCmd.descA (u : UCmd) : Desc := descOf u.dA
def UCmd.descB (u : UCmd) : Desc := descOf u.dB
def UCmd.descC (u : UCmd) : Desc := descOf u.comp

/-- The companion slot (R61): after the first slot, but after the destination for NORM. -/
def UCmd.slotC (u : UCmd) : Nat :=
  match u.op with
  | .norm _ _ => (u.slotB + 1) % 4096
  | _ => (u.slotA + 1) % 4096

/-- The slot and descriptor copy that the command produces rows in. -/
def UCmd.destSlot (u : UCmd) : Nat := if writesB u.op then u.slotB else u.slotA
def UCmd.dest (u : UCmd) : Desc := if writesB u.op then u.descB else u.descA

/-- The half of the rows of a tensor (R356): that of the latest command of the step that wrote a tensor at its base, through
whichever slot or context. DEDUCED, log entry 11. -/
def State.rowsHalf (s : State) (d : Desc) : Option Half := Tab.get none s.ref.rowHalf d.base

/-- The half of the rows that a command takes: of its first tensor, or of its companion tensor. -/
def State.inputHalf (s : State) (u : UCmd) : Option Half :=
  match s.rowsHalf u.descA with
  | some h => some h
  | none => if readsC u.op then s.rowsHalf u.descC else none

/-- A command that starts writes rows of its half (R356). -/
def State.noteRows (s : State) (u : UCmd) : State :=
  let m := s.ref.rowHalf
  let m := if writesA u.op || writesB u.op then Tab.set none m u.dest.base u.half else m
  { s with ref := { s.ref with rowHalf := if writesC u.op then Tab.set none m u.descC.base u.half else m } }

/-- The command with its code and value found. -/
def UCmd.done (u : UCmd) (code : Byte) (v : DWord) : UCmd := { u with result := some ⟨code, v⟩ }

/-- The command is stored back. -/
def State.putCmd (s : State) (u : UCmd) : State :=
  { s with ucmds := s.ucmds.map fun v => if v.c = u.c ∧ v.serial = u.serial then u else v }

/-- The command of context `c` with a serial. -/
def State.cmd (s : State) (c : Ctx) (serial : BitVec 16) : Option UCmd :=
  s.ucmds.find? fun v => decide (v.c = c) && decide (v.serial = serial)

/-- The command is in the way of those behind it in its unit's queue: it is unfinished, or it is an ADMIT that has run and whose
counters its completion has still to copy (R178). -/
def UCmd.blocks (u : UCmd) : Bool := u.result.isNone || (decide (unitOf u.op = 3) && u.started)

/-- The command is at the head of its unit's queue: no earlier command of the unit is in its way (R40). -/
def State.isHead (s : State) (u : UCmd) : Bool :=
  match s.ucmds.find? fun v => decide (unitOf v.op = unitOf u.op) && v.blocks with
  | some v => decide (v.c = u.c) && decide (v.serial = u.serial)
  | none => false

/-! ### Progress words (R62, R116 to R118) -/

/-- The command drains slot A: it reads it, it is tracked, and its context recorded a writer. -/
def UCmd.chainA (u : UCmd) : Bool := readsA u.op && u.descA.trk && u.wA.isSome
def UCmd.chainC (u : UCmd) : Bool := readsC u.op && u.descC.trk && u.wC.isSome

/-- Words at the head of a progress queue are taken while their serial is the writer's; words of another serial
are discarded, and packets of another kind as malformed (R208). The rows covered, LAST, and the state after; fuel bounds the words. -/
def drainWords (q : Nat) (w : BitVec 16) : Nat → State → Nat → Bool → Nat × Bool × State
  | 0, s, n, e => (n, e, s)
  | k + 1, s, n, e =>
    if e then (n, e, s) else
    match (s.queue q).head, (s.queue q).mid with
    | [], [] => (n, e, s)
    | _, _ =>
      match s.popWord q with
      | none => (n, e, s)
      | some (x, t) =>
        let (_, c, l, sr) := progressOf x
        if x.kind ≠ 5#3 then drainWords q w k (if (s.queue q).inPacket then t else t.malformed) n e
        else if sr = w then drainWords q w k t (n + c) l else drainWords q w k t n e

/-- The command drains the progress queues of its tracked inputs as far as they go. -/
def State.drain (s : State) (u : UCmd) : UCmd × State :=
  let (u, s) := match u.chainA, u.wA with
    | true, some w =>
      let r := drainWords u.descA.pq w ((s.queueWords u.descA.pq).length + 1) s u.covA u.endA
      ({ u with covA := r.1, endA := r.2.1 }, r.2.2)
    | _, _ => (u, s)
  match u.chainC, u.wC with
  | true, some w =>
    let r := drainWords u.descC.pq w ((s.queueWords u.descC.pq).length + 1) s u.covC u.endC
    ({ u with covC := r.1, endC := r.2.1 }, r.2.2)
  | _, _ => (u, s)

/-- Every chained input of the command is covered up to LAST. -/
def UCmd.inputsEnd (u : UCmd) : Bool := (!u.chainA || u.endA) && (!u.chainC || u.endC)

/-- Row count of the source (R116): the drained words' sum, or VEXT as copied. -/
def UCmd.rowsIn (u : UCmd) : Nat := if u.chainA then u.covA else u.descA.vext

/-- The largest row count that the source allows (R115). -/
def UCmd.rowsMax (u : UCmd) : Nat := if u.chainA then u.descA.rows else u.descA.vext

/-- Progress words for rows `p` to `n` − 1 enter a queue while it has room: runs of 32, and the last word with LAST.
Rows covered and whether LAST is out; fuel bounds the words. -/
def postWords (q : Nat) (sr : BitVec 16) (n : Nat) : Nat → State → Nat → Bool → Nat × Bool × State
  | 0, s, p, l => (p, l, s)
  | k + 1, s, p, l =>
    if l then (p, l, s) else
    if (s.queue q).room = 0 then (p, l, s) else
    let c := Min.min 32 (n - p)
    let last := decide (n ≤ p + c)
    postWords q sr n k (s.enter q (progressWord p c last sr)) (p + c) last

/-- A command whose work is done posts the progress words of its tracked outputs as far as their queues take them,
and is finished once LAST is out (R117). -/
def State.post (s : State) (u : UCmd) : UCmd × State :=
  match u.out with
  | none => (u, s)
  | some n =>
    if u.result.isSome then (u, s) else
    let (u, s) := if (writesA u.op || writesB u.op) && u.dest.trk then
        let r := postWords u.dest.pq u.serial n (n / 32 + 2) s u.postD u.lastD
        ({ u with postD := r.1, lastD := r.2.1 }, r.2.2)
      else ({ u with lastD := true }, s)
    let (u, s) := if writesC u.op && u.descC.trk then
        let r := postWords u.descC.pq u.serial n (n / 32 + 2) s u.postC u.lastC
        ({ u with postC := r.1, lastC := r.2.1 }, r.2.2)
      else ({ u with lastC := true }, s)
    if u.lastD && u.lastC then (u.done codeOk u.value, s) else (u, s)

/-- The tracked slots that a command writes. -/
def UCmd.trackedOut (u : UCmd) : List Nat :=
  (if (writesA u.op || writesB u.op) && u.dest.trk then [u.destSlot] else []) ++
  (if writesC u.op && u.descC.trk then [u.slotC] else [])

/-- The recorded writers of a context as a command issues (R62, R118): a writer whose words it will drain is spoken for, so that a
later reader takes its rows by VEXT; the command is the latest writer of the tracked slots that it writes. -/
def Context.noteWriters (x : Context) (u : UCmd) : Context :=
  let w := if u.chainA then Tab.set none x.writers u.slotA none else x.writers
  let w := if u.chainC then Tab.set none w u.slotC none else w
  { x with writers := u.trackedOut.foldl (fun w n => Tab.set none w n (some u.serial)) w }

/-- A refused command has no effect on the recorded writers (R15): those that it took or replaced stand again, where no later
command has written the slot. -/
def State.unrecord (s : State) (u : UCmd) : State :=
  let c := u.c.val
  let back (w : Tab (Option (BitVec 16))) (n : Nat) (old : Option (BitVec 16)) (read : Bool) : Tab (Option (BitVec 16)) :=
    let now := Tab.get none w n
    if now = some u.serial ∨ (read = true ∧ now = none) then Tab.set none w n old else w
  let x := s.ctx c
  let w := back x.writers u.slotA u.wA u.chainA
  let w := if writesB u.op then back w u.slotB u.wB false else w
  s.setCtx c { x with writers := back w u.slotC u.wC u.chainC }

/-- The first poisoned line among the tensors that a command reads (R305). -/
def State.lostInput (s : State) (u : UCmd) : Option Nat :=
  match (if readsA u.op then s.lostIn u.descA.base (u.descA.last - u.descA.base) else none) with
  | some l => some l
  | none => if readsC u.op then s.lostIn u.descC.base (u.descC.last - u.descC.base) else none

/-- Rows 0 to `n` − 1 of a tensor have been written: lines wholly inside a run are good (R305). -/
def State.cureRows (s : State) (d : Desc) (n : Nat) : State :=
  if s.mp.poison = [] ∧ s.mp.lostCh = [] then s
  else if d.rank = 1 then s.cureRange d.base (d.header + n * unitSize d.fmt)
  else (List.range n).foldl (fun t r => (d.rowRuns r).foldl (fun t a => t.cureRange a d.runBytes) t) s

/-- A unit does its work on inputs that are there: a poisoned line among them ends the command with FAULT (R305). -/
def State.labour (s : State) (u : UCmd) (work : State → UCmd → UCmd × State) : UCmd × State :=
  match s.lostInput u with
  | some l => (u.done codeFault 0, s.lostRead l u.half)
  | none =>
    let (v, t) := work s u
    match v.out with
    | some n => (v, if (writesA v.op || writesB v.op) && !scatters v.op then t.cureRows v.dest n else t)
    | none => (v, t)

/-- One pass of a unit over a command at the head of its queue: the unit accepts it after its checks (R63), drains
its inputs, takes the rows that have come, does its work when all are there, and posts its progress words. `check` gives the code
of a refused command, `start` binds an accepted one, `take` works on the rows covered so far, `work` does what it can and sets `out`
when it is done. -/
def State.driveRows (s : State) (u : UCmd) (check : State → UCmd → Option Byte)
    (start take work : State → UCmd → UCmd × State) : State :=
  if u.result.isSome then s else
  match (if u.started then none else check s u) with
  | some code => (s.unrecord u).putCmd (u.done code 0)
  | none =>
    let (u, s) := if u.started then (u, s) else
      let (v, t) := start s u
      ({ v with started := true }, (t.noteRows v).halfEntry u.c.val u.serial v.half)
    let (u, s) := s.drain u
    let (u, s) := if u.out.isNone && u.result.isNone && (s.lostInput u).isNone then take s u else (u, s)
    let (u, s) := if u.inputsEnd && u.out.isNone && u.result.isNone then s.labour u work else (u, s)
    let (u, s) := s.post u
    s.putCmd u

/-- A unit that works once all its rows are there. -/
def State.drive (s : State) (u : UCmd) (check : State → UCmd → Option Byte)
    (start work : State → UCmd → UCmd × State) : State := s.driveRows u check start (fun t v => (v, t)) work

/-! ### Issue -/

/-- The slots of a command: first, second and queue, by form (R39, R61, R64). -/
def slotsOf (x : Context) (i : Instr) (f : Fields) : Nat × Nat × Nat :=
  if writesB i then (ddFirst x f, ddSecond x f, 0) else (dqDesc x f, 0, dqQueue x f)

/-- The latest writer that the context recorded for a slot (R118). -/
def Context.writer (x : Context) (n : Nat) : Option (BitVec 16) := Tab.get none x.writers n

/-- The layer that a TOPK draws with: 1 + the entry of the gate epoch active when it issues, 0 for none (R148). -/
def State.layerAtIssue (s : State) (i : Instr) : Nat :=
  match i with
  | .topk _ _ => if s.tbl.gate.active.isSome then 1 + s.tbl.gateNow.entry.toNat else 0
  | _ => 0

/-- A TOPK with valid counts records k and C in its destination slot when it issues, whatever code it ends with
(R75). -/
def State.recordKC (s : State) (u : UCmd) : State :=
  match u.op with
  | .topk _ f =>
    let k := bitsOf f.sub 4 0
    let c := bitsOf f.sub 7 5
    if 1 ≤ k ∧ k ≤ 16 ∧ c ≤ 4 then
      let d := s.slot u.slotB
      s.setSlot u.slotB { d with bits := withKC d.bits k c }
    else s
  | _ => s

/-- The command as it issues: indices, copies of the slots it names, recorded writers (R48, R118). -/
def State.newCmd (s : State) (c : Ctx) (i : Instr) (f : Fields) : UCmd :=
  let x := s.ctx c
  let (a, b, q) := slotsOf x i f
  let u : UCmd :=
    { c := c, serial := x.serial + 1, op := i, pc := x.pc, slotA := a, slotB := b, queue := q
      dA := (s.slot a).bits, dB := (s.slot b).bits, comp := 0, wA := x.writer a, wB := x.writer b, wC := none
      half := none, started := false, bank := 0, epoch := 0, covA := 0, covB := 0, covC := 0, endA := false
      endB := false, endC := false, row := 0, n1 := s.layerAtIssue i, n2 := 0, stage := 0, segs := [], out := none, value := 0, postD := 0
      postC := 0, lastD := false, lastC := false, rew := [], result := none }
  { u with comp := (s.slot u.slotC).bits, wC := x.writer u.slotC }

/-- An XPOSE that is an exact in-place transpose of a square block of at most 32 × 32 (R122). -/
def UCmd.inPlace (u : UCmd) : Bool :=
  let a := u.descA
  let b := u.descB
  let n := a.ext 0
  (match u.op with | .xpose _ _ => true | _ => false) && decide (a.base = b.base) && decide (a.fmt = b.fmt) &&
  decide (a.rank = 2) && decide (b.rank = 2) && decide (a.str 1 = b.str 1) && decide (n ≤ 32) &&
  [a.ext 1, a.vext, b.ext 0, b.ext 1, b.vext].all fun x => decide (x = n)

/-- A memory command's destination overlaps its source or its index tensor where R123 forbids that. -/
def UCmd.overlapping (u : UCmd) : Bool :=
  match u.op with
  | .xpose _ _ => u.descA.overlaps u.descB && !u.inPlace
  | .gather _ _ | .scatter _ _ | .scatterAdd _ _ => u.descA.overlaps u.descB || u.descC.overlaps u.descB
  | _ => false

/-- The code that ends a command at its issue: OFFSIDE for an invalid named or used companion slot (R48), OVERLAP
for a destination that aliases itself (R108) or overlaps what a memory command reads (R123). -/
def State.issueCode (s : State) (u : UCmd) : Option Byte :=
  lowest [(!(s.slot u.slotA).valid, codeOffside),
    (writesB u.op && !(s.slot u.slotB).valid, codeOffside),
    ((readsC u.op || writesC u.op) && !(s.slot u.slotC).valid, codeOffside),
    ((writesA u.op || writesB u.op) && u.dest.aliases, codeOverlap),
    (writesC u.op && u.descC.aliases, codeOverlap), (u.overlapping, codeOverlap)]

/-- A unit command issues: the context goes on behind it, or with WT set waits for it, holding its program counter until the
command completes (R57); the command enters its unit's queue, and at the head of that queue the unit takes it at once. -/
def State.pushCmd (s : State) (c : Ctx) (i : Instr) (f : Fields) (run : State → UCmd → State) : State :=
  let u := s.newCmd c i f
  let u := match s.issueCode u with | some k => u.done k 0 | none => u
  let x := if u.wt then s.ctx c else (s.ctx c).after (s.ctx c).pc
  let x := if u.result.isSome then { x with serial := u.serial } else { x with serial := u.serial }.noteWriters u
  let x := if u.wt then { x with st := .waiting, wait := .command u.serial } else x
  let s1 : State := { ((s.setCtx c x).recordKC u) with ucmds := s.ucmds ++ [u] }
  if u.result.isNone && s1.isHead u then run s1 u else s1

/-- The meaning of a unit command's row, up to its completion: it issues when the context can (R32, R40), is entered
in the journal, and in a replay runs again only for a half that is re-issued or if it had not started (R358). -/
def State.issueUnit (s : State) (c : Ctx) (i : Instr) (f : Fields) (run : State → UCmd → State) : State :=
  if !s.canIssue c i then s else
  let t := s.noteIssue c
  let (a, b, q) := slotsOf (s.ctx c) i f
  match t.replayEntry c with
  | some e =>
    if e.op ≠ i ∨ e.idx ≠ [a, b, q] then t.mismatch
    else if (match e.half with | some h => t.ref.rehalves.contains h | none => false) ||
      (e.result.isNone && (s.cmd c e.serial).isNone)
    then (({ t with ucmds := t.ucmds.filter fun v => !(decide (v.c = c) && decide (v.serial = e.serial)) } : State).nextEntry
      c).pushCmd c i f run
    else match e.result with
      | some r =>
        let t1 := t.satisfy c f (returnsOf i) r
        t1.setCtx c { t1.ctx c with serial := (t1.ctx c).serial + 1 }
      | none => s
  | none =>
    let sr := (s.ctx c).serial + 1
    (t.addEntry c ⟨i, [a, b, q], sr, none, true, none⟩).pushCmd c i f run

/-! ### Completion (R41) -/

/-- VEXT of a destination slot becomes `n`, unless DESC has rewritten the slot since the issue (R115). -/
def State.setVext (s : State) (u : UCmd) (slot n : Nat) : State :=
  if u.rew.contains slot then s else
  let d := s.slot slot
  s.setSlot slot { d with bits := withVext d.bits n }

/-- Route and SFU commands that produce rows set VEXT; a SCORE into an XT tensor and the memory commands do not
(R115, R121). -/
def UCmd.setsVext (u : UCmd) : Bool :=
  (writesA u.op || (writesB u.op && decide (unitOf u.op ≠ 12))) &&
  !(match u.op with | .score _ _ => u.descB.xt | _ => false)

/-- A context that waits for a command with WT set is released (R41): it goes on behind the command, unless the command traps
precisely, and a trap that was due acts before its next issue (R57). -/
def State.releaseWt (s : State) (c : Nat) (trapped : Bool) : State :=
  let x := s.ctx c
  let y : Context := { x with st := if x.drain = .no then .running else x.st, wait := .nothing }
  if trapped && decide (x.drain = .no) then s.trap c x.pc true
  else
    let s := s.setCtx c (y.after y.pc)
    if x.trapDue && decide (x.drain = .no) then s.trap c (s.ctx c).pc false else s

/-- The context's part of a completion: register value, code, signal and release in the order of R41, and the trap of R57. -/
def State.completeCtx (s : State) (u : UCmd) (r : UResult) : State :=
  let c := u.c.val
  let x := s.ctx c
  let x := if returnsOf u.op && decide (r.code = codeOk) then x.setX u.f.dst r.value else x
  let s := s.setCtx c (x.record r.code u.pc)
  let s := s.closeEntry c true u.serial r
  let s := if u.sg && decide (r.code ≠ codeFault) then s.signal (Tab.get 0 x.cs u.cs) 1 else s
  let x := s.ctx c
  let trapped := s.trapOn c r.code
  let s :=
    if x.wait = .command u.serial then s.releaseWt c trapped
    else if trapped then
      (match x.st with
        | .running =>
          if x.drain = .toHalted then s
          else (if x.drain = .toStepwait then s.dropOpen c else s).trap c x.pc false
        | .waiting => s.setCtx c { x with trapDue := true }
        | _ => s)
    else s
  s.drained c

/-- A unit command with its code known completes: VEXT of its destination, then the context's part. While a replay has not come
to it, the journal keeps its code and value for the context, and its signal is made (R358). -/
def State.complete (s : State) (u : UCmd) (r : UResult) : State :=
  let c := u.c.val
  let s := if r.code = codeOk ∧ u.setsVext then
      match u.out with
      | some n => s.setVext u u.destSlot n
      | none => s
    else s
  let s : State := { s with ucmds := s.ucmds.filter fun v => !(decide (v.c = u.c) && decide (v.serial = u.serial)) }
  if s.ahead c u.serial then
    let t := s.closeEntry c true u.serial r
    if u.sg && decide (r.code ≠ codeFault) then t.signal (Tab.get 0 (t.ctx c).cs u.cs) 1 else t
  else s.completeCtx u r

end Sys2Proof.Machine
end

