-- ==== Sys2Proof/Machine/Sfu.lean ====
section
/-! DEFINITION. The SFU: its tables (R139, R140), NORM (R71, R128 to R131), POS (R72, R132 to R134), FUSE (R86, R135),
MICRO (R86, R136 to R138) and SMAX (R74, R156, R157). -/

namespace Sys2Proof.Machine

/-! ### Tables (R136, R139) -/

/-- A byte of an SFU bank that belongs to the vendor's set. -/
def isVendor (off : Nat) : Bool :=
  (decide (0x41000 ≤ off) && decide (off < 0x41400)) || (decide (0x42000 ≤ off) && decide (off < 0x46000)) ||
  (decide (0x4A000 ≤ off) && decide (off < 0x4C000)) || (decide (0x4E000 ≤ off) && decide (off < 0x6E000))

/-- Byte `off` of an SFU bank: a vendor area holds the Dywason set once K6 has loaded it (R136). -/
def State.sfuByte (s : State) (bank : Fin 2) (off : Nat) : Byte :=
  if isVendor off then (if s.tbl.rom then Config.vendor off else 0#8)
  else bytesGet s.tbl.sfuMem (bank.val * 1048576 + off)

/-- A 32-bit word of an SFU bank. -/
def State.sfuWord (s : State) (bank : Fin 2) (off : Nat) : Word :=
  s.sfuByte bank (off + 3) ++ s.sfuByte bank (off + 2) ++ s.sfuByte bank (off + 1) ++ s.sfuByte bank off

/-- An FP32 entry of an SFU bank. -/
def State.sfuF (s : State) (bank : Fin 2) (off : Nat) : Fl := f32 (s.sfuWord bank off)

/-! ### Row access shared by the route commands (R113, R116) -/

/-- Row `r` of a source for a command that has drained `cov` rows of it, or none when it is not chained: an index
beyond the shape is clamped, a row at or beyond the valid rows reads zeros. The flag says that it was clamped. -/
def State.readRow (s : State) (d : Desc) (cov : Option Nat) (r : Nat) : List Fl × Bool :=
  let clamped := decide (d.rows ≤ r)
  let i := if clamped then d.rows - 1 else r
  let lim := match cov with | some n => Max.max n d.vext | none => d.vext
  (if i < lim then s.rowVals d i else List.replicate d.rowLen flZero, clamped)

/-- Rows `0` to `n` − 1 are worked on in turn. -/
def eachRow (n : Nat) (s : State) (f : State → Nat → State) : State := (List.range n).foldl f s

/-- Covered rows of a chained first input. -/
def UCmd.cov (u : UCmd) : Option Nat := if u.chainA then some u.covA else none

/-- Covered rows of a chained companion. -/
def UCmd.covComp (u : UCmd) : Option Nat := if u.chainC then some u.covC else none

/-- The checks that every row command into an element tensor makes: element formats on both sides, no XT (R92,
R121), and room for the rows (R115). -/
def rowChecks (u : UCmd) (lenDiffers : Bool) : List (Bool × Byte) :=
  [(!isElem u.descA.fmt, codeFormat), (!isElem u.descB.fmt, codeFormat), (u.descA.xt || u.descB.xt, codeFormat),
   (lenDiffers, codeBounds), (decide (u.descB.rows < u.rowsMax), codeBounds)]

/-- An SFU command binds to the active SFU epoch when it starts (R140). -/
def State.bindSfu (s : State) (u : UCmd) : UCmd × State :=
  ({ u with bank := s.tbl.sfu.bank, epoch := s.tbl.sfu.active.getD 0, half := s.inputHalf u }, s)

/-- EPOCH for an SFU command with no active bank (R140). -/
def State.sfuIdle (s : State) : Bool := s.tbl.sfu.active.isNone

/-- The command's work is done: `n` rows. -/
def UCmd.made (u : UCmd) (n : Nat) (v : Nat) : UCmd := { u with out := some n, row := n, value := BitVec.ofNat 64 v }

/-! ### NORM (R128 to R131) -/

/-- Sum of one slot: elements `j`, `j` + 1024, … in ascending order (R128). -/
def slotSum (l : List Fl) (j : Nat) : Fl :=
  (l.zipIdx.filter fun (_, i) => decide (i % 1024 = j)).foldl (fun a (v, _) => acc48Add a v) flZero

/-- One level of the tree of slot sums. -/
def pairSums : List Fl → List Fl
  | a :: b :: l => acc48Add a b :: pairSums l
  | l => l

/-- The row sum in the order of R128: 1024 slots, then ten levels. -/
def rowSum (l : List Fl) : Fl :=
  ((List.range 10).foldl (fun v _ => pairSums v) ((List.range 1024).map (slotSum l))).getD 0 flZero

/-- ε, gain enable and bias enable of a bank. -/
def State.normEps (s : State) (bank : Fin 2) : Fl := s.sfuF bank 0
def State.gainEn (s : State) (bank : Fin 2) : Bool := (s.sfuWord bank 4).getLsbD 0
def State.biasEn (s : State) (bank : Fin 2) : Bool := (s.sfuWord bank 4).getLsbD 1

/-- ε is negative, infinite or NaN (R131). -/
def epsBad : Fl → Bool
  | .nan => true
  | .inf _ => true
  | .fin n m _ => n && decide (m ≠ 0)

/-- A row normalised before gain and bias: the values, and whether the row's q was zero (R129, R130). -/
def normRow (mv : Bool) (eps : Fl) (x : List Fl) : List Fl × Bool :=
  let n := Fl.ofInt x.length
  if mv then
    let mu := fDiv (rowSum x) n
    let dev := x.map fun v => acc48Add v mu.neg
    let v := fDiv (rowSum (dev.map fun d => d.mul d)) n
    let q := fAdd v eps
    let z := Fl.eqv q flZero
    let r := if z then flZero else fRsqrt q
    (x.map fun v => fMul (fSub v mu) r, z)
  else
    let ms := fDiv (rowSum (x.map fun v => v.mul v)) n
    let q := fAdd ms eps
    let z := Fl.eqv q flZero
    let r := if z then flZero else fRsqrt q
    (x.map fun v => fMul v r, z)

/-- Codes that end NORM before its first input (R70, R71, R131, R140). -/
def normCheck (s : State) (u : UCmd) : Option Byte :=
  let n := u.descA.rowLen
  let b := s.tbl.sfu.bank
  lowest (rowChecks u (decide (n ≠ u.descB.rowLen)) ++
    [(s.sfuIdle, codeEpoch), (decide (4 ≤ u.f.sub), codeFormat), (decide (u.descB.fmt = INT32), codeFormat),
     (bitOf u.f.sub 1 && (!isElem u.descC.fmt || u.descC.xt), codeFormat), (epsBad (s.normEps b), codeFormat),
     (decide (65536 < n), codeBounds), ((s.gainEn b || s.biasEn b) && decide (16384 < n), codeBounds)])

/-- A clamped row is counted (R113). -/
def State.countClamp (s : State) (b : Bool) : State := if b then s.raiseFlag 1 1 else s

/-- One row of NORM. An element beyond the code row's end takes its last one, and the row counts as clamped (R113). -/
def normOne (u : UCmd) (s : State) (r : Nat) : List Fl × State :=
  let (x, cl) := s.readRow u.descA u.cov r
  let (y, z) := normRow (bitOf u.f.sub 0) (s.normEps u.bank) x
  let y := if s.gainEn u.bank then y.zipIdx.map fun (v, i) => fMul v (s.sfuF u.bank (0x1000 + 4 * i)) else y
  let y := if s.biasEn u.bank then y.zipIdx.map fun (v, i) => fAdd v (s.sfuF u.bank (0x11000 + 4 * i)) else y
  let (code, cl2) := if bitOf u.f.sub 1 then s.readRow u.descC u.covComp r else ([], false)
  let y := if bitOf u.f.sub 1 then y.zipIdx.map fun (v, i) => fAdd v (code.getD i (code.getLastD flZero)) else y
  let s := if z then s.bump 0x2200 1 else s
  let short := bitOf u.f.sub 1 && decide (code.length < y.length)
  (y, (s.countClamp cl).countClamp (cl2 || short))

/-- The SFU's pass over a NORM. -/
def normRun (s : State) (u : UCmd) : State :=
  s.drive u normCheck State.bindSfu fun t v => (v.made v.rowsIn 0, t.putRows v.descB v.rowsIn (normOne v))

/-- NORM (R71). -/
def execNorm (c : Ctx) (f : Fields) (s : State) : Out := .next (s.issueUnit c (.norm c f) f normRun)

/-! ### POS (R132 to R134) -/

/-- Start channel and length of component `c` in a bank. -/
def State.posRange (s : State) (bank : Fin 2) (c : Nat) : Nat × Nat :=
  let v := (s.sfuWord bank (8 + 4 * c)).toNat
  (bitsOf v 15 0, bitsOf v 31 16)

/-- Codes that end POS before its first input (R70, R72, R134, R140). -/
def posCheck (s : State) (u : UCmd) : Option Byte :=
  let mask := u.f.sub
  let b := s.tbl.sfu.bank
  lowest (rowChecks u false ++
    [(s.sfuIdle, codeEpoch), (decide (16 ≤ mask), codeFormat), (decide (mask % 16 = 0), codeBounds),
     (decide (u.descA.fmt ≠ INT32), codeFormat), (decide (u.descA.rowLen < 4), codeBounds),
     ((List.range 4).any fun c => bitOf mask c &&
        (let (st, ln) := s.posRange b c
         decide (u.descB.rowLen < st + ln) || decide (ln % 2 = 1) || decide (16384 < ln)), codeBounds)])

/-- The code of one output channel (R133). -/
def posChannel (s : State) (bank : Fin 2) (mask : Nat) (p : List Fl) (ch : Nat) : Fl :=
  ((List.range 4).foldl (fun (acc : Option Fl) c =>
    let (st, ln) := s.posRange bank c
    if !bitOf mask c || decide (ch < st) || decide (st + ln ≤ ch) then acc else
    let w := s.sfuF bank (0x21000 + 0x8000 * c + 4 * ((ch - st) / 2))
    let ph := fMul (p.getD c flZero) w
    let v := if (ch - st) % 2 = 1 then fCos ph else fSin ph
    match acc with
    | some a => some (fAdd a v)
    | none => some v) none).getD flZero

/-- The SFU's pass over a POS. -/
def posRun (s : State) (u : UCmd) : State :=
  s.drive u posCheck State.bindSfu fun t v => (v.made v.rowsIn 0, t.putRows v.descB v.rowsIn fun t r =>
    let (p, cl) := t.readRow v.descA v.cov r
    ((List.range v.descB.rowLen).map (posChannel t v.bank v.f.sub p), t.countClamp cl))

/-- POS (R72). -/
def execPos (c : Ctx) (f : Fields) (s : State) : Out := .next (s.issueUnit c (.pos c f) f posRun)

/-! ### FUSE (R86, R135) -/

/-- The sigmoid of R135. -/
def fSig (u : Fl) : Fl := fRcp (fAdd flOne (fExp u.neg))

/-- GELU in the tanh form of R135; its two constants are the FP32 values nearest 0.044715 and √(2/π). -/
def fGelu (u : Fl) : Fl :=
  let a := fMul (fMul (fMul u u) u) (f32 0x3D372713#32)
  let a := fMul (f32 0x3F4C422A#32) (fAdd u a)
  let th := fSub flOne (fDiv (.fin false 2 0) (fAdd (fExp (fMul (.fin false 2 0) a)) flOne))
  fMul (fMul (.fin false 1 (-1)) u) (fAdd flOne th)

/-- The activation of a code (R135). -/
def fAct (code : Nat) (u : Fl) : Fl :=
  match code with
  | 1 => if u.isNan then .nan else if Fl.lt flZero u then u else flZero
  | 2 => fMul u (fSig u)
  | 3 => fSig u
  | 4 => fGelu u
  | _ => u

/-- Codes that end FUSE before its first input (R70, R86, R140). -/
def fuseCheck (s : State) (u : UCmd) : Option Byte :=
  let sub := u.f.sub
  lowest (rowChecks u (decide (u.descA.rowLen ≠ u.descB.rowLen)) ++
    [(s.sfuIdle, codeEpoch), (decide (4 < sub % 16), codeFormat), (decide (64 ≤ sub), codeFormat)] ++
    (if readsC u.op then
      [(decide (u.descC.fmt ≠ FP32) || decide (u.descC.rank ≠ 2) || u.descC.xt, codeFormat),
       (decide (u.descC.ext 0 ≠ u.descA.ext 0) || decide (u.descC.rows < 2), codeBounds)] else []))

/-- One row of FUSE: the element at dimension-0 index j uses bias[j] and scale[j]; of a source of rank 1, row r is its element at
index r. -/
def fuseOne (u : UCmd) (s : State) (r : Nat) : List Fl × State :=
  let sub := u.f.sub
  let (x, cl) := s.readRow u.descA u.cov r
  let col (i : Nat) : Nat := if u.descA.rank = 1 then r else i % u.descA.ext 0
  let bias := if bitOf sub 4 then (s.readRow u.descC u.covComp 0).1 else []
  let scale := if bitOf sub 5 then (s.readRow u.descC u.covComp 1).1 else []
  let y := x.zipIdx.map fun (v, i) =>
    let t := if bitOf sub 5 then fMul v (scale.getD (col i) flOne) else v
    let w := if bitOf sub 4 then fAdd t (bias.getD (col i) flZero) else t
    fAct (sub % 16) w
  (y, s.countClamp cl)

/-- The SFU's pass over a FUSE. -/
def fuseRun (s : State) (u : UCmd) : State :=
  s.drive u fuseCheck State.bindSfu fun t v => (v.made v.rowsIn 0, t.putRows v.descB v.rowsIn (fuseOne v))

/-- FUSE (R86). -/
def execFuse (c : Ctx) (f : Fields) (s : State) : Out := .next (s.issueUnit c (.fuse c f) f fuseRun)

/-! ### MICRO (R136 to R138) -/

/-- Step word, constant and lookup entry of a bank. -/
def State.microStep (s : State) (bank : Fin 2) (i : Nat) : Nat := (s.sfuWord bank (0x42000 + 4 * i)).toNat
def State.microK (s : State) (bank : Fin 2) (i : Nat) : Fl := s.sfuF bank (0x4A000 + 4 * i)
def State.microT (s : State) (bank : Fin 2) (i : Nat) : Fl := s.sfuF bank (0x4E000 + 4 * i)

/-- Constants behind its index that a step uses, one more than the span; none for a step that uses no constant. -/
def constSpan (w : Nat) : Option Nat :=
  match bitsOf w 31 28 with
  | 3 | 4 | 5 | 0xB | 0xC => some 0
  | 6 => some 2
  | 7 => some (bitsOf w 15 12)
  | _ => none

/-- A step is not valid (R138): a reserved OP, set bits [21:20], constants or a lookup that leave their stores. -/
def stepBad (w : Nat) : Bool :=
  decide (14 ≤ bitsOf w 31 28) || decide (bitsOf w 21 20 ≠ 0) ||
  (match constSpan w with | some k => decide (4096 ≤ bitsOf w 11 0 + k) | none => false) ||
  (decide (bitsOf w 31 28 = 8) && decide (65535 < bitsOf w 15 0 + 1023))

/-- The step words of function `n`; none when its directory entry or a step is not valid. The five bits of the step count hold 1 to
32, a 0 standing for 32 (R138; log entry 80). -/
def State.microSteps (s : State) (bank : Fin 2) (n : Nat) : Option (List Nat) :=
  let e := (s.sfuWord bank (0x41000 + 8 * n)).toNat
  let first := bitsOf e 12 0
  let cnt := if bitsOf e 20 16 = 0 then 32 else bitsOf e 20 16
  if !bitOf e 31 || decide (8192 < first + cnt) then none else
  let l := (List.range cnt).map fun i => s.microStep bank (first + i)
  if l.any stepBad then none else some l

/-- A value truncated to an integer and clamped; a NaN gives the lower end, an infinity its end. -/
def truncClamp (lo hi : Int) (x : Fl) : Int :=
  match x with
  | .nan => lo
  | .inf n => if n then lo else hi
  | y => match y.trunc with
    | some i => if i < lo then lo else if hi < i then hi else i
    | none => lo

/-- min and max of R137: NaN if either is NaN. -/
def fMin (a b : Fl) : Fl := if a.isNan || b.isNan then .nan else if Fl.lt b a then b else a
def fMax (a b : Fl) : Fl := if a.isNan || b.isNan then .nan else if Fl.lt a b then b else a

/-- The largest integer at most a value. -/
def fFloor (x : Fl) : Fl :=
  match x with
  | .fin n m e =>
    if 0 ≤ e ∨ m = 0 then x else
    let t := m >>> (-e).toNat
    let t := if n ∧ m % 2 ^ (-e).toNat ≠ 0 then t + 1 else t
    .fin n t 0
  | y => y

/-- An integral value, ties to even. -/
def fNearInt (x : Fl) : Fl :=
  match x with
  | .fin n m e => if 0 ≤ e then x else .fin n (roundGrid m e 0) 0
  | y => y

/-- One step on the registers v0 to v3 (R137). -/
def microApply (s : State) (bank : Fin 2) (v : List Fl) (w : Nat) : List Fl :=
  let d := bitsOf w 27 26
  let a := v.getD (bitsOf w 25 24) flZero
  let bi := bitsOf w 23 22
  let b := v.getD bi flZero
  let c := bitsOf w 11 0
  let k (i : Nat) : Fl := s.microK bank (c + i)
  match bitsOf w 31 28 with
  | 0 => v.set d a
  | 1 => v.set d (fAdd a b)
  | 2 => v.set d (fMul a b)
  | 3 => v.set d (fAdd a (k 0))
  | 4 => v.set d (fMul a (k 0))
  | 5 => v.set d (fFma a (k 0) b)
  | 6 =>
    let n := rn (fNearInt (a.mul (k 0)))
    let r := fFma n.neg (k 1) a
    (v.set d (fFma n.neg (k 2) r)).set bi n
  | 7 =>
    let m := bitsOf w 15 12
    v.set d (if m = 0 then f32 (Config.microOpen w (toF32 a))
      else (List.range m).foldl (fun acc i => fFma a acc (k (m - 1 - i))) (k m))
  | 8 => v.set d (s.microT bank (bitsOf w 15 0 + (truncClamp 0 1023 a).toNat))
  | 9 => v.set d (rn (fFloor a))
  | 0xA => v.set d (rn (a.mul (.fin false 1 (truncClamp (-300) 300 b))))
  | 0xB => v.set d (fMin a (k 0))
  | 0xC => v.set d (fMax a (k 0))
  | _ => v.set d (match bitsOf w 2 0 with
      | 0 => fExp a
      | 1 => fLn a
      | 2 => fSqrt a
      | 3 => fRsqrt a
      | 4 => fRcp a
      | 5 => fSin a
      | 6 => fCos a
      | _ => f32 (Config.microOpen w (toF32 a)))

/-- Codes that end MICRO before its first input (R86, R138). -/
def microCheck (s : State) (u : UCmd) : Option Byte :=
  lowest (rowChecks u (decide (u.descA.rowLen ≠ u.descB.rowLen)) ++
    [(s.sfuIdle, codeEpoch), ((s.microSteps s.tbl.sfu.bank u.f.sub).isNone, codeFormat)])

/-- The SFU's pass over a MICRO. -/
def microRun (s : State) (u : UCmd) : State :=
  s.drive u microCheck State.bindSfu fun t v =>
    let steps := (t.microSteps v.bank v.f.sub).getD []
    (v.made v.rowsIn 0, t.putRows v.descB v.rowsIn fun t r =>
      let (x, cl) := t.readRow v.descA v.cov r
      (x.map fun a => (steps.foldl (microApply t v.bank) [a, flZero, flZero, flZero]).getD 0 flZero, t.countClamp cl))

/-- MICRO (R86). -/
def execMicro (c : Ctx) (f : Fields) (s : State) : Out := .next (s.issueUnit c (.micro c f) f microRun)

/-! ### SMAX (R74, R144, R156, R157) -/

/-- One level of the tree of R144: two present nodes add with one rounding, one passes unchanged. -/
def treeLevel : List (Option Fl) → List (Option Fl)
  | a :: b :: l =>
    (match a, b with
     | some x, some y => some (fAdd x y)
     | some x, none => some x
     | none, y => y) :: treeLevel l
  | l => l

/-- The tree of R144 over 2^`k` leaves; a leaf beyond the list is absent. -/
def treeSum (k : Nat) (l : List (Option Fl)) : Option Fl :=
  ((List.range k).foldl (fun v _ => treeLevel v) ((List.range (2 ^ k)).map fun i => (l.getD i none))).getD 0 none

/-- Levels for `n` leaves: ⌈log₂ n⌉. -/
def treeDepth (n : Nat) : Nat := bitLen (n - 1)

/-- A logit clamped to ±80.0, and whether it was (R74). -/
def clamp80 (z : Fl) : Fl × Bool :=
  if z.isNan || Fl.lt z (.fin true 80 0) then (.fin true 80 0, true)
  else if Fl.lt (.fin false 80 0) z then (.fin false 80 0, true)
  else (z, false)

/-- Softmax of a row whose sum takes the first `m` values: the quotients and the clamp count. -/
def softmax (m : Nat) (l : List Fl) : List Fl × Nat :=
  let cl := l.map clamp80
  let p := cl.map fun c => fExp c.1
  let t := (treeSum (treeDepth m) ((p.take m).map some)).getD flZero
  (p.map fun v => fDiv v t, (cl.filter fun c => c.2).length)

/-- Codes that end SMAX before its first input (R70, R74, R140). -/
def smaxCheck (s : State) (u : UCmd) : Option Byte :=
  let a := u.descA
  let b := u.descB
  lowest ([(s.sfuIdle, codeEpoch), (decide (2 ≤ u.f.sub), codeFormat), (a.xt || b.xt, codeFormat),
      (decide (b.rows < u.rowsMax), codeBounds)] ++
    (if bitOf u.f.sub 0 then
      [(decide (u.slotA ≠ u.slotB), codeBounds), (decide (a.fmt ≠ CHOICE) || decide (b.fmt ≠ CHOICE), codeFormat),
       (decide (a.k = 0), codeOffside), (decide (a.ext 0 < a.k + a.c), codeBounds)]
     else
      [(decide (a.fmt ≠ FP32) || decide (b.fmt ≠ FP32), codeFormat), (decide (a.rowLen ≠ b.rowLen), codeBounds)]))

/-- Clamps enter the event counter and the step record of the half (R156, R180); a command of no half counts for A. -/
def State.countClamps (s : State) (h : Option Half) (n : Nat) : State :=
  (s.bump 0x2204 n).countRec 5 ((h.getD 0).val) n

/-- One row of SMAX. -/
def smaxOne (u : UCmd) (s : State) (r : Nat) : State :=
  if bitOf u.f.sub 0 then
    let d := u.descA
    let rs := (List.range (d.k + d.c)).map (s.choice d r)
    let (q, n) := softmax d.k (rs.map fun c => f32 c.value)
    (rs.zip q).zipIdx.foldl (fun t ((c, v), j) => t.setChoice u.descB r j { c with value := toF32 v }) (s.countClamps u.half n)
  else
    let (x, cl) := s.readRow u.descA u.cov r
    let (q, n) := softmax x.length x
    ((s.countClamp cl).countClamps u.half n).putRow u.descB r q

/-- The SFU's pass over an SMAX. -/
def smaxRun (s : State) (u : UCmd) : State :=
  s.drive u smaxCheck State.bindSfu fun t v => (v.made v.rowsIn 0, eachRow v.rowsIn t (smaxOne v))

/-- SMAX (R74). -/
def execSmax (c : Ctx) (f : Fields) (s : State) : Out := .next (s.issueUnit c (.smax c f) f smaxRun)

end Sys2Proof.Machine
end

