-- ==== Sys2Proof/Machine/Digest.lean ====
section
/-! DEFINITION. The counter-based generator (R339 to R341) and the digests of the Referee (R342 to R344). -/

namespace Sys2Proof.Machine

/-! ### The generator (R339) -/

/-- The eight rounds: x0 to x3 and the two keys. -/
def genRounds : Nat → Word → Word → Word → Word → Word → Word → List Word
  | 0, x0, x1, x2, x3, _, _ => [x0, x1, x2, x3]
  | n + 1, x0, x1, x2, x3, ka, kb =>
    let p := (x0 ^^^ ka).toNat * 0xE817FB2D
    let q := (x2 ^^^ kb).toNat * 0x8F3C9A65
    genRounds n (x1 ^^^ BitVec.ofNat 32 (q / 2 ^ 32) ^^^ x3.rotateLeft 7) (BitVec.ofNat 32 p)
      (x3 ^^^ BitVec.ofNat 32 (p / 2 ^ 32) ^^^ x1.rotateLeft 13) (BitVec.ofNat 32 q)
      (ka + 0x5F1DA36B#32) (kb + 0xC92E0B47#32)

/-- The words w0 to w3 of a draw. -/
def genBlock (seed : DWord) (layer g e draw : Nat) : List Word :=
  genRounds 8 (BitVec.ofNat 32 (g % 2 ^ 30)) (BitVec.ofNat 32 (e % 4096 + layer % 256 * 65536))
    (BitVec.ofNat 32 (draw % 256)) 0x50444532#32 (seed.extractLsb' 0 32) (seed.extractLsb' 32 32)

/-- Word `i` of a draw under the seed in force. -/
def State.drawWord (s : State) (layer g e draw i : Nat) : Word := (genBlock s.seed layer g e draw).getD i 0

/-- The Gaussian of R147; 6.2831855 is the FP32 value 0x40C9_0FDB. -/
def State.gauss (s : State) (layer g e : Nat) : Fl :=
  let w := genBlock s.seed layer g e 0
  let u1 : Fl := .fin false ((w.getD 0 0).toNat / 256 + 1) (-24)
  let u2 : Fl := .fin false ((w.getD 1 0).toNat / 256) (-24)
  let rad := fSqrt (fMul (.fin true 2 0) (fLn u1))
  let ang := fMul (f32 0x40C90FDB#32) u2
  fMul rad (fCos ang)

/-! ### The Briale fold (R342) -/

def bIV : DWord := 0x425249414C450001#64
def bM1 : DWord := 0xC3A54D19B27E6F0B#64
def bM2 : DWord := 0x8E5127D3F0A91C65#64

/-- One word into the fold. -/
def bmix (h w : DWord) : DWord :=
  let h := (h ^^^ w) * bM1
  let h := h ^^^ (h >>> 29)
  h.rotateLeft 21

/-- Bytes folded eight at a time, the last word padded with zeros; fuel bounds the words. -/
def bfold : Nat → DWord → List Byte → DWord
  | 0, h, _ => h
  | n + 1, h, bs => match bs with
    | [] => h
    | _ => bfold n (bmix h (BitVec.ofNat 64 (leNat (bs.take 8)))) (bs.drop 8)

/-- The digest of a byte string. -/
def bdig (bs : List Byte) : DWord :=
  let h := bmix (bfold bs.length bIV bs) (BitVec.ofNat 64 bs.length)
  let h := (h ^^^ (h >>> 32)) * bM2
  h ^^^ (h >>> 29)

/-! ### Set digests being formed (R342, R343, R350) -/

/-- An item enters the set digest of a unit's half; its count rises. -/
def State.addItem (s : State) (unit h : Nat) (bs : List Byte) : State :=
  { s with ref := { s.ref with acc := (Tab.upd (0, 0#64) s.ref.acc (2 * unit + h) fun p => (p.1 + 1, p.2 + bdig bs)) } }

/-- The set digest of a unit's half begins anew. -/
def State.clearItems (s : State) (unit h : Nat) : State :=
  { s with ref := { s.ref with acc := Tab.set (0, 0#64) s.ref.acc (2 * unit + h) (0, 0#64) } }

/-- Item count and set digest of a unit's half. -/
def State.items (s : State) (unit h : Nat) : Nat × DWord := Tab.get (0, 0#64) s.ref.acc (2 * unit + h)

/-- A chip index as an item of a unit digest carries it: relative to `REF_PC_BASE.CHIP` (R350). -/
def State.relChip (s : State) (c : Nat) : Nat := (c + 8192 - s.fld 0x0E0144 12 0) % 8192

/-- A digest, of this chip or of its partner, enters the compare table (R352): it meets the other side's entry for the same
step, unit and half, or waits; a full table loses it. -/
def State.compareEnter (s : State) (mine : Bool) (d : Digest) : State :=
  let same (e : Compare) : Bool := decide (e.mine ≠ mine) && decide (e.d.step = d.step) && decide (e.d.unit = d.unit) &&
    decide (e.d.half = d.half)
  match s.ref.compares.find? same with
  | some e =>
    let t : State := { s with ref := { s.ref with compares := s.ref.compares.erase e } }
    if e.d.items = d.items ∧ e.d.value = d.value ∨ t.ref.divValid then t
    else
      let t : State := { t with ref := { t.ref with divValid := true, divUnit := BitVec.ofNat 8 d.unit, divHalf := d.half
                                                    divStep := d.step }
                                standing := if t.fldNow 0x0E0140 0 0 = 1 then 0 else t.standing }
      (t.raiseFlag 15 1).raiseInt 7
  | none =>
    if 128 ≤ s.ref.compares.length then s.raiseFlag 14 1
    else { s with ref := { s.ref with compares := s.ref.compares ++ [⟨mine, d⟩] } }

/-- The unit digest of a half is formed and its items begin anew (R350): with the channel in force it goes to the partner,
if its queue of 64 has room (R271), and into the compare table. Flow mode forms units 1, 2 and 5 only. -/
def State.formDigest (s : State) (unit : Nat) (h : Half) : State :=
  let (n, v) := s.items unit h.val
  let t := s.clearItems unit h.val
  if s.fld 0x0B0014 31 31 = 0 ∨ (!s.ordered ∧ unit ≠ 1 ∧ unit ≠ 2 ∧ unit ≠ 5) then t else
  let d : Digest := ⟨s.step, unit, h, BitVec.ofNat 32 n, v⟩
  let t := if 64 ≤ t.vol.digests.length then t.raiseFlag 14 1
    else { t with vol := { t.vol with digests := t.vol.digests ++ [d] } }
  t.compareEnter true d

/-- The digest of a unit's half, if the half is known. -/
def State.formFor (s : State) (unit : Nat) (h : Option Half) : State :=
  match h with
  | some g => s.formDigest unit g
  | none => s

/-- A row enters the digest of a unit's half, if the half is known: its global index in 8 bytes, then its bytes. -/
def State.addRow (s : State) (unit : Nat) (h : Option Half) (g : Nat) (bs : List Byte) : State :=
  match h with
  | some k => s.addItem unit k.val (natLe 8 g ++ bs)
  | none => s

/-! ### Component digests (R343, R344) -/

/-- The 64 KiB of a program-store region. -/
def State.regionBytes (s : State) (r : Nat) : List Byte :=
  (List.range 16384).flatMap fun j => natLe 4 (Tab.get 0#32 s.ps (16384 * r + j)).toNat

/-- The areas of an SFU bank that host software loads, in ascending order (R139). -/
def userAreas : List (Nat × Nat) :=
  [(0, 0x41000), (0x41400, 0x400), (0x46000, 0x4000), (0x4C000, 0x2000), (0x6E000, 0x20000)]

/-- The program digest for the active SFU bank (R343). -/
def State.programDigest (s : State) : DWord :=
  let h := (List.range 64).foldl (fun h r =>
    if s.locked r then bmix (bmix h (BitVec.ofNat 64 r)) (Tab.get 0#64 s.ref.regDig r) else h) bIV
  let b := s.tbl.sfu.bank
  bmix h (bdig (userAreas.flatMap fun (a, n) => (List.range n).map fun j => s.sfuByte b (a + j)))

/-- The program digest is formed anew: a lock bit or the active SFU bank has changed (R343). -/
def State.newProgramDigest (s : State) : State := { s with ref := { s.ref with progDig := s.programDigest } }

/-- The Briale digest of a half (R344): seven words. -/
def State.briale (s : State) (h : Half) : DWord :=
  let g := s.ref.halfGate.getD h.val 0
  let pred := s.reg (0x0E1000 + 8 * g) |>.toNat
  let predHi := s.reg (0x0E1004 + 8 * g) |>.toNat
  bdig ([s.ref.progDig.toNat, (Tab.get 0#64 s.ref.gateDig g).toNat, pred + predHi * 2 ^ 32,
    (s.ref.inDig.getD h.val 0).toNat, s.seed.toNat, b2n s.ordered + 256 * b2n s.gradeB,
    Config.behaviourId.toNat].flatMap (natLe 8))

end Sys2Proof.Machine
end

