-- ==== Sys2Proof/Machine/HostWrite.lean ====
section
/-! DEFINITION. What every host write shares: when the window answers (R323, R370), the code that it records (R370),
idleness (R12), and live and staged fields (R363 to R365). -/

namespace Sys2Proof.Machine

/-! ### Idle (R12) -/

/-- A received frame holds a copy, an answer or the end of a half, which keeps the engine from being idle (R12). -/
def Frame.held (f : Frame) : Bool := decide (f.kind = 1) || decide (f.kind = 2) || decide (f.kind = 5)

/-- No unit holds a token, copy, answer, record or result (R12). -/
def State.unitsEmpty (s : State) : Bool :=
  s.ucmds.isEmpty && s.flow.isEmpty && s.scout.bins.isEmpty && s.scout.audits.isEmpty && s.vol.jobs.isEmpty &&
  s.vol.rx.all (fun r => !r.2.held) && s.vol.parts.isEmpty &&
  s.vol.stuck.isEmpty && s.vol.sigs.isEmpty && s.vol.earlyEoh.isEmpty && s.vol.bufRefs.isEmpty && s.vol.rowBuf.isEmpty &&
  s.vol.digests.isEmpty && s.reb.bufs.isEmpty &&
  s.vol.ports.all (fun p => p.2.txq.isEmpty && p.2.retry.isEmpty) &&
  !s.hud.bankA.open_ && !s.hud.bankB.open_ && decide (s.hud.bankA.unsent = 0) && decide (s.hud.bankB.unsent = 0)

/-- The engine is idle (R12, R323). -/
def State.idle (s : State) : Bool :=
  decide (s.kick.st ≠ 0) && decide (s.kick.st ≠ 1) &&
  s.ctxs.all (fun c => decide (c.2.st = .free)) &&
  s.queues.all (fun q => q.2.head.isEmpty && q.2.mid.isEmpty && q.2.tail.isEmpty) && s.unitsEmpty &&
  s.reb.slots.all (fun r => decide (r.2.st = .free) && decide (r.2.res = 0)) &&
  !s.tbl.gateLd.busy && !s.tbl.repLd.busy && s.mp.maint.all (fun m => !m.host)

/-! ### The window's answer -/

/-- The window answers: K1 has ended (R323). -/
def State.served (s : State) : Bool := decide (s.kick.st ≠ 0) && s.kick.aligned

/-- K8 has not been reached: kickoff runs, or has stopped (R323, R370). Writes are refused. -/
def State.preService (s : State) : Bool := decide (s.kick.st = 1) || decide (s.kick.st = 3)

/-- A Referee register or the image window, which take writes before K8. -/
def refereeOffset (off : Nat) : Bool := decide (0x0E0000 ≤ off) && decide (off < 0x0F0000)

/-- A register of the observation port, whose settings may be written from the end of K1 on (R387; log entry 27). -/
def observeOffset (off : Nat) : Bool := decide (0x0F0000 ≤ off) && decide (off < 0x100000)

/-- The code and the offset of a host write are recorded, and the access is acknowledged (R370). -/
def State.wstat (s : State) (off : Nat) (code : Byte) : State :=
  let t := ({ s with pins := { s.pins with hwAck := true } } : State).setReg 0x3020 (BitVec.ofNat 32 (off % 2 ^ 24 + code.toNat * 2 ^ 24))
  if code = codeOk then t else t.bump 0x3024 1

/-- A host write at an offset: unanswered before K1 ends, refused before K8, otherwise `body`'s effect and code. -/
def State.hostWrite (s : State) (off : Nat) (body : State → Byte × State) : State :=
  if !s.served then s
  else if s.preService && !refereeOffset off && !observeOffset off then s.wstat off codeOffside
  else let (k, t) := body s; t.wstat off k

/-! ### Live fields (R364, R365) -/

/-- The unit group that reads the live fields of a register (R364). -/
def ownerOf (off : Nat) : Nat :=
  if off = 0x1048 then 0
  else if off < 0x010000 then 13
  else if off < 0x020000 then 0
  else if off < 0x060000 then 1
  else if off < 0x070000 then 3
  else if off < 0x080000 then 5
  else if off < 0x090000 then 6
  else if off < 0x0A0000 then 8
  else if off < 0x0B0000 then 9
  else if off < 0x0C0000 then 10
  else if off < 0x0D0000 then 11
  else if off < 0x0E0000 then 12
  else if off < 0x0F0000 then 13
  else if off < 0x100000 then 14
  else 8

/-- Adoption bit `u` is set, and DONE with the last of them (R364). -/
def State.setAdopt (s : State) (u : Nat) : State :=
  let t := s.setFld 0x1080 u u 1
  if t.fld 0x1080 14 0 = 0x7FFF then t.setFld 0x1080 31 31 1 else t

/-- Host writes of sync objects take effect (R49, R365). -/
def State.adoptSync (s : State) : State :=
  let t := s.syncWr.foldl (fun t (n, thr, v) =>
    t.setObj n (if thr then { t.obj n with thr := v } else { t.obj n with cnt := v })) s
  { t with syncWr := [] }

/-- Watermarks written and not adopted take effect (R220). -/
def State.adoptQueues (s : State) : State :=
  ((s.queues.filter fun q => q.2.due).map (·.1)).foldl State.adoptMarks s

/-- A live write owned by group `g` is noted: it counts, and every other group, which does not read the field,
sets its bit; a group behind on an earlier write adopts (R364). Group 13 adopts before the next access (R365). -/
def State.noteLive (s : State) (g : Nat) : State :=
  let t := if g = 1 then s else s.adoptSync
  let t := if g = 8 then t else t.adoptQueues
  let t := t.bump 0x1084 1
  let t := { t with lag := t.lag.filter (fun e => decide (ownerOf e.1 = g)) }
  let t := t.setReg 0x1080 (BitVec.ofNat 32 (0x7FFF - 2 ^ g))
  if g = 13 then t.setAdopt 13 else t

/-- The live fields of a register take a value, which their owner adopts later (R11, R364, R365). -/
def State.liveWrite (s : State) (off : Nat) (v : Word) : State :=
  let g := ownerOf off
  let old := s.regNow off
  let t := (s.setReg off v).noteLive g
  if g = 13 then t else
  { t with lag := Tab.set none t.lag off (if v = old then none else some old) }

end Sys2Proof.Machine
end

