-- ==== Sys2Proof/Machine/Link.lean ====
section
/-! DEFINITION. Frames and link ports: the CRC-32 (R246), the header cell and the data cells (R245), inline packets (R250),
the spray of frames over the ports in service (R256), and a port's way out of service (R247, R267, R270). -/

namespace Sys2Proof.Machine

/-! ### CRC-32 (R246) -/

/-- One byte into the reflected CRC-32. -/
def crc32Byte (c : Nat) (b : Byte) : Nat :=
  (List.range 8).foldl (fun c _ => if c % 2 = 1 then (c / 2) ^^^ 0xEDB88320 else c / 2) (c ^^^ b.toNat)

/-- The CRC-32 of a byte string. -/
def crc32 (bs : List Byte) : Nat := (bs.foldl crc32Byte 0xFFFFFFFF) ^^^ 0xFFFFFFFF

/-! ### Cells (R245) -/

/-- Data cells of a frame with `b` segment bytes. -/
def dataCells (b : Nat) : Nat := if b = 0 then 0 else ceilDiv (b + 4) 64

/-- Cells of a frame. -/
def Frame.cells (f : Frame) : Nat := 1 + dataCells f.data.length

/-- Bytes 0 to 59 of the header cell of a frame under a link sequence. -/
def Frame.header (f : Frame) (seq : Nat) : List Byte :=
  natLe 2 f.dest ++ natLe 2 f.origin ++ natLe 1 f.kind ++ natLe 1 (dataCells f.data.length) ++ natLe 3 seq ++
    natLe 1 f.half.val ++ [f.inst] ++ natLe 1 f.seg ++ natLe 4 f.pid.toNat ++ natLe 3 f.len ++ List.replicate 5 0#8 ++
    (f.inline_ ++ List.replicate 32 0#8).take 32 ++ List.replicate 4 0#8

/-- The cells of a frame on the wire. -/
def Frame.wire (f : Frame) (seq : Nat) : List Byte :=
  let h := f.header seq
  let n := 64 * dataCells f.data.length
  let d := f.data ++ List.replicate (n - 4 - f.data.length) 0#8
  h ++ natLe 4 (crc32 h) ++ (if n = 0 then [] else d ++ natLe 4 (crc32 d))

/-- A number of `n` bytes at byte `o` of a list. -/
def fieldLe (bs : List Byte) (o n : Nat) : Nat := leNat ((bs.drop o).take n)

/-- The frame and the link sequence that cells spell; the segment's byte count follows from the packet's length. -/
def frameOf (bs : List Byte) : Frame × BitVec 24 :=
  let len := fieldLe bs 16 3
  let seg := bitsOf (fieldLe bs 11 1) 5 0
  let kind := bitsOf (fieldLe bs 4 1) 3 0
  ({ dest := bitsOf (fieldLe bs 0 2) 12 0, origin := bitsOf (fieldLe bs 2 2) 12 0, kind := kind
     half := BitVec.toFin (BitVec.ofNat 1 (fieldLe bs 9 1)), inst := BitVec.ofNat 8 (fieldLe bs 10 1), seg := seg
     pid := BitVec.ofNat 32 (fieldLe bs 12 4), len := len, inline_ := (bs.drop 24).take 32
     data := (bs.drop 64).take (Min.min 1980 (len - 1980 * seg)) }, BitVec.ofNat 24 (fieldLe bs 6 3))

/-- Segments of a packet of `len` bytes. -/
def segments (len : Nat) : Nat := ceilDiv len 1980

/-! ### Ports -/

/-- Logical port `l`. -/
def State.port (s : State) (l : Nat) : Port := Tab.get Port.reset s.vol.ports l

/-- Logical port `l` becomes `p`. -/
def State.setPort (s : State) (l : Nat) (p : Port) : State :=
  { s with vol := { s.vol with ports := Tab.set Port.reset s.vol.ports l p } }

/-- A port carries frames: in service or at half width (R256). -/
def Port.up (p : Port) : Bool := decide (p.st = 2) || decide (p.st = 3)

/-- Cells in a port's frame queue. -/
def Port.queued (p : Port) : Nat := p.txq.foldl (fun a f => a + f.cells) 0

/-- The reach entry of a chip (R270); all bits set until a PSTATE replaces it (log entry 22). -/
def State.reach (s : State) (d : Nat) : DWord := Tab.get 0xFFFFFFFFFFFFFFFF#64 s.vol.reach d

/-- Logical ports eligible for a frame: in service, with their bit in the reach entry set (R256), from the rotation pointer on. -/
def State.eligible (s : State) (f : Frame) : List Nat :=
  ((List.range s.nLink).map fun i => (s.vol.rot + i) % s.nLink).filter fun l =>
    (s.port l).up && (s.reach f.dest).getLsbD l

/-- The first of the ports with the fewest queued cells. -/
def State.shortest (s : State) : List Nat → Option Nat
  | [] => none
  | l :: ls =>
    match s.shortest ls with
    | none => some l
    | some m => if (s.port l).queued ≤ (s.port m).queued then some l else some m

/-- A frame waits for a port, or for room. -/
def State.stick (s : State) (f : Frame) : State := { s with vol := { s.vol with stuck := s.vol.stuck ++ [f] } }

/-- A frame goes to the eligible port with the fewest queued cells; it waits when there is none, or when the frame queue, of 1024
cells, has no room for it (R255, R256). -/
def State.spray (s : State) (f : Frame) : State :=
  match s.shortest (s.eligible f) with
  | none => s.stick f
  | some l =>
    let p := s.port l
    if 1024 < p.queued + f.cells then s.stick f else
    let t := s.setPort l { p with txq := p.txq ++ [f] }
    { t with vol := { t.vol with rot := (l + 1) % s.nLink } }

/-- Cells of the receive store that no port owns, and that serve loopback (R248). -/
def loopbackCells : Nat := 9216

/-- Loopback frames wait, or the receive store has no room for one more of `n` cells. -/
def State.loopFull (s : State) (n : Nat) : Bool :=
  decide (loopbackCells < (s.vol.rx.filter fun r => r.1.isNone).foldl (fun a r => a + r.2.cells) n) ||
  s.vol.stuck.any fun f => decide (f.dest = s.chip)

/-- A frame leaves for its chip: over the ports, or by the loopback of R254 when that is this chip. -/
def State.sendFrame (s : State) (f : Frame) : State :=
  if f.dest ≠ s.chip then s.spray f
  else if s.loopFull f.cells then s.stick f
  else { s with vol := { s.vol with rx := s.vol.rx ++ [(none, f)] } }

/-- Frames leave in turn. -/
def State.sendFrames (s : State) (fs : List Frame) : State := fs.foldl State.sendFrame s

/-- An inline packet for a chip (R249, R250). -/
def State.inlineFrame (s : State) (dest kind : Nat) (h : Half) (inst : Byte) (bs : List Byte) : Frame :=
  ⟨dest, s.chip, kind, h, inst, 0, 0, 32, (bs ++ List.replicate 32 0#8).take 32, []⟩

/-- The frames of a packet with data cells: one for each segment of 1980 bytes (R245). -/
def State.packetFrames (s : State) (dest kind : Nat) (h : Half) (inst : Byte) (pid : Word) (tag bs : List Byte) : List Frame :=
  (List.range (segments bs.length)).map fun i =>
    ⟨dest, s.chip, kind, h, inst, i, pid, bs.length, (tag ++ List.replicate 32 0#8).take 32, (bs.drop (1980 * i)).take 1980⟩

/-- The SIGNAL frame of a remote signal (R250, R266). -/
def State.signalFrame (s : State) (g : SigOut) : Frame :=
  s.inlineFrame g.dest 3 0 0 (natLe 4 (g.obj % 32768 + g.amount * 32768) ++ natLe 2 g.seq.toNat ++ natLe 2 g.c.val)

/-! ### Into and out of service (R247, R267, R270) -/

/-- Bit l: logical port l is in service or at half width. -/
def State.pstate (s : State) : Nat := (List.range s.nLink).foldl (fun v l => v + b2n (s.port l).up * 2 ^ l) 0

/-- A PSTATE goes to every chip of the system, this one included (R270). -/
def State.sendPstate (s : State) : State :=
  s.sendFrames ((List.range s.sysSize).map fun d => s.inlineFrame d 8 0 0 (natLe 8 s.pstate))

/-- The state of a port changes: the link interrupt is set (R382), and every chip learns of a port that enters or leaves
service. -/
def State.portState (s : State) (l st : Nat) : State :=
  let p := s.port l
  if p.st = st then s else
  let t := (s.setPort l { p with st := st }).raiseInt 8
  if p.up = (t.port l).up then t else t.sendPstate

/-- A link begins again: no frame under a sequence, link sequences and credit counts from zero; cells of the receive store still in
use are not granted (log entry 77). -/
def Port.restart (p : Port) : Port :=
  { p with txq := [], retry := [], nextSeq := 0, rxSeq := 0, naks := [], missing := [], granted := 0, sent := 0
           grants := BitVec.ofNat 32 (1792 - p.rxCells) }

/-- A port leaves service for state `st`: its unacknowledged and waiting frames are sprayed on the other ports under new
sequences (R247). -/
def State.portDown (s : State) (l st : Nat) : State :=
  let p := s.port l
  let t := (s.setPort l p.restart).portState l st
  (p.retry.map (·.frame) ++ p.txq).foldl State.sendFrame t

/-- Frames that wait for a port or for room try again, oldest first. -/
def State.retryStuck (s : State) : State :=
  if s.vol.stuck = [] then s else s.vol.stuck.foldl State.sendFrame { s with vol := { s.vol with stuck := [] } }

end Sys2Proof.Machine
end

