-- ==== Sys2Proof/Machine/Local.lean ====
section
/-! DEFINITION. The control, sync and descriptor instructions, which execute in the sequencer (R45, R46, R50 to R52,
R65 to R69), with the fetch events beside them (R37, R43, R44, R51). -/

namespace Sys2Proof.Machine

/-- A control instruction issues (R32): `body` is its effect on a state in which the issue is noted. -/
def State.control (s : State) (c : Ctx) (i : Instr) (body : State → State) : State :=
  if s.canIssue c i then body (s.noteIssue c) else s

/-- Any other local instruction issues: it passes the journal (R356). -/
def State.localOp (s : State) (c : Ctx) (i : Instr) (f : Fields) (idx : List Nat) (writes : Bool)
    (body : State → State) : State :=
  if s.canIssue c i && !s.awaitsRemote c i then (s.noteIssue c).journalled c i f idx writes body else s

/-! ### Control class (R45, R46, R65) -/

/-- NOP does nothing (R65). -/
def execNop (c : Ctx) (f : Fields) (s : State) : Out :=
  .next (s.control c (.nop c f) fun t => t.retire c codeOk)

/-- END makes the context FREE once its outstanding commands have completed (R45). -/
def execEndProg (c : Ctx) (f : Fields) (s : State) : Out :=
  .next (s.control c (.endProg c f) fun t => (t.setCtx c { t.ctx c with drain := .toFree }).drained c)

/-- An instruction of R65 that writes `v` to xD. -/
def State.arith (s : State) (c : Ctx) (i : Instr) (f : Fields) (v : Context → DWord) : State :=
  s.control c i fun t => t.retireX c f.dst (v (t.ctx c))

/-- LI (R65). -/
def execLi (c : Ctx) (f : Fields) (s : State) : Out := .next (s.arith c (.li c f) f fun _ => immI f)

/-- LUI keeps the low word of xD (R65). -/
def execLui (c : Ctx) (f : Fields) (s : State) : Out :=
  .next (s.arith c (.lui c f) f fun x => f.imm ++ (x.xr f.dst).extractLsb' 0 32)

/-- ADD (R65). -/
def execAdd (c : Ctx) (f : Fields) (s : State) : Out :=
  .next (s.arith c (.add c f) f fun x => x.xr f.srcA + opndB x f)

/-- SUB (R65). -/
def execSub (c : Ctx) (f : Fields) (s : State) : Out :=
  .next (s.arith c (.sub c f) f fun x => x.xr f.srcA - opndB x f)

/-- AND (R65). -/
def execAnd (c : Ctx) (f : Fields) (s : State) : Out :=
  .next (s.arith c (.and c f) f fun x => x.xr f.srcA &&& opndB x f)

/-- OR (R65). -/
def execOr (c : Ctx) (f : Fields) (s : State) : Out :=
  .next (s.arith c (.or c f) f fun x => x.xr f.srcA ||| opndB x f)

/-- XOR (R65). -/
def execXor (c : Ctx) (f : Fields) (s : State) : Out :=
  .next (s.arith c (.xor c f) f fun x => x.xr f.srcA ^^^ opndB x f)

/-- SHL shifts by operand B modulo 64 (R65). -/
def execShl (c : Ctx) (f : Fields) (s : State) : Out :=
  .next (s.arith c (.shl c f) f fun x => x.xr f.srcA <<< ((opndB x f).toNat % 64))

/-- SHR is a logical shift by operand B modulo 64 (R65). -/
def execShr (c : Ctx) (f : Fields) (s : State) : Out :=
  .next (s.arith c (.shr c f) f fun x => x.xr f.srcA >>> ((opndB x f).toNat % 64))

/-- MUL keeps the low 64 bits (R65). -/
def execMul (c : Ctx) (f : Fields) (s : State) : Out :=
  .next (s.arith c (.mul c f) f fun x => x.xr f.srcA * opndB x f)

/-- MIN compares as signed values (R65). -/
def execMin (c : Ctx) (f : Fields) (s : State) : Out :=
  .next (s.arith c (.min c f) f fun x => if (x.xr f.srcA).slt (opndB x f) then x.xr f.srcA else opndB x f)

/-- MAX compares as signed values (R65). -/
def execMax (c : Ctx) (f : Fields) (s : State) : Out :=
  .next (s.arith c (.max c f) f fun x => if (opndB x f).slt (x.xr f.srcA) then x.xr f.srcA else opndB x f)

/-- A branch on `take` (R45, R65): a taken one moves the program counter by the immediate in instructions. -/
def State.branchIf (s : State) (c : Ctx) (i : Instr) (f : Fields) (take : Context → Bool) : State :=
  s.control c i fun t =>
    if take (t.ctx c) then t.branch c (((t.ctx c).pc : Int) + 8 * f.imm.toInt) else t.retire c codeOk

/-- BEQ (R65). -/
def execBeq (c : Ctx) (f : Fields) (s : State) : Out :=
  .next (s.branchIf c (.beq c f) f fun x => decide (x.xr f.srcA = x.xr f.srcB))

/-- BNE (R65). -/
def execBne (c : Ctx) (f : Fields) (s : State) : Out :=
  .next (s.branchIf c (.bne c f) f fun x => decide (x.xr f.srcA ≠ x.xr f.srcB))

/-- BLT, signed (R65). -/
def execBlt (c : Ctx) (f : Fields) (s : State) : Out :=
  .next (s.branchIf c (.blt c f) f fun x => (x.xr f.srcA).slt (x.xr f.srcB))

/-- BGE, signed (R65). -/
def execBge (c : Ctx) (f : Fields) (s : State) : Out :=
  .next (s.branchIf c (.bge c f) f fun x => !(x.xr f.srcA).slt (x.xr f.srcB))

/-- BLTU, unsigned (R65). -/
def execBltu (c : Ctx) (f : Fields) (s : State) : Out :=
  .next (s.branchIf c (.bltu c f) f fun x => (x.xr f.srcA).ult (x.xr f.srcB))

/-- Entry to a loop (R46): `bad` is a further ground of BOUNDS. A full stack is OFFSIDE, which R16 puts first; a trip
count of 0 goes on as though the last instruction of the body had just issued. -/
def State.enterLoop (s : State) (c : Ctx) (f : Fields) (trip : Nat) (bad : Bool) : State :=
  let x := s.ctx c
  let body := bitsOf f.imm.toNat 31 16
  match lowest [(decide (4 ≤ x.loops.length), codeOffside), (decide (body = 0), codeBounds), (bad, codeBounds)] with
  | some k => s.retire c k
  | none =>
    if trip = 0 then
      let y := (x.record codeOk x.pc).after (x.pc + 8 * body)
      s.setCtx c y
    else
      let y := (x.record codeOk x.pc).setX f.dst 0#64
      s.setCtx c { y with pc := x.pc + 8, loops := ⟨0, trip, x.pc + 8, body, f.dst⟩ :: x.loops }

/-- LOOP: trip count imm[15:0] (R39, R46). -/
def execLoop (c : Ctx) (f : Fields) (s : State) : Out :=
  .next (s.control c (.loop c f) fun t => t.enterLoop c f (bitsOf f.imm.toNat 15 0) false)

/-- LOOPV: trip count xA[31:0]; BOUNDS when xA[63:32] is not zero (R46). -/
def execLoopv (c : Ctx) (f : Fields) (s : State) : Out :=
  .next (s.control c (.loopv c f) fun t =>
    let a := ((t.ctx c).xr f.srcA).toNat
    t.enterLoop c f (a % 2 ^ 32) (decide (2 ^ 32 ≤ a)))

/-- STAT: LAST and FIRST as they stand at its issue (R66). -/
def execStat (c : Ctx) (f : Fields) (s : State) : Out :=
  .next (s.localOp c (.stat c f) f [] true fun t =>
    let x := t.ctx c
    t.retireX c f.dst (BitVec.ofNat 64 (x.last.toNat + 256 * x.first.toNat)))

/-- The value that SYSR selects (R66). -/
def State.sysValue (s : State) (c : Ctx) (sel : Nat) : Option Nat :=
  match sel with
  | 0 => some s.chip
  | 1 => some s.sysSize
  | 2 => some s.step.toNat
  | 3 => some c.val
  | 4 => some (b2n s.ordered)
  | 5 => some (b2n s.gradeB)
  | 6 => some ((s.gen 0).toNat + 4 * (s.gen 1).toNat)
  | 7 => some (match s.tbl.rep.active with | some e => e.toNat + 256 | none => 0)
  | _ => none

/-- SYSR (R66): a selector that is not defined ends with BOUNDS. -/
def execSysr (c : Ctx) (f : Fields) (s : State) : Out :=
  .next (s.localOp c (.sysr c f) f [] true fun t =>
    match t.sysValue c (bitsOf f.imm.toNat 7 0) with
    | some v => t.retireX c f.dst (BitVec.ofNat 64 v)
    | none => t.retire c codeBounds)

/-! ### Sync class (R50 to R52, R67) -/

/-- SIGNAL (R50). -/
def execSignal (c : Ctx) (f : Fields) (s : State) : Out :=
  .next (s.localOp c (.signal c f) f [sObj (s.ctx c) f] false fun t =>
    (t.signal (sObj (t.ctx c) f) (sAmount f)).retire c codeOk)

/-- WAIT writes the threshold if srcB is not x0, and blocks its context (R51). The context holds the WAIT's program
counter until it is released. -/
def execWait (c : Ctx) (f : Fields) (s : State) : Out :=
  .next (s.localOp c (.wait c f) f [sObj (s.ctx c) f] false fun t =>
    let x := t.ctx c
    let n := sObj x f
    let t := if f.srcB ≠ 0 then t.setObj n { t.obj n with thr := (x.xr f.srcB).extractLsb' 0 32 } else t
    t.setCtx c { x with st := .waiting, wait := .object n (f.flags.getLsbD 0) })

/-- REMOTE.SIGNAL (R52, R60, R67, R266): BOUNDS for a chip at or above the system size; otherwise the signal is sent under the next
sequence and the context goes on, the code to come with the acknowledgement. -/
def execRemoteSignal (c : Ctx) (f : Fields) (s : State) : Out :=
  .next (s.localOp c (.remoteSignal c f) f [bitsOf f.imm.toNat 14 0] false fun t =>
    let x := t.ctx c
    let d := (x.xr f.srcA).toNat % 8192
    if t.sysSize ≤ d then t.retire c codeBounds
    else
      let g : SigOut := ⟨t.vol.sigSeq, c, x.pc, d, bitsOf f.imm.toNat 14 0, sAmount f⟩
      let t : State := { t with vol := { t.vol with sigs := t.vol.sigs ++ [g], sigSeq := t.vol.sigSeq + 1 } }
      (t.setCtx c (x.after x.pc)).sendFrame (t.signalFrame g))

/-- CSSET (R67). -/
def execCsset (c : Ctx) (f : Fields) (s : State) : Out :=
  .next (s.localOp c (.csset c f) f [sObj (s.ctx c) f] false fun t =>
    let x := t.ctx c
    (t.setCtx c { x with cs := Tab.set 0 x.cs (bitsOf f.flags.toNat 1 0) (sObj x f) }).retire c codeOk)

/-! ### Descriptor class (R47, R68, R69, R107) -/

/-- DESC writes its destination slot with new contents that validate; every outstanding command that names the slot
keeps its copy, and will not set VEXT in it (R48, R115). -/
def State.writeSlot (s : State) (n : Nat) (d : Slot) : State :=
  { s.setSlot n d with ucmds := s.ucmds.map fun u => { u with rew := n :: u.rew } }

/-- The 64 bytes of a descriptor image of the region that holds a program counter (R68). -/
def State.image (s : State) (pc n : Nat) : Line :=
  let w := (pc / 0x10000 * 0x10000 + 64 * n) / 4
  BitVec.ofNat 512 ((List.range 16).foldl (fun v j => v + (Tab.get 0#32 s.ps (w + j)).toNat * 2 ^ (32 * j)) 0)

/-- DESC with contents `l`: validated, then written or refused (R68, R107). -/
def State.descWrite (s : State) (c n : Nat) (l : Line) : State :=
  let k := s.validate l
  if k = codeOk then (s.writeSlot n ⟨l, true⟩).retire c codeOk else s.retire c k

/-- DESC LOAD (R68). The row also holds the sub-operations that R68 refuses with FORMAT; of several grounds the lowest code is the
one returned (R16). The image index is the plain sum of R68 (log entry 78). -/
def execDescLoad (c : Ctx) (f : Fields) (s : State) : Out :=
  .next (s.localOp c (.descLoad c f) f [ddFirst (s.ctx c) f, ddSecond (s.ctx c) f] false fun t =>
    let x := t.ctx c
    let n := bitsOf f.imm.toNat 11 0 + (x.xr f.srcA).toNat % 4096
    let op := f.sub % 4
    match lowest [(decide (4 ≤ f.sub) || decide (op = 3), codeFormat), (decide (op = 0) && decide (1024 ≤ n), codeBounds),
        (decide (op = 1) && !(t.slot (ddFirst x f)).valid, codeOffside)] with
    | some k => t.retire c k
    | none => if op = 0 then t.descWrite c (ddSecond x f) (t.image x.pc n) else t)

/-- DESC CLONE (R68): a source slot that is not valid ends with OFFSIDE. -/
def execDescClone (c : Ctx) (f : Fields) (s : State) : Out :=
  .next (s.localOp c (.descClone c f) f [ddFirst (s.ctx c) f, ddSecond (s.ctx c) f] false fun t =>
    let x := t.ctx c
    let d := t.slot (ddFirst x f)
    if !d.valid then t.retire c codeOffside else t.descWrite c (ddSecond x f) d.bits)

/-- DESC INVAL (R68): the slot becomes invalid; validation is skipped. -/
def execDescInval (c : Ctx) (f : Fields) (s : State) : Out :=
  .next (s.localOp c (.descInval c f) f [ddSecond (s.ctx c) f] false fun t =>
    let n := ddSecond (t.ctx c) f
    (t.writeSlot n ⟨(t.slot n).bits, false⟩).retire c codeOk)

/-- Free bytes bound of one scout staging half for each scout tile (R199): 2 MiB of the engine's staging area. -/
def stagingBytes : Nat := 2097152

/-- A value of the manifest lies outside the hard limits of R18. -/
def fitUnsup (m : Manifest) : Bool :=
  let out (v lo hi : Nat) : Bool := decide (v < lo) || decide (hi < v)
  out m.dModel 512 16384 || decide (m.dModel % 256 ≠ 0) || out m.experts 2 4096 ||
  out m.choices 1 16 || decide (m.experts < m.choices) || decide (4 < m.cands) || decide (m.experts < m.choices + m.cands) ||
  decide (m.repMin < 1) || decide (16 < m.repMax) || decide (65536 < m.repTotal) || decide (64 < m.steered) ||
  out m.ffn 64 65536 || decide (m.ffn % 64 ≠ 0) || out m.layers 1 256 || out m.halfTokens 1 65536 || out m.chips 1 8192

/-- Port `p`, which the program assigns to return, feeds a queue of the return class and no other (R27). -/
def State.returnPort (s : State) (p : Nat) : Bool :=
  match s.ingLeader p with
  | some l => (s.ingQueues l).all fun q => decide ((s.queue q).cls = .ret)
  | none => false

/-- Bytes of a buffer of the RECEIVE pool; 0 where there is none. -/
def State.receiveBytes (s : State) : Nat := match s.poolOf 1 with | some n => s.bufBytes n | none => 0

/-- The resource mask of FIT (R69). -/
def State.fitMask (s : State) (m : Manifest) : Nat :=
  let pools (k : Nat) : Nat := match s.poolOf k with | some n => s.poolCount n - s.quarCount n | none => 0
  let free := (List.range 4096).foldl (fun a q => if (s.queue q).cls = .disabled then a + 1 else a) 0
  let bits : List Bool :=
    [decide (33554432 < m.gateBytes) && decide (m.gateBytes ≤ 67108864), decide (67108864 < m.gateBytes),
     m.returnPorts.isEmpty || m.returnPorts.any (fun p => !s.returnPort p.val),
     decide (pools 1 < 2 * m.recvCopies) || decide (s.receiveBytes < 192 + m.payload),
     decide (s.fld 0x0C0000 12 0 = 0) || decide (s.reb.aslots < m.answers),
     decide (67108864 < m.spillMax) || decide (s.stackBytes < m.spillSum),
     decide (4096 < m.slotFirst + m.slotCount), decide (free < m.queues), decide (s.nSeq < m.sequencers),
     decide (s.nLink < m.links), decide (stagingBytes < m.predictor), decide (s.freeSlots < m.tokens)]
  bits.zipIdx.foldl (fun v (b, i) => v + b2n b * 2 ^ i) 0

/-- FIT (R18, R69): the manifest is image n with the three behind it; what its 256 bytes say is a free value. -/
def execFit (c : Ctx) (f : Fields) (s : State) : Out :=
  .next (s.localOp c (.fit c f) f [] true fun t =>
    let pc := (t.ctx c).pc
    let n := bitsOf f.imm.toNat 11 0
    let m := Config.manifest ((List.range 4).flatMap fun j => lineBytes (t.image pc (n + j)))
    if fitUnsup m then t.retire c codeUnsup
    else
      let v := t.fitMask m
      if f.flags.getLsbD 0 then t.retireX c f.dst (BitVec.ofNat 64 v)
      else if 4 ≤ v then t.retire c codeFit else t.retire c codeOk)

/-! ### Fetch events (R37, R43, R44) -/

/-- Context `c` may take its next instruction: RUNNING and not on its way to another state. -/
def State.atIssue (s : State) (c : Ctx) : Bool :=
  let x := s.ctx c
  decide (x.st = .running) && decide (x.drain = .no) && !x.trapDue && decide (c.val < 4 * s.nSeq)

/-- A trap whatever the setting of TRAPEN, precise, at the instruction that the context holds. -/
def State.trapAlways (s : State) (c : Ctx) (code : Byte) : State :=
  let x := s.ctx c
  (s.setCtx c (x.record code x.pc)).trap c x.pc true

/-- UNDEFINED_INSTRUCTION (R37): FORMAT is recorded and the context traps. -/
def execUndefinedInstruction (c : Ctx) (s : State) : Out :=
  let x := s.ctx c
  .next (if s.atIssue c && s.fetchable x.pc && s.icHeld c x.pc && (decodeWord c (s.psWord x.pc)).isNone
    then (s.icTouch c x.pc).trapAlways c codeFormat else s)

/-- UNLOCKED_REGION_FETCH (R43): OFFSIDE is recorded and the context traps. -/
def execUnlockedRegionFetch (c : Ctx) (s : State) : Out :=
  .next (if s.atIssue c && !s.fetchable (s.ctx c).pc then s.trapAlways c codeOffside else s)

/-- A line goes into the cache unless it is held already (R44). -/
def State.icFill (s : State) (c pc : Nat) : State := if s.icHeld c pc || decide (psBytes ≤ pc) then s else s.icTouch c pc

/-- ICACHE_MISS_FILL (R44): the line of the missing context's next instruction, and the next line, are filled. -/
def execIcacheMissFill (c : Ctx) (s : State) : Out :=
  let pc := (s.ctx c).pc
  .next (if s.atIssue c && s.fetchable pc && !s.icHeld c pc then
      ((s.bump (0x010408 + 0x800 * (c.val / 4)) 1).icFill c (pc + 64)).icFill c pc
    else s)

/-! ### Waiters (R51) -/

/-- A context released from a WAIT with a code: the code is recorded, the journal learns it, and the context goes on
or traps (R51, R56, R57). -/
def State.endWait (s : State) (c : Nat) (code : Byte) : State :=
  let x := s.ctx c
  let s1 := s.setCtx c { x with st := .running, wait := .nothing, trapDue := false }
  let s2 := (s1.closeEntry c false x.serial ⟨code, 0⟩).retire c code
  if x.trapDue ∧ (s2.ctx c).st = CtxState.running then s2.trap c (s2.ctx c).pc false else s2

/-- Waiters of object `n` among contexts `c` and up, in ascending order, each tested against the count that the ones
before it left (R51). -/
def State.releaseFrom (s : State) (n : Nat) : Nat → Nat → State
  | _, 0 => s
  | c, k + 1 =>
    let o := s.obj n
    let s1 := match (s.ctx c).wait with
      | .object m consume =>
        if m = n ∧ o.thr ≤ o.cnt ∧ (s.ctx c).st = CtxState.waiting then
          (if consume then s.setObj n { o with cnt := o.cnt - o.thr } else s).endWait c codeOk
        else s
      | _ => s
    s1.releaseFrom n (c + 1) k

/-- SYNC_WAITER_RELEASE (R51): every waiter of the object is evaluated. -/
def execSyncWaiterRelease (obj : Fin 32768) (s : State) : Out := .next (s.releaseFrom obj.val 0 128)

/-- WAIT_TIMEOUT (R51): with a limit set, a WAIT that lasts that long ends with TIMEOUT and subtracts nothing. -/
def execWaitTimeout (c : Ctx) (s : State) : Out :=
  let x := s.ctx c
  .next (match x.wait with
    | .object _ _ => if s.regNow 0x1048 ≠ 0 ∧ x.st = CtxState.waiting then s.endWait c codeTimeout else s
    | _ => s)

/-! ### Remote signals end (R52, R67) -/

/-- The REMOTE.SIGNAL of a context ends with a code: the signal is no longer awaited, and the code is recorded under its program
counter. A trap on it holds that program counter (R57); a context that waits traps once it is released, and one that a HALT
stops takes no trap (log entry 81). In a replay that has not come to it yet its journal entry alone takes the code (R358). -/
def State.endRemote (s : State) (g : SigOut) (code : Byte) : State :=
  let c := g.c.val
  let t : State := { s with vol := { s.vol with sigs := s.vol.sigs.erase g } }
  if t.aheadRemote c g.seq then t.closeRemote c g.seq ⟨code, 0⟩ else
  let t := (t.setCtx c ((t.ctx c).record code g.pc)).closeRemote c g.seq ⟨code, 0⟩
  let x := t.ctx c
  let t :=
    if !t.trapOn c code then t else
    match x.st with
    | .running =>
      if x.drain = .toHalted then t else (if x.drain = .toStepwait then t.dropOpen c else t).trap c g.pc true
    | .waiting => t.setCtx c { x with trapDue := true }
    | _ => t
  t.drained c

end Sys2Proof.Machine
end

