-- ==== Sys2Proof/Machine/Tables.lean ====
section
/-! DEFINITION. The double-banked tables: EPOCH and the release of a bank (R89, R140, R152, R163, R164, R188), the gate
loader (R149 to R154) and the replica-table loader (R160 to R163). -/

namespace Sys2Proof.Machine

/-! ### Banks and epochs (R89) -/

/-- Table `t`: 0 replica, 1 gate, 2 SFU with scout, 3 bias. -/
def State.banked (s : State) (t : Nat) : Banked :=
  match t with
  | 0 => s.tbl.rep
  | 1 => s.tbl.gate
  | 2 => s.tbl.sfu
  | _ => s.tbl.bias

/-- Table `t` becomes `b`. -/
def State.setBanked (s : State) (t : Nat) (b : Banked) : State :=
  match t with
  | 0 => { s with tbl := { s.tbl with rep := b } }
  | 1 => { s with tbl := { s.tbl with gate := b } }
  | 2 => { s with tbl := { s.tbl with sfu := b } }
  | _ => { s with tbl := { s.tbl with bias := b } }

/-- The shadow bank: the one that is not active, or bank 0 while none is. -/
def Banked.shadow (b : Banked) : Fin 2 := if b.active.isSome then 1 - b.bank else 0

/-- The epoch that the next switch makes active. -/
def Banked.nextEpoch (b : Banked) : Byte := match b.active with | some e => e + 1 | none => 0

/-- The command holds tokens in flight of epoch `e` of table `t`. -/
def UCmd.holdsEpoch (u : UCmd) (t : Nat) (e : Byte) : Bool :=
  u.started && u.blocks &&
  (match t with
   | 0 => decide (unitOf u.op = 3) && decide (u.epoch = e)
   | 1 => decide (unitOf u.op = 1) && u.segs.any fun g => decide (g.epoch = e)
   | 2 => (decide (unitOf u.op = 0) || decide (unitOf u.op = 4)) && decide (u.epoch = e)
   | _ => decide (unitOf u.op = 1) && u.segs.any fun g => decide (g.biasEpoch = 1 + e.toNat))

/-- A unit reads the earlier bank of table `t` still. -/
def State.oldInFlight (s : State) (t : Nat) : Bool :=
  match (s.banked t).active with
  | some e => s.ucmds.any fun u => u.holdsEpoch t (e - 1)
  | none => false

/-- EPOCH_RELEASE (R89): the tokens of the old epoch have left, and its bank is released. -/
def execEpochRelease (t : Fin 4) (s : State) : Out :=
  .next (if (s.banked t.val).oldHeld && !s.oldInFlight t.val then
    s.setBanked t.val { s.banked t.val with oldHeld := false } else s)

/-! ### Gates (R149, R150) -/

/-- Bytes of an element of a gate. -/
def gateElem (fmt : Nat) : Nat := if fmt = BF16 then 2 else 1

/-- Bytes of a gate row. -/
def GateMeta.rowBytes (g : GateMeta) : Nat :=
  (if g.sblk = 0 then 0 else scaleHeader g.sblk g.d) + g.d * gateElem g.fmt

/-- Bytes of a gate. -/
def GateMeta.bytes (g : GateMeta) : Nat := g.e * g.rowBytes

/-- Mode of a gate: 0 double-banked, 1 resident single-bank, 2 streamed (R150). -/
def GateMeta.mode (g : GateMeta) : Nat :=
  if g.bytes ≤ 33554432 then 0 else if g.bytes ≤ 67108864 then 1 else 2

/-- Gate-table entry `n`. -/
def State.gateEntry (s : State) (n : Nat) : GateMeta :=
  let b := 0x061000 + 0x10 * n
  { entry := BitVec.ofNat 8 n, base := s.fld b 31 8 * 256 + s.fld (b + 4) 15 0 * 2 ^ 32, fmt := s.fld (b + 4) 20 16
    sblk := s.fld (b + 4) 23 21, e := s.fld (b + 8) 11 0 + 1, d := 256 * s.fld (b + 8) 22 16 }

/-- The format, scale code, E and d fields of an entry are valid (R151, R159). -/
def GateMeta.ok (g : GateMeta) : Bool :=
  (is8bit g.fmt || decide (g.fmt = BF16)) && decide (g.sblk ≤ 5) && (decide (g.sblk = 0) || is8bit g.fmt) &&
  decide (2 ≤ g.e) && decide (512 ≤ g.d) && decide (g.d ≤ 16384)

/-- The bytes lie wholly inside one enabled tensor region. -/
def State.inRegion (s : State) (a n : Nat) : Bool :=
  (List.range 256).any fun r =>
    let (b, z, en) := s.region r
    en && decide (b ≤ a) && decide (a + n ≤ b + z)

/-- Cause of a refused start of the gate loader (R151). -/
def State.gateCause (s : State) (n : Nat) : Nat :=
  let g := s.gateEntry n
  if s.fld (0x06100C + 0x10 * n) 0 0 = 0 then 1
  else if !g.ok then 3
  else if !s.inRegion g.base g.bytes then 2 else 0

/-- A loader refuses a start: the cause is recorded and the gate-load-error flag is set. -/
def Loader.refuse (l : Loader) (cause : Nat) : Loader := { l with cause := BitVec.ofNat 3 cause }

/-- A load of gate-table entry `n` starts, or is refused (R151). -/
def State.startGate (s : State) (n : Nat) : State :=
  let l := s.tbl.gateLd
  match s.gateCause n with
  | 0 => { s with tbl := { s.tbl with gateLd :=
      { l with busy := true, fresh := true, deferred := false, gate := s.gateEntry n, layer := BitVec.ofNat 8 n } } }
  | k => ({ s with tbl := { s.tbl with gateLd := { l.refuse k with deferred := false } } } : State).raiseFlag 3 1

/-- COUNT of an AUTO rotation: 1 to 256, other values as 256. -/
def rotation (v : Nat) : Nat := if 1 ≤ v ∧ v ≤ 256 then v else 256

/-- The AUTO start that follows a gate switch, at once or deferred (R151). -/
def State.autoGate (s : State) : State :=
  if s.fldNow 0x060004 17 17 = 0 then s
  else if s.tbl.gateLd.busy then { s with tbl := { s.tbl with gateLd := { s.tbl.gateLd with deferred := true } } }
  else s.startGate ((s.tbl.gateNow.entry.toNat + 1) % rotation (s.fldNow 0x060004 16 8))

/-- A write of `SCORE_GLD_CTRL` (R151): with GO the load of the named entry starts, or is refused. -/
def State.gldWrite (s : State) (v : Word) : Byte × State :=
  let t := s.liveWrite 0x060004 (v &&& 0x0003FFFF#32)
  if !v.getLsbD 31 then (codeOk, t)
  else if t.tbl.gateLd.busy then
    (codeOk, ({ t with tbl := { t.tbl with gateLd := t.tbl.gateLd.refuse 4 } } : State).raiseFlag 3 1)
  else (codeOk, t.startGate (bitsOf v.toNat 7 0))

/-- GLD_GO (R151): a write of `SCORE_GLD_CTRL` with GO set. -/
def execGldGo (v : Word) (s : State) : Out := .next (s.hostWrite 0x060004 fun t => t.gldWrite (v ||| 0x80000000#32))

/-- Bank of the gate store that a load fills: that of the epoch that waits for the fill, or the shadow bank. -/
def State.gateTarget (s : State) : Fin 2 := if s.tbl.gate.fill then s.tbl.gate.bank else s.tbl.gate.shadow

/-- The space that the started load writes is released (R151, R153): one bank for a double-banked gate, both for a larger one. An
active gate holds its own, one that the load itself has become apart (R152). A streamed gate holds both as stream buffers (R154). -/
def State.gateSpaceFree (s : State) : Bool :=
  let b := s.tbl.gate
  let whole (g : GateMeta) : Bool := decide (g.mode ≠ 0)
  let own := !s.tbl.gateLd.fresh
  let activeHolds := b.active.isSome && !own
  match s.tbl.gateLd.gate.mode with
  | 0 => !(activeHolds && whole s.tbl.gateNow) && !(b.oldHeld && (whole s.tbl.gateOld || !own))
  | _ => !activeHolds && !b.oldHeld

/-- A sync object is signalled by 1 when EN of a sync register is set. -/
def State.signalIf (s : State) (off : Nat) : State :=
  if s.fldNow off 15 15 = 1 then s.signal (s.fldNow off 14 0) 1 else s

/-- A loader reads a poisoned image (R305): the loss is reported and the load does not complete; it reads the image again once it
is good (log entry 83). -/
def State.imageLostRead (s : State) (a n : Nat) : Option State := (s.lostIn a n).map fun l => s.lostRead l none

/-- GATE_LOAD_COMPLETE (R151, R152, R343): the image is in the store, its digest is kept, the fill-pending state ends,
the sync object is signalled, and a deferred AUTO start follows. -/
def execGateLoadComplete (s : State) : Out :=
  let l := s.tbl.gateLd
  .next (if !(l.busy && s.gateSpaceFree) then s else
    match s.imageLostRead l.gate.base l.gate.bytes with
    | some t => t
    | none =>
      let img := s.bytes l.gate.base l.gate.bytes
      let mem := if l.gate.mode = 2 then s.tbl.gateMem
        else bytesWrite s.tbl.gateMem (if l.gate.mode = 1 then 0 else s.gateTarget.val * 33554432) img
      let t : State := { s with
        tbl := { s.tbl with gateMem := mem, gateLd := { l with busy := false, deferred := false }
                            gate := { s.tbl.gate with fill := false } }
        ref := { s.ref with gateDig := Tab.set 0 s.ref.gateDig l.layer.toNat (bdig img) } }
      let t := t.signalIf 0x060008
      if l.deferred then t.autoGate else t)

/-! ### The replica table (R160 to R163) -/

/-- Bytes of a bank of the replica store, as the model lays the two banks out. -/
def repBank : Nat := 0x80000

/-- A 32-bit field of a replica bank. -/
def State.repWord (s : State) (bank : Fin 2) (off : Nat) : Nat := loadLe s.tbl.repMem (bank.val * repBank + off) 4

/-- Layer, E and NREP of a bank's header. -/
def State.repLayer (s : State) (bank : Fin 2) : Nat := bitsOf (s.repWord bank 0) 7 0
def State.repE (s : State) (bank : Fin 2) : Nat := bitsOf (s.repWord bank 0) 19 8 + 1
def State.repN (s : State) (bank : Fin 2) : Nat := s.repWord bank 4

/-- Host chip and CAP of replica entry `n` of a bank. -/
def State.repEntry (s : State) (bank : Fin 2) (n : Nat) : Nat × Nat :=
  let v := s.repWord bank (0x4100 + 4 * n)
  (bitsOf v 12 0, bitsOf v 31 16)

/-- The sum of CAP over the entries of a bank whose host chip is this chip (R163). -/
def State.capSum (s : State) (bank : Fin 2) : Nat :=
  let lo := bank.val * repBank + 0x4100
  s.tbl.repMem.foldl (fun a (k, v) =>
    if lo ≤ k ∧ k < lo + 0x40000 ∧ 2 ≤ (k - lo) % 4 ∧ (s.repEntry bank ((k - lo) / 4)).1 = s.chip then
      a + v.toNat * 256 ^ ((k - lo) % 4 - 2)
    else a) 0

/-- Base of the image of replica-table entry `n`. -/
def State.repBase (s : State) (n : Nat) : Nat :=
  s.fld (0x071000 + 0x10 * n) 31 8 * 256 + s.fld (0x071004 + 0x10 * n) 15 0 * 2 ^ 32

/-- The header of an image of entry `n` at an address is valid (R162). -/
def State.repHeaderOk (s : State) (n a : Nat) : Bool :=
  let w := s.num a 4
  let nrep := s.num (a + 4) 4
  decide (bitsOf w 7 0 = n) && decide (1 ≤ bitsOf w 19 8) && decide (bitsOf w 31 20 = 0) &&
  decide (1 ≤ nrep) && decide (nrep ≤ 65536) && (s.bytes (a + 8) 248).all fun b => decide (b = 0)

/-- Cause of a refused start of the replica-table loader (R162). -/
def State.repCause (s : State) (n : Nat) : Nat :=
  let a := s.repBase n
  let hdr := (List.range 256).find? fun r =>
    let (b, z, en) := s.region r
    en && decide (b ≤ a) && decide (a + 0x4100 ≤ b + z)
  if s.fld (0x07100C + 0x10 * n) 0 0 = 0 then 1
  else match hdr with
    | none => 2
    | some r =>
      let (b, z, _) := s.region r
      if !s.repHeaderOk n a then 3
      else if b + z < a + 0x4100 + 4 * s.num (a + 4) 4 then 2 else 0

/-- The header that a start of the replica-table loader reads lies in a poisoned line: the loss is reported, and the header is not
valid (R162, R305; log entry 83). -/
def State.headerLost (s : State) (n : Nat) : Option State :=
  if s.fld (0x07100C + 0x10 * n) 0 0 = 0 then none else s.imageLostRead (s.repBase n) 256

/-- A load of replica-table entry `n` starts, or is refused (R162). -/
def State.startRep (s : State) (n : Nat) : State :=
  let l := s.tbl.repLd
  let (s, cause) := match s.headerLost n with
    | some t => (t, if s.repCause n = 0 then 3 else s.repCause n)
    | none => (s, s.repCause n)
  match cause with
  | 0 => { s with tbl := { s.tbl with repLd :=
      { l with busy := true, fresh := true, deferred := false, layer := BitVec.ofNat 8 n
               gate := { GateMeta.none with entry := BitVec.ofNat 8 n, base := s.repBase n, e := s.num (s.repBase n + 4) 4 } } } }
  | k => ({ s with tbl := { s.tbl with repLd := { l.refuse k with deferred := false } } } : State).raiseFlag 3 1

/-- The AUTO start that follows a switch of table 0. -/
def State.autoRep (s : State) : State :=
  if s.fldNow 0x070004 17 17 = 0 then s
  else if s.tbl.repLd.busy then { s with tbl := { s.tbl with repLd := { s.tbl.repLd with deferred := true } } }
  else s.startRep ((s.tbl.repLd.gate.entry.toNat + 1) % rotation (s.fldNow 0x070004 16 8))

/-- A write of `ADM_RLD_CTRL` (R162): with GO the load of the named entry starts, or is refused. -/
def State.rldWrite (s : State) (v : Word) : Byte × State :=
  let t := s.liveWrite 0x070004 (v &&& 0x0003FFFF#32)
  if !v.getLsbD 31 then (codeOk, t)
  else if t.tbl.repLd.busy then
    (codeOk, ({ t with tbl := { t.tbl with repLd := t.tbl.repLd.refuse 4 } } : State).raiseFlag 3 1)
  else (codeOk, t.startRep (bitsOf v.toNat 7 0))

/-- RLD_GO (R162): a write of `ADM_RLD_CTRL` with GO set. -/
def execRldGo (v : Word) (s : State) : Out := .next (s.hostWrite 0x070004 fun t => t.rldWrite (v ||| 0x80000000#32))

/-- REPLICA_LOAD_COMPLETE (R162): the image is in the bank, its entries from NREP up are zero, and the loader's sync
object is signalled. The load needs its bank released. -/
def execReplicaLoadComplete (s : State) : Out :=
  let l := s.tbl.repLd
  let b := s.tbl.rep
  .next (if !(l.busy && (b.fill || !b.oldHeld)) then s else
    match s.imageLostRead l.gate.base (0x4100 + 4 * l.gate.e) with
    | some t => t
    | none =>
      let target := if b.fill then b.bank else b.shadow
      let lo := target.val * repBank
      let img := s.bytes l.gate.base (0x4100 + 4 * l.gate.e)
      let clean := s.tbl.repMem.filter fun c => decide (c.1 < lo) || decide (lo + repBank ≤ c.1)
      let t : State := { s with tbl := { s.tbl with
        repMem := bytesWrite clean lo img, repLd := { l with busy := false, deferred := false }
        rep := { b with fill := false } } }
      let t := t.signalIf 0x070008
      if l.deferred then t.autoRep else t)

/-! ### EPOCH (R89, R140, R152, R163, R164) -/

/-- An ADMIT runs: it has started and not completed. -/
def State.admitting (s : State) : Bool := s.ucmds.any fun u => decide (unitOf u.op = 3) && u.started

/-- The code that ends EPOCH on table `t`: OFFSIDE for table 0 while an ADMIT runs (R164); EPOCH while the earlier bank
is held (R89), while no load has started since the last switch (R152, R162), or for a table-0 bank beyond the
receive limit (R163). -/
def State.epochCode (s : State) (t : Nat) : Option Byte :=
  lowest [(decide (t = 0) && s.admitting, codeOffside), ((s.banked t).oldHeld, codeEpoch),
    (decide (t = 0) && !s.tbl.repLd.fresh, codeEpoch), (decide (t = 1) && !s.tbl.gateLd.fresh, codeEpoch),
    (decide (t = 0) && decide (s.fld 0x070048 31 0 < s.capSum s.tbl.rep.shadow * s.sysSize), codeEpoch)]

/-- The switch of table `t`. -/
def State.switch (s : State) (t : Nat) : State :=
  let b := s.banked t
  let held := match b.active with | some e => s.ucmds.any fun u => u.holdsEpoch t e | none => false
  let loading := (decide (t = 0) && s.tbl.repLd.busy) ||
    (decide (t = 1) && s.tbl.gateLd.busy && decide (s.tbl.gateLd.gate.mode ≠ 2))
  let s1 := s.setBanked t ⟨some b.nextEpoch, b.shadow, held, loading⟩
  match t with
  | 0 =>
    let s2 : State := { s1 with tbl := { s1.tbl with repLd := { s1.tbl.repLd with fresh := false } }
                                adm := { s1.adm with sflags := s1.adm.sflags ||| 0x10#16 } }
    s2.autoRep
  | 1 =>
    let s2 : State := { s1 with tbl := { s1.tbl with gateLd := { s1.tbl.gateLd with fresh := false }
                                                     gateOld := s1.tbl.gateNow, gateNow := s1.tbl.gateLd.gate } }
    s2.autoGate
  | 2 => s1.newProgramDigest
  | _ => s1

/-- EPOCH (R89). -/
def execEpoch (c : Ctx) (f : Fields) (s : State) : Out :=
  .next (s.localOp c (.epoch c f) f [bitsOf f.imm.toNat 1 0] true fun t =>
    let n := bitsOf f.imm.toNat 1 0
    match t.epochCode n with
    | some k => t.retire c k
    | none => (t.switch n).retireX c f.dst (BitVec.ofNat 64 (t.banked n).nextEpoch.toNat))

end Sys2Proof.Machine
end

