-- ==== Sys2Proof/Machine/Score.lean ====
section
/-! DEFINITION. The score tiles and the top-k selectors: SCORE (R73, R121, R142 to R148) and TOPK (R75, R148, R158). -/

namespace Sys2Proof.Machine

/-! ### The gate's weights (R149, R154) -/

/-- Bytes of row `e` of a gate that a command is bound to: from its bank, or from the stacks when it is streamed. -/
def State.gateRow (s : State) (g : GateMeta) (bank : Fin 2) (e : Nat) : List Byte :=
  let o := e * g.rowBytes
  match g.mode with
  | 0 => bytesRead s.tbl.gateMem (bank.val * 33554432 + o) g.rowBytes
  | 1 => bytesRead s.tbl.gateMem o g.rowBytes
  | _ => s.bytes (g.base + o) g.rowBytes

/-- The row's elements, without scales. -/
def gateVals (g : GateMeta) (row : List Byte) : List Fl :=
  let h := if g.sblk = 0 then 0 else scaleHeader g.sblk g.d
  let z := gateElem g.fmt
  (piecesOf z g.d (row.drop h)).map fun b => elemVal g.fmt (leNat b)

/-- The BF16 scale of element `j` of a gate row; 1.0 without scales. -/
def gateScale (g : GateMeta) (row : List Byte) (j : Nat) : Fl :=
  if g.sblk = 0 then flOne else bf16 (BitVec.ofNat 16 (leNat ((row.drop (2 * (j / scaleBlock g.sblk g.d))).take 2)))

/-! ### Source rows with their scales apart (R143) -/

/-- The raw elements of row `r` and the scale of element `j`, of which rows beyond the valid ones read as zeros
(R113); the flag says that the index was clamped. -/
def State.scoreRow (s : State) (d : Desc) (cov : Option Nat) (r : Nat) : List Fl × (Nat → Fl) × Bool :=
  let clamped := decide (d.rows ≤ r)
  let i := if clamped then d.rows - 1 else r
  let lim := match cov with | some n => Max.max n d.vext | none => d.vext
  if lim ≤ i then (List.replicate d.rowLen flZero, fun _ => flOne, clamped) else
  let runs := d.rowRuns i
  (runs.flatMap fun a => s.runRaw d.fmt d.sblk (d.ext 0) a,
   fun j => s.scaleAt d.sblk (d.ext 0) (runs.getD (j / d.ext 0) 0) (j % d.ext 0), clamped)

/-! ### Partial sums and the tree (R142 to R144) -/

/-- The exact sum of a pass. -/
def passSum (x w : List Fl) : Fl := (x.zip w).foldl (fun a (p : Fl × Fl) => a.add (p.1.mul p.2)) flZero

/-- The passes of tile `i`, from pass `g` on; fuel bounds them. -/
def tilePasses (x w : List Fl) (sx sw : Nat → Fl) (d gn i : Nat) : Nat → Nat → Option Fl → Option Fl
  | 0, _, acc => acc
  | n + 1, g, acc =>
    let d0 := 32 * (gn * i + g)
    if d ≤ d0 then acc else
    let k := Min.min 32 (d - d0)
    let v := rn (((passSum ((x.drop d0).take k) ((w.drop d0).take k)).mul (sx d0)).mul (sw d0))
    tilePasses x w sx sw d gn i n (g + 1) (some (match acc with | some a => fAdd a v | none => v))

/-- The raw logit of a row for one expert over `n` tiles. -/
def rawLogit (x w : List Fl) (sx sw : Nat → Fl) (d n : Nat) : Fl :=
  let gn := ceilDiv d (32 * n)
  (treeSum (treeDepth n) ((List.range n).map fun i => tilePasses x w sx sw d gn i gn 0 none)).getD flZero

/-! ### Additions (R146) -/

/-- Entry `e` of a bias-vector bank. -/
def State.biasAt (s : State) (bank e : Nat) : Fl := f32 (BitVec.ofNat 32 (loadLe s.tbl.biasMem (bank * 16384 + 4 * e) 4))

/-- The steering value of expert `e` in a layer, if an enabled entry names it (R174). -/
def State.steerOf (s : State) (layer e : Nat) : Option Fl :=
  (List.range 64).findSome? fun j =>
    let a := 1024 * layer + 16 * j
    let w := loadLe s.tbl.steer a 4
    if bitOf w 15 && decide (bitsOf w 11 0 = e) then some (f32 (BitVec.ofNat 32 (loadLe s.tbl.steer (a + 8) 4))) else none

/-- The logit of expert `e` for a token (R73, R146): bias, steering, noise, in that order. -/
def State.logit (s : State) (sub layer biasBank token e : Nat) (raw : Fl) : Fl :=
  let v := if bitOf sub 0 then fAdd raw (s.biasAt biasBank e) else raw
  let v := if bitOf sub 1 then (match s.steerOf layer e with | some t => fAdd v t | none => v) else v
  if bitOf sub 2 then fAdd v (fMul (f32 (s.reg 0x06000C)) (s.gauss layer token e)) else v

/-! ### SCORE -/

/-- An operand pair that SCORE accepts (R73). -/
def pairOk (x w : Nat) : Bool :=
  let f8 (n : Nat) : Bool := decide (n = FP8E4) || decide (n = FP8E5)
  (f8 x && f8 w) || (decide (x = INT8) && decide (w = INT8)) ||
  (decide (x = BF16) && (decide (w = BF16) || f8 w)) || (f8 x && decide (w = BF16))

/-- Codes that end SCORE before its first input (R70, R73, R115, R121). -/
def scoreCheck (s : State) (u : UCmd) : Option Byte :=
  let a := u.descA
  let b := u.descB
  let g := s.tbl.gateNow
  lowest ([(s.tbl.gate.active.isNone, codeEpoch), (bitOf u.f.sub 0 && s.tbl.bias.active.isNone, codeEpoch),
      (decide (8 ≤ u.f.sub), codeFormat), (a.xt, codeFormat), (decide (b.fmt ≠ FP32), codeFormat),
      (s.tbl.gate.active.isSome && !pairOk a.fmt g.fmt, codeFormat),
      (s.tbl.gate.active.isSome && decide (a.rowLen ≠ g.d), codeBounds)] ++
    (if b.xt then
      [(decide (b.ext 0 < u.rowsMax) || decide (b.ext 1 ≠ g.e) || decide (b.vext ≠ b.ext 1), codeBounds)]
     else [(s.tbl.gate.active.isSome && decide (b.rowLen ≠ g.e), codeBounds), (decide (b.rows < u.rowsMax), codeBounds)]))

/-- SCORE is accepted: the half of its rows is noted. -/
def scoreStart (s : State) (u : UCmd) : UCmd × State := ({ u with half := s.inputHalf u }, s)

/-- Rows of a SCORE that have entered it. -/
def UCmd.entered (u : UCmd) : Nat := match u.segs.getLast? with | some g => g.upto | none => u.row

/-- The rows that have come since enter SCORE and bind to the gate epoch, and to the bias epoch, that are active now (R73, R146,
R152). -/
def scoreBind (s : State) (u : UCmd) : UCmd × State :=
  if u.rowsIn ≤ u.entered then (u, s) else
  let v : UCmd := { u with segs := u.segs ++ [⟨u.rowsIn, s.tbl.gate.active.getD 0, s.tbl.gate.bank,
    if bitOf u.f.sub 0 then 1 + (s.tbl.bias.active.getD 0).toNat else 0, s.tbl.bias.bank.val⟩] }
  match v.half with
  | some h => (v, { s with ref := { s.ref with halfGate := s.ref.halfGate.set h.val s.tbl.gateNow.entry.toNat } })
  | none => (v, s)

/-- The gate that rows bound to an epoch read. -/
def State.boundGate (s : State) (e : Byte) : GateMeta :=
  if s.tbl.gate.active = some e then s.tbl.gateNow else s.tbl.gateOld

/-- Logits of one row are written, token-major or transposed (R121), none beyond the shape (R115). -/
def State.putLogits (s : State) (d : Desc) (r : Nat) (l : List Fl) : State :=
  if d.xt then (l.take (d.ext 1)).zipIdx.foldl (fun t (v, e) => t.setNum (d.base + e * d.str 1 + 4 * r) 4 (toF32 v).toNat) s
  else s.putRow d r (l.take d.rowLen)

/-- One row of SCORE under the epochs it is bound to. -/
def scoreOne (u : UCmd) (b : Bind) (g : GateMeta) (s : State) (r : Nat) : State :=
  let (x, sx, cl) := s.scoreRow u.descA u.cov r
  let tok := u.descA.token s.chip r
  let l := (List.range g.e).map fun e =>
    let row := s.gateRow g b.bank e
    s.logit u.f.sub g.entry.toNat b.biasBank tok e (rawLogit x (gateVals g row) sx (gateScale g row) g.d s.nTile)
  (((s.countClamp cl).measure 3 (g.e * g.d)).putLogits u.descB r l).addRow 1 u.half tok
    (l.flatMap fun v => natLe 4 (toF32 v).toNat)

/-- Rows wait while the epoch they bind to is fill pending (R152). -/
def State.fillWait (s : State) (e : Byte) : Bool := s.tbl.gate.fill && decide (s.tbl.gate.active = some e)

/-- Rows that have entered leave SCORE in order, as far as their gates are there; a poisoned line of a streamed gate ends the command
(R305). Fuel bounds the runs of rows. -/
def scoreRows : Nat → State → UCmd → UCmd × State
  | 0, s, u => (u, s)
  | k + 1, s, u =>
    match u.segs with
    | [] => (u, s)
    | b :: l =>
      if s.fillWait b.epoch then (u, s) else
      let g := s.boundGate b.epoch
      match (if g.mode = 2 then s.lostIn g.base g.bytes else none) with
      | some x => ({ u with segs := [] }.done codeFault 0, s.lostRead x u.half)
      | none =>
        scoreRows k (((List.range b.upto).drop u.row).foldl (scoreOne u b g) s) { u with segs := l, row := b.upto }

/-- The score tiles take the rows that have come (R73). -/
def scoreTake (s : State) (u : UCmd) : UCmd × State :=
  let (u, s) := scoreBind s u
  scoreRows u.segs.length s u

/-- The command is done once every row has left. -/
def scoreWork (s : State) (u : UCmd) : UCmd × State :=
  if u.segs ≠ [] then (u, s) else (u.made u.rowsIn 0, s.formFor 1 u.half)

/-- The score tiles' pass over a SCORE. -/
def scoreRun (s : State) (u : UCmd) : State := s.driveRows u scoreCheck scoreStart scoreTake scoreWork

/-- SCORE (R73). -/
def execScore (c : Ctx) (f : Fields) (s : State) : Out := .next (s.issueUnit c (.score c f) f scoreRun)

/-! ### TOPK -/

/-- Expert `a` of value `x` ranks before expert `b` of value `y` (R75, R158); `draw` gives the tie-breaking word. -/
def rankBefore (rtb : Bool) (draw : Nat → Word) (a : Nat × Fl) (b : Nat × Fl) : Bool :=
  if a.2.isNan ≠ b.2.isNan then b.2.isNan
  else if !a.2.isNan && !Fl.eqv a.2 b.2 then Fl.lt b.2 a.2
  else if rtb && decide (draw a.1 ≠ draw b.1) then decide (draw b.1 < draw a.1)
  else decide (a.1 < b.1)

/-- An expert takes its place in a list kept in rank order. -/
def rankInsert (before : Nat × Fl → Nat × Fl → Bool) (x : Nat × Fl) : List (Nat × Fl) → List (Nat × Fl)
  | [] => [x]
  | y :: l => if before x y then x :: y :: l else y :: rankInsert before x l

/-- The best `n` experts of a row in rank order. -/
def bestOf (before : Nat × Fl → Nat × Fl → Bool) (n : Nat) (l : List (Nat × Fl)) : List (Nat × Fl) :=
  l.foldl (fun acc x => (rankInsert before x acc).take n) []

/-- The FP32 words of row `r` as they stand; rows beyond the valid ones read as zeros (R113). -/
def State.rowWords (s : State) (d : Desc) (cov : Option Nat) (r : Nat) : List Word × Bool :=
  let clamped := decide (d.rows ≤ r)
  let i := if clamped then d.rows - 1 else r
  let lim := match cov with | some n => Max.max n d.vext | none => d.vext
  (if lim ≤ i then List.replicate d.rowLen 0#32
   else if d.rank = 1 then [BitVec.ofNat 32 (s.num (d.base + 4 * i) 4)]
   else (d.rowRuns i).flatMap fun a => (List.range (d.ext 0)).map fun j => BitVec.ofNat 32 (s.num (a + 4 * j) 4), clamped)

/-- Codes that end TOPK before its first input (R70, R75). -/
def topkCheck (_ : State) (u : UCmd) : Option Byte :=
  let k := bitsOf u.f.sub 4 0
  let c := bitsOf u.f.sub 7 5
  let e := u.descA.rowLen
  lowest [(decide (k = 0) || decide (16 < k) || decide (4 < c) || decide (e < k + c), codeUnsup),
    (decide (u.descA.fmt ≠ FP32) || decide (u.descB.fmt ≠ CHOICE) || u.descA.xt || u.descB.xt, codeFormat),
    (decide (u.descB.ext 0 < k + c), codeBounds), (decide (u.descB.rows < u.rowsMax), codeBounds),
    (u.flag37 && decide (u.n1 = 0), codeEpoch)]

/-- TOPK is accepted. -/
def topkStart (s : State) (u : UCmd) : UCmd × State := ({ u with half := s.inputHalf u }, s)

/-- One row of TOPK: the records in rank order, each with its value unchanged and outcome 00. -/
def topkOne (u : UCmd) (s : State) (r : Nat) : State :=
  let n := bitsOf u.f.sub 4 0 + bitsOf u.f.sub 7 5
  let (ws, cl) := s.rowWords u.descA u.cov r
  let tok := u.descA.token s.chip r
  let before := rankBefore u.flag37 (fun e => s.drawWord (u.n1 - 1) tok e 1 0)
  let best := bestOf before n (ws.zipIdx.map fun (w, e) => (e, f32 w))
  let recs : List ChoiceRec := best.map fun x => ⟨ws.getD x.1 0, x.1, 0, 0, 0⟩
  (recs.zipIdx.foldl (fun t (x, j) => t.setChoice u.descB r j x)
    (s.countClamp cl)).addRow 2 u.half tok (recs.flatMap fun x => natLe 8 x.bits)

/-- The top-k selectors' pass over a TOPK. -/
def topkRun (s : State) (u : UCmd) : State :=
  s.drive u topkCheck topkStart fun t v => (v.made v.rowsIn 0, (eachRow v.rowsIn t (topkOne v)).formFor 2 v.half)

/-- TOPK (R75). -/
def execTopk (c : Ctx) (f : Fields) (s : State) : Out := .next (s.issueUnit c (.topk c f) f topkRun)

end Sys2Proof.Machine
end

