-- ==== Sys2Proof/Machine/Slots.lean ====
section
/-! DEFINITION. Rebound's stores: reorder slots and their ring (R273 to R275), answer reservations and answer slots
(R281), and the combine store (R282). -/

namespace Sys2Proof.Machine

/-- Reorder slot `n`. -/
def State.rslot (s : State) (n : Nat) : RSlot := Tab.get RSlot.reset s.reb.slots n

/-- Reorder slot `n` becomes `r`. -/
def State.setRslot (s : State) (n : Nat) (r : RSlot) : State :=
  { s with reb := { s.reb with slots := Tab.set RSlot.reset s.reb.slots n r } }

/-- Key of row `r` of half `h` in the row map. -/
def rowKey (h r : Nat) : Nat := 65536 * h + r

/-- The slot that the row map gives for a row, if RECV.IN wrote one (R274). -/
def State.rowSlot (s : State) (h r : Nat) : Option Nat :=
  match Tab.get 0 s.reb.rowMap (rowKey h r) with
  | 0 => none
  | n + 1 => some n

/-- The slot at position `p` of the free ring: slots in ascending order first, released slots after them (R274). -/
def State.ringSlot (s : State) (p : Nat) : Nat := if p < 262144 then p else Tab.get 0 s.reb.ring p

/-- The slot at the head of the ring is taken (R274). -/
def State.takeSlot (s : State) : Option (Nat × State) :=
  if s.freeSlots = 0 then none else
  let p := s.reb.ringHead
  some (s.ringSlot p, { s with reb := { s.reb with ringHead := p + 1, ring := Tab.set 0 s.reb.ring p 0 } })

/-- Lines of the combine store that hold `n` bytes. -/
def csLines (n : Nat) : Nat := ceilDiv n 256

/-- Bytes of an element of an answer format. -/
def ansElem (fmt : Nat) : Nat := if fmt = BF16 then 2 else 4

/-- The answer format of `REB_CFG.AFMT`. -/
def State.ansFmt (s : State) : Nat := if s.fld 0x0C0000 13 13 = 1 then FP32 else BF16

/-- Answer slot size A in bytes (R281). -/
def State.ansBytes (s : State) : Nat := 256 * Min.min 4096 (s.fld 0x0C0000 12 0)

/-- Answer slots in one buffer of the RETURN pool `n`. -/
def State.perBuffer (s : State) (n : Nat) : Nat := if s.ansBytes = 0 then 0 else s.bufBytes n / s.ansBytes

/-- Lines of the combine store that an answer holds: those of a kept answer parked there. -/
def Answer.lines (a : Answer) : Nat := if a.parked && a.slotAddr.isNone then csLines (a.n * ansElem a.fmt) else 0

/-- Lines of the combine store held for a slot. -/
def RSlot.lines (r : RSlot) : Nat :=
  (match r.acc with | some l => csLines (4 * l.length) | none => 0) +
  r.answers.foldl (fun a x => a + x.lines) 0 +
  (match r.result with | some l => if r.resAddr.isNone then csLines l.length else 0 | none => 0)

/-- Answer slots in the stacks held for a slot. -/
def RSlot.stackSlots (r : RSlot) : List Nat :=
  r.answers.filterMap (·.slotAddr) ++ r.msAddr.toList ++ r.resAddr.toList

/-- Address of answer slot `j`. -/
def State.ansSlotAddr (s : State) (n j : Nat) : Nat :=
  s.bufAddr n (j / s.perBuffer n) + j % s.perBuffer n * s.ansBytes

/-- Answer slots in use stand in buffer `b` of pool `n`. -/
def State.ansIn (s : State) (n b : Nat) : Bool := s.reb.aused.any fun k => decide (k / s.perBuffer n = b)

/-- The lowest free answer slot from `j` on; a slot of a quarantined buffer only where `quar` allows it, and then of one that has not
left the total. Fuel bounds the search. -/
def State.freeAns (s : State) (n : Nat) (quar : Bool) : Nat → Nat → Option Nat
  | 0, _ => none
  | k + 1, j =>
    let b := j / s.perBuffer n
    if s.reb.aused.contains j || (Tab.get false (s.pool n).quar b && !(quar && s.ansIn n b)) then s.freeAns n quar k (j + 1)
    else some j

/-- An answer slot is taken: its address, with the state after. The one taken is the lowest that is free; one of a quarantined buffer
that still counts in the total only when no other is (R236, R281). -/
def State.takeAns (s : State) : Option (Nat × State) :=
  match s.poolOf 2 with
  | none => none
  | some n =>
    let k := s.poolCount n * s.perBuffer n
    match (s.freeAns n false k 0).or (s.freeAns n true k 0) with
    | none => none
    | some j => some (s.ansSlotAddr n j, { s with reb := { s.reb with aused := j :: s.reb.aused } })

/-- The answer slot at an address is free again. A quarantined buffer whose slots are all free leaves the total
(R281). -/
def State.giveAns (s : State) (a : Nat) : State :=
  match s.poolOf 2 with
  | none => s
  | some n =>
    let b := (a - s.poolBase n) / s.bufBytes n
    let j := b * s.perBuffer n + (a - s.bufAddr n b) / s.ansBytes
    let used := s.reb.aused.filter fun k => decide (k ≠ j)
    let gone := Tab.get false (s.pool n).quar b && used.all fun k => decide (k / s.perBuffer n ≠ b)
    { s with reb := { s.reb with aused := used, aslots := if gone then s.reb.aslots - s.perBuffer n else s.reb.aslots } }

/-- Lines of the combine store are taken or given back. -/
def State.takeLines (s : State) (n : Nat) : State := { s with reb := { s.reb with cfree := s.reb.cfree - n } }
def State.giveLines (s : State) (n : Nat) : State := { s with reb := { s.reb with cfree := s.reb.cfree + n } }

/-- What is held for slot `n` is freed: parked answers, accumulator, result (R275, R289). -/
def State.freeHeld (s : State) (n : Nat) : State :=
  let r := s.rslot n
  let s1 := r.stackSlots.foldl State.giveAns (s.giveLines r.lines)
  s1.setRslot n { r with acc := none, msAddr := none, answers := [], result := none, resAddr := none }

/-- `k` reservations of slot `n` are returned (R281). -/
def State.returnRes (s : State) (n k : Nat) : State :=
  let r := s.rslot n
  let k := Min.min k r.res
  ({ s with reb := { s.reb with used := s.reb.used - k } } : State).setRslot n { r with res := r.res - k }

/-- A reservation is made for slot `n`, while the total is not reached (R281). -/
def State.reserve (s : State) (n : Nat) : Option State :=
  if s.reb.used < s.reb.aslots then
    let r := s.rslot n
    some (({ s with reb := { s.reb with used := s.reb.used + 1 } } : State).setRslot n { r with res := r.res + 1 })
  else none

/-- Slot `n` is released (R275): everything held for it is freed, its reservations return, and it goes to the tail of
the ring. -/
def State.releaseSlot (s : State) (n : Nat) : State :=
  let s1 := (s.freeHeld n).returnRes n (s.rslot n).res
  let p := s1.reb.ringTail
  let s2 := s1.setRslot n RSlot.reset
  { s2 with reb := { s2.reb with ring := Tab.set 0 s2.reb.ring p n, ringTail := p + 1 } }

/-- A CANCELLED slot with KNOWN set and SEEN equal to ADM is released (R275). -/
def State.drainSlot (s : State) (n : Nat) : State :=
  let r := s.rslot n
  if r.st = RState.cancelled ∧ r.known ∧ r.seen = r.adm then s.releaseSlot n else s

end Sys2Proof.Machine
end

