-- ==== Sys2Proof/Machine/Admit.lean ====
section
/-! DEFINITION. Admission: the replica walk (R76, R161, R165 to R167), admission records (R168), return reservations
(R169), the order of admission (R170), demand counts (R175), and the histogram ring (R177, R178). -/

namespace Sys2Proof.Machine

/-! ### The replica walk -/

/-- Start position of R166 for a token and an expert with `n` replicas. -/
def startPos (g e n : Nat) : Nat :=
  let h := (g * 0x9E3779B1 % 2 ^ 32) ^^^ (e * 0x85EBCA77 % 2 ^ 32)
  (h / 65536) * n / 65536

/-- First entry and replica count of an expert in a bank; none when it has no replica (R161). -/
def State.replicasOf (s : State) (bank : Fin 2) (e : Nat) : Option (Nat × Nat) :=
  if s.repE bank ≤ e then none else
  let w := s.repWord bank (0x100 + 4 * e)
  let first := bitsOf w 15 0
  let n := bitsOf w 19 16 + 1
  if bitOf w 31 && decide (first + n ≤ s.repN bank) then some (first, n) else none

/-- Capacity counter of a replica entry. -/
def State.capCount (s : State) (entry : Nat) : Nat := Tab.get 0 s.adm.caps entry

/-- A position takes its place in ascending order of the counters, ties to the lower position (R166). -/
def loadInsert (load : Nat → Nat) (p : Nat) : List Nat → List Nat
  | [] => [p]
  | q :: l => if load p < load q ∨ (load p = load q ∧ p < q) then p :: q :: l else q :: loadInsert load p l

/-- Replica positions in the order in which they are tried (R166). -/
def State.tryOrder (s : State) (ll : Bool) (g e first n : Nat) : List Nat :=
  if ll then (List.range n).foldr (loadInsert fun p => s.capCount (first + p)) []
  else (List.range n).map fun i => (startPos g e n + i) % n

/-- The first replica with capacity: its position, entry and host chip, with the replicas skipped for a bad host before
it (R161, R166). -/
def State.firstRoom (s : State) (bank : Fin 2) (first : Nat) : List Nat → Nat → Option (Nat × Nat × Nat) × Nat
  | [], bad => (none, bad)
  | p :: l, bad =>
    let (host, cap) := s.repEntry bank (first + p)
    if s.sysSize ≤ host then s.firstRoom bank first l (bad + 1)
    else if s.capCount (first + p) < cap then (some (p, first + p, host), bad)
    else s.firstRoom bank first l bad

/-- find_replica of R76 for one expert: the replica, and the unplaced attempts counted. -/
def State.findReplica (s : State) (bank : Fin 2) (ll : Bool) (g e : Nat) : Option (Nat × Nat × Nat) × Nat :=
  match s.replicasOf bank e with
  | none => (none, 1)
  | some (first, n) => s.firstRoom bank first (s.tryOrder ll g e first n) 0

/-- The attempts of one choice: rank tried first, then candidates from `next` up to `lim`; attempts, unplaced
attempts, the rank and replica found, and the next candidate. Fuel bounds the candidates. -/
def State.walk (s : State) (bank : Fin 2) (ll : Bool) (g lim : Nat) (cand : Nat → Nat) :
    Nat → Nat → Nat → Nat → Nat → Nat × Nat × Option (Nat × Nat × Nat × Nat) × Nat
  | 0, _, next, at_, un => (at_, un, none, next)
  | k + 1, rank, next, at_, un =>
    match s.findReplica bank ll g (cand rank) with
    | (some (p, entry, host), b) => (at_ + 1, un + b, some (rank, p, entry, host), next)
    | (none, b) =>
      if lim ≤ next then (at_ + 1, un + b, none, next)
      else s.walk bank ll g lim cand k next (next + 1) (at_ + 1) (un + b)

/-! ### Records (R168) -/

/-- An admission record. -/
structure AdmRec where
  row : Nat
  choice : Nat
  rank : Nat
  replica : Nat
  expert : Nat
  epoch : Nat
  host : Nat
  cascaded : Bool
  valid : Bool
  weight : BitVec 16
  gidx : Nat
  deriving DecidableEq, Repr

/-- The 128 bits of a record. -/
def AdmRec.bits (r : AdmRec) : BitVec 128 :=
  BitVec.ofNat 128 (r.row % 2 ^ 16 + r.choice % 16 * 2 ^ 16 + r.rank % 32 * 2 ^ 20 + r.replica % 16 * 2 ^ 25 +
    r.expert % 4096 * 2 ^ 29 + r.epoch % 256 * 2 ^ 41 + r.host % 8192 * 2 ^ 49 + b2n r.cascaded * 2 ^ 62 +
    b2n r.valid * 2 ^ 63 + r.weight.toNat * 2 ^ 64 + r.gidx % 2 ^ 30 * 2 ^ 80)

/-- The record that 128 bits hold. -/
def admRecOf (v : Nat) : AdmRec :=
  ⟨bitsOf v 15 0, bitsOf v 19 16, bitsOf v 24 20, bitsOf v 28 25, bitsOf v 40 29, bitsOf v 48 41, bitsOf v 61 49,
   bitOf v 62, bitOf v 63, BitVec.ofNat 16 (bitsOf v 79 64), bitsOf v 109 80⟩

/-- A queue word of up to four records. -/
def recordWord (rs : List (BitVec 128)) (last : Bool) : QWord :=
  ⟨BitVec.ofNat 512 (rs.foldr (fun r a => r.toNat + a * 2 ^ 128) 0), 4#3, last⟩

/-- A record waits for its word, a full word of records before it having gone out. -/
def State.addRecord (s : State) (q : Nat) (r : BitVec 128) : State :=
  if s.adm.recs.length < 4 then { s with adm := { s.adm with recs := s.adm.recs ++ [r] } }
  else { (s.enter q (recordWord s.adm.recs false)) with adm := { s.adm with recs := [r] } }

/-! ### Counting (R175, R180) -/

/-- Enabled steering entries of a layer that name an expert. -/
def State.steerMatches (s : State) (layer e : Nat) : List Nat :=
  (List.range 64).filter fun j =>
    let w := loadLe s.tbl.steer (1024 * layer + 16 * j) 4
    bitOf w 15 && decide (bitsOf w 11 0 = e)

/-- A token's choices enter the counts of its layer and half, and the demand of their experts (R175, R177). -/
def State.countToken (s : State) (layer h : Nat) (experts : List Nat) : State :=
  let a := s.adm
  let d := experts.foldl (fun t e => (s.steerMatches layer e).foldl (fun t j =>
    Tab.upd 0 t (128 * layer + 2 * j + h) (· + 1)) t) a.demand
  let x := experts.foldl (fun t e => Tab.upd 0 t e (· + 1)) a.expDemand
  ({ s with adm := { a with choices := (Tab.upd 0 a.choices (2 * layer + h) (fun n => n + experts.length)), demand := d
                            expDemand := x } } : State).countRec 0 h 1

/-! ### The command -/

/-- The ordered variant: ORD or Ordered mode (R58). -/
def State.orderedCmd (s : State) (u : UCmd) : Bool := s.ordered || u.ord

/-- Row counts sort stably by a key. -/
def keyInsert (key : Nat → Nat) (x : Nat) : List Nat → List Nat
  | [] => [x]
  | y :: l => if key x ≤ key y then x :: y :: l else y :: keyInsert key x l

/-- The order of `n` items: ascending in the ordered variant, otherwise a free order (R58, R170; log entry 3). -/
def itemOrder (ordered : Bool) (draw n : Nat) : List Nat :=
  if ordered then List.range n else (List.range n).foldr (keyInsert (Config.flowKey draw)) []

/-- Codes that end ADMIT before its first input (R70, R76). -/
def admitCheck (s : State) (u : UCmd) : Option Byte :=
  let a := u.descA
  lowest [(decide ((s.queue u.queue).cls ≠ .unit), codeOffside), (decide (a.k = 0), codeOffside),
    (bitOf u.f.sub 0 && s.orderedCmd u, codeOffside), (s.tbl.rep.active.isNone, codeEpoch),
    (decide (2 ≤ u.f.sub), codeFormat), (decide (a.fmt ≠ CHOICE) || a.xt, codeFormat),
    (decide (a.ext 0 < a.k + a.c), codeBounds)]

/-- ADMIT starts: it binds to the replica-table epoch and clears the capacity counters (R164, R165); a Flow-mode run
draws its order. -/
def admitStart (s : State) (u : UCmd) : UCmd × State :=
  let (d, s) := s.draw
  ({ u with bank := s.tbl.rep.bank, epoch := s.tbl.rep.active.getD 0, half := some (BitVec.ofNat 1 u.queue).toFin
            covB := d, row := 0, n1 := 0, n2 := 0 },
   { (s.clearItems 3 (u.queue % 2)) with adm := { s.adm with caps := [], expDemand := [], recs := [], stalled := false } })

/-- A row begins (R167): every record of it, SHAPE0 of them, is taken as not used until a choice names it, and the token is
counted. -/
def admitRowStart (s : State) (u : UCmd) (r : Nat) : UCmd × State :=
  let d := u.descA
  let h := u.queue % 2
  let s1 := (List.range (d.ext 0)).foldl (fun t j =>
    t.setChoice d r j { t.choice d r j with outcome := 3, index := 0, replica := 0 }) s
  let layer := s.repLayer u.bank
  let s2 := s1.countToken layer h ((List.range d.k).map fun j => (s.choice d r j).expert)
  ({ u with n2 := d.k }, s2)

/-- A row ends: its admitted choices go into the token's slot record, which becomes KNOWN (R274). -/
def admitRowEnd (s : State) (u : UCmd) (r : Nat) : State :=
  let d := u.descA
  let h := u.queue % 2
  let adm := (List.range (d.k + d.c)).foldl (fun v j =>
    let c := s.choice d r j
    if c.outcome = 1 then v + 2 ^ c.index else v) 0
  let s1 := if adm = 0 then s.countRec 4 h 1 else s
  match s1.rowSlot h r with
  | some n => (s1.setRslot n { s1.rslot n with known := true, adm := BitVec.ofNat 16 adm }).drainSlot n
  | none => s1

/-- A return reservation for the token of a row: none can be made while every answer slot is reserved (R169, R281). For a row to which
RECV.IN gave no slot the manual says nothing: the choice is admitted under the same condition, and no reservation is made or counted
in `REB_RES.USED` (DESIGN CHOICE, log entry 84). -/
def State.reserveRow (s : State) (h r : Nat) : Option State :=
  match s.rowSlot h r with
  | some n => s.reserve n
  | none => if s.reb.used < s.reb.aslots then some s else none

/-- The command with a number added to its value. -/
def UCmd.addValue (u : UCmd) (v : Nat) : UCmd := { u with value := u.value + BitVec.ofNat 64 v }

/-- One choice of a row (R76): admitted with its reservation and its record, or dropped; none when the unit has to
wait, for a reservation (with the flag) or for room in the queue. -/
def admitChoice (s : State) (u : UCmd) (r : Nat) : Option (UCmd × State) × Bool :=
  let d := u.descA
  let h := u.queue % 2
  let g := d.token s.chip r
  let ll := bitOf u.f.sub 0
  let lim := d.k + d.c
  let (att, un, found, next) := s.walk u.bank ll g lim (fun j => (s.choice d r j).expert) (lim + 1) u.n1 u.n2 0 0
  let count (t : State) : State := ((t.bump 0x070044 att).bump 0x00220C un).countRec 12 h un
  match found with
  | none =>
    let c := s.choice d r u.n1
    let s1 := s.setChoice d r u.n1 { c with outcome := 2, index := u.n1, replica := 0 }
    (some ({ u with n1 := u.n1 + 1, n2 := next }.addValue (2 ^ 32), (count s1).countRec 2 h 1), false)
  | some (rank, p, entry, host) =>
    if s.adm.recs.length = 4 ∧ (s.queue u.queue).room = 0 then (none, false) else
    match s.reserveRow h r with
    | none => (none, true)
    | some s1 =>
      let c := s.choice d r rank
      let rec_ : AdmRec := ⟨r, u.n1, rank, p, c.expert, u.epoch.toNat, host, decide (rank ≠ u.n1), true,
        toBF16 (f32 c.value), g⟩
      let s2 := s1.setChoice d r rank { c with outcome := 1, index := u.n1, replica := p }
      let s3 := (count s2).countRec 1 h 1
      let s4 := if rank ≠ u.n1 then s3.countRec 3 h 1 else s3
      let s5 := (s4.addRecord u.queue rec_.bits).addItem 3 h (natLe 16 { rec_ with host := s.relChip host }.bits.toNat)
      (some ({ u with n1 := u.n1 + 1, n2 := next }.addValue 1,
        { s5 with adm := { s5.adm with caps := Tab.upd 0 s5.adm.caps entry (· + 1) } }), false)

/-- The walk goes on, choice by choice and row by row in the order given, until it ends or has to wait; fuel bounds
the choices and rows. -/
def admitLoop (order : List Nat) : Nat → UCmd → State → UCmd × State
  | 0, u, s => (u, s)
  | n + 1, u, s =>
    match order[u.row]? with
    | none => (u, s)
    | some r =>
      let (u, s) := if u.n2 = 0 then admitRowStart s u r else (u, s)
      let d := u.descA
      if d.k ≤ u.n1 then admitLoop order n { u with row := u.row + 1, n1 := 0, n2 := 0 } (admitRowEnd s u r)
      else match admitChoice s u r with
        | (some (v, t), _) =>
          if d.k ≤ v.n1 then admitLoop order n { v with row := v.row + 1, n1 := 0, n2 := 0 } (admitRowEnd t v r)
          else admitLoop order n v t
        | (none, true) => (u, { s with adm := { s.adm with stalled := true } })
        | (none, false) => (u, s)

/-- What the admission unit does for a started ADMIT: it waits while its epoch is fill pending (R162) and while a
reservation cannot be made (R169); at the end the last word of records goes out with its end mark (R168). -/
def admitWork (s : State) (u : UCmd) : UCmd × State :=
  if (s.tbl.rep.fill && decide (s.tbl.rep.active = some u.epoch)) || s.adm.stalled then (u, s) else
  let s : State := { s with adm := { s.adm with layerE := Tab.set 0 s.adm.layerE (s.repLayer u.bank) (s.repE u.bank) } }
  let n := u.rowsIn
  let order := itemOrder (s.orderedCmd u) u.covB n
  let (u, s) := admitLoop order (n * 17 + 1) u s
  if u.row < n ∨ (s.queue u.queue).room = 0 then (u, s)
  else ({ u with out := some n },
    ({ (s.enter u.queue (recordWord s.adm.recs true)) with adm := { s.adm with recs := [] } } : State).formFor 3 u.half)

/-- The admission unit's pass over an ADMIT. -/
def admitRun (s : State) (u : UCmd) : State := s.drive u admitCheck admitStart admitWork

/-- ADMIT (R76). -/
def execAdmitRows (c : Ctx) (f : Fields) (s : State) : Out := .next (s.issueUnit c (.admitRows c f) f admitRun)

/-- ADMISSION_STALL_END (R169): a return reservation has become possible, and the stalled admission goes on. -/
def execAdmissionStallEnd (s : State) : Out :=
  .next (if s.adm.stalled && decide (s.reb.used < s.reb.aslots) then
    let t : State := { s with adm := { s.adm with stalled := false } }
    match t.ucmds.find? fun u => decide (unitOf u.op = 3) && t.isHead u with
    | some u => admitRun t u
    | none => t
  else s)

/-! ### The histogram ring (R177, R178) -/

/-- Slots of a ring: 2^LOGSLOTS, 13 to 15 acting as 12 (R181, R368). -/
def ringSlots (v : Nat) : Nat := 2 ^ (Min.min v 12)

/-- The contents of a histogram slot as pieces of bytes with their offsets, the second step number last. -/
def State.histSlot (s : State) (u : UCmd) : List (Nat × List Byte) :=
  let h := u.queue % 2
  let e := s.repE u.bank
  let nrep := s.repN u.bank
  let id := (s.batch h).toNat + h * 2 ^ 16 + (s.gen h).toNat * 2 ^ 24 + s.repLayer u.bank * 2 ^ 32 + u.epoch.toNat * 2 ^ 40 +
    (e - 1) * 2 ^ 48
  [(0, natLe 8 s.step.toNat), (8, natLe 8 id),
   (16, natLe 4 nrep ++ natLe 4 u.row ++ natLe 4 (bitsOf u.value.toNat 31 0) ++ natLe 4 (bitsOf u.value.toNat 63 32)),
   (32, List.replicate 216 0#8),
   (0x100, (List.range e).flatMap fun i => natLe 4 (Tab.get 0 s.adm.expDemand i)),
   (0x4100, (List.range nrep).flatMap fun i => natLe 4 (s.capCount i)),
   (0xF8, natLe 8 s.step.toNat)]

/-- A completed ADMIT writes its histogram slot, or a full ring drops it (R177). -/
def State.histogram (s : State) (u : UCmd) : State :=
  if s.fld 0x070018 0 0 = 0 then s else
  let n := ringSlots (s.fld 0x070018 4 1)
  let wr := s.fld 0x07001C 12 0
  let rd := s.fldNow 0x070020 12 0
  if n ≤ (wr + 8192 - rd) % 8192 then
    let t := s.bump 0x2210 1
    { t with adm := { t.adm with sflags := t.adm.sflags ||| 0x4#16 } }
  else
    let base := s.fld 0x070010 31 19 * 2 ^ 19 + s.fld 0x070014 15 0 * 2 ^ 32 + wr % n * 0x80000
    let t := (s.histSlot u).foldl (fun t p => (t.setBytes (base + p.1) p.2).cureRange (base + p.1) p.2.length) s
    (t.setFld 0x07001C 12 0 ((wr + 1) % 8192)).signalIf 0x070024

/-- A write of `ADM_HIST_RD` (R177): refused with BOUNDS when (WR − RD) mod 8192 would exceed the slot count. -/
def State.histRd (s : State) (v : Word) : Byte × State :=
  let rd := bitsOf v.toNat 12 0
  if ringSlots (s.fld 0x070018 4 1) < (s.fld 0x07001C 12 0 + 8192 - rd) % 8192 then (codeBounds, s)
  else (codeOk, s.liveWrite 0x070020 (BitVec.ofNat 32 rd))

/-- HIST_RD_WRITE (R177). -/
def execHistRdWrite (v : Word) (s : State) : Out := .next (s.hostWrite 0x070020 fun t => t.histRd v)

end Sys2Proof.Machine
end

