-- ==== Sys2Proof/Machine/Nvs.lean ====
section
/-! DEFINITION. The non-volatile image: its on-block copy, the writes that persist it (R327, R328), the standing record
(R329), the kickoff log (R330) and the quarantine list (R310). -/

namespace Sys2Proof.Machine

/-! ### Words of the image -/

/-- Word `w` of the on-block copy. -/
def State.img (s : State) (w : Nat) : Word := Tab.get 0#32 s.kick.img w

/-- A word of the copy is written, and its write to the store waits its turn while persistence is on (R327, R332). -/
def State.setImg (s : State) (w : Nat) (v : Word) : State :=
  { s with kick := { s.kick with img := Tab.set 0#32 s.kick.img w v
                                 nvsq := if s.kick.persist then s.kick.nvsq ++ [(w, v)] else s.kick.nvsq } }

/-- Words of the copy are written in turn. -/
def State.setImgs (s : State) : List (Nat × Word) → State
  | [] => s
  | (w, v) :: l => (s.setImg w v).setImgs l

/-- K0 of this start is reading the image, and has words left to read (R325). -/
def State.reading (s : State) : Bool :=
  decide (s.kick.st = 1) && decide (s.kick.step = 0) && s.kick.readImage && decide (s.kick.note = 0) && decide (s.kick.rd < 2048)

/-- The outputs of the store port (R327): `NVS_CMD` (0 idle, 1 READ, 2 WRITE), `NVS_ADDR` and `NVS_WDATA`. -/
def State.nvsPort (s : State) : Nat × Nat × Word :=
  if s.reading then (1, s.kick.rd, 0)
  else match s.kick.nvsq with
    | [] => (0, 0, 0)
    | (w, v) :: _ => (2, w, v)

/-- First words of the parts of the image. -/
def imgStanding : Nat := 16
def imgPolicy : Nat := 128
def imgLog : Nat := 256
def imgQuar : Nat := 1280

/-- The header is that of an image of layout version 1 (R328). -/
def State.imgOk (s : State) : Bool := decide (s.img 0 = 0x4C4B4450#32) && decide (s.img 1 = 1#32)

/-- Kickoff count of the header. -/
def State.kickCount (s : State) : Nat := bitsOf (s.img 2).toNat 15 0

/-! ### Standing record (R329) -/

/-- Bit `u` of the marks that begin at word `w`, as they act in this run (R334). -/
def State.marked (s : State) (w u : Nat) : Bool := bitOf (Tab.get 0#32 s.kick.marks (w + u / 32)).toNat (u % 32)

/-- A word with bit `u` modulo 32 set. -/
def withMark (v : Word) (u : Nat) : Word := BitVec.ofNat 32 (putBits v.toNat (u % 32) (u % 32) 1)

/-- Unit `u` is marked out, in this run and in the record. -/
def State.markOut (s : State) (w u : Nat) : State :=
  let j := w + u / 32
  let t : State := { s with kick := { s.kick with marks := Tab.set 0#32 s.kick.marks j (withMark (Tab.get 0#32 s.kick.marks j) u) } }
  t.setImg (imgStanding + j) (withMark (s.img (imgStanding + j)) u)

/-- The marks of the record act from this start on (R326, R334). -/
def State.takeMarks (s : State) : State :=
  { s with kick := { s.kick with marks := (List.range 9).foldl (fun m j => Tab.set 0#32 m j (s.img (imgStanding + j))) [] } }

/-! ### The kickoff log (R330) -/

/-- The 64 bytes of log slot `i`. -/
def State.logBytes (s : State) (i : Nat) : List Byte :=
  (List.range 16).flatMap fun j => natLe 4 (s.img (imgLog + 16 * i + j)).toNat

/-- Sequence of log slot `i`; 0 when the slot holds no valid entry. -/
def State.logSeq (s : State) (i : Nat) : Nat :=
  let bs := s.logBytes i
  if crc32 (bs.take 60) = leNat (bs.drop 60) then leNat (bs.take 4) else 0

/-- The slot and sequence of the newest valid entry. -/
def State.newestLog (s : State) : Option (Nat × Nat) :=
  (List.range 64).foldl (fun best i =>
    let q := s.logSeq i
    if q = 0 then best else
    match best with
    | some (_, m) => if m < q then some (i, q) else best
    | none => some (i, q)) none

/-- A log entry before its sequence, count, time and CRC are added. -/
structure LogEnt where
  step : Nat
  outcome : Nat
  cause : Byte
  item : BitVec 16
  action : Nat
  rpt : Nat
  detail : List Byte
  deriving DecidableEq, Repr

/-- A new entry goes into the slot behind the newest, its words persisted in the order of R330. -/
def State.logEntry (s : State) (e : LogEnt) : State :=
  let (i, q) := match s.newestLog with | some (i, q) => ((i + 1) % 64, q + 1) | none => (0, 1)
  let det := (e.detail ++ List.replicate 40 0#8).take 40
  let bs := natLe 4 q ++ natLe 2 s.kickCount ++ natLe 1 (e.step % 16 + 16 * e.outcome) ++ [e.cause] ++
    natLe 2 e.item.toNat ++ natLe 1 e.action ++ natLe 1 e.rpt ++ natLe 8 s.spcnt.toNat ++ det
  let word (j : Nat) : Word := BitVec.ofNat 32 (leNat ((bs.drop (4 * j)).take 4))
  let b := imgLog + 16 * i
  s.setImgs (((List.range 14).map fun j => (b + 1 + j, word (j + 1))) ++
    [(b + 15, BitVec.ofNat 32 (crc32 bs)), (b, word 0)])

/-- An in-service event enters the log as step 15, outcome EVENT (R330, R334). -/
def State.logEvent (s : State) (cause : Byte) (item : BitVec 16) : State :=
  s.logEntry ⟨15, 5, cause, item, 0, 0, []⟩

/-! ### The quarantine list (R310, R311) -/

/-- Entry `i` of the list: channel and row unit, if it is valid. -/
def State.quarEntry (s : State) (i : Nat) : Option (Nat × Nat) :=
  let v := (s.img (imgQuar + 2 * i)).toNat
  if bitOf v 31 then some (32 * bitsOf v 4 0 + bitsOf v 9 5, bitsOf v 29 10) else none

/-- The entries of the list. -/
def State.quarList (s : State) : List (Nat × Nat) := (List.range 256).filterMap s.quarEntry

/-- The lines of a quarantined row unit, as byte addresses of 256 bytes each (R307, R311). -/
def State.unitLines (s : State) (c u : Nat) : List (Nat × Nat) :=
  ((List.range 8).filter fun j => decide (8 * u + j < s.mp.nlines)).map fun j => (256 * chanLine c (8 * u + j), 256)

/-- The addresses that the quarantined units cover: those of the list and those of this run only. -/
def State.quarRows (s : State) : List (Nat × Nat) :=
  (s.quarList ++ s.mp.quarNow).flatMap fun p => s.unitLines p.1 p.2

/-- The buffers of pool `n` that cover some of the given lines (R236). -/
def State.quarBuffers (s : State) (n : Nat) (lines : List (Nat × Nat)) : Tab Bool :=
  lines.foldl (fun t (a, z) =>
    let b := s.poolBase n
    let e := b + s.poolCount n * s.bufBytes n
    if a + z ≤ b ∨ e ≤ a ∨ s.bufBytes n = 0 then t else
    let lo := (Max.max a b - b) / s.bufBytes n
    let hi := (Min.min (a + z) e - 1 - b) / s.bufBytes n
    (List.range (hi + 1 - lo)).foldl (fun t i => Tab.set false t (lo + i) true) t) []

end Sys2Proof.Machine
end

