-- ==== Sys2Proof/Machine/Pools.lean ====
section
/-! DEFINITION. Buffer pools as the host and the units meet them: enabling (R232), quotas (R233), allocation (R234),
return (R235), the cache and the ring; and tensor regions (R103). -/

namespace Sys2Proof.Machine

/-! ### Areas -/

/-- Two byte ranges meet: first byte and size. -/
def meets (a n b m : Nat) : Bool := decide (0 < n) && decide (0 < m) && decide (a < b + m) && decide (b < a + n)

/-- Bytes of the buffer area of pool `n`. -/
def State.poolBytes (s : State) (n : Nat) : Nat := s.poolCount n * s.bufBytes n

/-- A range meets an enabled tensor region other than `skip`. -/
def State.meetsRegion (s : State) (skip a n : Nat) : Bool :=
  (List.range 256).any fun r =>
    let (b, z, en) := s.region r
    en && decide (r ≠ skip) && meets a n b z

/-- A range meets an area of an enabled pool other than `skip`. -/
def State.meetsPool (s : State) (skip a n : Nat) : Bool :=
  (List.range 8).any fun p =>
    s.poolEn p && decide (p ≠ skip) &&
    (meets a n (s.poolBase p) (s.poolBytes p) || meets a n (s.poolRing p) (s.ringBytes p))

/-! ### Enabling (R232) -/

/-- Grounds of BOUNDS for enabling pool `n`, whose registers hold the values to be checked. -/
def State.poolBad (s : State) (n : Nat) : Bool :=
  let size := s.fld (poolReg n 0x14) 1 0
  let cls := s.poolClass n
  let b := s.poolBase n
  let z := s.poolBytes n
  let r := s.poolRing n
  let y := s.ringBytes n
  decide (s.poolCount n = 0) || decide (size = 3) || decide (cls = 3) ||
  (decide (1 ≤ cls) && (List.range 8).any fun p => s.poolEn p && decide (p ≠ n) && decide (s.poolClass p = cls)) ||
  decide (s.stackBytes < b + z) || decide (s.stackBytes < r + y) || meets b z r y ||
  s.meetsRegion 256 b z || s.meetsRegion 256 r y || s.meetsPool n b z || s.meetsPool n r y ||
  (decide (cls = 0) && decide (s.poolCount n - (s.quarBuffers n s.quarRows).length < s.quotaSum n))

/-- A write of `POOL_CTRL` of pool `n` (R11, R232, R394). -/
def State.poolCtrl (s : State) (n : Nat) (v : Word) : Byte × State :=
  let off := poolReg n 0x14
  let w := v &&& 0x8000000F#32
  let old := s.reg off
  if w = old then (codeOk, s)
  else if !s.idle then (codeOffside, s)
  else if old.getLsbD 31 && w.getLsbD 31 then (codeOffside, s)
  else if !w.getLsbD 31 then
    let t := (s.setReg off w).setPool n { s.pool n with ready := false }
    (codeOk, if s.poolEn n && decide (s.poolClass n = 2) then
      { t with reb := { t.reb with aslots := 0, used := 0, aused := [] } } else t)
  else
    let t := s.setReg off w
    if t.poolBad n then (codeBounds, s)
    else if t.poolBase n % t.bufBytes n ≠ 0 then (codeAlign, s)
    else (codeOk, t.setPool n { Pool.reset with quar := t.quarBuffers n t.quarRows })

/-- POOL_ENABLE (R232): a write of `POOL_CTRL` with EN set. -/
def execPoolEnable (n : Fin 8) (v : Word) (s : State) : Out :=
  .next (s.hostWrite (poolReg n.val 0x14) fun t => t.poolCtrl n.val (v ||| 0x80000000#32))

/-- The total of answer slots in the RETURN pool, less the quarantined buffers (R281). -/
def State.answerTotal (s : State) (n : Nat) : Nat := (s.poolCount n - s.quarCount n) * s.perBuffer n

/-- The free ring and the allocation bitmap as they are built (R232): the buffers' addresses in ascending order, 8 bytes each, and a
bit for each buffer (log entry 85). -/
def State.ringImage (s : State) (n : Nat) (sound : List Nat) : State :=
  (s.setBytes (s.poolRing n) (sound.flatMap fun i => natLe 8 (s.bufAddr n i))).setBytes
    (s.poolRing n + 8 * s.poolCount n) (List.replicate (ceilDiv (s.poolCount n) 8) 0#8)

/-- POOL_RING_BUILT (R232, R281): the ring holds every buffer that is not quarantined, the bitmap is clear, READY is set, and the
requests that waited are served; Rebound takes every buffer of a RETURN pool as requester 3, but with answer slots of no size it
leaves the pool unused (R292). -/
def execPoolRingBuilt (n : Fin 8) (s : State) : Out :=
  let p := s.pool n.val
  .next (if !s.poolEn n.val || p.ready then s else
    let sound := (List.range (s.poolCount n.val)).filter fun i => !Tab.get false p.quar i
    let t := (s.setPool n.val { Pool.reset with ready := true, quar := p.quar, waiting := p.waiting }).ringImage n.val sound
    if s.poolClass n.val = 2 ∧ s.ansBytes ≠ 0 then
      let q := { (t.pool n.val) with
        fresh := s.poolCount n.val, bitmap := sound.map (fun i => (i, true))
        held := if sound = [] then [] else [(3, sound.length)] }
      let t := sound.foldl (fun t i => t.bitmapByte n.val i) (t.setPool n.val q)
      { t with reb := { t.reb with aslots := t.answerTotal n.val } }
    else t.serveWaiting n.val p.waiting.length)

/-! ### Quotas (R233) -/

/-- A write of a quota register. -/
def State.quotaWrite (s : State) (n r : Nat) (v : Word) : Byte × State :=
  let off := 0x0A1000 + 4 * (8 * r + n)
  let w := BitVec.ofNat 32 (bitsOf v.toNat 23 0)
  if 4 ≤ r ∧ r < 16 then (codeOk, s)
  else if w = s.reg off then (codeOk, s)
  else if !s.idle then (codeOffside, s)
  else
    let t := s.setReg off w
    if s.poolEn n && decide (s.poolClass n = 0) && decide (s.poolCount n - s.quarCount n < t.quotaSum n) then
      (codeBounds, s)
    else (codeOk, t)

/-- POOL_QUOTA_WRITE (R233). -/
def execPoolQuotaWrite (n : Fin 8) (r : Fin 256) (v : Word) (s : State) : Out :=
  .next (s.hostWrite (0x0A1000 + 4 * (8 * r.val + n.val)) fun t => t.quotaWrite n.val r.val v)

/-! ### Requests (R234) -/

/-- A request for one buffer (R234): refused with QUOTA, or of a RECEIVE pool discarded, it takes none; of a pool that is not ready,
behind requests that wait, or of a GENERAL pool that is empty, it waits, but that of the host does not. -/
def State.poolRequest (s : State) (n r : Nat) : State :=
  let p := s.pool n
  let wait := s.setPool n { p with waiting := p.waiting ++ [(r, 0)] }
  if !s.poolEn n then s
  else if !p.ready then wait
  else match s.poolClass n with
    | 0 =>
      if !s.underQuota n r 1 then s
      else if p.waiting ≠ [] then (if r < 16 then wait else s)
      else match s.poolTake n r none with
        | some (_, t) => t
        | none => if r < 16 then wait else s
    | 1 => if r ≠ 2 then s else match s.poolTake n r none with | some (_, t) => t | none => s
    | _ => s

/-- POOL_ALLOCATE (R234). -/
def execPoolAllocate (n : Fin 8) (r : Fin 256) (s : State) : Out := .next (s.poolRequest n.val r.val)

/-- POOL_FREE (R235): a buffer comes back and is checked; a request that waits for one is served. -/
def execPoolFree (n : Fin 8) (r : Fin 256) (addr : BitVec 48) (s : State) : Out :=
  let a := addr.toNat
  .next (if !s.poolEn n.val then s
    else if s.freeCode n.val a = codeOk then s.poolGive n.val r.val ((a - s.poolBase n.val) / s.bufBytes n.val)
    else if r.val < 16 then s.unitFree n.val r.val a else s)

/-- The cache writes 64 entries back to the ring, those returned last (log entry 85). -/
def State.writeBack (s : State) (n : Nat) : State :=
  let p := s.pool n
  let l := p.freed.drop (p.freed.length - 64)
  let t := l.zipIdx.foldl (fun t (i, j) =>
    t.setNum (s.poolRing n + 8 * ((s.poolCount n - s.quarCount n + p.back + j) % s.poolCount n)) 8 (s.bufAddr n i)) s
  t.setPool n { p with cached := p.cached - 64, back := p.back + l.length }

/-- POOL_CACHE_REFILL (R234): at 64 entries or fewer the cache takes 128 from the ring, at 224 or more it writes 64
back; and requests that wait are served. -/
def execPoolCacheRefill (n : Fin 8) (s : State) : Out :=
  let p := s.pool n.val
  let free := p.freeCount (s.poolCount n.val)
  .next (if !s.poolEn n.val || !p.ready then s else
    let t := if p.cached ≤ 64 then s.setPool n.val { p with cached := Min.min (p.cached + 128) free }
      else if 224 ≤ p.cached then s.writeBack n.val else s
    t.serveWaiting n.val p.waiting.length)

/-! ### Tensor regions (R103) -/

/-- A write of the EN register of region `n`: the size, the capacity and the overlaps are checked as EN is set. -/
def State.tregCtrl (s : State) (n : Nat) (v : Word) : Byte × State :=
  let off := 0x0D800C + 0x10 * n
  let w := v &&& 1#32
  if w = s.reg off then (codeOk, s)
  else if !s.idle then (codeOffside, s)
  else if w = 0 then (codeOk, s.setReg off 0)
  else
    let (b, z, _) := s.region n
    if z = 0 ∨ s.stackBytes < b + z ∨ s.meetsRegion n b z ∨ s.meetsPool 8 b z then (codeBounds, s)
    else (codeOk, s.setReg off 1)

/-- TREG_ENABLE (R103). -/
def execTregEnable (n : Fin 256) (s : State) : Out :=
  .next (s.hostWrite (0x0D800C + 0x10 * n.val) fun t => t.tregCtrl n.val 1)

end Sys2Proof.Machine
end

