-- ==== Sys2Proof/Machine/Huddle.lean ====
section
/-! DEFINITION. Huddle: the copies of a half, their buckets and the bank that remembers them (R77, R224 to R227); and the
packer (R78, R228 to R230). -/

namespace Sys2Proof.Machine

/-! ### Tags and copies (R23, R226) -/

/-- A token tag, field by field (R23). -/
structure TagRec where
  origin : Nat
  slot : Nat
  choice : Nat
  expert : Nat
  replica : Nat
  weight : BitVec 16
  epoch : Nat
  half : Nat
  batch : BitVec 14
  gen : BitVec 2
  dense : Bool
  multi : Bool
  deriving DecidableEq, Repr

/-- The 96 bits of a tag. -/
def TagRec.bits (t : TagRec) : BitVec 96 :=
  BitVec.ofNat 96 (t.origin % 2 ^ 13 + t.slot % 2 ^ 20 * 2 ^ 13 + t.choice % 16 * 2 ^ 33 + t.expert % 4096 * 2 ^ 37 +
    t.replica % 16 * 2 ^ 49 + t.weight.toNat * 2 ^ 53 + t.epoch % 256 * 2 ^ 69 + t.half % 2 * 2 ^ 77 +
    t.batch.toNat * 2 ^ 78 + t.gen.toNat * 2 ^ 92 + b2n t.dense * 2 ^ 94 + b2n t.multi * 2 ^ 95)

/-- The tag that 96 bits hold. -/
def tagOf (v : Nat) : TagRec :=
  ⟨bitsOf v 12 0, bitsOf v 32 13, bitsOf v 36 33, bitsOf v 48 37, bitsOf v 52 49, BitVec.ofNat 16 (bitsOf v 68 53),
   bitsOf v 76 69, bitsOf v 77 77, BitVec.ofNat 14 (bitsOf v 91 78), BitVec.ofNat 2 (bitsOf v 93 92), bitOf v 94,
   bitOf v 95⟩

/-- An extension entry of a copy header (R226). -/
def extEntry (choice expert replica : Nat) (weight : BitVec 16) : Nat :=
  choice % 16 + expert % 4096 * 16 + replica % 16 * 2 ^ 16 + weight.toNat * 2 ^ 20

/-- Header words of a copy of `c` choices (R226). -/
def copyHeaderWords (c : Nat) : Nat := 1 + ceilDiv (c - 1) 8

/-- Header words of a copy as Huddle makes it: the packed length, the form map, the element count and its format wait for
Volley; the locator holds the row, and in bits [28:16] the destination chip (log entry 20). -/
def copyLines (tag : BitVec 96) (gidx : Nat) (exts : List Nat) (row host : Nat) : List Line :=
  lineOf (natLe 12 tag.toNat ++ natLe 4 (gidx % 2 ^ 30) ++ natLe 1 (exts.length + 1) ++ List.replicate 23 0#8 ++
    natLe 8 (row % 65536 + host % 8192 * 65536)) ::
  (piecesOf 8 2 exts).map fun p => lineOf (p.flatMap (natLe 8))

/-! ### Banks -/

/-- The bank of half `h`. -/
def State.hbank (s : State) (h : Nat) : HudBank := if h = 0 then s.hud.bankA else s.hud.bankB

/-- The bank of half `h` becomes `b`. -/
def State.setHbank (s : State) (h : Nat) (b : HudBank) : State :=
  if h = 0 then { s with hud := { s.hud with bankA := b } } else { s with hud := { s.hud with bankB := b } }

/-- First queue and number of queues of a half's send-queue block (R77, R238). -/
def State.sendBlock (s : State) (h : Nat) : Nat × Nat :=
  let q := s.fld (0x090200 + 4 * h) 24 12
  (s.fld (0x090200 + 4 * h) 11 0, if 1 ≤ q ∧ q ≤ 4096 then q else 1)

/-! ### HUDDLE -/

/-- Buffers of `HUD_BKT.POOL` that the worst case of `n` records takes (R224). -/
def State.bucketBuffers (s : State) (n : Nat) : Nat :=
  ceilDiv ((ceilDiv n 15 + Min.min 8192 n) * 1024) (s.bufBytes (s.fld 0x090208 2 0))

/-- Buffers that a HUDDLE reserves: for VEXT × k records, of a chained choice tensor for SHAPE × k (R224; log entry 45). -/
def State.bucketNeed (s : State) (u : UCmd) : Nat := s.bucketBuffers (u.rowsMax * u.descA.k)

/-- The reservation would take requester 0 beyond its quota: there is no pool for it, or too little quota. -/
def State.bucketShort (s : State) (u : UCmd) : Bool :=
  let p := s.fld 0x090208 2 0
  decide (s.bucketNeed u ≠ 0) && (!s.poolEn p || decide (s.poolClass p ≠ 0) || !s.underQuota p 0 (s.bucketNeed u))

/-- Codes that end HUDDLE before it changes anything (R63, R70, R77, R224). -/
def huddleCheck (s : State) (u : UCmd) : Option Byte :=
  let (b, q) := s.sendBlock (u.queue % 2)
  lowest [((List.range q).any fun j => decide ((s.queue ((b + j) % 4096)).cls ≠ .unit), codeOffside),
    (decide (u.f.sub ≠ 0), codeFormat), (decide (u.descA.fmt ≠ CHOICE), codeFormat), (s.bucketShort u, codeQuota)]

/-- HUDDLE starts: it takes the bank of its half and asks for its bucket space (R224). -/
def huddleStart (s : State) (u : UCmd) : UCmd × State :=
  let u := { u with half := some (BitVec.ofNat 1 u.queue).toFin }
  let p := s.fld 0x090208 2 0
  let k := s.bucketNeed u
  let s : State := { s with hud := { s.hud with resv := [] } }
  if k = 0 then ({ u with stage := 1 }, s)
  else
    let x := s.pool p
    match (if x.ready && x.waiting.isEmpty then s.poolTakes p 0 u.half k else none) with
    | some (bs, t) => ({ u with stage := 1 }, { t with hud := { t.hud with resv := bs } })
    | none => (u, s.setPool p { x with waiting := x.waiting ++ [(0, k)] })

/-- Words of the record queue are read until the end-marked one; the flag says that it was read. Fuel bounds them. -/
def readRecords (q : Nat) : Nat → State → Bool × State
  | 0, s => (false, s)
  | n + 1, s =>
    match s.popWord q with
    | none => (false, s)
    | some (w, t) =>
      if w.kind ≠ 4#3 then readRecords q n (if w.last then t.malformed else t)
      else
        let t : State := { t with hud := { t.hud with
          recs := t.hud.recs ++ (List.range 4).map fun j => w.data.extractLsb' (128 * j) 128 } }
        if w.last then (true, t) else readRecords q n t

/-- A record joins the copy of its row and host, or begins one. -/
def joinCopy (r : AdmRec) : List (Nat × Nat × List AdmRec) → List (Nat × Nat × List AdmRec)
  | [] => [(r.row, r.host, [r])]
  | (row, host, l) :: cs =>
    if row = r.row ∧ host = r.host then (row, host, l ++ [r]) :: cs else (row, host, l) :: joinCopy r cs

/-- A record takes its place in ascending choice index. -/
def choiceInsert (r : AdmRec) : List AdmRec → List AdmRec
  | [] => [r]
  | x :: l => if r.choice < x.choice then r :: x :: l else x :: choiceInsert r l

/-- The queue words of one copy (R225, R226): the lowest choice in the tag, the others in extension entries. -/
def State.copyPacket (s : State) (h : Nat) (row host : Nat) (rs : List AdmRec) : List QWord :=
  match rs.foldr choiceInsert [] with
  | [] => []
  | r :: l =>
    let (slot, batch, gen) := match s.rowSlot h row with
      | some n => (n, (s.rslot n).batch, (s.rslot n).gen)
      | none => (0, s.batch h, s.gen h)
    let tag : TagRec := ⟨s.chip, slot, r.choice, r.expert, r.replica, r.weight, r.epoch, h, batch, gen, false,
      decide (l ≠ [])⟩
    packetOf 6 (copyLines tag.bits r.gidx (l.map fun x => extEntry x.choice x.expert x.replica x.weight) row host)

/-- Hosts of the copies in ascending order, each once. -/
def hostsOf (cs : List (Nat × Nat × List AdmRec)) : List Nat :=
  (cs.foldr (fun c l => keyInsert id c.2.1 (l.filter fun x => decide (x ≠ c.2.1))) [])

/-- Blocks of 15 words are written to the blocks of the reservation from number `i` on: the chain's addresses and word
counts. -/
def State.putChain (s : State) (addr : Nat → Nat) (i : Nat) : List (List QWord) → List (Nat × Nat) × State
  | [] => ([], s)
  | ws :: l =>
    let (c, t) := (s.putBlock (addr i) ws).putChain addr (i + 1) l
    ((addr i, ws.length) :: c, t)

/-- One bucket is spliced into the middle of its send queue (R227). -/
def State.splice (s : State) (q : Nat) (chain : List (Nat × Nat)) (packets : Nat) : State :=
  let x := s.queue q
  s.setQueue q { x with mid := x.mid ++ chain, pkt := x.pkt + BitVec.ofNat 24 packets }

/-- The buckets, in ascending chip order from rank `j`, are stored from block `i` on and spliced: the blocks used. -/
def State.spliceAll (s : State) (h : Nat) (addr : Nat → Nat) (cs : List (Nat × Nat × List AdmRec)) :
    List Nat → Nat → Nat → Nat × State
  | [], _, i => (i, s)
  | host :: l, j, i =>
    let mine := cs.filter fun c => decide (c.2.1 = host)
    let words := mine.flatMap fun c => s.copyPacket h c.1 c.2.1 c.2.2
    let (chain, t) := s.putChain addr i (piecesOf 15 words.length words)
    let (b, q) := s.sendBlock h
    (t.splice ((b + j % q) % 4096) chain mine.length).spliceAll h addr cs l (j + 1) (i + chain.length)

/-- HUDDLE has read its last record: the copies are made, bucketed and spliced, unused buffers return, and the bank
describes the half (R225, R227). -/
def huddleFinish (s : State) (u : UCmd) : UCmd × State :=
  let h := u.queue % 2
  let p := s.fld 0x090208 2 0
  let per := s.bufBytes p / 1024
  let recs := (s.hud.recs.map fun b => admRecOf b.toNat).filter (·.valid)
  let cs := recs.foldl (fun l r => joinCopy r l) []
  let hosts := hostsOf cs
  let resv := s.hud.resv
  let addr (i : Nat) : Nat := s.bufAddr p (resv.getD (i / per) 0) + i % per * 1024
  let (used, s1) := s.spliceAll h addr cs hosts 0 0
  let s2 := resv.zipIdx.foldl (fun t (b, j) =>
    let n := Min.min per (used - j * per)
    if n = 0 then t.poolGive p 0 b
    else { t with hud := { t.hud with blocks := Tab.set 0 t.hud.blocks (t.bufAddr p b) n } }) s1
  let merges := cs.foldl (fun a c => a + (c.2.2.length - 1)) 0
  let s3 := (s2.bump 0x090210 cs.length).bump 0x090214 merges
  let rows := cs.foldl (fun t c => Tab.set false t c.1 true) ([] : Tab Bool)
  let s4 := s3.setHbank h { s3.hbank h with rows := rows, open_ := true, packed := false, unsent := cs.length
                                            batch := s.batch h, gen := s.gen h }
  ({ u with out := some 0, value := BitVec.ofNat 64 hosts.length },
   { s4 with hud := { s4.hud with recs := [], resv := [], lastDone := u.half } })

/-- The bank of half `h` is cleared for a new HUDDLE: until that completes there is nothing in it to pack (R78, R224, R228). -/
def State.clearBank (s : State) (h : Nat) : State :=
  let t := s.setHbank h { s.hbank h with rows := [], dir := [], packed := true }
  { t with hud := { t.hud with recs := [] } }

/-- Huddle goes on with a started HUDDLE (R224): once its space is reserved it waits until everything of its bank's previous contents
has been sent, clears the bank, and reads records as they come. Stage 1 has the space, 2 the bank, 3 the last record. -/
def huddleTake (s : State) (u : UCmd) : UCmd × State :=
  let h := u.queue % 2
  let b := s.hbank h
  let u := if u.stage = 0 ∧ s.hud.resv ≠ [] then { u with stage := 1 } else u
  let (u, s) := if u.stage = 1 ∧ b.unsent = 0 ∧ !b.open_ then ({ u with stage := 2 }, s.clearBank h) else (u, s)
  if u.stage ≠ 2 then (u, s) else
    let (marked, s) := s.takeMark u.queue
    let s : State := if marked then { s with hud := { s.hud with recs := [] } } else s
    let (done, s) := readRecords u.queue ((s.queue u.queue).occ + 1) s
    (if done then { u with stage := 3 } else u, s)

/-- The records are all there: the copies are made. -/
def huddleWork (s : State) (u : UCmd) : UCmd × State := if u.stage = 3 then huddleFinish s u else (u, s)

/-- Huddle's pass over a HUDDLE. -/
def huddleRun (s : State) (u : UCmd) : State := s.driveRows u huddleCheck huddleStart huddleTake huddleWork

/-- HUDDLE (R77). -/
def execHuddle (c : Ctx) (f : Fields) (s : State) : Out := .next (s.issueUnit c (.huddle c f) f huddleRun)

/-! ### PACK (R78, R228 to R230) -/

/-- A source format that PACK takes. -/
def packable (fmt : Nat) : Bool := decide (1 ≤ fmt) && decide (fmt ≤ 4)

/-- The form of a tile (0 DENSE, 1 BITMAP, 2 INDEX) and its size (R78). -/
def tileForm (mode esize nnz : Nat) : Nat × Nat :=
  let dense := 256 * esize
  let r := if mode ≠ 1 ∧ 32 + nnz * esize < dense then (1, 32 + nnz * esize) else (0, dense)
  let r := if mode = 0 ∧ nnz * (2 + esize) < r.2 then (2, nnz * (2 + esize)) else r
  (r.1, Max.max r.2 (dense / 8))

/-- The elements of a tile with their positions that have a bit set. -/
def nonZero (els : List (List Byte)) : List (Nat × List Byte) :=
  (els.zipIdx.map fun (e, j) => (j, e)).filter fun p => p.2.any fun b => decide (b ≠ 0)

/-- The bytes of a bitmap of 256 positions. -/
def bitmapBytes (ps : List Nat) : List Byte :=
  (List.range 32).map fun i => BitVec.ofNat 8 ((List.range 8).foldl (fun v k => v + b2n (ps.contains (8 * i + k)) * 2 ^ k) 0)

/-- The bytes of a tile in a form, padded with zeros to its size (R229). -/
def tileBytes (form size : Nat) (els : List (List Byte)) : List Byte :=
  let nz := nonZero els
  let bs := match form with
    | 0 => els.flatten
    | 1 => bitmapBytes (nz.map (·.1)) ++ nz.flatMap (·.2)
    | _ => if nz = [] then natLe 2 0x8000
           else (nz.zipIdx.flatMap fun (p, i) => natLe 2 (p.1 + (if i + 1 = nz.length then 0x8000 else 0)) ++ p.2)
  bs ++ List.replicate (size - bs.length) 0#8

/-- A row packed: its tiles' forms, and the packed bytes. -/
def packRow (mode esize : Nat) (row : List Byte) : List Nat × List Byte :=
  let els := piecesOf esize row.length row
  let tiles := (piecesOf 256 row.length els).map fun t =>
    let (f, z) := tileForm mode esize (nonZero t).length
    (f, tileBytes f z t)
  (tiles.map (·.1), tiles.flatMap (·.2))

/-- The stored bytes of row `r` of an unscaled source; rows beyond the valid ones read as zeros (R113). -/
def State.rowBytes (s : State) (d : Desc) (cov : Option Nat) (r : Nat) : List Byte :=
  let lim := match cov with | some n => Max.max n d.vext | none => d.vext
  let z := unitSize d.fmt
  if lim ≤ r then List.replicate (d.rowLen * z) 0#8
  else if d.rank = 1 then s.bytes (d.base + r * z) z
  else (d.rowRuns r).flatMap fun a => s.bytes a (d.ext 0 * z)

/-- Codes that end PACK before its first input (R70, R78, R228). -/
def packCheck (s : State) (u : UCmd) : Option Byte :=
  let a := u.descA
  let b := u.descB
  let packed := match s.hud.lastDone with | some h => (s.hbank h.val).packed | none => true
  lowest [(packed, codeOffside), (decide (3 ≤ u.f.sub), codeFormat), (!packable a.fmt || decide (a.sblk ≠ 0), codeFormat),
    (decide (b.fmt ≠ PACKED) || decide (bitsOf b.fparam 4 0 ≠ a.fmt), codeFormat),
    (decide (a.ext 0 % 256 ≠ 0) || decide (16384 < a.rowLen), codeBounds),
    (decide (b.ext 0 ≠ a.rowLen * unitSize a.fmt), codeBounds), (decide (b.rows < u.rowsMax), codeBounds)]

/-- PACK takes the bank of the most recently completed HUDDLE (R228). -/
def packStart (s : State) (u : UCmd) : UCmd × State := ({ u with half := s.hud.lastDone }, s)

/-- One row of PACK: packed, written back to back, and entered in the directory (R230). -/
def packOne (u : UCmd) (h : Nat) (acc : Nat × State) (r : Nat) : Nat × State :=
  let (sum, s) := acc
  let a := u.descA
  let (forms, bs) := packRow u.f.sub (unitSize a.fmt) (s.rowBytes a u.cov r)
  let count (n : Nat) : Nat := (forms.filter fun f => decide (f = n)).length
  let t := (((s.setBytes (u.descB.unitAddr r 0) bs).bump 0x090218 (count 0)).bump 0x09021C (count 1)).bump 0x090220 (count 2)
  let b := t.hbank h
  (sum + bs.length,
   t.setHbank h { b with dir := Tab.set none b.dir r (some ⟨forms.map (BitVec.ofNat 2), bs.length⟩) })

/-- What the packer does for a started PACK. -/
def packWork (s : State) (u : UCmd) : UCmd × State :=
  match u.half with
  | none => (u.made 0 0, s)
  | some h =>
    let rows := (List.range u.rowsIn).filter fun r => Tab.get false (s.hbank h.val).rows r
    let (sum, t) := rows.foldl (packOne u h.val) (0, s)
    (u.made u.rowsIn sum, t.setHbank h.val { t.hbank h.val with packed := true })

/-- The packer's pass over a PACK. -/
def packRun (s : State) (u : UCmd) : State := s.drive u packCheck packStart packWork

/-- PACK (R78). -/
def execPack (c : Ctx) (f : Fields) (s : State) : Out := .next (s.issueUnit c (.pack c f) f packRun)

end Sys2Proof.Machine
end

