-- ==== Sys2Proof/Machine/MemPort.lean ====
section
/-! DEFINITION. The memory port's events: requests and responses (R297 to R301), retraining (R302, R303), takeover (R304 to R306),
row errors and quarantine (R307 to R312), and maintenance commands (R313). -/

namespace Sys2Proof.Machine

/-! ### Requests (R298 to R302) -/

/-- MEM_REQUEST_ISSUE (R298 to R302, R306): a unit requests. A request beyond the stacks does not exist; an ADD in Ordered mode is one
that the engine does not make (R301). -/
def execMemRequestIssue (r : MemReq) (s : State) : Out :=
  if s.mp.nlines * 640 ≤ r.line.toNat then .fault .beyondStacks
  else if !r.ok || (decide (r.op = .add) && s.ordered) then .next s
  else .next (s.memRequest r)

/-! ### Row errors and repair (R307 to R312) -/

/-- Every pool takes note of the quarantined buffers; a RETURN buffer with no answer slot in use leaves the total at
once (R236, R281). -/
def State.quarPools (s : State) : State :=
  (List.range 8).foldl (fun t n =>
    if !t.poolEn n then t else
    let old := (t.pool n).quar
    let new := t.quarBuffers n t.quarRows
    let gone := new.filter fun b => decide (t.poolClass n = 2) && (t.pool n).ready && !Tab.get false old b.1 &&
      t.reb.aused.all fun j => decide (j / t.perBuffer n ≠ b.1)
    let u := t.setPool n { t.pool n with quar := new }
    { u with reb := { u.reb with aslots := u.reb.aslots - gone.length * u.perBuffer n } }) s

/-- Row unit `u` of channel `c` is quarantined (R310, R312): entered in the list, bits [63:32] first (R328), or for
this run only when the list is full. -/
def State.quarantine (s : State) (c u : Nat) : State :=
  if (s.quarList ++ s.mp.quarNow).contains (c, u) then s else
  match (List.range 256).find? fun i => (s.quarEntry i).isNone with
  | some i =>
    let lo := c / 32 + c % 32 * 32 + u % 2 ^ 20 * 1024 + 2 ^ 31
    (s.setImgs [(imgQuar + 2 * i + 1, BitVec.ofNat 32 (s.kickCount % 65536)), (imgQuar + 2 * i, BitVec.ofNat 32 lo)]).quarPools
  | none =>
    let t : State := { s with mp := { s.mp with quarNow := s.mp.quarNow ++ [(c, u)], qfull := true } }
    (t.raiseFlag 18 1).quarPools

/-- The lines of row unit `u` of channel `c`. -/
def State.unitLineNos (s : State) (c u : Nat) : List Nat := (s.unitLines c u).map fun p => p.1 / 256

/-- The lines of a row unit are poisoned (R308). -/
def State.poisonUnit (s : State) (c u : Nat) : State :=
  (s.unitLineNos c u).foldl (fun t l => { t with mp := { t.mp with poison := Tab.set false t.mp.poison l true
                                                                   cured := Tab.set false t.mp.cured l false } }) s

/-- The port that carries a maintenance command: that of its pseudo-channel, and for the spare that of the channel it replaces (R295). -/
def State.maintPort (s : State) (stack pc : Nat) : Nat :=
  2 * stack + (if pc = 32 then (s.stack stack).spare else pc) % 32 / 16

/-- The maintenance cycle of a command on `MEM_REQ` (R296). -/
def maintBits (m : Maint) (tag : Nat) : BitVec 96 :=
  BitVec.ofNat 96 (3 + m.pc % 64 * 4 + m.op.toNat * 2 ^ 8 + m.arg.toNat * 2 ^ 16 + tag * 2 ^ 48)

/-- The maintenance command at the front goes out on its port, under a free request tag. -/
def State.maintSend (s : State) : State :=
  match s.mp.maint with
  | m :: l =>
    let p := s.maintPort m.stack m.pc
    (match m.tag, s.freeTag p with
     | none, some tag => { s with mp := { s.mp with maint := { m with tag := some (p, tag) } :: l }
                                  pins := { s.pins with memReq := Tab.set 0 s.pins.memReq p (maintBits m tag) } }
     | _, _ => s)
  | [] => s

/-- A maintenance command waits for those before it; one of the Referee goes ahead of those of the host that have not been sent
(R313). -/
def State.maintAdd (s : State) (m : Maint) : State :=
  let first (x : Maint) : Bool := m.host || !x.host || x.tag.isSome
  ({ s with mp := { s.mp with maint := s.mp.maint.filter first ++ [m] ++ s.mp.maint.filter fun x => !first x } } : State).maintSend

/-- The Referee sends REMAP for a row unit; `keep` says that the contents of its lines are kept (R308). -/
def State.remapUnit (s : State) (c u : Nat) (keep : Bool) : State :=
  s.maintAdd ⟨false, c / 32, s.physPc c, 0x11, BitVec.ofNat 32 u, 0, keep, none⟩

/-- Key of a row unit in the correction counts. -/
def unitKey (c u : Nat) : Nat := 2 ^ 20 * c + u

/-- A corrected response counts for its row unit; `MEM_CETHR.COUNT` of them within 2^20 FCLK start a remap that keeps
the contents (R307, R308). -/
def State.corrected (s : State) (c u : Nat) : State :=
  let s := s.bump 0x0D0024 1
  let k := unitKey c u
  let thr := s.fldNow 0x0D000C 7 0
  let now := s.spcnt.toNat
  let recent := now :: (Tab.get [] s.mp.corr k).filter fun v => decide (10 * (now - v) ≤ 2 ^ 20)
  if thr = 0 ∨ recent.length < thr then { s with mp := { s.mp with corr := Tab.set [] s.mp.corr k (recent.take 256) } }
  else ({ s with mp := { s.mp with corr := Tab.set [] s.mp.corr k [] } } : State).remapUnit c u true

/-- An uncorrectable read: the data is discarded, the half is faulted, and the unit is remapped unless its spares are
exhausted (R308, R309). -/
def State.uncorrectable (s : State) (f : Flight) (u : Nat) : State :=
  let s1 := (s.bump 0x0D0028 1).report
    ⟨0x0A, f.req.half, 0, 0xFFFF, BitVec.ofNat 64 (256 * f.req.line.toNat), false⟩
  let s2 := if f.req.op = .add then
      { s1 with mp := { s1.mp with poison := Tab.set false s1.mp.poison f.req.line.toNat true } } else s1
  if (s.quarList ++ s.mp.quarNow).contains (f.ch, u) then s2 else s2.remapUnit f.ch u false

/-- MEM_RESPONSE (R297, R305, R307, R308): the controller answers a request. A read or an ADD of a poisoned line is
answered as poisoned. The tag is free for the next request. -/
def execMemResponse (m : Fin 40) (tag : Byte) (status : BitVec 2) (s : State) : Out :=
  .next (match s.mp.flights.find? fun f => decide (f.port = m.val) && decide (f.tag = tag) with
    | none => s
    | some f =>
      let t : State := { s with mp := { s.mp with flights := s.mp.flights.erase f } }
      let l := f.req.line.toNat
      let u := l / 640 / 8
      let t := if f.req.op ≠ .write ∧ (t.lineLost l ∨ status = 3) then t.lostRead l f.req.half
        else if status = 1 then t.corrected f.ch u
        else if status = 2 then t.uncorrectable f u
        else t
      t.maintSend.memRun)

/-! ### Retraining (R302, R303) -/

/-- RETRAIN_START: the port sends no request to the channel. In reset the engine takes no response (R322). -/
def execRetrainStart (ch : Fin 640) (s : State) : Out :=
  .next (if decide (s.kick.st = 0) || s.mp.retraining.contains ch.val || s.mp.dead.contains ch.val then s
    else ({ s with mp := { s.mp with retraining := s.mp.retraining ++ [ch.val] } } : State).bump 0x0D002C 1)

/-- RETRAIN_DONE: held entries go to the channel in order. -/
def execRetrainDone (ch : Fin 640) (s : State) : Out :=
  .next (if s.mp.retraining.contains ch.val then
    ({ s with mp := { s.mp with retraining := s.mp.retraining.erase ch.val } } : State).memRun else s)

/-! ### Takeover (R304 to R306) -/

/-- Halves with work in flight on the chip: a command bound to the half, or a reorder slot not free. -/
def State.halvesInFlight (s : State) : List Half :=
  [(0 : Half), (1 : Half)].filter fun h =>
    s.ucmds.any (fun u => u.started && decide (u.half = some h)) ||
    s.reb.slots.any (fun r => decide (r.2.st ≠ .free) && decide (r.2.half = h))

/-- Item of the kickoff log for pseudo-channel `p` of stack `k` (R330). -/
def itemPc (k p : Nat) : BitVec 16 := BitVec.ofNat 16 (6 * 4096 + 33 * k + p)

/-- All contents of a channel are lost (R304). -/
def State.loseChan (s : State) (c : Nat) : State :=
  { s with mp := { s.mp with lostCh := if s.mp.lostCh.contains c then s.mp.lostCh else s.mp.lostCh ++ [c]
                             cured := s.mp.cured.filter fun e => decide (lineChan e.1 ≠ c)
                             poison := s.mp.poison.filter fun e => decide (lineChan e.1 ≠ c) } }

/-- The spare of the stack takes channel `c` over, its contents lost and every half in flight faulted (R304, R305). -/
def State.spareFor (s : State) (c : Nat) : State :=
  let k := c / 32
  let p := c % 32
  let s1 := (s.setStack k { s.stack k with st := 2, spare := p, spareReady := false }).loseChan c
  let s2 : State := { s1 with mp := { s1.mp with retraining := s1.mp.retraining.erase c } }
  let s3 := (s2.setImg (imgStanding + 9 + k) (BitVec.ofNat 32 (p + 2 ^ 31))).logEvent 0 (itemPc k p)
  s.halvesInFlight.foldl (fun t h => t.report ⟨0x0D, some h, itemPc k p, 0xFFFF, 0, false⟩) s3

/-- A channel is taken over; a second failure in its stack leaves the stack LOST (R306). -/
def State.takeOver (s : State) (c : Nat) : State :=
  let k := c / 32
  if s.mp.dead.contains c then s else
  match (if (s.stack k).noSpare then 3 else (s.stack k).st) with
  | 1 => (s.spareFor c).maintAdd ⟨false, k, c % 32, 0x30, BitVec.ofNat 32 (c % 32), 0, false, none⟩
  | 0 => s
  | _ =>
    let s1 := ((s.setStack k { s.stack k with st := 3 }).loseChan c)
    let s2 : State := { s1 with mp := { s1.mp with dead := s1.mp.dead ++ [c], retraining := s1.mp.retraining.erase c
                                                   rq := s1.mp.rq.filter fun e => decide (e.1 ≠ c)
                                                   holdq := s1.mp.holdq.filter fun e => decide (e.1 ≠ c) } }
    let s3 := ((s.mp.rq ++ s.mp.holdq).filter fun e => decide (e.1 = c) && decide (e.2.op ≠ .write)).foldl
      (fun t e => t.lostRead e.2.line.toNat e.2.half) s2
    (s3.raiseFlag 17 1).raiseInt 4

/-- RETRAIN_WINDOW_EXPIRY (R303). -/
def execRetrainWindowExpiry (ch : Fin 640) (s : State) : Out :=
  .next (if s.mp.retraining.contains ch.val then s.takeOver ch.val else s)

/-- CHANNEL_FAILED (R303, R304, R306). -/
def execChannelFailed (ch : Fin 640) (s : State) : Out := .next (s.takeOver ch.val)

/-- SPARE_READY (R304): held requests go to the spare. -/
def execSpareReady (stack : Fin 20) (s : State) : Out :=
  let k := s.stack stack.val
  .next (if 2 ≤ k.st ∧ !k.spareReady then
    (s.setStack stack.val { k with spareReady := true }).memRun else s)

/-- MEM_RESUME (R305): PENDING is cleared and held re-issues are released. -/
def State.memResume (s : State) : State :=
  { s with mp := { s.mp with lostPending := false, lostHalves := [] }, ref := { s.ref with heldFor := [] } }

/-- MEM_RESUME: a write of 1 to `MEM_RESUME.GO`. -/
def execMemResume (s : State) : Out := .next (s.hostWrite 0x0D001C fun t => (codeOk, t.memResume))

/-! ### Maintenance (R309, R313) -/

/-- Commands of R313 and whether the host may give one outside kickoff and test. -/
def maintListed (op : Nat) : Bool := [0x01, 0x02, 0x10, 0x11, 0x20, 0x21, 0x30].contains op
def maintAnyState (op : Nat) : Bool := decide (op = 0x10) || decide (op = 0x20)

/-- The code of the last maintenance command. -/
def State.maintCode (s : State) (k : Byte) : State := s.setFld 0x0D200C 7 0 k.toNat

/-- A write of `MEM_MAINT_CMD` with GO set (R313): FORMAT for an unlisted command or a pseudo-channel or stack that does
not exist, OFFSIDE while a command is in progress or outside its states, nothing else changed; otherwise the command is sent. -/
def State.maintGo (s : State) (stack pc op : Nat) : Byte × State :=
  let test := decide (s.engine = 1) || decide (s.engine = 3)
  match lowest [(s.mp.maint.any (·.host), codeOffside), (maintListed op && !maintAnyState op && !test, codeOffside),
      (!maintListed op || decide (32 < pc) || decide (19 < stack), codeFormat)] with
  | some k => (k, s.maintCode k)
  | none => (codeOk, (s.liveWrite 0x0D2000 (BitVec.ofNat 32 (stack + pc * 32 + op * 65536))).maintAdd
      ⟨true, stack, pc, BitVec.ofNat 8 op, s.reg 0x0D2004, if op = 0x21 then s.reg 0x0D2008 else 0, false, none⟩)

/-- A host maintenance command: its write of `MEM_MAINT_CMD`. -/
def State.hostMaint (s : State) (stack : BitVec 5) (pc : BitVec 6) (op : Nat) : State :=
  s.hostWrite 0x0D2000 fun t => t.maintGo stack.toNat pc.toNat op

/-- MAINT_MARGIN_T. -/
def execMaintMarginT (stack : BitVec 5) (pc : BitVec 6) (s : State) : Out := .next (s.hostMaint stack pc 0x01)
/-- MAINT_MARGIN_V. -/
def execMaintMarginV (stack : BitVec 5) (pc : BitVec 6) (s : State) : Out := .next (s.hostMaint stack pc 0x02)
/-- MAINT_ROWQ. -/
def execMaintRowq (stack : BitVec 5) (pc : BitVec 6) (s : State) : Out := .next (s.hostMaint stack pc 0x10)
/-- MAINT_REMAP. -/
def execMaintRemap (stack : BitVec 5) (pc : BitVec 6) (s : State) : Out := .next (s.hostMaint stack pc 0x11)
/-- MAINT_CREAD. -/
def execMaintCread (stack : BitVec 5) (pc : BitVec 6) (s : State) : Out := .next (s.hostMaint stack pc 0x20)
/-- MAINT_CWRITE. -/
def execMaintCwrite (stack : BitVec 5) (pc : BitVec 6) (s : State) : Out := .next (s.hostMaint stack pc 0x21)
/-- MAINT_TAKEOVER. -/
def execMaintTakeover (stack : BitVec 5) (pc : BitVec 6) (s : State) : Out := .next (s.hostMaint stack pc 0x30)

/-- The channel that a physical pseudo-channel of a stack serves, if it serves one: the spare serves the one it replaces (R295). -/
def State.chanOf (s : State) (stack pc : Nat) : Option Nat :=
  if pc = 32 then (if 2 ≤ (s.stack stack).st ∧ !(s.stack stack).noSpare then some (32 * stack + (s.stack stack).spare) else none)
  else if s.onSpare (32 * stack + pc) then none else some (32 * stack + pc)

/-- The effect of a REMAP that the controller has answered (R308, R309): once DONE the new row is poisoned unless its contents are
kept, and a unit whose spares are exhausted is quarantined. -/
def State.remapDone (s : State) (m : Maint) (v : Word) : State :=
  let u := bitsOf m.arg.toNat 19 0
  let s1 := s.bump 0x0D0034 1
  match s.chanOf m.stack m.pc with
  | none => s1
  | some c =>
    let s2 := if v.getLsbD 0 && !m.keep then s1.poisonUnit c u else s1
    if v.getLsbD 10 then s2.quarantine c u else s2

/-- What the answer of the controller does: a REMAP's row, or the spare that a TAKEOVER of the host puts in a channel's place. -/
def State.maintDone (s : State) (m : Maint) (v : Word) : State :=
  if m.op = 0x11#8 then s.remapDone m v
  else if m.host ∧ m.op = 0x30#8 ∧ (s.stack m.stack).st = 1 ∧ !(s.stack m.stack).noSpare then s.spareFor (32 * m.stack + m.arg.toNat % 32)
  else s

/-- MAINT_RESULT (R309, R313): the controller answers the maintenance command at the front, and the next one goes out. -/
def execMaintResult (v : Word) (s : State) : Out :=
  .next (match s.mp.maint with
    | [] => s
    | m :: l =>
      let t := ({ s with mp := { s.mp with maint := l } } : State).maintDone m v
      let t := if m.host then (t.setReg 0x0D2008 (if m.op = 0x21#8 ∨ m.op = 0x30#8 then 0 else v)).maintCode codeOk else t
      t.maintSend.memRun)

/-- Credit gained in one superperiod, 16 MCLK (R299). -/
def State.gainCredit (s : State) : State :=
  let sh (v hi : Nat) : Nat := if 1 ≤ v ∧ v ≤ hi then v else hi
  let rd := 16 * sh (s.fld 0x0D0004 7 0) 128
  let wr := 16 * sh (s.fld 0x0D0004 15 8) 64
  { s with mp := { s.mp with
      rdCredit := (List.range 40).map fun m => (m, Min.min 4096 (Tab.get 0 s.mp.rdCredit m + rd))
      wrCredit := (List.range 40).map fun m => (m, Min.min 4096 (Tab.get 0 s.mp.wrCredit m + wr)) } }

end Sys2Proof.Machine
end

