-- ==== Sys2Proof/Machine/Ports.lean ====
section
/-! DEFINITION. Ingest and egress ports (R214 to R220), the queue table (R237), spill reads (R211), flushes and QCTL (R89,
R222, R223). -/

namespace Sys2Proof.Machine

/-! ### Ingest groups (R214) -/

/-- Ports `a` to `a` + `n` − 1 and `b` to `b` + `m` − 1 meet. -/
def spansMeet (a n b m : Nat) : Bool := decide (a < b + m) && decide (b < a + n)

/-- Grounds of BOUNDS for enabling the ingest group led by port `p` with queue `q`, `g` ports and HALFSEL `hs`. -/
def State.ingBad (s : State) (p q g : Nat) (hs : Bool) : Bool :=
  let cls (n : Nat) : QClass := (s.queue n).cls
  let other (f : Nat → Bool × Nat × Nat × Bool → Bool) : Bool :=
    (List.range 32).any fun l => decide (l ≠ p) && (s.ing l).1 && f l (s.ing l)
  decide (p % g ≠ 0) || other (fun l x => spansMeet p g l x.2.2.1) ||
  decide (cls q = .disabled) || decide (cls q = .unit) ||
  (hs && (decide (q % 2 = 1) || decide (cls ((q + 1) % 4096) ≠ cls q))) ||
  other (fun _ x => if hs || x.2.2.2 then decide (x.2.1 / 2 = q / 2) else decide (x.2.1 = q))

/-- A write of `QUE_ING` of port `p` (R11, R214, R394). -/
def State.ingCtrl (s : State) (p : Nat) (v : Word) : Byte × State :=
  let off := 0x090000 + 4 * p
  let w := v &&& 0x80007FFF#32
  let old := s.reg off
  if w = old then (codeOk, s)
  else if !s.idle then (codeOffside, s)
  else if old.getLsbD 31 && w.getLsbD 31 then (codeOffside, s)
  else if !w.getLsbD 31 then (codeOk, (s.setReg off w).holdUpdate)
  else if s.ingBad p (bitsOf w.toNat 11 0) (2 ^ bitsOf w.toNat 13 12) (w.getLsbD 14) then (codeBounds, s)
  else
    let t := s.setReg off w
    (codeOk, ((t.ingQueues p).foldl State.adoptMarks t).holdUpdate)

/-- INGEST_GROUP_ENABLE (R214): a write of `QUE_ING` with EN set. -/
def execIngestGroupEnable (p : Fin 32) (v : Word) (s : State) : Out :=
  .next (s.hostWrite (0x090000 + 4 * p.val) fun t => t.ingCtrl p.val (v ||| 0x80000000#32))

/-! ### Egress groups (R218) -/

/-- `QUE_EGR` of port `p`: enabled, queue, ports. -/
def State.egr (s : State) (p : Nat) : Bool × Nat × Nat :=
  let a := 0x090100 + 4 * p
  (s.fld a 31 31 == 1, s.fld a 11 0, 2 ^ s.fld a 13 12)

/-- Grounds of BOUNDS for enabling the egress group led by port `p`. -/
def State.egrBad (s : State) (p q g : Nat) : Bool :=
  decide (p % g ≠ 0) || decide ((s.queue q).cls ≠ .unit) ||
  (List.range 32).any fun l => decide (l ≠ p) && (s.egr l).1 && spansMeet p g l (s.egr l).2.2

/-- A write of `QUE_EGR` of port `p`. -/
def State.egrCtrl (s : State) (p : Nat) (v : Word) : Byte × State :=
  let off := 0x090100 + 4 * p
  let w := v &&& 0x80003FFF#32
  let old := s.reg off
  if w = old then (codeOk, s)
  else if !s.idle then (codeOffside, s)
  else if old.getLsbD 31 && w.getLsbD 31 then (codeOffside, s)
  else if !w.getLsbD 31 then (codeOk, s.setReg off w)
  else if s.egrBad p (bitsOf w.toNat 11 0) (2 ^ bitsOf w.toNat 13 12) then (codeBounds, s)
  else (codeOk, s.setReg off w)

/-- EGRESS_GROUP_ENABLE (R218): a write of `QUE_EGR` with EN set. -/
def execEgressGroupEnable (p : Fin 32) (v : Word) (s : State) : Out :=
  .next (s.hostWrite (0x090100 + 4 * p.val) fun t => t.egrCtrl p.val (v ||| 0x80000000#32))

/-- Up to `n` words leave a queue: the words with the state after. -/
def State.popWords (s : State) (q : Nat) : Nat → List QWord × State
  | 0 => ([], s)
  | n + 1 =>
    match s.popWord q with
    | none => ([], s)
    | some (w, t) => let (l, t') := State.popWords t q n; (w :: l, t')

/-- The IDLE word (R207). -/
def idleWord : QWord := ⟨0, 0, false⟩

/-- EGRESS_WORDS (R215, R218): an enabled group that is not held presents eight words for each port, its queue's words
first and IDLE words in the places left. -/
def execEgressWords (p : Fin 32) (hold : Bool) (s : State) : Out :=
  let (en, q, g) := s.egr p.val
  .next (if !en then s
    else if hold then { s with pins := { s.pins with egr := Tab.set [] s.pins.egr p.val [] } }
    else
      let (ws, t) := s.popWords q (8 * g)
      let t := t.flowOn q
      { t with pins := { t.pins with egr := Tab.set [] t.pins.egr p.val (ws ++ List.replicate (8 * g - ws.length) idleWord) } })

/-! ### Ingest (R208, R213, R215, R220) -/

/-- A packet was cut at a full ingest queue: counted, and at a return queue reported as a fault of the half that the
packet's tag names. -/
def State.overflowed (s : State) (q : Nat) (h : Half) : State :=
  if (s.queue q).cls = .ret then
    ((s.bump 0x090308 1).raiseFlag 10 1).report ⟨0x0C, some h, 0, 0xFFFF, 0, false⟩
  else (s.bump 0x09030C 1).raiseFlag 10 1

/-- The half in the tag of the packet that is arriving at queue `q`: its header is the first of the words that still wait, the
word that arrives, or the first that RET has read. -/
def State.arrivingHalf (s : State) (q : Nat) (w : QWord) : Half :=
  let x := s.queue q
  let ws := s.queueWords q
  let n := openWords ws
  let hdr := if x.atEnd then w
    else if x.inPacket && decide (ws.length = n) then (Tab.get [] s.reb.bufs q).getD 0 w
    else ws.getD (ws.length - n) w
  (hdr.data.extractLsb' 77 1).toFin

/-- One word of the group's stream goes to its queue. -/
def State.ingestWord (s : State) (l : Nat) (w : QWord) : State :=
  let (_, q0, _, hs) := s.ing l
  if w.kind = 0#3 ∧ !w.last then s else
  let mid := (s.ingQueues l).find? fun q => !(s.queue q).atEnd
  match mid with
  | none =>
    if w.kind = 0#3 then s.malformed else
    let q := if hs && decide (w.kind = 1#3) then (q0 + b2n (w.data.getLsbD 152)) % 4096 else q0
    let (cut, t) := s.arrive q w
    if cut then t.overflowed q (s.arrivingHalf q w) else t
  | some q =>
    let x := s.queue q
    if !x.resync && !x.cut && decide (w.kind ≠ x.kind) then (s.cutPacket q w).malformed
    else
      let (cut, t) := s.arrive q w
      if cut then t.overflowed q (s.arrivingHalf q w) else t

/-- The words of one port: they go to the group that the port belongs to, or are discarded where it belongs to none (R219), or where
its `ING_VALID` is low. -/
def State.ingestPort (s : State) (p : Nat) (valid : Bool) (words : List QWord) : State :=
  if !valid then s else
  match s.ingLeader p with
  | some l => words.foldl (fun t w => t.ingestWord l w) s
  | none => s

/-- INGEST_PACKET (R215): what ports `p`, `p` + 1, … present in one FCLK, each its `ING_VALID` and its words in position order, is
taken in ascending port and position order. -/
def execIngestPacket (p : Fin 32) (ports : List (Bool × List QWord)) (s : State) : Out :=
  .next (ports.zipIdx.foldl (fun t (x, i) => t.ingestPort (p.val + i) x.1 x.2) s).holdUpdate

/-- QUEUE_SPILL_FILL (R211): the head takes the oldest block of the middle. -/
def execQueueSpillFill (q : Fin 4096) (s : State) : Out := .next (s.spillFill q.val)

/-! ### The queue table (R237) -/

/-- Word `j` of entry `q` of the queue table. -/
def State.queueTable (s : State) (q j : Nat) : Word :=
  let x := s.queue q
  let c := match x.cls with | .disabled => 0 | .dispatch => 1 | .ret => 2 | .unit => 3
  let hold := (List.range 32).any fun p => bitOf s.pins.fcHold.toNat p &&
    (match s.ingLeader p with | some l => (s.ingQueues l).contains q | none => false)
  BitVec.ofNat 32 (match j with
    | 0 => c + b2n x.path * 4
    | 1 => x.spBase % 2 ^ 32
    | 2 => x.spBase / 2 ^ 32
    | 3 => x.spBlocks
    | 4 => x.wmHi
    | 5 => x.wmLo
    | 6 => x.occ + b2n hold * 2 ^ 20 + b2n x.resync * 2 ^ 21
    | _ => x.pkt.toNat)

/-- The class that a code names (R237). -/
def classOf (v : Nat) : QClass :=
  match v % 4 with
  | 0 => .disabled
  | 1 => .dispatch
  | 2 => .ret
  | _ => .unit

/-- A host write of word `j` of entry `q`: static fields need an idle engine, watermarks are live, FLUSH acts at once
(R11, R210, R222, R237, R394). -/
def State.queueTableWrite (s : State) (q j : Nat) (v : Word) : Byte × State :=
  let x := s.queue q
  let n := v.toNat
  let static (y : Queue) : Byte × State :=
    if y = x then (codeOk, s) else if s.idle then (codeOk, (s.setQueue q y).adoptMarks q) else (codeOffside, s)
  match j with
  | 0 =>
    let (k, t) := static { x with cls := classOf n, path := bitOf n 2 }
    if k = codeOk ∧ bitOf n 3 then (k, t.flush q) else (k, t)
  | 1 => static { x with spBase := x.spBase / 2 ^ 32 * 2 ^ 32 + n / 1024 * 1024 }
  | 2 => static { x with spBase := x.spBase % 2 ^ 32 + bitsOf n 15 0 * 2 ^ 32 }
  | 3 =>
    let b := bitsOf n 16 0
    let (k, t) := static { x with spBlocks := b }
    if k = codeOk ∧ 65536 < b then (codeBounds, s) else (k, t)
  | 4 => (codeOk, (s.setQueue q { x with wmHi := bitsOf n 19 0, due := true }).noteLive 8)
  | 5 => (codeOk, (s.setQueue q { x with wmLo := bitsOf n 19 0, due := true }).noteLive 8)
  | _ => (codeOk, s)

/-- QUE_CFG_FLUSH (R222): a write of FLUSH in entry `q`, its static fields unchanged. The write needs the queue table in the
paged window. -/
def execQueCfgFlush (q : Fin 4096) (s : State) : Out :=
  .next (if s.regNow 0x1100 ≠ 0x0C#32 then s else
    s.hostWrite (0x800000 + 32 * q.val) fun t => (codeOk, t.flush q.val))

/-! ### QCTL (R89) -/

/-- QCTL FLUSH (R89, R222). -/
def execQctlFlush (c : Ctx) (f : Fields) (s : State) : Out :=
  .next (s.localOp c (.qctlFlush c f) f [dqQueue (s.ctx c) f] false fun t =>
    (t.flush (dqQueue (t.ctx c) f)).retire c codeOk)

/-- QCTL DROPREST (R89, R223): OFFSIDE outside kickoff, test and recovery. -/
def execQctlDroprest (c : Ctx) (f : Fields) (s : State) : Out :=
  .next (s.localOp c (.qctlDroprest c f) f [dqQueue (s.ctx c) f] false fun t =>
    if t.engine = 1 ∨ t.engine = 3 ∨ t.engine = 4 then (t.dropRest (dqQueue (t.ctx c) f)).retire c codeOk
    else t.retire c codeOffside)

/-- QCTL COUNT (R89), and the sub-operations that R89 refuses with FORMAT. -/
def execQctlCount (c : Ctx) (f : Fields) (s : State) : Out :=
  .next (s.localOp c (.qctlCount c f) f [dqQueue (s.ctx c) f] true fun t =>
    if f.sub = 2 then t.retireX c f.dst (BitVec.ofNat 64 (t.queue (dqQueue (t.ctx c) f)).pkt.toNat)
    else t.retire c codeFormat)

end Sys2Proof.Machine
end

