-- ==== Sys2Proof/Machine/Scout.lean ====
section
/-! DEFINITION. Predictor weights (R79, R96 to R98, R184 to R186), the scout (R83, R187 to R204) and its audit (R200 to
R202). -/

namespace Sys2Proof.Machine

/-! ### KEEP -/

/-- The 68 bytes of weight block `b` of row `r`. -/
def State.weightBlock (s : State) (d : Desc) (r b : Nat) : List Byte :=
  s.bytes (d.base + r * d.str (d.rank - 1) + 68 * b) 68

/-- Weight blocks of a row. -/
def Desc.weightBlocks (d : Desc) : Nat := ceilDiv (d.ext 0) (blockLen d.fmt)

/-- n and m of a KEEP (R70). -/
def UCmd.keepN (u : UCmd) : Nat := bitsOf u.f.sub 3 0 + 1
def UCmd.keepM (u : UCmd) : Nat := 8 * 2 ^ bitsOf u.f.sub 5 4

/-- A section of a WIDX row rounded up to 64 bytes. -/
def roundUp64 (n : Nat) : Nat := 64 * ceilDiv n 64

/-- Bytes of a WIDX row with `k` kept entries (R185). -/
def widxBytes (nb ng k : Nat) : Nat := 64 + roundUp64 (2 * nb) + roundUp64 (ceilDiv ng 4) + 2 * k

/-- A block scale that KEEP refuses: negative, infinite or NaN (R186). -/
def scaleBad : Fl → Bool
  | .fin n m _ => n && decide (m ≠ 0)
  | _ => true

/-- The block can be kept from: its check and its scale are good (R97, R186). -/
def keepable (fmt : Nat) (bs : List Byte) : Bool :=
  blockGood fmt bs && !scaleBad (bf16 (BitVec.ofNat 16 (leNat (bs.take 2))))

/-- The weight blocks that a KEEP reads, row by row, as they stand. -/
def State.keepRows (s : State) (u : UCmd) : List (Nat × List (List Byte)) :=
  let a := u.descA
  (List.range u.rowsIn).map fun r => (r, (List.range a.weightBlocks).map fun b =>
    if r < Max.max a.vext u.covA then s.weightBlock a r b else [])

/-- A block that KEEP is to read fails its check, or its scale (R79, R97, R186). -/
def State.keepBad (s : State) (u : UCmd) : Bool :=
  (s.keepRows u).any fun x => x.2.any fun b => !keepable u.descA.fmt b

/-- Codes that end KEEP before its first input; the blocks of a chained source are checked as their rows have all come (log entry 45) (R70, R79, R186). -/
def keepCheck (s : State) (u : UCmd) : Option Byte :=
  let a := u.descA
  let b := u.descB
  let d := a.ext 0
  let ng := ceilDiv d u.keepM
  lowest [(decide (64 ≤ u.f.sub), codeFormat), (decide (a.fmt ≠ W2) && decide (a.fmt ≠ TERN), codeFormat),
    (decide (b.fmt ≠ WIDX), codeFormat), (decide (u.keepM < u.keepN), codeBounds),
    (decide (a.rank ≠ 2) || decide (16384 < d), codeBounds),
    (decide (b.ext 0 < widxBytes a.weightBlocks ng (Min.min d (ng * u.keepN))), codeBounds),
    (decide (b.rows < u.rowsMax), codeBounds),
    (!u.chainA && (decide (a.fmt = W2) || decide (a.fmt = TERN)) && decide (a.rank = 2) && s.keepBad u, codeFormat)]

/-- KEEP is accepted. -/
def keepStart (s : State) (u : UCmd) : UCmd × State := ({ u with half := s.inputHalf u }, s)

/-- A code takes its place among the kept ones: larger magnitude first, ties to the lower input. -/
def keepInsert (x : Nat × Int) : List (Nat × Int) → List (Nat × Int)
  | [] => [x]
  | y :: l => if y.2.natAbs < x.2.natAbs then x :: y :: l else y :: keepInsert x l

/-- The kept and the dropped non-zero codes of a group (R184): the kept ones in input order, and D. -/
def keepGroup (n : Nat) (g : List (Nat × Int)) : List (Nat × Int) × Nat :=
  let order := (g.filter fun x => decide (x.2 ≠ 0)).foldl (fun l x => keepInsert x l) []
  let kept := order.take n
  (g.filter fun x => kept.contains x, (order.drop n).foldl (fun a x => Max.max a x.2.natAbs) 0)

/-- The two code bits of an entry: 01 for +1, 10 for −2, 11 for −1 (R185). -/
def codeBits (c : Int) : Nat := if c = 1 then 1 else if c = -2 then 2 else 3

/-- The bytes of the WIDX row of one neuron, and its K (R184 to R186). -/
def widxRow (fmt d n mc : Nat) (blocks : List (List Byte)) : List Byte × Nat :=
  let m := 8 * 2 ^ mc
  let bl := blockLen fmt
  let scale (b : Nat) : Fl := bf16 (BitVec.ofNat 16 (leNat ((blocks.getD b []).take 2)))
  let codes := (List.range d).map fun i => (i, weightCode fmt (blocks.getD (i / bl) []) (i % bl))
  let groups := (piecesOf m d codes).map (keepGroup n)
  let kept := groups.flatMap (·.1)
  let w1 := kept.foldl (fun a x => addUp a (mulUp (.fin false x.2.natAbs 0) (scale (x.1 / bl)))) flZero
  let rho := groups.zipIdx.foldl (fun a (g, i) =>
    fMax a ((scale (i * m / bl)).mul (.fin false (1 + 2 * g.2) (-1)))) flZero
  let pad (l : List Byte) : List Byte := l ++ List.replicate (roundUp64 l.length - l.length) 0#8
  let marks := (piecesOf 4 groups.length groups).map fun q =>
    BitVec.ofNat 8 (q.zipIdx.foldl (fun v (g, i) => v + g.2 * 4 ^ i) 0)
  (pad (natLe 2 d ++ natLe 1 (fmt + 16 * mc) ++ natLe 1 (n - 1) ++ natLe 4 kept.length ++ natLe 4 (toF32 w1).toNat ++
      natLe 4 (toF32 rho).toNat) ++
    pad (blocks.flatMap fun b => b.take 2) ++ pad marks ++
    kept.flatMap fun x => natLe 2 (x.1 + codeBits x.2 * 2 ^ 14), kept.length)

/-- What KEEP does: every block it will read has been checked first (R97, R186). -/
def keepWork (s : State) (u : UCmd) : UCmd × State :=
  let a := u.descA
  if s.keepBad u then (u.done codeFormat 0, s)
  else
    let (k, t) := (s.keepRows u).foldl (fun (acc : Nat × State) x =>
      let (bs, k) := widxRow a.fmt (a.ext 0) u.keepN (bitsOf u.f.sub 5 4) x.2
      (acc.1 + k, acc.2.setBytes (u.descB.unitAddr x.1 0) bs)) (0, s)
    (u.made u.rowsIn k, t)

/-- The packer's pass over a KEEP. -/
def keepRun (s : State) (u : UCmd) : State := s.drive u keepCheck keepStart keepWork

/-- KEEP (R79). -/
def execKeep (c : Ctx) (f : Fields) (s : State) : Out := .next (s.issueUnit c (.keep c f) f keepRun)

/-! ### Copies in RECEIVE buffers (R226, R229, R258) -/

/-- What a copy's header words say. -/
structure CopyHead where
  tag : Nat
  gidx : Nat
  choices : Nat
  fmt : Nat
  d : Nat
  plen : Nat
  forms : List Nat
  exts : List Nat
  deriving DecidableEq, Repr

/-- The header that the bytes of a copy begin with (R226). -/
def copyHead (bs : List Byte) : CopyHead :=
  let n (o k : Nat) : Nat := leNat ((bs.drop o).take k)
  let c := n 16 1
  { tag := n 0 12, gidx := bitsOf (n 12 4) 29 0, choices := c, fmt := bitsOf (n 17 1) 4 0, d := n 18 2, plen := n 20 2
    forms := (List.range 64).map fun i => bitsOf (n (24 + i / 4) 1) (2 * (i % 4) + 1) (2 * (i % 4))
    exts := (List.range (c - 1)).map fun i => n (64 + 8 * i) 8 }

/-- Entries of an INDEX tile up to the one with LAST; fuel bounds them. -/
def indexEntries (esize : Nat) : Nat → List Byte → List (Nat × List Byte)
  | 0, _ => []
  | n + 1, bs =>
    let w := leNat (bs.take 2)
    let e := (bitsOf w 7 0, (bs.drop 2).take esize)
    if bitOf w 15 then [e] else e :: indexEntries esize n (bs.drop (2 + esize))

/-- The 256 elements of a tile in a form, and the bytes it took (R229); code 11 is read as DENSE (log entry 20). -/
def unpackTile (form esize : Nat) (bs : List Byte) : List (List Byte) × Nat :=
  let zero := List.replicate esize 0#8
  let floor := 32 * esize
  match form with
  | 1 =>
    let bit (j : Nat) : Bool := bitOf (bs.getD (j / 8) 0).toNat (j % 8)
    let vals := piecesOf esize 256 ((bs.drop 32).take (256 * esize))
    let rank (j : Nat) : Nat := ((List.range j).filter bit).length
    ((List.range 256).map fun j => if bit j then vals.getD (rank j) zero else zero,
     Max.max floor (32 + esize * ((List.range 256).filter bit).length))
  | 2 =>
    let es := indexEntries esize 256 bs
    ((List.range 256).map fun j => match es.find? fun e => decide (e.1 = j) with | some e => e.2 | none => zero,
     Max.max floor (es.length * (2 + esize)))
  | _ => (piecesOf esize 256 (bs.take (256 * esize)), 256 * esize)

/-- The elements of a packed payload, tile by tile. -/
def unpackTiles (esize : Nat) : List Nat → List Byte → List (List Byte)
  | [], _ => []
  | f :: fs, bs => let (els, n) := unpackTile f esize bs; els ++ unpackTiles esize fs (bs.drop n)

/-- The elements of a copy's payload, in order. -/
def CopyHead.elements (h : CopyHead) (payload : List Byte) : List (List Byte) :=
  (unpackTiles (unitSize h.fmt) (h.forms.take (ceilDiv h.d 256)) payload).take h.d

/-- The copy in the RECEIVE buffer at an address: its header and its elements. -/
def State.copyAt (s : State) (a : Nat) : CopyHead × List (List Byte) :=
  let h := copyHead (s.bytes a 192)
  (h, h.elements (s.bytes (a + 64 * copyHeaderWords h.choices) h.plen))

/-- The copy that the RXI8 row at an address was unpacked from. A row that RECV.NET did not write has none: its copy's bytes
are free values (log entry 21). -/
def State.copyOfRow (s : State) (a : Nat) : CopyHead × List (List Byte) × State :=
  match Tab.get 0 s.vol.rowBuf a with
  | b + 1 => let (h, els) := s.copyAt b; (h, els, s)
  | 0 =>
    let bs := (List.range 192).map fun i => Config.lostByte (s.free + i)
    let h := copyHead bs
    let els := (List.range h.d).map fun i => (List.range (unitSize h.fmt)).map fun j => Config.lostByte (s.free + 192 + 8 * i + j)
    (h, els, { s with free := s.free + 192 + 8 * h.d })

/-! ### The scout expert table (R187) -/

/-- Bytes between the two scout banks, as the model lays them out. -/
def scoutBank : Nat := 0x20000

/-- LAYER of a scout bank. -/
def State.scoutLayer (s : State) (bank : Fin 2) : Nat := bitsOf (loadLe s.tbl.scoutMem (bank.val * scoutBank) 4) 7 0

/-- The entry of an expert: VALID, FIRSTROW, NB, THETA. -/
def State.scoutEntry (s : State) (bank : Fin 2) (e : Nat) : Bool × Nat × Nat × Word :=
  let a := bank.val * scoutBank + 0x100 + 16 * e
  let w := loadLe s.tbl.scoutMem a 4
  (bitOf w 31, bitsOf w 19 0, bitsOf (loadLe s.tbl.scoutMem (a + 4) 2) 9 0 + 1, BitVec.ofNat 32 (loadLe s.tbl.scoutMem (a + 8) 4))

/-- A θ that is negative, infinite or NaN (R188). -/
def thetaBad : Fl → Bool
  | .fin n m _ => n && decide (m ≠ 0)
  | _ => true

/-! ### Estimate and bound (R189 to R195) -/

/-- A predictor row, parsed (R185). -/
structure Widx where
  d : Nat
  fmt : Nat
  mc : Nat
  reserved : Nat
  w1 : Fl
  rho : Fl
  scale : Nat → Fl
  drop : Nat → Nat
  entries : List (Nat × Int)

/-- The predictor row that bytes hold. -/
def widxOf (bs : List Byte) : Widx :=
  let num (a n : Nat) : Nat := leNat ((bs.drop a).take n)
  let b2 := num 2 1
  let d := num 0 2
  let fmt := bitsOf b2 3 0
  let mc := bitsOf b2 5 4
  let nb := if fmt = W2 then ceilDiv d 256 else ceilDiv d 320
  let ng := ceilDiv d (8 * 2 ^ mc)
  let k := Min.min (num 4 4) d
  let m0 := 64 + roundUp64 (2 * nb)
  let e0 := m0 + roundUp64 (ceilDiv ng 4)
  { d := d, fmt := fmt, mc := mc, reserved := bitsOf b2 7 6
    w1 := f32 (BitVec.ofNat 32 (num 8 4)), rho := f32 (BitVec.ofNat 32 (num 12 4))
    scale := fun b => bf16 (BitVec.ofNat 16 (num (64 + 2 * b) 2))
    drop := fun g => bitsOf (num (m0 + g / 4) 1) (2 * (g % 4) + 1) (2 * (g % 4))
    entries := (List.range k).map fun i =>
      let w := num (e0 + 2 * i) 2
      (bitsOf w 13 0, match bitsOf w 15 14 with | 0 => 0 | 1 => 1 | 2 => -2 | _ => -1) }

/-- The row does not fit the received row (R188, cause 3). -/
def Widx.mismatch (w : Widx) (d : Nat) : Bool :=
  decide (w.d ≠ d) || (decide (w.fmt ≠ W2) && decide (w.fmt ≠ TERN)) || decide (w.reserved ≠ 0)

/-- δ_a = 0.5 + 2⁻¹⁶. -/
def deltaA : Fl := .fin false 32769 (-16)

/-- A received row's activations: codes, scale, outliers in ascending input order, A' (R189). -/
structure Acts where
  codes : List Int
  scale : Fl
  out : List Nat
  aprime : Fl

/-- The activations of an RXI8 row at an address under outlier level `lvl`. -/
def State.actsAt (s : State) (a d lvl : Nat) : Acts :=
  let codes := (s.bytes (a + 64) d).map BitVec.toInt
  let isOut (c : Int) : Bool := decide (lvl ≠ 0) && decide (lvl ≤ c.natAbs)
  let rest := codes.filter fun c => !isOut c
  { codes := codes, scale := bf16 (BitVec.ofNat 16 (s.num (a + 12) 2))
    out := (List.range d).filter fun i => isOut (codes.getD i 0)
    aprime := addUp (.fin false (rest.foldl (fun n c => n + c.natAbs) 0) 0) (mulUp (.fin false rest.length 0) deltaA) }

/-- Kept entries of a block and products formed, and the block sum I (R191). -/
def blockSum (w : Widx) (x : Acts) (bl b : Nat) : Nat × Nat × Int :=
  let es := w.entries.filter fun e => decide (e.1 / bl = b)
  let ps := es.filter fun e => decide (x.codes.getD e.1 0 ≠ 0)
  (es.length, ps.length, ps.foldl (fun v e => v + e.2 * x.codes.getD e.1 0) 0)

/-- The upper value U of a neuron and its share of P (R193, R194, R204). -/
def neuronBound (w : Widx) (x : Acts) : Fl × Nat :=
  let bl := blockLen w.fmt
  let sums := (List.range (ceilDiv w.d bl)).map fun b => (b, blockSum w x bl b)
  let p := sums.foldl (fun v b => v + Max.max b.2.2.1 (ceilDiv b.2.1 4)) 0
  if x.codes.all fun c => decide (c = 0) then (flZero, p) else
  let ts := sums.map fun b => (Fl.ofInt b.2.2.2).mul (w.scale b.1)
  let hi := ts.foldl addUp flZero
  let lo := ts.foldl addDown flZero
  let m := mulUp (fMax lo.abs hi.abs) x.scale
  let b0 := addUp (mulUp deltaA w.w1) (mulUp w.rho x.aprime)
  let b1 := x.out.foldl (fun acc o =>
    let kept := w.entries.any fun e => decide (e.1 = o)
    let dr := if kept then 0 else w.drop (o / (8 * 2 ^ w.mc))
    let r := mulUp (w.scale (o / bl)) (.fin false (1 + 2 * dr) (-1))
    addUp acc (mulUp r (addUp (.fin false (x.codes.getD o 0).natAbs 0) deltaA))) b0
  (addUp m (mulUp b1 x.scale), p)

/-- The mask of a row's blocks, true for active, and its P (R195), with the expert's staged predictor rows. -/
def blockMask (rows : List (List Byte)) (nb : Nat) (theta : Fl) (x : Acts) : List Bool × Nat :=
  (List.range nb).foldl (fun (acc : List Bool × Nat) blk =>
    let us := (List.range 64).map fun j => neuronBound (widxOf (rows.getD (64 * blk + j) [])) x
    (acc.1 ++ [us.any fun u => !Fl.lt u.1 theta], us.foldl (fun a u => a + u.2) acc.2)) ([], 0)

/-! ### SCOUT (R83, R188, R197, R198) -/

/-- Codes that end SCOUT before its first input (R70, R83). -/
def scoutCheck (s : State) (u : UCmd) : Option Byte :=
  lowest [(decide ((s.queue u.queue).cls ≠ .unit), codeOffside), (s.sfuIdle, codeEpoch), (decide (u.f.sub ≠ 0), codeFormat),
    (decide (u.descA.fmt ≠ RXI8), codeFormat), (decide (u.descC.fmt ≠ WIDX), codeFormat)]

/-- The tag of RXI8 row `r`. -/
def State.rowTag (s : State) (d : Desc) (r : Nat) : Nat := s.num (d.unitAddr r 0) 12

/-- A bin takes its place in ascending expert index. -/
def binInsert (b : Bin) : List Bin → List Bin
  | [] => [b]
  | x :: l => if b.expert < x.expert then b :: x :: l else x :: binInsert b l

/-- The bins that meet a condition become ready, in ascending expert index behind those that are (R198). -/
def readyBins (p : Bin → Bool) (l : List Bin) : List Bin :=
  let new := l.filter fun b => !b.ready && p b
  (l.filter (·.ready)) ++ (new.map fun b => { b with ready := true }).foldr binInsert [] ++
    (l.filter fun b => !b.ready && !p b)

/-- A row joins the bin of its expert; one of 1024 rows is ready (R198). -/
def binRow (e r : Nat) (l : List Bin) : List Bin :=
  let open_ (b : Bin) : Bool := !b.ready && decide (b.expert = e)
  let m := if l.any open_ then l.map fun b => if open_ b then { b with rows := b.rows ++ [r], age := 0 } else b
    else l ++ [⟨e, [r], false, 0⟩]
  readyBins (fun b => decide (1024 ≤ b.rows.length)) m

/-- The scout takes the rows that have become visible into bins (R198): a bin is ready at once where `SCOUT_BIN.WAIT` is 0, and with
the source's last row every bin is. -/
def scoutTake (s : State) (u : UCmd) : UCmd × State :=
  let l := ((List.range u.rowsIn).drop u.n1).foldl (fun l r => binRow (tagOf (s.rowTag u.descA r)).expert r l) s.scout.bins
  let all := u.inputsEnd || decide (s.fldNow 0x080008 15 0 = 0)
  ({ u with n1 := Max.max u.n1 u.rowsIn }, { s with scout := { s.scout with bins := readyBins (fun _ => all) l } })

/-- One FCLK passes: a bin that no row has joined for `SCOUT_BIN.WAIT` FCLK is ready (R198). -/
def State.ageBins (s : State) : State :=
  if s.scout.bins = [] then s else
  let l := s.scout.bins.map fun b => if b.ready then b else { b with age := b.age + 1 }
  { s with scout := { s.scout with bins := readyBins (fun b => decide (s.fldNow 0x080008 15 0 ≤ b.age)) l } }

/-- SCOUT is done once every bin is, and its last packet has entered the egress queue. -/
def scoutWork (s : State) (u : UCmd) : UCmd × State :=
  if s.scout.bins = [] ∧ s.flowing u.queue = false then ({ u with out := some u.rowsIn, row := u.rowsIn }, s.formFor 5 u.half) else (u, s)

/-- SCOUT binds to the active table-2 epoch (R188); its unit digest begins. -/
def scoutStart (s : State) (u : UCmd) : UCmd × State :=
  let (v, t) := s.bindSfu u
  let t : State := { t with scout := { t.scout with bins := [] } }
  ({ v with stage := 1 }, match v.half with | some h => t.clearItems 5 h.val | none => t)

/-- The scout's pass over a SCOUT. -/
def scoutRun (s : State) (u : UCmd) : State := s.driveRows u scoutCheck scoutStart scoutTake scoutWork

/-- SCOUT (R83). -/
def execScout (c : Ctx) (f : Fields) (s : State) : Out := .next (s.issueUnit c (.scout c f) f scoutRun)

/-- The entry of an expert has a predictor in the WIDX tensor (R188): the opposite is cause 2. -/
def State.hasPredictor (s : State) (u : UCmd) (e : Nat) : Bool :=
  let (v, first, nb, _) := s.scoutEntry u.bank e
  v && decide (first + 64 * nb ≤ Max.max u.descC.vext u.covC)

/-- The WIDX rows of an expert that the staging store holds for an epoch (R199). -/
def State.stagedRows (s : State) (e : Nat) (epoch : Byte) : Option (List (List Byte)) :=
  (s.scout.staging.find? fun x => decide (x.expert = e) && decide (x.epoch = epoch)).map (·.rows)

/-- The fallback cause of a row, 0 for none (R188), with the expert's staged predictor rows. -/
def State.fallbackCause (s : State) (u : UCmd) (rows : List (List Byte)) (e d : Nat) (x : Acts) : Nat :=
  if !s.hasPredictor u e then 2
  else if rows.any fun r => (widxOf r).mismatch d then 3
  else if 64 < x.out.length then 1 else 0

/-- Bits packed into bytes, bit 0 of byte 0 first. -/
def bitBytes : Nat → List Bool → List Byte
  | 0, _ => []
  | n + 1, l => BitVec.ofNat 8 ((l.take 8).zipIdx.foldl (fun v (b, i) => v + b2n b * 2 ^ i) 0) :: bitBytes n (l.drop 8)

/-- The lowest audit number that no live entry has, if there is one of 256. -/
def State.freeAudit (s : State) : Option Nat :=
  (List.range 256).find? fun n => s.scout.audits.all fun a => decide (a.num ≠ n)

/-- The audit number of a sampled row, with its entry made; none when the row is not audited (R200). -/
def State.auditRow (s : State) (u : UCmd) (cause gidx e nb : Nat) (tag : BitVec 96) (mask : List Bool) : Option Nat × State :=
  let sampled := u.flag37 && decide (cause = 0) && decide (s.fld 0x08002C 15 15 = 1) &&
    decide ((s.drawWord (s.scoutLayer u.bank) gidx e 2 0).toNat < (s.reg 0x08000C).toNat)
  if !sampled then (none, s) else
  match s.freeAudit with
  | none => (none, s.bump 0x080028 1)
  | some n => (some n, { s with scout := { s.scout with audits := s.scout.audits ++ [⟨n, tag, nb, mask⟩] } })

/-- The delivery of row `r` (R188 to R197): none while the packet before it has not entered the egress queue whole. -/
def State.deliver (s : State) (u : UCmd) (r : Nat) : Option (UCmd × State) :=
  let d := u.descA
  let a := d.unitAddr r 0
  let t0 := tagOf (s.rowTag d r)
  let e := t0.expert
  let (valid, _, nb, tw) := s.scoutEntry u.bank e
  let bad := thetaBad (f32 tw)
  let theta : Word := if bad then 0 else tw
  let x := s.actsAt a (d.ext 0) (s.fld 0x080004 6 0)
  let rows := (s.stagedRows e u.epoch).getD []
  let cause := s.fallbackCause u rows e (d.ext 0) x
  let (pred, p) := if cause = 0 then blockMask rows nb (f32 theta) x else (List.replicate nb true, 0)
  let (h, els, s1) := s.copyOfRow a
  let tag := { t0 with dense := t0.dense || decide (cause ≠ 0) }
  let (audit, s2) := s1.auditRow u cause h.gidx e nb tag.bits pred
  let mask := if cause = 2 then [] else if audit.isSome then List.replicate nb true else pred
  let active := (mask.filter id).length
  let word0 := natLe 12 tag.bits.toNat ++ natLe 2 mask.length ++ natLe 1 (b2n audit.isSome + 2 * cause) ++ natLe 1 h.fmt ++
    natLe 2 active ++ natLe 2 (audit.getD 0) ++ natLe 4 theta.toNat ++ natLe 4 h.gidx ++ natLe 2 h.d ++ List.replicate 34 0#8
  let bytes := word0 ++ bitBytes (64 * ceilDiv mask.length 512) mask ++ els.flatten
  let words := packetOf 7 (linesOf bytes.length bytes)
  if s.flowing u.queue then none else
  let item := natLe 12 ({ tag with origin := s.relChip tag.origin, slot := 0 } : TagRec).bits.toNat ++ word0.drop 12 ++
    bitBytes (64 * ceilDiv mask.length 512) mask
  let s3 := (({ (s2.push u.queue words) with scout := { s2.scout with due := s2.scout.due ++ [(u.queue, a)] } } : State).rowsOut
    u.queue).addItem 5 (match u.half with | some g => g.val | none => t0.half) item
  let s4 := if bad && valid then s3.raiseFlag 6 1 else s3
  let s5 := if cause ≠ 0 then ((s4.bump 0x2208 1).bump 0x080034 1).countRec 6 t0.half 1 else s4
  let sc := s5.scout
  let prod := sc.prod + p
  some (u.addValue active,
    ({ s5 with scout := { sc with rows := sc.rows + 1, fallbacks := sc.fallbacks + b2n (cause ≠ 0), prod := prod % 65536 } }
      : State).bump 0x08003C (prod / 65536))

/-- Rows of the bin are delivered in turn while the egress queue takes them: the rows left. -/
def deliverRows : List Nat → UCmd → State → List Nat × UCmd × State
  | [], u, s => ([], u, s)
  | r :: l, u, s =>
    match s.deliver u r with
    | none => (r :: l, u, s)
    | some (v, t) => deliverRows l v t

/-- The SCOUT that runs. -/
def State.scoutCmd (s : State) : Option UCmd :=
  s.ucmds.find? fun u => decide (unitOf u.op = 4) && u.started && decide (u.stage = 1) && decide (u.result = none)

/-- The first ready bin needs its expert's predictor staged, and it is not (R199). -/
def State.binWaits (s : State) (u : UCmd) (b : Bin) : Bool :=
  s.hasPredictor u b.expert && (s.stagedRows b.expert u.epoch).isNone

/-- SCOUT_BIN_READY (R198): the ready bin that is next in turn is processed, once its predictor is staged. -/
def execScoutBinReady (e : Fin 4096) (s : State) : Out :=
  .next (match s.scoutCmd, s.scout.bins with
    | some u, b :: bins =>
      if b.expert ≠ e.val || !b.ready || s.binWaits u b then s else
      let (left, v, t) := deliverRows b.rows u s
      let t : State := { t with scout := { t.scout with bins := if left = [] then bins else { b with rows := left } :: bins } }
      scoutRun (t.putCmd v) v
    | _, _ => s)

/-- The WIDX rows of an expert as they stand in the stacks. -/
def State.predictorRows (s : State) (u : UCmd) (e : Nat) : List (List Byte) :=
  let (_, first, nb, _) := s.scoutEntry u.bank e
  (List.range (64 * nb)).map fun j => s.bytes (u.descC.unitAddr (first + j) 0) (u.descC.ext 0)

/-- STAGING_LOAD_COMPLETE (R199): the WIDX rows of an expert with a bin are in the half of the staging store that is not in
use. -/
def execStagingLoadComplete (e : Fin 4096) (s : State) : Out :=
  .next (match s.scoutCmd, s.scout.bins with
    | some u, b :: bins =>
      if (b :: bins).all (fun x => decide (x.expert ≠ e.val)) || !s.hasPredictor u e.val ||
        (s.stagedRows e.val u.epoch).isSome || (s.lostInput u).isSome then s else
      let inUse := s.scout.staging.filter fun x => decide (x.expert = b.expert) && decide (x.epoch = u.epoch)
      let keep := if inUse = [] then s.scout.staging.take 1 else inUse.take 1
      { s with scout := { s.scout with staging := ⟨e.val, u.epoch, s.predictorRows u e.val⟩ :: keep } }
    | _, _ => s)

/-! ### Audit reports (R201, R202) -/

/-- `SCOUT_AUD_MISS`. -/
def State.audMiss (s : State) : Nat := (s.reg 0x080010).toNat + s.fld 0x080014 15 0 * 2 ^ 32

/-- Real mispredictions are counted one by one: the count saturates, and each that leaves it at or above the threshold
sets the scout-audit flag. -/
def State.addMiss (s : State) (n h : Nat) : State :=
  let old := s.audMiss
  let new := Min.min (old + n) (2 ^ 48 - 1)
  let thr := (s.regNow 0x080018).toNat + s.fldNow 0x08001C 15 0 * 2 ^ 32
  let t := ((s.setReg 0x080010 (BitVec.ofNat 32 new)).setFld 0x080014 15 0 (new / 2 ^ 32)).countRec 7 h n
  let hits := if thr = 0 then 0 else Min.min n (old + n + 1 - Max.max thr (old + 1))
  if hits = 0 then t else t.raiseFlag 7 hits

/-- An audit report is compared with its entry (R201). -/
def State.auditCompare (s : State) (ws : List QWord) : State :=
  let bytes := ws.flatMap fun w => lineBytes w.data
  let num := leNat (bytes.take 2)
  let nb := leNat ((bytes.drop 2).take 2)
  let tag := leNat ((bytes.drop 4).take 12)
  match s.scout.audits.find? fun a => decide (a.num = num) && decide (a.nb = nb) && decide (a.tag.toNat = tag) with
  | none => s.bump 0x080024 1
  | some a =>
    let seen (j : Nat) : Bool := bitOf (bytes.getD (64 + j / 8) 0).toNat (j % 8)
    let pairs := a.mask.zipIdx.map fun (p, j) => (p, seen j)
    let miss := (pairs.filter fun p => !p.1 && p.2).length
    let cons := (pairs.filter fun p => p.1 && !p.2).length
    (({ s with scout := { s.scout with audits := s.scout.audits.erase a } } : State).addMiss miss (tagOf tag).half).bump 0x080020 cons

/-- The report at the head of the audit queue is taken, if one stands there whole. A packet of another kind is discarded (R208). -/
def State.auditNext (s : State) : Option State :=
  let q := s.fld 0x08002C 11 0
  if s.fld 0x08002C 15 15 = 0 || decide ((s.queue q).cls ≠ .ret) then none else
  (s.peekPacket q).map fun ws =>
    let t := s.dropWords q ws.length
    if ws.all fun w => decide (w.kind = 3#3) then t.auditCompare ws else t.malformed

/-- AUDIT_REPORT (R201). -/
def execAuditReport (s : State) : Out := .next (s.auditNext.getD s)

/-- The reports that stand whole in the audit queue are taken, as at a step boundary (R202); fuel bounds them. -/
def State.auditAll (s : State) : Nat → State
  | 0 => s
  | n + 1 => match s.auditNext with
    | some t => State.auditAll t n
    | none => s

end Sys2Proof.Machine
end

