-- ==== Sys2Proof/Machine/Volley.lean ====
section
/-! DEFINITION. Volley: send lists and frames (R80, R251 to R256), the link layer (R244, R247, R248), received frames and
copies (R257 to R265), RECV.NET (R82), inline packets (R250, R266, R270), and lanes and ports (R267 to R269, R272). -/

namespace Sys2Proof.Machine

/-! ### Shared -/

/-- A frame is discarded as a link tag error (R249, R257). -/
def State.tagError (s : State) : State := (s.bump 0x0B0040 1).raiseFlag 12 1

/-- Discarded copies and answers enter the step record (R180). -/
def State.discarded (s : State) (h : Half) : State := s.countRec 8 h.val 1

/-- A RECEIVE buffer returns to its pool. -/
def State.freeRx (s : State) (a : Nat) : State :=
  match s.poolOf 1 with
  | some p => s.unitFree p 2 a
  | none => s

/-- The words of a unit's packet enter a queue behind those that still flow into it (R213). -/
def State.pushOn (s : State) (q : Nat) (ws : List QWord) : State := s.push q (Tab.get [] s.flow q ++ ws)

/-- Receive queue and early queue of a half (R272). -/
def State.rxQueue (s : State) (h : Nat) : Nat := s.fld 0x0B000C (16 * h + 11) (16 * h)
def State.earlyQueue (s : State) (h : Nat) : Nat := s.fld 0x0B0010 (16 * h + 11) (16 * h)

/-- Open and send instance of a half. -/
def State.openInst (s : State) (h : Nat) : Byte := s.vol.openInst.getD h 0
def State.sendInst (s : State) (h : Nat) : Byte := s.vol.sendInst.getD h 0

/-- A FAULTN with a cause goes to the origin of a half instance (R250, R259, R263). -/
def State.sendFaultn (s : State) (dest : Nat) (h : Half) (inst : Byte) (batch : BitVec 14) (gen : BitVec 2) (cause : Nat) :
    State :=
  s.sendFrame (s.inlineFrame dest 7 h inst (natLe 2 batch.toNat ++ natLe 1 gen.toNat ++ natLe 1 cause))

/-! ### VOLLEY (R80, R251) -/

/-- Send-list buffers that a queue of `p` packets takes. -/
def State.sendBuffers (s : State) (p : Nat) : Nat := ceilDiv (256 * p) (s.bufBytes (s.fld 0x0B0008 2 0))

/-- Packets of the command's send queue, and destination and half of the first, if its header is there. -/
def State.sendHead (s : State) (q : Nat) : Nat × Option (Nat × Half) :=
  ((s.queue q).pkt.toNat,
   (s.queueWords q).head?.map fun w => (bitsOf w.data.toNat 348 336, (w.data.extractLsb' 77 1).toFin))

/-- Codes that end VOLLEY before its first input (R70, R80, R251). -/
def volleyCheck (s : State) (u : UCmd) : Option Byte :=
  let (n, first) := s.sendHead u.queue
  let p := s.fld 0x0B0008 2 0
  lowest [((match first with | some (d, _) => decide (s.sysSize ≤ d) | none => false), codeBounds),
    (decide (n ≠ 0) && (!s.poolEn p || decide (s.poolClass p ≠ 0) || !s.underQuota p 1 (s.sendBuffers n)), codeQuota),
    (decide (u.f.sub ≠ 0), codeFormat), (decide (u.descA.fmt ≠ PACKED), codeFormat)]

/-- VOLLEY starts: its half is that of the first packet's tag, and it asks for its send-list space (R80, R251). -/
def volleyStart (s : State) (u : UCmd) : UCmd × State :=
  let (n, first) := s.sendHead u.queue
  let u := { u with half := first.map (·.2), n1 := n }
  let p := s.fld 0x0B0008 2 0
  let k := s.sendBuffers n
  let s : State := { s with vol := { s.vol with resv := [] } }
  if k = 0 then ({ u with stage := 1 }, s)
  else
    let x := s.pool p
    match (if x.ready && x.waiting.isEmpty then s.poolTakes p 1 u.half k else none) with
    | some (bs, t) => ({ u with stage := 1 }, { t with vol := { t.vol with resv := bs } })
    | none => (u, s.setPool p { x with waiting := x.waiting ++ [(1, k)] })

/-- Stage 1: the send-list space of the VOLLEY is there. -/
def volleyTake (s : State) (u : UCmd) : UCmd × State :=
  (if u.stage = 0 ∧ s.vol.resv ≠ [] then { u with stage := 1 } else u, s)

/-- VOLLEY posts its list; the list builder goes on alone (R251). -/
def volleyWork (s : State) (u : UCmd) : UCmd × State :=
  if u.stage ≠ 1 then (u, s) else
  ({ u with out := some 0 },
   if u.n1 = 0 then s else
   { s with vol := { s.vol with
       jobs := s.vol.jobs ++ [⟨u.queue, u.dA, u.n1, [], s.fld 0x0B0008 2 0, s.vol.resv.zipIdx.map fun (b, j) => (j, b)⟩]
       resv := [] } })

/-- Volley's pass over a VOLLEY. -/
def volleyRun (s : State) (u : UCmd) : State := s.driveRows u volleyCheck volleyStart volleyTake volleyWork

/-- VOLLEY (R80). -/
def execVolley (c : Ctx) (f : Fields) (s : State) : Out := .next (s.issueUnit c (.volley c f) f volleyRun)

/-! ### The list builder (R251, R252) -/

/-- A COPY frame of packet `pid` still waits for a port or in a port's frame queue. -/
def State.waiting (s : State) (pid : Word) : Bool :=
  let f (x : Frame) : Bool := decide (x.kind = 1) && decide (x.pid = pid)
  s.vol.stuck.any f || s.vol.ports.any fun p => p.2.txq.any f

/-- Send-list buffers whose entries have all been built and whose frames have all entered a retry buffer return. -/
def State.freeSendBufs (s : State) : State :=
  let (jobs, t) := s.vol.jobs.foldl (fun (acc : List VJob × State) j =>
    let per := acc.2.bufBytes j.pool / 256
    let idle (b : Nat × Nat) : Bool :=
      let e := (j.sent.drop (b.1 * per)).take per
      (decide (e.length = per) || decide (j.sent.length = j.total)) &&
        e.all fun x => match x with | some pid => !acc.2.waiting pid | none => true
    let t := (j.bufs.filter idle).foldl (fun t b => t.poolGive j.pool 1 b.2) acc.2
    let k : VJob := { j with bufs := j.bufs.filter fun b => !idle b }
    (if k.bufs = [] ∧ k.sent.length = k.total then acc.1 else acc.1 ++ [k], t)) ([], s)
  { t with vol := { t.vol with jobs := jobs } }

/-- The oldest posted VOLLEY with entries left has built one: its packet id, or none for a packet that uses no port. -/
def State.builtEntry (s : State) (j : VJob) (pid : Option Word) : State :=
  { s with vol := { s.vol with jobs := s.vol.jobs.map fun x => if x = j then { j with sent := j.sent ++ [pid] } else x } }

/-- The header words of a copy as they go out (R226, R251): packed length, form map, element count and format filled in, the
locator zero. -/
def sentHeader (hdr : List Byte) (d fmt : Nat) (e : PackEnt) : List Byte :=
  let map := (List.range 16).map fun i => BitVec.ofNat 8 ((List.range 4).foldl (fun v k =>
    v + ((e.forms.getD (4 * i + k) 0).toNat) * 4 ^ k) 0)
  hdr.take 17 ++ natLe 1 fmt ++ natLe 2 d ++ natLe 2 e.len ++ natLe 2 0 ++ map ++ List.replicate 24 0#8 ++ hdr.drop 64

/-- The packed payload of row `r` of a PACKED tensor, with whether the index was clamped (R113). -/
def State.packedRow (s : State) (d : Desc) (r n : Nat) : List Byte × Bool :=
  let i := if d.rows ≤ r then d.rows - 1 else r
  (if d.vext ≤ i then List.replicate n 0#8 else s.bytes (d.unitAddr i 0) n, decide (d.rows ≤ r))

/-- One packet of the oldest VOLLEY becomes a send-list entry and frames (R251, R252, R254). A packet whose payload lies on a poisoned
line goes no further (R305, R354). -/
def State.buildEntry (s : State) (j : VJob) (ws : List QWord) : State :=
  let s := s.dropWords j.queue ws.length
  let hdr := ws.flatMap fun w => lineBytes w.data
  let tag := tagOf (fieldLe hdr 0 12)
  let dest := bitsOf (fieldLe hdr 40 8) 28 16
  let h : Half := (BitVec.ofNat 1 tag.half).toFin
  if ws.any fun w => decide (w.kind ≠ 6#3) then s.malformed.builtEntry j none
  else if s.sysSize ≤ dest then
    ((s.tagError.report ⟨0x0C, some h, 0, 0xFFFF, 0, false⟩)).builtEntry j none
  else
    let d := descOf j.desc
    let row := bitsOf (fieldLe hdr 40 8) 15 0
    let fmt := bitsOf d.fparam 4 0
    let e := (Tab.get none (s.hbank h.val).dir (Min.min row (d.rows - 1))).getD ⟨[], 0⟩
    let (payload, cl) := s.packedRow d row e.len
    let s := if cl then s.raiseFlag 1 1 else s
    match s.lostIn (d.unitAddr (Min.min row (d.rows - 1)) 0) e.len with
    | some l => (s.lostRead l (some h)).builtEntry j none
    | none =>
    let out := sentHeader hdr (d.ext 0 / unitSize fmt) fmt e
    let pid := s.vol.pid
    let inst := s.sendInst h.val
    let s : State := { s with vol := { s.vol with
      pid := pid + 1, destCnt := (Tab.upd 0 s.vol.destCnt (8192 * h.val + dest) (· + 1)) } }
    let b := s.hbank h.val
    let s := s.setHbank h.val { b with unsent := b.unsent - 1 }
    let item := natLe 12 ({ tag with origin := s.relChip tag.origin, slot := 0 } : TagRec).bits.toNat ++ out.drop 12 ++ payload
    let s := s.addItem 4 h.val item
    let s := s.sendFrames (s.packetFrames dest 1 h inst pid (out.take 12) (out ++ payload))
    s.builtEntry j (if dest = s.chip then none else some pid)

/-- SEND_LIST_BUILD (R251). -/
def execSendListBuild (s : State) : Out :=
  .next (match s.vol.jobs.find? fun j => decide (j.sent.length < j.total) with
    | none => s
    | some j =>
      match s.peekPacket j.queue with
      | none => s
      | some ws => (s.buildEntry j ws).freeSendBufs)

/-- EOH_SEND (R252): once every copy of the bank has gone to the ports, every chip receives its count, the half's send
instance advances, and the bank is done with. -/
def execEohSend (h : Half) (s : State) : Out :=
  let b := s.hbank h.val
  .next (if !b.open_ || decide (b.unsent ≠ 0) then s else
    let inst := s.sendInst h.val
    let fs := (List.range s.sysSize).map fun d =>
      s.inlineFrame d 5 h inst (natLe 2 b.batch.toNat ++ natLe 2 b.gen.toNat ++
        natLe 4 (Tab.get 0 s.vol.destCnt (8192 * h.val + d)))
    let t := (s.sendFrames fs).setHbank h.val { b with open_ := false }
    let t : State := { t with vol := { t.vol with
      sendInst := t.vol.sendInst.set h.val (inst + 1), eohLeft := t.vol.eohLeft.set h.val true
      destCnt := t.vol.destCnt.filter fun e => decide (e.1 / 8192 ≠ h.val) } }
    t.formDigest 4 h)

/-! ### The link layer (R244, R247, R248, R255) -/

/-- Cells of partner credit that a port has left. -/
def Port.credit (p : Port) : Nat := (p.granted - p.sent).toNat

/-- Bytes in a port's retry buffer. -/
def Port.retryBytes (p : Port) : Nat := p.retry.foldl (fun a r => a + 64 * r.frame.cells) 0

/-- A new frame leaves a port: numbered, kept for a resend, its cells taken from the credit (R247, R248). -/
def State.emitFrame (s : State) (l : Nat) (f : Frame) : State :=
  let p := s.port l
  let t := s.setPort l { p with retry := p.retry ++ [⟨p.nextSeq, 1, false, f⟩], nextSeq := p.nextSeq + 1
                                sent := p.sent + BitVec.ofNat 32 f.cells, cell := p.cell + f.cells }
  let t := if f.kind = 1 ∨ f.kind = 2 then t.measure 1 f.data.length else t
  { t with pins := { t.pins with lnk := Tab.set [] t.pins.lnk l (f.wire p.nextSeq.toNat) } }

/-- The frame of a waiting digest (R351). -/
def State.digestFrame (s : State) (d : Digest) : Frame :=
  s.inlineFrame (s.fld 0x0B0014 20 8) 9 0 0 (natLe 8 d.step.toNat ++ natLe 1 d.unit ++ natLe 1 d.half.val ++ natLe 2 0 ++
    natLe 4 d.items.toNat ++ natLe 8 d.value.toNat)

/-- The empty DIGEST (R271, R351). -/
def State.emptyDigest (s : State) : Frame := s.inlineFrame (s.fld 0x0B0014 20 8) 9 0 0 (List.replicate 9 0#8 ++ natLe 1 2)

/-- The highest link sequence up to which every frame has arrived good. -/
def Port.ack (p : Port) : BitVec 24 :=
  (p.missing.foldl (fun (m : BitVec 24) n => if p.rxSeq - m < p.rxSeq - n then n else m) p.rxSeq) - 1

/-- The control block that a port sends (R244). -/
def State.controlBlock (s : State) (l : Nat) : List Byte :=
  let p := s.port l
  let naks := (p.naks.take 8).flatMap fun n => natLe 4 (n.toNat + 2 ^ 31)
  let body := [0x9D#8, 0x42#8, 0x6B#8, 0xB4#8, 0x62#8, 0xBD#8, 0x94#8, 0x4B#8] ++ natLe 2 p.sf.toNat ++ natLe 3 p.ack.toNat ++
    (naks ++ List.replicate 32 0#8).take 32 ++ natLe 4 p.grants.toNat ++
    natLe 1 (b2n p.up + 2 * b2n (decide (p.st = 4)) + 4 * b2n (decide (p.st = 3))) ++
    natLe 1 (if p.spare.isSome then l + 128 else 0) ++ List.replicate 101 0#8
  body ++ natLe 4 (crc32 body) ++ natLe 4 0

/-- The first frame of a port's queue that a test accepts and whose cells the credit covers. -/
def Port.pick (p : Port) (test : Frame → Bool) : Option Frame :=
  match p.txq.find? test with
  | some f => if f.cells ≤ p.credit ∧ p.retryBytes + 64 * f.cells ≤ 262144 then some f else none
  | none => none

/-- The next control block of a port leaves, and a superframe begins (R243, R244). -/
def State.sendControl (s : State) (l : Nat) : State :=
  let p := s.port l
  let t := s.setPort l { p with naks := p.naks.drop 8, sf := p.sf + 1, cell := p.cell - 640 }
  { t with pins := { t.pins with lnk := Tab.set [] t.pins.lnk l (s.controlBlock l) } }

/-- Port `l` carries the pair-compare channel (R271). -/
def State.pcPort (s : State) (l : Nat) : Bool := decide (s.fld 0x0B0014 31 31 = 1) && decide (s.fld 0x0B0014 5 0 = l)

/-- `n` cells of port `l` may be sent before the cell that is reserved for the pair-compare channel (R271; log entry 77). -/
def State.slotFree (s : State) (l n : Nat) : Bool := !s.pcPort l || decide ((s.port l).cell + n ≤ 639)

/-- Cell 639 of the pair-compare port: the oldest waiting digest, or an empty DIGEST (R271). -/
def State.sendDigest (s : State) (l : Nat) : State :=
  let p := s.port l
  if p.credit = 0 ∨ 262144 < p.retryBytes + 64 then s.setPort l { p with cell := 640 } else
  let t := match s.vol.digests with
    | d :: ds => ({ s with vol := { s.vol with digests := ds } } : State).emitFrame l (s.digestFrame d)
    | [] => s.emitFrame l s.emptyDigest
  t.setPort l { t.port l with cell := 640 }

/-- A frame is sent again under its original sequence (R247). -/
def State.resendFrame (s : State) (l : Nat) (r : Retry) : State :=
  let p := s.port l
  let t := s.setPort l { p with
    retry := p.retry.map (fun x => if x = r then { r with tries := r.tries + 1, resend := false } else x)
    sent := p.sent + BitVec.ofNat 32 r.frame.cells, cell := p.cell + r.frame.cells }
  ({ t with pins := { t.pins with lnk := Tab.set [] t.pins.lnk l (r.frame.wire r.seq.toNat) } } : State).bump (0x0B1010 + 0x40 * l) 1

/-- The new frame that a port sends next: an inline packet, an ANSWER frame, a COPY frame, in this order (R255). -/
def State.nextFrame (s : State) (l : Nat) : Option Frame :=
  let p := s.port l
  let pick (test : Frame → Bool) : Option Frame := (p.pick test).filter fun f => s.slotFree l f.cells
  match pick fun f => decide (3 ≤ f.kind) with
  | some f => some f
  | none => match pick fun f => decide (f.kind = 2) with
    | some f => some f
    | none => pick fun f => decide (f.kind = 1)

/-- FRAME_SEND (R243, R255, R271): at the end of a superframe the next control block; otherwise a frame to be sent again, ahead of
every frame not yet sent, or a new frame. With nothing to send, the rest of the superframe passes idle up to the reserved cell of
the pair-compare port, or to the next control block. -/
def execFrameSend (l : Fin 64) (s : State) : Out :=
  let p := s.port l.val
  let idle : State := if s.pcPort l.val then s.sendDigest l.val else s.sendControl l.val
  .next (if !p.up then s
    else if 640 ≤ p.cell then s.sendControl l.val
    else match p.retry.find? (·.resend) with
    | some r => if r.frame.cells ≤ p.credit ∧ s.slotFree l.val r.frame.cells then s.resendFrame l.val r else idle
    | none =>
      match s.nextFrame l.val with
      | some f => (((s.setPort l.val { p with txq := p.txq.erase f }).emitFrame l.val f).freeSendBufs).retryStuck
      | none => idle)

/-- A frame is to be sent again; sent four times already, it takes its port out of service to retrain (R247). -/
def State.sendAgain (s : State) (l : Nat) (seq : BitVec 24) : State :=
  let p := s.port l
  match p.retry.find? fun r => decide (r.seq = seq) with
  | none => s
  | some r =>
    if 4 ≤ r.tries then s.portDown l 4
    else s.setPort l { p with retry := p.retry.map fun x => if x = r then { r with resend := true } else x }

/-- ACK_TIMEOUT (R247). -/
def execAckTimeout (l : Fin 64) (seq : BitVec 24) (s : State) : Out := .next (if (s.port l.val).up then s.sendAgain l.val seq else s)

/-- The marker of a control block (R244). -/
def ctlMarker : List Byte := [0x9D#8, 0x42#8, 0x6B#8, 0xB4#8, 0x62#8, 0xBD#8, 0x94#8, 0x4B#8]

/-- CONTROL_BLOCK_RECEIVE (R244, R247, R248): with a good CRC, acknowledged frames leave the retry buffer, frames named by NAK
are sent again, and the credit and the partner's state are taken. -/
def execControlBlockReceive (l : Fin 64) (bytes : List Byte) (s : State) : Out :=
  let p := s.port l.val
  .next (if !p.up || decide (bytes.length ≠ 160) || decide (bytes.take 8 ≠ ctlMarker) ||
      decide (crc32 (bytes.take 152) ≠ fieldLe bytes 152 4) then s else
    let ack : BitVec 24 := BitVec.ofNat 24 (fieldLe bytes 10 3)
    let t := s.setPort l.val { p with
      retry := p.retry.filter (fun r => decide (2 ^ 23 ≤ (ack - r.seq).toNat))
      granted := BitVec.ofNat 32 (fieldLe bytes 45 4), partner := bytes.getD 49 0 }
    (List.range 8).foldl (fun t i =>
      let w := fieldLe bytes (13 + 4 * i) 4
      if bitOf w 31 then t.sendAgain l.val (BitVec.ofNat 24 w) else t) t)

/-! ### Received frames (R247, R248, R257) -/

/-- Bits of an inline packet that its kind defines (R250); a COPY or an ANSWER carries its tag. -/
def inlineMask (kind : Nat) : Nat :=
  match kind with
  | 1 => 2 ^ 96 - 1
  | 2 => 2 ^ 96 - 1
  | 3 => 2 ^ 55 - 1
  | 4 => 0xFFFF * 2 ^ 32 + 2 ^ 64
  | 5 => 0x3FFF + 3 * 2 ^ 16 + 0xFFFFFFFF * 2 ^ 32
  | 6 => 0x3FFF + 3 * 2 ^ 16
  | 7 => 0x3FFF + 3 * 2 ^ 16 + 0xFF * 2 ^ 24
  | 8 => 2 ^ 64 - 1
  | _ => 2 ^ 74 - 1 + (2 ^ 96 - 1) * 2 ^ 96

/-- Kind and zero fields of a frame's header cell are valid (R245, R249); an empty DIGEST holds nothing else (R351). -/
def headerValid (bs : List Byte) : Bool :=
  let kind := fieldLe bs 4 1
  let inl := fieldLe bs 24 32
  decide (1 ≤ kind) && decide (kind ≤ 9) && decide (fieldLe bs 0 2 < 8192) && decide (fieldLe bs 2 2 < 8192) &&
  decide (fieldLe bs 5 1 < 32) && decide (fieldLe bs 9 1 < 2) && decide (fieldLe bs 11 1 < 64) && decide (fieldLe bs 19 5 = 0) &&
  decide (fieldLe bs 56 4 = 0) && decide (inl &&& inlineMask kind = inl) &&
  (decide (kind ≠ 9) || !bitOf inl 73 || decide (inl = 2 ^ 73))

/-- The tag of a COPY or ANSWER frame. -/
def Frame.tag (f : Frame) : TagRec := tagOf (fieldLe f.inline_ 0 12)

/-- The COPY or ANSWER frame's tag or segment does not fit (R257). -/
def Frame.tagBad (f : Frame) : Bool :=
  (decide (f.kind = 1) || decide (f.kind = 2)) &&
  ((decide (f.kind = 1) && decide (f.tag.origin ≠ f.origin)) || decide (262143 < f.tag.slot) || decide (segments f.len ≤ f.seg))

/-- Packet and segment have been received already (R257, R258). -/
def State.seenSegment (s : State) (f : Frame) : Bool :=
  (decide (f.kind = 1) || decide (f.kind = 2)) &&
  (s.vol.dups.contains (f.origin, f.pid) ||
   s.vol.parts.any (fun p => decide (p.origin = f.origin) && decide (p.pid = f.pid) && p.segs.contains f.seg) ||
   s.vol.rx.any fun r => decide (r.2.origin = f.origin) && decide (r.2.kind = f.kind) && decide (r.2.pid = f.pid) && decide (r.2.seg = f.seg))

/-- Cells of a frame return to the credit that a port grants (R248). -/
def State.returnCells (s : State) (l : Option (Fin 64)) (n : Nat) : State :=
  match l with
  | some l => let p := s.port l.val
              s.setPort l.val { p with rxCells := p.rxCells - n, grants := p.grants + BitVec.ofNat 32 n }
  | none => s

/-- A frame past its CRC checks is checked and kept, or discarded (R257). -/
def State.takeFrame (s : State) (l : Fin 64) (bs : List Byte) (f : Frame) : State :=
  if !headerValid bs || decide (f.dest ≠ s.chip) || f.tagBad then s.tagError.returnCells (some l) (bs.length / 64)
  else if s.seenSegment f then (s.bump 0x0B0048 1).returnCells (some l) (bs.length / 64)
  else
    let s := if f.kind = 1 ∨ f.kind = 2 then s.measure 2 f.data.length else s
    { s with vol := { s.vol with rx := s.vol.rx ++ [(some l, f)] } }

/-- A frame of `n` cells fails a CRC (R247): the sequence `seq` is named in a NAK, as is the gap before it, and the cells, which are
not kept, are granted anew (R248). -/
def Port.refuse (p : Port) (n : Nat) (seq : BitVec 24) : Port :=
  { p with naks := p.naks ++ [seq], missing := p.missing.filter (fun x => decide (x ≠ seq)) ++ [seq]
           grants := p.grants + BitVec.ofNat 32 n }

/-- A frame under sequence `seq` has come: a gap before it is named (R247). -/
def Port.came (p : Port) (seq : BitVec 24) : Port :=
  let ahead := (seq - p.rxSeq).toNat
  if 2 ^ 23 ≤ ahead then p else
    let gap := (List.range ahead).map fun i => p.rxSeq + BitVec.ofNat 24 i
    { p with rxSeq := seq + 1, naks := p.naks ++ gap, missing := p.missing ++ gap }

/-- A frame under a sequence has arrived good already (R247). -/
def Port.had (p : Port) (seq : BitVec 24) : Bool := decide (2 ^ 23 ≤ (seq - p.rxSeq).toNat) && !p.missing.contains seq

/-- FRAME_RECEIVE (R247, R257): a frame that fails a CRC is discarded and named in a NAK, under the next expected sequence when its
header is bad; gaps in the sequence are named too. A frame that has arrived good already is a duplicate (log entry 77). -/
def execFrameReceive (l : Fin 64) (bytes : List Byte) (s : State) : Out :=
  let p := s.port l.val
  let n := bytes.length
  .next (if !p.up || decide (n < 64) || decide (n % 64 ≠ 0) then s
    else if crc32 (bytes.take 60) ≠ fieldLe bytes 60 4 then
      s.setPort l.val ({ p with rxSeq := p.rxSeq + 1 }.refuse (n / 64) p.rxSeq)
    else
      let (f, seq) := frameOf bytes
      let dataBad := decide (64 < n) && decide (crc32 ((bytes.drop 64).take (n - 68)) ≠ fieldLe bytes (n - 4) 4)
      if dataBad then s.setPort l.val ((p.came seq).refuse (n / 64) seq)
      else
        let q := p.came seq
        let t := s.setPort l.val { q with
          naks := q.naks.filter (fun x => decide (x ≠ seq)), missing := q.missing.filter (fun x => decide (x ≠ seq))
          rxCells := q.rxCells + n / 64 }
        if p.had seq then (t.bump 0x0B0048 1).returnCells (some l) (n / 64) else t.takeFrame l bytes f)

/-- The first frame of a kind among those that wait, with the state after it has left the receive store: its cells are granted anew,
or make room for loopback (R248). -/
def State.takeRx (s : State) (kind : Nat) : Option (Frame × State) :=
  match s.vol.rx.find? fun r => decide (r.2.kind = kind) with
  | none => none
  | some r =>
    let t := ({ s with vol := { s.vol with rx := s.vol.rx.erase r } } : State).returnCells r.1 r.2.cells
    some (r.2, if r.1.isNone then t.retryStuck else t)

/-! ### Copies and arrival entries (R258 to R263) -/

/-- The arrival entry of an origin. -/
def State.arrival (s : State) (h o : Nat) : Arrival := Tab.get Arrival.reset s.vol.arrivals (8192 * h + o)
def State.setArrival (s : State) (h o : Nat) (a : Arrival) : State :=
  { s with vol := { s.vol with arrivals := Tab.set Arrival.reset s.vol.arrivals (8192 * h + o) a } }

/-- An arrival entry is done (R263). -/
def Arrival.done (a : Arrival) : Bool := a.taken && a.eohSeen && decide (a.cnt = a.eohCnt)

/-- The words of a queue and those that still flow into it. -/
def State.allWords (s : State) (q : Nat) : List QWord := s.queueWords q ++ Tab.get [] s.flow q

/-- The copies that wait in a queue, oldest first: the origin, the half and the buffer of each. -/
def State.queuedCopies (s : State) (q : Nat) : List (Nat × Nat × Nat) :=
  let ws := s.allWords q
  let starts := ws.zipIdx.filter fun (_, i) => i = 0 || (match ws[i - 1]? with | some p => p.last | none => true)
  starts.filterMap fun (w, _) =>
    let t := tagOf w.data.toNat
    if w.kind = 6#3 then some (t.origin, t.half, bitsOf w.data.toNat 367 320) else none

/-- The buffers of the copies of an origin and a half that wait in a queue. -/
def State.copiesIn (s : State) (q : Nat) (h o : Nat) : List Nat :=
  ((s.queuedCopies q).filter fun c => decide (c.1 = o) && decide (c.2.1 = h)).map (·.2.2)

/-- A DISCARD of a generation applies to an entry (R262): a copy is marked once, however many apply to it. -/
def State.applyDiscard (s : State) (h : Half) (o : Nat) (g : BitVec 2) : State :=
  let a := s.arrival h.val o
  let t := s.setArrival h.val o { a with gen := g, cnt := 0, eohSeen := false }
  let mine := (t.copiesIn (t.rxQueue h.val) h.val o ++ t.copiesIn (t.earlyQueue h.val) h.val o).filter fun b =>
    !t.vol.skip.contains b
  { t with vol := { t.vol with skip := t.vol.skip ++ mine } }

/-- A count above what the EOH gave is a conservation fault (R263). -/
def State.countCheck (s : State) (h : Half) (o : Nat) : State :=
  let a := s.arrival h.val o
  if a.eohSeen ∧ a.eohCnt < a.cnt then (s.bump 0x0B0050 1).sendFaultn o h (s.openInst h.val) a.batch a.gen 2 else s

/-- What R262 decides for a COPY or an EOH of the open instance. -/
inductive Verdict
  | accept
  | tagError
  | stale
  deriving DecidableEq, Repr

/-- The entry judges batch and generation of a COPY or EOH, after the DISCARD that a newer generation implies (R262). -/
def State.judge (s : State) (h : Half) (o : Nat) (b : BitVec 14) (g : BitVec 2) : Verdict × State :=
  let a := s.arrival h.val o
  if !a.taken then (.accept, s.setArrival h.val o { a with taken := true, batch := b, gen := g })
  else if b ≠ a.batch then (.tagError, s)
  else if g = a.gen then (.accept, s)
  else if (g - a.gen).toNat = 3 then (.stale, s)
  else (.accept, s.applyDiscard h o g)

/-- A stale copy or EOH is counted (R261). -/
def State.stale (s : State) (h : Half) : State := (s.bump 0x0B0044 1).discarded h

/-- The header words of the copy in a RECEIVE buffer, with the buffer as the locator (R226, R258). -/
def State.headerPacket (s : State) (a : Nat) : List QWord :=
  let c := (s.byte (a + 16)).toNat
  let bs := s.bytes a (64 * copyHeaderWords c)
  packetOf 6 (linesOf bs.length (bs.take 40 ++ natLe 8 (a % 2 ^ 48) ++ bs.drop 48))

/-- A complete copy of the open instance (R262). -/
def State.copyOpen (s : State) (h : Half) (o buf : Nat) : State :=
  let t := tagOf (s.num buf 12)
  match s.judge h o t.batch t.gen with
  | (.tagError, s1) => s1.tagError.freeRx buf
  | (.stale, s1) => (s1.stale h).freeRx buf
  | (.accept, s1) =>
    let a := s1.arrival h.val o
    ((s1.setArrival h.val o { a with cnt := a.cnt + 1 }).pushOn (s1.rxQueue h.val) (s1.headerPacket buf)).countCheck h o

/-- A complete copy of instance `inst` arrives (R261). -/
def State.copyArrive (s : State) (h : Half) (inst : Byte) (o buf : Nat) : State :=
  if inst = s.openInst h.val then s.copyOpen h o buf
  else if inst = s.openInst h.val + 1 then s.pushOn (s.earlyQueue h.val) (s.headerPacket buf)
  else (s.stale h).freeRx buf

/-- A RECEIVE buffer for a new copy of a half, as requester 2 (R258). -/
def State.takeRxBuf (s : State) (h : Half) : Option (Nat × State) :=
  match s.poolOf 1 with
  | none => none
  | some n => match s.poolTake n 2 (some h) with
    | none => none
    | some (i, t) => some (t.bufAddr n i, t)

/-- The reassembly of a COPY packet, begun if this is its first segment. -/
def State.partOf (s : State) (f : Frame) : Option (Part × State) :=
  match s.vol.parts.find? fun p => decide (p.kind = 1) && decide (p.origin = f.origin) && decide (p.pid = f.pid) with
  | some p => some (p, { s with vol := { s.vol with parts := s.vol.parts.erase p } })
  | none =>
    match s.takeRxBuf f.half with
    | none => none
    | some (a, t) =>
      some (⟨f.origin, f.pid, 1, f.half, f.inst, f.len, [], a, BitVec.ofNat 96 (fieldLe f.inline_ 0 12)⟩,
        if 65536 ≤ t.vol.parts.length then t.bump 0x0B0060 1 else t)

/-- Segment bytes go to their place in the RECEIVE buffer, as far as the buffer reaches. -/
def State.putSegment (s : State) (a : Nat) (f : Frame) : State :=
  let z := match s.poolOf 1 with | some n => s.bufBytes n | none => 0
  s.setBytes (a + 1980 * f.seg) (f.data.take (z - 1980 * f.seg))

/-- Every byte of a copy has been written to its RECEIVE buffer: its lines are good (R305; log entry 94). -/
def State.copyWritten (s : State) (p : Part) : State := s.cureRange p.buf ((p.len + 255) / 256 * 256)

/-- COPY_SEGMENT (R258, R259, R261): the next COPY segment leaves the receive store and is reassembled; a complete copy arrives, and
its header words flow into their queue as it has room, so that no credit is withheld (R29, R248). It waits while its pool is not
ready. -/
def execCopySegment (s : State) : Out :=
  .next (match s.takeRx 1 with
    | none => s
    | some (f, t) =>
      if (match t.poolOf 1 with | some n => !(t.pool n).ready | none => false) then s else
      match t.partOf f with
      | none =>
        let g := f.tag
        ((t.bump 0x0B0054 1).raiseFlag 13 1).sendFaultn f.origin f.half f.inst g.batch g.gen 3
      | some (p, t) =>
        let t := t.putSegment p.buf f
        let p := { p with segs := f.seg :: p.segs }
        if p.segs.length < segments p.len then { t with vol := { t.vol with parts := t.vol.parts ++ [p] } }
        else (({ t with vol := { t.vol with dups := t.vol.dups ++ [(f.origin, f.pid)] } } : State).copyWritten p).copyArrive
          p.half p.inst p.origin p.buf)

/-- DUP_FILTER_EXPIRY (R258). -/
def execDupFilterExpiry (origin : Fin 8192) (pid : Word) (s : State) : Out :=
  .next { s with vol := { s.vol with dups := s.vol.dups.erase (origin.val, pid) } }

/-- PARTIAL_TIMEOUT (R259): the partial packet is given up; a COPY goes back to its origin as a FAULTN, an ANSWER to this
chip's Referee. -/
def execPartialTimeout (origin : Fin 8192) (pid : Word) (s : State) : Out :=
  .next (match s.vol.parts.find? fun p => decide (p.origin = origin.val) && decide (p.pid = pid) with
    | none => s
    | some p =>
      let t := ({ s with vol := { s.vol with parts := s.vol.parts.erase p } } : State).bump 0x0B004C 1
      if p.kind = 1 then
        let g := tagOf p.tag.toNat
        (t.freeRx p.buf).sendFaultn p.origin p.half p.inst g.batch g.gen 1
      else t.report ⟨0x09, some p.half, 0, 0xFFFF, BitVec.ofNat 64 (pid.toNat + 2 ^ 32 * origin.val), false⟩)

/-- CONSERVATION_TIMEOUT (R263). -/
def execConservationTimeout (h : Half) (origin : Fin 8192) (s : State) : Out :=
  let a := s.arrival h.val origin.val
  .next (if a.eohSeen ∧ a.cnt < a.eohCnt then
    (s.bump 0x0B0050 1).sendFaultn origin.val h (s.openInst h.val) a.batch a.gen 2 else s)

/-! ### EOH, DISCARD, FAULTN, PSTATE (R250, R261, R262, R270) -/

/-- An EOH of the open instance (R262). -/
def State.eohOpen (s : State) (h : Half) (o : Nat) (b : BitVec 14) (g : BitVec 2) (n : Nat) : State :=
  match s.judge h o b g with
  | (.tagError, s1) => s1.tagError
  | (.stale, s1) => s1.stale h
  | (.accept, s1) =>
    (s1.setArrival h.val o { s1.arrival h.val o with eohSeen := true, eohCnt := n }).countCheck h o

/-- A DISCARD of the open instance: a fresh entry takes batch and generation from it, another batch's does nothing (R262). -/
def State.discardOpen (s : State) (h : Half) (o : Nat) (b : BitVec 14) (g : BitVec 2) : State :=
  let a := s.arrival h.val o
  if !a.taken then s.setArrival h.val o { a with taken := true, batch := b, gen := g }
  else if b ≠ a.batch then s
  else if (g - a.gen).toNat = 1 ∨ (g - a.gen).toNat = 2 then s.applyDiscard h o g else s

/-- An EOH, or a DISCARD, is judged by its instance: processed, held, or dropped as stale (R261). -/
def State.endNotice (s : State) (discard : Bool) (f : Frame) : State :=
  let b : BitVec 14 := BitVec.ofNat 14 (fieldLe f.inline_ 0 2)
  let g : BitVec 2 := BitVec.ofNat 2 (fieldLe f.inline_ 2 1)
  let n := fieldLe f.inline_ 4 4
  if f.inst = s.openInst f.half.val then
    (if discard then s.discardOpen f.half f.origin b g else s.eohOpen f.half f.origin b g n)
  else if f.inst = s.openInst f.half.val + 1 then
    { s with vol := { s.vol with earlyEoh := s.vol.earlyEoh ++
      [⟨discard, f.half, f.origin, b, g, n, (s.queuedCopies (s.earlyQueue f.half.val)).map (·.2.2)⟩] } }
  else if discard then s else s.stale f.half

/-- EOH_PACKET (R261, R262). -/
def execEohPacket (s : State) : Out :=
  .next (match s.takeRx 5 with | some (f, t) => t.endNotice false f | none => s)

/-- DISCARD_PACKET (R262). -/
def execDiscardPacket (s : State) : Out :=
  .next (match s.takeRx 6 with | some (f, t) => t.endNotice true f | none => s)

/-- FAULTN_PACKET (R353): a fault of the half that it names, when that is the batch and generation in force (R25). -/
def execFaultnPacket (s : State) : Out :=
  .next (match s.takeRx 7 with
    | none => s
    | some (f, t) =>
      if fieldLe f.inline_ 0 2 = (t.batch f.half.val).toNat ∧ fieldLe f.inline_ 2 1 = (t.gen f.half.val).toNat then
        t.report ⟨0x0E, some f.half, 0, 0xFFFF, 0, false⟩
      else t)

/-- PSTATE_PACKET (R270): the sender's reach entry is replaced. -/
def execPstatePacket (s : State) : Out :=
  .next (match s.takeRx 8 with
    | none => s
    | some (f, t) =>
      let v : DWord := BitVec.ofNat 64 (fieldLe f.inline_ 0 8)
      ({ t with vol := { t.vol with reach := Tab.set 0xFFFFFFFFFFFFFFFF#64 t.vol.reach f.origin v } } : State).retryStuck)

/-- DIGEST_PACKET (R351, R352): the partner's digest enters the compare table; an empty one does nothing. -/
def execDigestPacket (s : State) : Out :=
  .next (match s.takeRx 9 with
    | none => s
    | some (f, t) =>
      if bitOf (fieldLe f.inline_ 9 1) 1 then t
      else t.compareEnter false ⟨BitVec.ofNat 64 (fieldLe f.inline_ 0 8), fieldLe f.inline_ 8 1,
        (BitVec.ofNat 1 (fieldLe f.inline_ 9 1)).toFin, BitVec.ofNat 32 (fieldLe f.inline_ 12 4),
        BitVec.ofNat 64 (fieldLe f.inline_ 16 8)⟩)

/-- PC_PARTNER_TIMEOUT (R352): the entry that waits is dropped. -/
def execPcPartnerTimeout (step : DWord) (unit : Fin 8) (h : Half) (s : State) : Out :=
  .next (match s.ref.compares.find? fun e => decide (e.d.step = step) && decide (e.d.unit = unit.val) && decide (e.d.half = h) with
    | none => s
    | some e => ({ s with ref := { s.ref with compares := s.ref.compares.erase e } } : State).raiseFlag 14 1)

/-! ### Remote signals (R52, R266) -/

/-- The window of an origin after sequence `q`, and what becomes of it: 0 new, 1 seen before, 2 too old (R266). -/
def SigWin.take (w : SigWin) (q : BitVec 16) : Nat × SigWin :=
  if !w.any then (0, ⟨q, 1, true⟩) else
  let ahead := (q - w.top).toNat
  let back := (w.top - q).toNat
  if 0 < ahead ∧ ahead < 2 ^ 15 then (0, ⟨q, (w.seen <<< ahead) ||| 1, true⟩)
  else if 64 ≤ back then (2, w)
  else if w.seen.getLsbD back then (1, w)
  else (0, { w with seen := w.seen ||| (1#64 <<< back) })

/-- SIGNAL_PACKET (R52, R266): a new sequence is applied once, to an object from 28,672 on; every one is acknowledged, with the mark
where it names another object or is too old. -/
def execSignalPacket (s : State) : Out :=
  .next (match s.takeRx 3 with
    | none => s
    | some (f, t) =>
      let v := fieldLe f.inline_ 0 4
      let q : BitVec 16 := BitVec.ofNat 16 (fieldLe f.inline_ 4 2)
      let (k, w) := (Tab.get SigWin.reset t.vol.wins f.origin).take q
      let t : State := { t with vol := { t.vol with wins := Tab.set SigWin.reset t.vol.wins f.origin w } }
      let obj := bitsOf v 14 0
      let bad := decide (obj < 28672)
      let t := if k ≠ 0 then t else if bad then t.bump 0x0B0064 1 else t.signal obj (bitsOf v 31 15)
      t.sendFrame (t.inlineFrame f.origin 4 0 0 (List.replicate 4 0#8 ++ natLe 2 q.toNat ++ natLe 2 0 ++
        natLe 1 (b2n (bad || decide (k = 2))))))

/-- SIGACK (R52): the REMOTE.SIGNAL of the sequence ends with OK. -/
def execSigack (s : State) : Out :=
  .next (match s.takeRx 4 with
    | none => s
    | some (f, t) =>
      match t.vol.sigs.find? fun g => decide (g.seq = BitVec.ofNat 16 (fieldLe f.inline_ 4 2)) && decide (g.dest = f.origin) with
      | some g => t.endRemote g codeOk
      | none => t)

/-- SIGNAL_RESEND_TIMEOUT (R266): the same sequence goes out again. -/
def execSignalResendTimeout (seq : BitVec 16) (s : State) : Out :=
  .next (match s.vol.sigs.find? fun g => decide (g.seq = seq) with
    | some g => (s.bump 0x0B0058 1).sendFrame (s.signalFrame g)
    | none => s)

/-- REMOTE_SIGNAL_TIMEOUT (R67). -/
def execRemoteSignalTimeout (c : Ctx) (s : State) : Out :=
  .next (match s.vol.sigs.find? fun g => decide (g.c = c) with
    | some g => s.endRemote g codeTimeout
    | none => s)

/-! ### RECV.NET (R82, R101, R264) -/

/-- The most choices that may arrive for one half: the capacities of the active replica table on this chip, from every chip (R163;
log entry 93). -/
def State.mostChoices (s : State) : Nat :=
  if s.tbl.rep.active.isSome then s.capSum s.tbl.rep.bank * s.sysSize else 0

/-- Codes that end RECV.NET before its first input (R70, R92, R115, R264). -/
def recvNetCheck (s : State) (u : UCmd) : Option Byte :=
  lowest [(decide (u.queue ≠ s.rxQueue (u.queue % 2)), codeOffside), (decide (u.f.sub ≠ 1), codeFormat),
    (decide (u.descA.fmt ≠ RXI8), codeFormat), (decide (u.descA.rows < s.mostChoices), codeBounds)]

/-- RECV.NET takes a half's copies; in a replay it goes on behind the rows of the open instance that it had written (log
entry 23). -/
def recvNetStart (s : State) (u : UCmd) : UCmd × State :=
  ({ u with half := some (BitVec.ofNat 1 u.queue).toFin, row := s.vol.recvRows.getD (u.queue % 2) 0 }, s)

/-- The bytes of the RXI8 row of a choice: tag, per-token scale, codes (R95, R101). -/
def rxRow (tag : TagRec) (fmt cap : Nat) (els : List (List Byte)) : List Byte :=
  let vals := els.map fun e => elemVal fmt (leNat e)
  let sc := blockScale INT8 vals
  natLe 12 tag.bits.toNat ++ natLe 2 sc.toNat ++ List.replicate 50 0#8 ++
    (vals.take cap).flatMap fun v => natLe 1 (elemBits INT8 (fDiv v (bf16 sc)))

/-- The tags of a copy's choices, one row each, with the multi-expert flag clear (R26). -/
def CopyHead.tags (h : CopyHead) : List TagRec :=
  let t := { tagOf h.tag with multi := false }
  t :: h.exts.map fun v => { t with choice := bitsOf v 3 0, expert := bitsOf v 15 4, replica := bitsOf v 19 16
                                    weight := BitVec.ofNat 16 (bitsOf v 35 20) }

/-- The copy in a RECEIVE buffer becomes rows of the destination (R82). A copy whose format has no packed form is discarded as a
tag error, one with a poisoned line as a lost-contents fault (R305, R354). -/
def State.unpackCopy (s : State) (u : UCmd) (h : Half) (buf : Nat) : UCmd × State :=
  let d := u.descA
  let (hd, els) := s.copyAt buf
  match s.lostIn buf (64 * copyHeaderWords hd.choices + hd.plen) with
  | some l => (u, (s.lostRead l (some h)).freeRx buf)
  | none =>
  if !packable hd.fmt then (u, s.tagError.freeRx buf) else
  let tags := hd.tags
  let fit := (tags.zipIdx.map fun (t, j) => (t, u.row + j)).filter fun x => decide (x.2 < d.rows)
  let t := fit.foldl (fun t x =>
    let a := d.unitAddr x.2 0
    let t := t.setBytes a (rxRow x.1 hd.fmt (d.ext 0) els)
    { t with vol := { t.vol with rowBuf := Tab.set 0 t.vol.rowBuf a (buf + 1) } }) s
  let t := if fit = [] then t.freeRx buf
    else { t with vol := { t.vol with bufRefs := Tab.set 0 t.vol.bufRefs buf fit.length } }
  ({ u with row := u.row + tags.length }, t)

/-- Copies are taken from the receive queue while whole packets are there; those marked by a DISCARD are skipped (R25, R262).
Fuel bounds them. -/
def drainCopies (h : Half) : Nat → UCmd → State → UCmd × State
  | 0, u, s => (u, s)
  | n + 1, u, s =>
    match s.peekPacket u.queue with
    | none => (u, s)
    | some ws =>
      let t := (s.dropWords u.queue ws.length).flowOn u.queue
      let buf := match ws with | w :: _ => bitsOf w.data.toNat 367 320 | [] => 0
      if ws.any fun w => decide (w.kind ≠ 6#3) then drainCopies h n u t.malformed
      else if t.vol.skip.contains buf then
        drainCopies h n u ((({ t with vol := { t.vol with skip := t.vol.skip.erase buf } } : State).discarded h).freeRx buf)
      else let (v, t) := t.unpackCopy u h buf; drainCopies h n v t

/-- Every origin's arrival entry of a half is done (R264). -/
def State.allDone (s : State) (h : Nat) : Bool := (List.range s.sysSize).all fun o => (s.arrival h o).done

/-- A packet of the early queue passes R262 for the instance that is now open (R264): a copy that a DISCARD marked is skipped, and a
packet of another kind is malformed (R208). -/
def State.replayCopy (s : State) (h : Half) (ws : List QWord) : State :=
  let buf := match ws with | w :: _ => bitsOf w.data.toNat 367 320 | [] => 0
  if ws.any fun w => decide (w.kind ≠ 6#3) then s.malformed
  else if s.vol.skip.contains buf then
    (({ s with vol := { s.vol with skip := s.vol.skip.erase buf } } : State).discarded h).freeRx buf
  else s.copyOpen h (tagOf (s.num buf 12)).origin buf

/-- A held notice passes R262 for the instance that is now open. -/
def State.replayNotice (s : State) (h : Half) (e : EarlyEoh) : State :=
  if e.discard then s.discardOpen h e.origin e.batch e.gen else s.eohOpen h e.origin e.batch e.gen e.count

/-- Early packets and notices are processed in the order in which they arrived: a notice comes once no packet that arrived before it
is left. Fuel bounds them. -/
def replayEarly (h : Half) : Nat → List (List QWord) → List EarlyEoh → State → State
  | 0, _, _, s => s
  | n + 1, ps, es, s =>
    let left := ps.filterMap fun ws => ws.head?.map fun w => bitsOf w.data.toNat 367 320
    match es, ps with
    | e :: es', _ =>
      if e.ahead.all fun b => !left.contains b then replayEarly h n ps es' (s.replayNotice h e)
      else (match ps with
        | ws :: ps' => replayEarly h n ps' es (s.replayCopy h ws)
        | [] => s)
    | [], ws :: ps' => replayEarly h n ps' [] (s.replayCopy h ws)
    | [], [] => s

/-- Words cut into packets at their end marks; words behind the last one are none. -/
def packetsOf (ws : List QWord) : List (List QWord) :=
  (ws.foldl (fun (acc : List (List QWord) × List QWord) w =>
    if w.last then (acc.1 ++ [acc.2 ++ [w]], []) else (acc.1, acc.2 ++ [w])) ([], [])).1

/-- The half is complete (R264): the open instance advances, its entries become fresh, and what came early is processed. -/
def State.openNext (s : State) (h : Half) : State :=
  let q := s.earlyQueue h.val
  let ps := packetsOf (s.allWords q)
  let es := s.vol.earlyEoh.filter fun e => decide (e.half = h)
  let t : State := { s with flow := Tab.set [] s.flow q [], vol := { s.vol with
    openInst := s.vol.openInst.set h.val (s.openInst h.val + 1), recvRows := s.vol.recvRows.set h.val 0
    earlyEoh := s.vol.earlyEoh.filter fun e => decide (e.half ≠ h)
    arrivals := s.vol.arrivals.filter fun e => decide (e.1 / 8192 ≠ h.val) } }
  replayEarly h (ps.length + es.length) ps es (t.dropWords q (s.queueWords q).length)

/-- What Volley does for a started RECV.NET. -/
def recvNetWork (s : State) (u : UCmd) : UCmd × State :=
  match u.half with
  | none => (u, s)
  | some h =>
    let (u, s) := drainCopies h ((s.allWords u.queue).length + 1) u s
    let s : State := { s with vol := { s.vol with recvRows := s.vol.recvRows.set h.val u.row } }
    if !s.allDone h.val then (u, s)
    else
      let t := s.openNext h
      ({ u with out := some (Min.min u.row u.descA.rows), value := BitVec.ofNat 64 u.row },
       { t with reb := { t.reb with nets := t.reb.nets ++ [⟨u.slotA, h, u.row, false⟩] } })

/-- Volley's pass over a RECV.NET. -/
def recvNetRun (s : State) (u : UCmd) : State := s.drive u recvNetCheck recvNetStart recvNetWork

/-- RECV.NET (R82). -/
def execRecvNet (c : Ctx) (f : Fields) (s : State) : Out := .next (s.issueUnit c (.recvNet c f) f recvNetRun)

/-! ### Instances (R265) -/

/-- A write of `VOL_INSTCLR.GO`. -/
def State.instClear (s : State) : Byte × State :=
  if !s.idle then (codeOffside, s)
  else (codeOk, { s with vol := { s.vol with
    openInst := [0, 0], sendInst := [0, 0], arrivals := [], reach := [], recvRows := [0, 0] } })

/-- VOL_INSTCLR (R265, R270). -/
def execVolInstclr (s : State) : Out := .next (s.hostWrite 0x0B002C State.instClear)

/-! ### Lanes, ports and the bench (R267 to R269) -/

/-- Physical lanes that have not failed. -/
def Port.good (p : Port) : List Nat := (List.range 18).filter fun i => !p.bad.contains i

/-- Bench ports that hold no logical port and are not marked out (R268, R329). -/
def State.benchPorts (s : State) : List Nat :=
  (List.range 4).filter fun b => !s.marked 6 (64 + b) && s.vol.ports.all fun p => decide (p.2.spare ≠ some b)

/-- LANE_FAIL (R267): a port that uses the lane leaves service to retrain. -/
def execLaneFail (l : Fin 64) (lane : Fin 18) (s : State) : Out :=
  let p := s.port l.val
  .next (if s.nLink ≤ l.val || p.bad.contains lane.val then s else
    let t := s.setPort l.val { p with bad := p.bad ++ [lane.val] }
    if p.up && p.lmap.contains lane.val then t.portDown l.val 4 else t)

/-- Failed lanes of a map give way to good ones that the map does not use. -/
def remapLanes (good : List Nat) (m : List Nat) : List Nat :=
  (m.foldl (fun (acc : List Nat × List Nat) i =>
    if good.contains i then (acc.1 ++ [i], acc.2)
    else match acc.2 with
      | j :: rest => (acc.1 ++ [j], rest)
      | [] => (acc.1 ++ [i], [])) ([], good.filter fun i => !m.contains i)).1

/-- Failed lanes of a physical port enter the standing record (R329). -/
def State.markLanes (s : State) (phys : Nat) (bad : List Nat) : State :=
  let k := imgStanding + 29 + phys
  let v := BitVec.ofNat 32 (bad.foldl (fun v i => putBits v i i 1) (s.img k).toNat)
  if v = s.img k then s else s.setImg k v

/-- The physical port that serves a logical one. -/
def State.physOf (s : State) (l : Nat) : Nat := match (s.port l).spare with | some b => 64 + b | none => l

/-- PORT_RETRAIN_DONE (R267, R269): with 16 good lanes the port returns to service, a spare lane in place of a failed one; short of
that it waits for a bench port, or with none free runs at half width on 8 lanes, or leaves service. -/
def execPortRetrainDone (l : Fin 64) (s : State) : Out :=
  let p := s.port l.val
  .next (if p.st ≠ 4 then s
    else if 16 ≤ p.good.length then
      (((s.markLanes (s.physOf l.val) p.bad).setPort l.val { p with lmap := remapLanes p.good p.lmap, lanes := 16 }).portState
        l.val 2).retryStuck
    else if s.benchPorts ≠ [] then s
    else if 8 ≤ p.good.length then
      ((s.setPort l.val { p with lmap := p.good.take 8, lanes := 8 }).portState l.val 3).retryStuck
    else s.portState l.val 5)

/-- A bench port takes the logical index of a failed port, link sequences beginning again; the failed physical port is marked out,
and an EVENT entry names it (R268, R338). -/
def State.portSubst (s : State) (l : Nat) : State :=
  let p := s.port l
  let phys := s.physOf l
  match s.benchPorts with
  | b :: _ =>
    if p.st ≠ 4 || decide (16 ≤ p.good.length) then s else
    let t := s.setPort l { Port.reset with st := 4, spare := some b, lanes := 16, lmap := List.range 16, rxCells := p.rxCells
                                           grants := BitVec.ofNat 32 (1792 - p.rxCells) }
    (((t.markOut 6 phys).logEvent 0 (BitVec.ofNat 16 (4 * 4096 + phys))).portState l 2).retryStuck
  | [] => s

/-- PORT_SUBSTITUTION (R268). -/
def execPortSubstitution (l : Fin 64) (s : State) : Out := .next (s.portSubst l.val)

/-- A write of `VOL_PCTRL` of a port (R269, R272). -/
def State.portCtrl (s : State) (l : Nat) (out : Bool) : Byte × State :=
  if s.nLink ≤ l then (codeOk, s) else
  let t := s.liveWrite (0x0B101C + 0x40 * l) (BitVec.ofNat 32 (b2n out))
  let p := t.port l
  if out then (codeOk, if p.st = 5 then t else t.portDown l 5)
  else (codeOk, if p.st = 5 then t.portState l 4 else t)

/-- PORT_OUT_WRITE (R272). -/
def execPortOutWrite (l : Fin 64) (out : Bool) (s : State) : Out :=
  .next (s.hostWrite (0x0B101C + 0x40 * l.val) fun t => t.portCtrl l.val out)

end Sys2Proof.Machine
end

