-- ==== Sys2Proof/Machine/Kickoff.lean ====
section
/-! DEFINITION. Resets (R321 to R323), kickoff steps K0 to K8 (R324 to R326), the non-volatile store (R327, R328), the retry
policy (R331, R332), and the Referee registers of R333 and R334. -/

namespace Sys2Proof.Machine

/-! ### Resets (R321 to R323) -/

/-- Host-window registers whose values a warm reset keeps (R321). -/
def warmKept : List Nat := [0x106C, 0x0E000C, 0x0E0010, 0x0E0014, 0x0E0018]

/-- A word write that a reset interrupts has either taken place or not (R327): a free value. -/
def State.tearWrite (s : State) : State :=
  match s.kick.nvsq with
  | [] => s
  | (w, v) :: _ =>
    let (k, t) := s.draw
    { t with kick := { t.kick with nvsq := []
                                   nvs := if Config.flowKey k 0 % 2 = 1 then Tab.set 0#32 t.kick.nvs w v else t.kick.nvs } }

/-- Everything on the block takes its reset value but what survives: nothing but the fuse of the grade in a power-on reset, and
in the other kinds also the image copy and the registers of `warmKept`. The stacks and the store are outside the block. That a stack
was LOST is kept for the next K4 (R306; log entry 95). -/
def State.toReset (s : State) (warm : Bool) : State :=
  let t := s.tearWrite
  let regs := if warm then t.regs.filter fun p => warmKept.contains p.1 else []
  { State.reset with
    pending := t.pending, gradeB := t.gradeB, regs := regs, mem := t.mem, free := t.free
    kick := { Kickoff.reset with
      img := if warm then t.kick.img else [], nvs := t.kick.nvs, readImage := !warm, power := false, warm := false
      lostStk := (List.range 20).filter fun k => t.kick.lostStk.contains k || decide ((t.stack k).st = 3) } }

/-- POWER_ON_RESET (R321, R322): `PORST_N` falls. -/
def execPowerOnReset (s : State) : Out :=
  let t := s.toReset false
  .next { t with kick := { t.kick with power := true, warm := s.kick.warm } }

/-- WARM_RESET (R321 to R323): `WARM_RST_N` falls; a power-on reset that is still in force stands. -/
def execWarmReset (s : State) : Out :=
  let t := if s.kick.st = 0 then s else s.toReset true
  .next { t with kick := { t.kick with power := s.kick.power, warm := true } }

/-- Kickoff begins with K0. -/
def State.begin (s : State) : State := { s with kick := { s.kick with st := 1, step := 0, persist := true } }

/-- RESET_RELEASE (R322, R323): the named pins rise; once both are high K0 begins. -/
def execResetRelease (power warm : Bool) (s : State) : Out :=
  let p := s.kick.power && !power
  let w := s.kick.warm && !warm
  let t : State := { s with kick := { s.kick with power := p, warm := w } }
  .next (if s.kick.st = 0 ∧ !p ∧ !w then t.begin else t)

/-- Word writes that wait for the store are carried out. -/
def State.flushNvs (s : State) : State :=
  { s with kick := { s.kick with nvs := s.kick.nvsq.foldl (fun m (w, v) => Tab.set 0#32 m w v) s.kick.nvs, nvsq := [] } }

/-- LOCK_LOSS (R318): the event is logged, then the engine resets and starts as from a warm reset. -/
def execLockLoss (s : State) : Out :=
  .next (if s.kick.st < 2 then s else (((s.logEvent 0x05 0).flushNvs).toReset true).begin)

/-! ### The retry policy (R331, R332) -/

/-- Valid log entries, newest first: sequence and bytes. -/
def State.logList (s : State) : List (Nat × List Byte) :=
  let ins (x : Nat × List Byte) (l : List (Nat × List Byte)) : List (Nat × List Byte) :=
    (l.takeWhile fun y => decide (x.1 < y.1)) ++ x :: l.dropWhile fun y => decide (x.1 < y.1)
  (((List.range 64).map fun i => (s.logSeq i, s.logBytes i)).filter fun p => decide (p.1 ≠ 0)).foldr ins []

/-- Kickoffs, one before the other, whose last entry is STOPPED with the same step, cause and item; `prev` is the kickoff
counted last (R331). -/
def walkBack (n : Nat) (cause : Byte) (item : BitVec 16) : Option Nat → List (Nat × List Byte) → Nat
  | _, [] => 0
  | prev, (_, bs) :: l =>
    let count := fieldLe bs 4 2
    if fieldLe bs 6 1 / 16 = 6 then 0
    else if prev = some count then walkBack n cause item prev l
    else if fieldLe bs 6 1 = n + 64 ∧ bs.getD 7 0 = cause ∧ fieldLe bs 8 2 = item.toNat then
      1 + walkBack n cause item (some count) l
    else 0

/-- The repeat count of a failure (R331): entries of the current kickoff are passed over, but for a FORGET. -/
def State.repeats (s : State) (n : Nat) (cause : Byte) (item : BitVec 16) : Nat :=
  walkBack n cause item none (s.logList.filter fun p =>
    decide (fieldLe p.2 4 2 ≠ s.kickCount) || decide (fieldLe p.2 6 1 / 16 = 6))

/-- First action, later action and threshold of the default policy (R332): 1 SKIP, 2 ALTER, 3 STOP. -/
def defaultPolicy (cause : Nat) : Nat × Nat × Nat :=
  if [0x03, 0x10].contains cause then (2, 3, 2)
  else if [0x20, 0x30, 0x53].contains cause then (1, 1, 0)
  else if [0x40, 0x41, 0x50, 0x51].contains cause then (2, 1, 1)
  else if [0x52, 0x80].contains cause then (2, 2, 0)
  else if [0x60, 0x70].contains cause then (2, 3, 1)
  else (3, 3, 0)

/-- The policy for a step and a cause (R331): the first valid entry of the table that matches, else the default. -/
def State.policyFor (s : State) (n : Nat) (cause : Byte) : Nat × Nat × Nat :=
  let hit := (List.range 128).find? fun i =>
    let v := (s.img (imgPolicy + i)).toNat
    bitOf v 31 && decide (bitsOf v 15 12 ≠ 0) && (decide (bitsOf v 3 0 = n) || decide (bitsOf v 3 0 = 15)) &&
      (decide (bitsOf v 11 4 = cause.toNat) || decide (bitsOf v 11 4 = 0xFF))
  match hit with
  | some i => let v := (s.img (imgPolicy + i)).toNat
              (bitsOf v 15 12, bitsOf v 19 16, bitsOf v 23 20)
  | none => defaultPolicy cause.toNat

/-- Kickoff stops at a step (R332): the entry, `REF_KSTAT`, `REF_KITEM` and the kickoff interrupt. -/
def State.stopKick (s : State) (n : Nat) (f : KFail) (action rpt : Nat) : State :=
  let t := s.logEntry ⟨n, 4, f.cause, f.item, action, Min.min rpt 255, []⟩
  ({ t with kick := { t.kick with st := 3, stopStep := n, cause := f.cause, item := f.item } } : State).raiseInt 0

/-- A step fails on an item (R331, R332): the action of the policy, if the step offers it and its run passes, else a stop. The
number is that of the action which passed, 0 for a stop. -/
def State.kFail (s : State) (n : Nat) (f : KFail) (canSkip canAlter : Bool) : Nat × State :=
  if s.kick.st ≠ 1 then (0, s) else
  let rpt := s.repeats n f.cause f.item
  let (a, b, k) := s.policyFor n f.cause
  let act := if rpt < k then a else b
  let entry (o : Nat) : State := s.logEntry ⟨n, o, f.cause, f.item, act, Min.min rpt 255, []⟩
  if act = 1 ∧ canSkip then (1, entry 2)
  else if act = 2 ∧ canAlter then (if f.retryOk then (2, entry 3) else (0, s.stopKick n f 2 rpt))
  else (0, s.stopKick n f 3 rpt)

/-- The step has passed, or passed after repairs that need no policy; the next may begin. -/
def State.kPass (s : State) (n : Nat) (repaired : Bool) (detail : List Byte) : State :=
  if s.kick.st ≠ 1 then s else
  let t := s.logEntry ⟨n, b2n repaired, 0, 0, 0, 0, detail⟩
  { t with kick := { t.kick with step := n + 1, tried := [], note := 0 } }

/-- Step `n` may run: kickoff has come to it, and the entries of the step before it are persisted (R324). -/
def State.kReady (s : State) (n : Nat) : Bool :=
  decide (s.kick.st = 1) && decide (s.kick.step = n) && s.kick.nvsq.isEmpty

/-- A failure already answered by the policy in this step. -/
def State.answered (s : State) (cause : Byte) : Bool := s.kick.tried.contains cause
def State.answer (s : State) (cause : Byte) : State := { s with kick := { s.kick with tried := s.kick.tried ++ [cause] } }

/-! ### K0 (R325, R328) -/

/-- An empty image with kickoff count 0 is written (R328). -/
def State.emptyImage (s : State) : State :=
  let words := (s.kick.img ++ s.kick.nvs).map (·.1)
  let t : State := { s with kick := { s.kick with img := [] } }
  let t := words.foldl (fun t w => if 2 ≤ w ∧ w < 2048 ∧ Tab.get 0#32 t.kick.nvs w ≠ 0 then t.setImg w 0 else t) t
  (t.setImg 0 0x4C4B4450#32).setImg 1 1#32

/-- The image that has been read is replaced when it is not one, the kickoff is counted, and the marks of the record act from now on;
once in a K0. -/
def State.readAndCount (s : State) : State :=
  if s.kick.note = 1 then s else
  let t := if s.imgOk then s else (s.emptyImage).answer 0xFE
  let t := (t.setImg 2 (BitVec.ofNat 32 (putBits (t.img 2).toNat 15 0 (t.kickCount + 1)))).takeMarks
  { t with kick := { t.kick with note := 1 } }

/-- The image cannot be read (cause 0x04): the policy is that of the words read so far. With ALTER the engine goes on with an empty
on-block image, whose first kickoff this is, and no persistence (R332). -/
def State.imageLost (s : State) : State :=
  let (a, t) := s.kFail 0 ⟨0x04, 0, true⟩ false true
  if a ≠ 2 then t else
  let e : State := { s with kick := { s.kick with
    img := [(0, 0x4C4B4450#32), (1, 1#32), (2, 1#32)], nvsq := [], persist := false, wrerr := true, note := 1, marks := [] } }
  (e.logEntry ⟨0, 3, 0x04, 0, 2, Min.min (s.repeats 0 0x04 0) 255, []⟩).answer 0x04

/-- The PLL has not reported lock in time (cause 0x03): with ALTER it locks with the alternate loop bandwidth. -/
def State.lockFail (s : State) (altOk : Bool) : State :=
  (s.kFail 0 ⟨0x03, 0, altOk⟩ false true).2.answer 0x03

/-- A lock that was missed while the image was being read is dealt with once the policy can be read. -/
def State.lateLock (s : State) : State :=
  match s.kick.lockMiss with
  | some ok => ({ s with kick := { s.kick with lockMiss := none } } : State).lockFail ok
  | none => s

/-- KICKOFF_K0 (R325): it passes once the image has been read, or its reading has failed. -/
def execKickoffK0 (i : K0In) (s : State) : Out :=
  .next (if !s.kReady 0 ∨ (s.reading ∧ i.readOk) ∨ (7812 < i.lockTime.toNat ∧ !s.answered 0x03 ∧ s.kick.lockMiss = none) then s else
    let t := if s.answered 0x04 then s else if s.kick.readImage ∧ !i.readOk then s.imageLost else s.readAndCount
    let t := t.lateLock
    let t := if i.count = 0 then (t.kFail 0 ⟨0x01, 0, false⟩ false false).2
      else if i.hertz < 154687500 ∨ 157812500 < i.hertz then (t.kFail 0 ⟨0x02, 0, false⟩ false false).2
      else t
    let first := if t.answered 0xFE then 1 else i.count.toNat
    let t := t.kPass 0 false (natLe 4 first ++ natLe 4 i.lockTime.toNat)
    { t with kick := { t.kick with locked := decide (t.kick.st = 1), readImage := false } })

/-- PLL_LOCK_TIMEOUT (R325): cause 0x03, dealt with at the end of the image's reading when that still goes on. -/
def execPllLockTimeout (altOk : Bool) (s : State) : Out :=
  .next (if !s.kReady 0 ∨ s.answered 0x03 then s
    else if s.reading then { s with kick := { s.kick with lockMiss := some altOk } }
    else (s.readAndCount).lockFail altOk)

/-! ### The store port (R327) -/

/-- NVS_COMMAND_DONE (R327): the word that K0 reads is there, or the word write at the front is durable. -/
def execNvsCommandDone (rdata : Word) (s : State) : Out :=
  .next (if s.reading then { s with kick := { s.kick with img := Tab.set 0#32 s.kick.img s.kick.rd rdata, rd := s.kick.rd + 1 } }
    else match s.kick.nvsq with
    | [] => s
    | (w, v) :: l => { s with kick := { s.kick with nvs := Tab.set 0#32 s.kick.nvs w v, nvsq := l } })

/-- Persistence ends for this run (R332). -/
def State.persistOff (s : State) : State := { s with kick := { s.kick with persist := false, wrerr := true, nvsq := [] } }

/-- NVS_TIMEOUT (R325, R332): in K0's read of the image cause 0x04; for a write, which is given up, cause 0x80, whose ALTER goes on
without persistence. In service the same is done whatever the policy says. -/
def execNvsTimeout (s : State) : Out :=
  .next (if s.reading then s.imageLost
    else match s.kick.nvsq with
    | [] => s
    | _ :: l =>
      let f : State := { s with kick := { s.kick with nvsq := l, wrerr := true } }
      if s.kick.st ≠ 1 then f.persistOff else
      let (a, t) := f.kFail s.kick.step ⟨0x80, 0, true⟩ false true
      if a = 2 then t.persistOff else t)

/-! ### K1 (R319, R325) -/

/-- This start follows `SPM_IN`. -/
def State.follows (s : State) : Bool := decide (s.fld 0x106C 0 0 = 1) && !s.kick.alone

/-- KICKOFF_K1 (R325): the superperiod count starts at 0 (R316). -/
def execKickoffK1 (i : K1In) (s : State) : Out :=
  .next (if !s.kReady 1 then s else
    let t := if i.phaseOk then s else (s.kFail 1 ⟨0x10, 0, i.retryOk⟩ false true).2
    if t.kick.st ≠ 1 then t else
    let t := t.kPass 1 false []
    { t with spcnt := 0, kick := { t.kick with aligned := true, spmok := t.follows } })

/-- SPM_MARKER_TIMEOUT (R325): cause 0x11; with ALTER the engine goes on alone. -/
def execSpmMarkerTimeout (s : State) : Out :=
  .next (if !s.kReady 1 ∨ !s.follows then s else
    let (a, t) := s.kFail 1 ⟨0x11, 0, true⟩ false true
    if a = 2 then { t with kick := { t.kick with alone := true } } else t)

/-- SPM_MARKER (R319): an edge that does not come OFFSET RCLK before the follower's boundary is a miss. -/
def execSpmMarker (early : BitVec 7) (s : State) : Out :=
  .next (if !s.follows ∨ !s.kick.aligned ∨ early.toNat = Min.min 79 (s.fld 0x106C 7 1) then s
    else ({ s with kick := { s.kick with spmok := false } } : State).bump 0x1070 1 |>.raiseFlag 16 1)

/-! ### K2 and K3 (R325, R326) -/

/-- The unit that an item names is marked out in the standing record; none when the item is no unit with a bench. -/
def State.markItem (s : State) (item : BitVec 16) : Option State :=
  let u := item.toNat % 4096
  match item.toNat / 4096 with
  | 1 => some (s.markOut 0 u)
  | 2 => some (s.markOut 3 u)
  | 3 => some (s.markOut 4 u)
  | 4 => some (s.markOut 6 u)
  | _ => none

/-- A unit fails in K2 or K3: with SKIP it is marked out. -/
def State.unitFail (n : Nat) (s : State) (f : KFail) : State :=
  let ok := (decide (f.cause = 0x20#8) || decide (f.cause = 0x30#8)) && (s.markItem f.item).isSome
  let (a, t) := s.kFail n f ok false
  if a = 1 then (t.markItem f.item).getD t else t

/-- KICKOFF_K2 (R325): an item of cause 0 is a macro that its redundancy repaired. -/
def execKickoffK2 (fails : List KFail) (s : State) : Out :=
  .next (if !s.kReady 2 then s else
    ((fails.filter fun f => decide (f.cause ≠ 0)).foldl (State.unitFail 2) s).kPass 2 (fails.any fun f => decide (f.cause = 0)) [])

/-- Item classes of the units with a bench in K3, logical units, first bench unit, bench units, and first mark word (R3, R329). -/
def State.unitClasses (s : State) : List (Nat × Nat × Nat × Nat × Nat) :=
  [(1, s.nTile, 64, 4, 0), (2, s.nScout, 16, 1, 3), (3, s.nSeq, 32, 2, 4)]

/-- Logical indices of a class that do not hold their own physical unit, with the bench units that they hold (R326); none when
too few units are good. -/
def State.assign (s : State) (w bench : Nat) : Nat → List Nat → Option (List (Nat × Nat))
  | 0, _ => some []
  | n + 1, free =>
    match State.assign s w bench n free with
    | none => none
    | some l =>
      if !s.marked w n then some l
      else match free.find? fun b => l.all fun p => decide (p.2 ≠ b) with
        | some b => some (l ++ [(n, b)])
        | none => none

/-- The logical indices of one class are assigned; too few good units are cause 0x31. The flag says that a bench unit serves. -/
def State.assignClass (acc : Bool × State) (c : Nat × Nat × Nat × Nat × Nat) : Bool × State :=
  let (cls, n, bench, k, w) := c
  let s := acc.2
  if s.kick.st ≠ 1 then acc else
  let free := ((List.range k).map (· + bench)).filter fun b => !s.marked w b
  match s.assign w bench n free with
  | none => (acc.1, (s.kFail 3 ⟨0x31, BitVec.ofNat 16 (4096 * cls), false⟩ false false).2)
  | some l => (acc.1 || !l.isEmpty,
      { s with ref := { s.ref with phys := l.foldl (fun m p => Tab.set none m (64 * cls + p.1) (some p.2)) s.ref.phys } })

/-- KICKOFF_K3 (R325, R326). A bench unit that serves for a unit marked out before is a repair that needs no policy (R330). -/
def execKickoffK3 (fails : List KFail) (s : State) : Out :=
  .next (if !s.kReady 3 then s else
    let (_, before) := s.unitClasses.foldl State.assignClass (false, s)
    let t := fails.foldl (State.unitFail 3) s
    (t.unitClasses.foldl State.assignClass (false, t)).2.kPass 3 (decide (before.ref.phys ≠ [])) [])

/-! ### K4 (R304, R306, R312, R325) -/

/-- The spare of stack `k` takes pseudo-channel `p` over, whose contents are lost: TAKEOVER is sent, and the spare is ready when its
controller says so (R304). -/
def State.spareAtStart (s : State) (k p : Nat) : State :=
  ((s.setStack k { s.stack k with st := 2, spare := p, spareReady := false }).loseChan (32 * k + p)).maintAdd
    ⟨false, k, p, 0x30, BitVec.ofNat 32 p, 0, false, none⟩

/-- Stack `k` needs a second spare (cause 0x42). -/
def State.stackLost (s : State) (k : Nat) : State := (s.kFail 4 ⟨0x42, BitVec.ofNat 16 (9 * 4096 + k), false⟩ false false).2

/-- A pseudo-channel that fails training or margining: with SKIP it is taken over, and a second one of its stack is cause
0x42. A spare that serves no channel is put out of use (log entry 95). -/
def State.chanFail (s : State) (f : KFail) : State :=
  let u := f.item.toNat % 4096
  let k := u / 33
  let p := u % 33
  let (a, t) := s.kFail 4 f (decide (f.item.toNat / 4096 = 6)) true
  if a ≠ 1 then t
  else if (t.stack k).st = 2 ∨ (t.stack k).noSpare then t.stackLost k
  else if p = 32 then t.setStack k { t.stack k with noSpare := true }
  else (t.spareAtStart k p).setImg (imgStanding + 9 + k) (BitVec.ofNat 32 (p + 2 ^ 31))

/-- Recorded takeovers are sent again, and the stacks enter service; one that was LOST when the last run ended is cause 0x42
(R306). -/
def State.startStacks (s : State) : State :=
  let t := (List.range 20).foldl (fun t k =>
    let v := (t.img (imgStanding + 9 + k)).toNat
    let t := t.setStack k ⟨1, 0, false, false⟩
    if bitOf v 31 then t.spareAtStart k (bitsOf v 4 0) else t) s
  s.kick.lostStk.foldl State.stackLost { t with kick := { t.kick with lostStk := [] } }

/-- A stack's lowest margins lie below `REF_MARGIN_MIN`. -/
def State.marginLow (s : State) (i : K4In) (k : Nat) : Bool :=
  decide ((i.marginT.getD k 0).toNat < s.fld 0x0E0018 7 0) || decide ((i.marginV.getD k 0).toNat < s.fld 0x0E0018 15 8)

/-- KICKOFF_K4 (R325): cause 0x41 needs a margin below its limit, and a low margin of a stack without a named channel fails
the stack. -/
def execKickoffK4 (i : K4In) (s : State) : Out :=
  .next (if !s.kReady 4 then s else
    let n := i.lines.headD 0
    let t := s.startStacks
    let t := if i.lines.all fun x => decide (x = n) then t else (t.kFail 4 ⟨0x44, 0, false⟩ false false).2
    let t : State := { t with mp := { t.mp with nlines := n % 2 ^ 23 } }
    let named (k : Nat) : Bool := i.fails.any fun f => decide (f.item.toNat % 4096 / 33 = k)
    let low := ((List.range 20).filter fun k => s.marginLow i k && !named k).map fun k =>
      (⟨0x41, BitVec.ofNat 16 (9 * 4096 + k), false⟩ : KFail)
    let fails := (i.fails.filter fun f => decide (f.cause ≠ 0x41#8) || s.marginLow i (f.item.toNat % 4096 / 33)) ++ low
    let t := fails.foldl State.chanFail t
    let t := if t.quarList.length < 256 then t else (t.kFail 4 ⟨0x43, 0, false⟩ true false).2
    let det := (List.range 20).flatMap fun k => [i.marginT.getD k 0, i.marginV.getD k 0]
    t.kPass 4 false det)

/-! ### K5 (R267 to R269, R325, R326) -/

/-- Failed lanes of a physical port: those of the standing record and those found now. -/
def State.badLanes (s : State) (i : K5In) (p : Nat) : List Nat :=
  let now := (i.lanes.filter fun x => decide (x.1 = p)).foldl (fun v x => v ||| x.2) 0#18
  (List.range 18).filter fun j => bitOf (s.img (imgStanding + 29 + p)).toNat j || now.getLsbD j

/-- Physical port `p` enters service as logical port `l`; `down` searches the lanes from 17 downward, `half` uses 8. -/
def State.servePort (s : State) (l p : Nat) (bad : List Nat) (down half : Bool) : State :=
  let good := (List.range 18).filter fun j => !bad.contains j
  let m := if half then good.take 8 else if down then good.reverse.take 16 else remapLanes good (List.range 16)
  let q : Port := { Port.reset with spare := if 64 ≤ p then some (p - 64) else none, lanes := m.length, lmap := m, bad := bad
                                    grants := 1792 }
  ((s.markLanes p bad).setPort l q).portState l (if half then 3 else 2)

/-- The failure that a physical port shows in K5: causes 0x54, 0x50 and 0x51, in this order of their checks. -/
def linkFail (i : K5In) (p : Nat) (bad : List Nat) : Option KFail :=
  let item : BitVec 16 := BitVec.ofNat 16 (4 * 4096 + p)
  let listed (c : Byte) : Option KFail := i.fails.find? fun f => decide (f.cause = c) && decide (f.item = item)
  match listed 0x54 with
  | some f => some f
  | none =>
    if 2 < bad.length then some ((listed 0x50).getD ⟨0x50, item, false⟩)
    else listed 0x51

/-- Logical port `l` trains, on its own physical port or on the bench; fuel bounds the bench ports tried. -/
def State.trainPort (i : K5In) (l : Nat) : Nat → State → State
  | 0, s => s
  | k + 1, s =>
    if s.kick.st ≠ 1 ∨ (s.port l).st ≠ 0 then s else
    let cand : Option Nat := if s.marked 6 l then s.benchPorts.head?.map (64 + ·) else some l
    match cand with
    | none =>
      let bad := s.badLanes i l
      let (a, t) := s.kFail 5 ⟨0x52, BitVec.ofNat 16 (4 * 4096 + l), decide (bad.length ≤ 10)⟩ false true
      if a = 2 then t.servePort l l bad false true else t
    | some p =>
      let bad := s.badLanes i p
      match linkFail i p bad with
      | none => s.servePort l p bad false false
      | some f =>
        let lanes := decide (f.cause ≠ 0x54#8)
        let (a, t) := s.kFail 5 f lanes lanes
        if a = 2 then t.servePort l p bad true false
        else if a = 1 then State.trainPort i l k (t.markOut 6 p)
        else t

/-- A spare lane within the port serves for a failed one (R330). -/
def Port.laneRepair (p : Port) : Bool := decide (p.bad.length ≤ 2) && p.bad.any fun i => decide (i < 16)

/-- KICKOFF_K5 (R325). A follower takes its superperiod count from its partner, the link of the pair being up (R319). A spare lane, or a bench port for one that was marked out before, is a repair that needs no policy. -/
def execKickoffK5 (i : K5In) (s : State) : Out :=
  .next (if !s.kReady 5 then s else
    let t := (List.range s.nLink).foldl (fun t l => State.trainPort i l 6 t) s
    let t := if t.follows ∧ (t.port (t.fld 0x0B0014 5 0)).up then { t with spcnt := i.partner } else t
    t.kPass 5 ((List.range s.nLink).any fun l => (t.port l).up && (s.marked 6 l || (t.port l).laneRepair)) [])

/-- LINK_PARTNER_TIMEOUT (R325): cause 0x53; with SKIP the port stays out of service, with no mark. -/
def execLinkPartnerTimeout (l : Fin 64) (s : State) : Out :=
  .next (if !s.kReady 5 ∨ s.nLink ≤ l.val ∨ (s.port l.val).st ≠ 0 then s else
    let (a, t) := s.kFail 5 ⟨0x53, BitVec.ofNat 16 (4 * 4096 + l.val), false⟩ true false
    if a = 1 then t.setPort l.val { t.port l.val with st := 5 } else t)

/-! ### K6 to K8 (R325) -/

/-- The Briale digest of the vendor areas. -/
def vendorDigest : DWord :=
  bdig (([(0x41000, 0x400), (0x42000, 0x4000), (0x4A000, 0x2000), (0x4E000, 0x20000)] : List (Nat × Nat)).flatMap fun (a, n) =>
    (List.range n).map fun j => Config.vendor (a + j))

/-- A load or a table fails its check: with ALTER it is done again. -/
def State.loadFail (n : Nat) (s : State) (f : KFail) : State := (s.kFail n f false true).2

/-- KICKOFF_K6 (R325, R136): the Dywason set is loaded and the behaviour identity written. -/
def execKickoffK6 (fails : List KFail) (s : State) : Out :=
  .next (if !s.kReady 6 then s else
    let t := fails.foldl (State.loadFail 6) s
    if t.kick.st ≠ 1 then t else
    let t := ({ t with tbl := { t.tbl with rom := true } } : State).setReg 0x10 Config.behaviourId
    t.kPass 6 false (natLe 8 vendorDigest.toNat ++ natLe 4 Config.behaviourId.toNat))

/-- The default contents (R325). -/
def Tables.defaults (t : Tables) : Tables :=
  let eps := natLe 4 0x3727C5AC
  { Tables.reset with
    rom := t.rom, sfu := ⟨some 0, 0, false, false⟩, bias := ⟨some 0, 0, false, false⟩
    sfuMem := bytesWrite (bytesWrite [] 0 eps) 1048576 eps }

/-- KICKOFF_K7 (R325). -/
def execKickoffK7 (fails : List KFail) (s : State) : Out :=
  .next (if !s.kReady 7 then s else
    let t := fails.foldl (State.loadFail 7) s
    if t.kick.st ≠ 1 then t else
    ((({ t with tbl := t.tbl.defaults, queues := [], pools := [], slots := [], sync := [] } : State).newProgramDigest).kPass
      7 false []))

/-- KICKOFF_K8 (R325): service, or test hold; the kickoff interrupt. -/
def execKickoffK8 (s : State) : Out :=
  .next (if !s.kReady 8 then s else
    let t := s.kPass 8 false []
    ({ t with kick := { t.kick with st := if s.fld 0x0E000C 0 0 = 1 then 4 else 2, step := 8 } } : State).raiseInt 0)

/-! ### Referee kickoff registers (R333, R334) -/

/-- RELEASE: from test hold to service. -/
def State.kctlRelease (s : State) : Byte × State :=
  if s.kick.st = 4 then (codeOk, { s with kick := { s.kick with st := 2 } }) else (codeOffside, s)

/-- KCTL_RELEASE (R333). -/
def execKctlRelease (s : State) : Out := .next (s.hostWrite 0x0E000C State.kctlRelease)

/-- FORGET: an entry that ends later repeat walks. -/
def State.kctlForget (s : State) : Byte × State :=
  if s.kick.st = 1 then (codeOffside, s) else (codeOk, s.logEntry ⟨15, 6, 0, 0, 0, 0, []⟩)

/-- KCTL_FORGET (R332, R333). -/
def execKctlForget (s : State) : Out := .next (s.hostWrite 0x0E000C State.kctlForget)

/-- HOST_WARM_RESET (R321, R323): a write of `REF_KCTL.WARM`; K0 begins at once. -/
def execHostWarmReset (s : State) : Out := .next (if s.served then (s.toReset true).begin else s)

/-- A write of `REF_KCTL` (R333): TESTHOLD takes its bit; RELEASE, FORGET and then WARM act. -/
def State.kctlWrite (s : State) (v : Word) : Byte × State :=
  let t := s.setReg 0x0E000C (v &&& 1#32)
  let (k1, t) := if v.getLsbD 1 then t.kctlRelease else (codeOk, t)
  let (k3, t) := if v.getLsbD 3 then t.kctlForget else (codeOk, t)
  let t := if v.getLsbD 2 then (t.toReset true).begin else t
  (if k1 = codeOk ∧ k3 = codeOk then codeOk else codeOffside, if k1 = codeOk ∧ k3 = codeOk then t else s)

/-- A write of a word of the image (R334): it completes when the store has the word, and those that waited before it. -/
def State.imgWrite (s : State) (w : Nat) (v : Word) : Byte × State :=
  if (imgPolicy ≤ w ∧ w < imgLog) ∨ (imgStanding ≤ w ∧ w < imgPolicy ∧ s.kick.st = 4) then (codeOk, (s.setImg w v).flushNvs)
  else (codeOffside, s)

/-- REF_IMG_WRITE (R334). -/
def execRefImgWrite (w : Fin 2048) (v : Word) (s : State) : Out :=
  .next (s.hostWrite (0x0E8000 + 4 * w.val) fun t => t.imgWrite w.val v)

end Sys2Proof.Machine
end

