-- ==== Sys2Proof/Machine/MemCmd.lean ====
section
/-! DEFINITION. The memory commands: COPY, XPOSE, GATHER, SCATTER and SCATTER.ADD (R87, R92, R113, R114, R120 to R125). -/

namespace Sys2Proof.Machine

/-! ### Index space (R106, R113, R114) -/

/-- A tensor of rank 1 without scales seen with its units as rows, each a run of its own: a row is one index of the outermost
dimension (R106). -/
def Desc.rowed (d : Desc) : Desc :=
  if d.rank ≠ 1 then d
  else { d with rank := 2, shape := [1, d.ext 0, 0, 0, 0, 0], stride := [0, unitSize d.fmt, 0, 0, 0, 0]
                base := d.base + d.header, sblk := 0 }

/-- A tensor of rank 1 seen as one run of a tensor of rank 2. -/
def Desc.oneRun (d : Desc) : Desc :=
  if d.rank = 1 then { d with rank := 2, shape := [d.ext 0, 1, 0, 0, 0, 0], stride := [0, 0, 0, 0, 0, 0]
                              vext := b2n (decide (0 < d.vext)) } else d

/-- Extent of dimension `i`, 1 from the rank on. -/
def Desc.extent (d : Desc) (i : Nat) : Nat := if i < d.rank then d.ext i else 1

/-- Units of a run: elements, records, bytes or weight blocks. -/
def Desc.units (d : Desc) : Nat := if d.fmt = RXI8 then d.runBytes else d.runBytes / unitSize d.fmt

/-- Units of a run that hold its first `n` elements; a weight block counts whole (log entry 79). -/
def Desc.unitsOf (d : Desc) (n : Nat) : Nat :=
  if n = 0 then 0 else if d.fmt = W2 then ceilDiv n 256 else if d.fmt = TERN then ceilDiv n 320
  else if d.fmt = RXI8 then 64 + n else n

/-- The positions of a run that may be written: those of a tensor of rank 1 end at its VEXT (R115). -/
def Desc.writable (d : Desc) : Nat := if d.rank = 1 then d.vext else d.ext 0

/-- The positions of a run that hold data: those of a tensor of rank 1 end at its VEXT, or at the rows that drained progress words
cover (R113). -/
def Desc.valid (d : Desc) (cov : Option Nat) : Nat :=
  if d.rank = 1 then (match cov with | some n => Max.max n d.vext | none => d.vext) else d.ext 0

/-- Index tuples of the given extents, the last fastest. -/
def tuples : List Nat → List (List Nat)
  | [] => [[]]
  | n :: l => (List.range n).flatMap fun k => (tuples l).map (k :: ·)

/-- Index tuples of the dimensions between the innermost and the outermost, as indices 1, 2, …. -/
def Desc.middle (d : Desc) : List (List Nat) :=
  (tuples (((List.range (d.rank - 1)).tail.reverse).map d.ext)).map List.reverse

/-- Start address of the run at indices 1 to rank − 1. -/
def Desc.runAt (d : Desc) (idx : List Nat) : Nat :=
  idx.zipIdx.foldl (fun a (x, i) => a + x * d.str (i + 1)) d.base

/-- An index clamped into an extent, and whether it was. -/
def clampTo (n : Nat) (i : Int) : Nat × Bool :=
  if i < 0 then (0, true) else if (n : Int) ≤ i then (n - 1, true) else (i.toNat, false)

/-- The source run for indices 1, 2, … of which those from the rank on count as past an extent of 1: its address, none for a
row of pad values, and whether an index was clamped (R113). `cov` is as `State.readRow` has it. -/
def Desc.runFor (d : Desc) (cov : Option Nat) (idx : List Int) : Option Nat × Bool :=
  let cl := (List.range 5).map fun i => clampTo (d.extent (i + 1)) (idx.getD i 0)
  let ix := (cl.take (d.rank - 1)).map (·.1)
  let lim := match cov with | some n => Max.max n d.vext | none => d.vext
  (if ix.getLastD 0 < lim then some (d.runAt ix) else none, cl.any (·.2))

/-! ### Runs -/

/-- The bytes of a unit of pad: zeros, and a block of zero codes with its check (R97, R113). -/
def padUnit (fmt : Nat) : List Byte :=
  if fmt = W2 ∨ fmt = TERN then
    let z := List.replicate 68 0#8
    z.take 2 ++ natLe 2 (blockCheck z) ++ z.drop 4
  else List.replicate (unitSize fmt) 0#8

/-- Units of a run moved as bytes to a run of `n` units: a unit beyond the source's `m` is its last, and one beyond the `v` valid is
pad. -/
def State.moveUnits (s : State) (fmt m v n : Nat) (a : Option Nat) : List Byte :=
  let z := unitSize fmt
  (List.range n).flatMap fun j => match a with
    | some a => if Min.min j (m - 1) < v then s.bytes (a + Min.min j (m - 1) * z) z else padUnit fmt
    | none => padUnit fmt

/-- Blocks of a scaled run that hold its first `n` elements. -/
def Desc.blocks (d : Desc) (n : Nat) : Nat := ceilDiv n (scaleBlock d.sblk (d.ext 0))

/-- What COPY writes into a run of `dst` from the source run at `a`: bytes, scales before codes (R92), up to the positions that may be
written (R115). -/
def State.copyRun (s : State) (src dst : Desc) (cov : Option Nat) (a : Option Nat) (at_ : Nat) : List (Nat × List Byte) :=
  if dst.sblk = 0 then
    [(at_, s.moveUnits dst.fmt src.units (if src.rank = 1 then src.unitsOf (src.valid cov) else src.units)
      (if dst.rank = 1 then dst.unitsOf dst.writable else dst.units) a)]
  else
    [(at_, s.moveUnits BF16 (src.blocks (src.ext 0)) (src.blocks (src.valid cov)) (dst.blocks dst.writable) a),
     (at_ + dst.header, s.moveUnits dst.fmt (src.ext 0) (src.valid cov) dst.writable (a.map (· + src.header)))]

/-- The values of the source run at `a`, `n` of them. -/
def State.valuesOf (s : State) (src : Desc) (a : Option Nat) (n : Nat) : List Fl :=
  match a with
  | none => List.replicate n flZero
  | some a =>
    let l := if src.scaledLine then
        let i := a - (src.base + src.header)
        [fMul (elemVal src.fmt (s.num a 1)) (s.scaleAt src.sblk (src.ext 0) src.base i)]
      else s.runVals src.fmt src.sblk (if src.rank = 1 then 1 else src.ext 0) a
    (List.range n).map fun j => l.getD (Min.min j (l.length - 1)) flZero

/-- What GATHER or SCATTER writes into a row's run: the units, or the values of a scaled tensor under new scales (R95). -/
def State.moveRun (s : State) (src dst : Desc) (a : Option Nat) (at_ : Nat) : List (Nat × List Byte) :=
  if src.sblk = 0 ∧ dst.sblk = 0 then
    [(at_, s.moveUnits dst.fmt src.rowed.units src.rowed.units dst.rowed.units a)]
  else runWrites dst.fmt dst.sblk (s.valuesOf src a (dst.rowed.ext 0)) at_

/-- The runs of row `row` of `dst`, each with what the source gives at outermost index `i`: the writes, and whether an index of
the row read was clamped. -/
def rowMoves (src dst : Desc) (cov : Option Nat) (row : Nat) (i : Int)
    (run : Option Nat → Nat → List (Nat × List Byte)) : List (Nat × List Byte) × Bool :=
  let l := dst.middle.map fun m =>
    let (a, c) := src.runFor cov ((m.map Int.ofNat) ++ [i])
    (run a (dst.runAt (m ++ [row])), c)
  (l.flatMap (·.1), (l.any (·.2)) || decide (src.units < dst.units))

/-- Pieces of bytes written, their whole lines good again (R305). -/
def State.writesCured (s : State) (l : List (Nat × List Byte)) : State :=
  l.foldl (fun t p => t.cureRange p.1 p.2.length) (s.writes l)

/-! ### Checks -/

/-- Checks of every memory command: no sub-operation bit (R70), no XT (R121). -/
def memChecks (u : UCmd) : List (Bool × Byte) :=
  [(decide (u.f.sub ≠ 0), codeFormat), (u.descA.xt || u.descB.xt, codeFormat)]

/-- Formats of XPOSE, GATHER and SCATTER: an element format or CHOICE, the same on both sides (R92, R120). -/
def moveFormats (u : UCmd) : List (Bool × Byte) :=
  [(!(isElem u.descA.fmt || decide (u.descA.fmt = CHOICE)), codeFormat), (decide (u.descA.fmt ≠ u.descB.fmt), codeFormat)]

/-- The index tensor is INT32 of rank 1 or 2 (R124). -/
def indexChecks (u : UCmd) : List (Bool × Byte) :=
  [(decide (u.descC.fmt ≠ INT32) || decide (2 < u.descC.rank), codeFormat)]

/-- A memory command starts: it works for the half of its source's rows (R356). -/
def memStart (s : State) (u : UCmd) : UCmd × State := ({ u with half := s.inputHalf u }, s)

/-- The command has done its rows. -/
def UCmd.moved (u : UCmd) (n : Nat) : UCmd := { u with out := some n, row := n }

/-! ### COPY -/

/-- Codes that end COPY before its first input: units of different size, or scale blocks of different size. -/
def copyCheck (_ : State) (u : UCmd) : Option Byte :=
  let a := u.descA
  let b := u.descB
  lowest (memChecks u ++
    [(decide (unitSize a.fmt ≠ unitSize b.fmt) || decide (a.sblk ≠ b.sblk) || decide ((a.fmt = RXI8) ≠ (b.fmt = RXI8)), codeFormat)])

/-- COPY over the destination's index space, every read before the first write. Where both tensors are of rank 1, each index of
theirs is a row. -/
def copyWork (s : State) (u : UCmd) : UCmd × State :=
  let src := u.descA.oneRun
  let dst := u.descB.oneRun
  let one (r : Nat) : List (Nat × List Byte) × Bool :=
    let l := dst.middle.map fun m =>
      let (a, c) := src.runFor u.cov ((m ++ [r]).map Int.ofNat)
      (s.copyRun u.descA u.descB u.cov a (dst.runAt (m ++ [r])), c)
    (l.flatMap (·.1), (l.any (·.2)) || decide (src.units < dst.units))
  let rows := (List.range dst.vext).map one
  let t := s.writes (rows.flatMap (·.1))
  let n := if u.descA.rank = 1 ∧ u.descB.rank = 1 then u.descB.vext - u.descA.ext 0 else (rows.filter (·.2)).length
  (u.moved u.descB.vext, if n = 0 then t else t.raiseFlag 1 n)

/-- The memory port's pass over a COPY. -/
def copyRunCmd (s : State) (u : UCmd) : State := s.drive u copyCheck memStart copyWork

/-- COPY (R87). -/
def execCopy (c : Ctx) (f : Fields) (s : State) : Out := .next (s.issueUnit c (.copy c f) f copyRunCmd)

/-! ### XPOSE (R120 to R122) -/

/-- Codes that end XPOSE before its first input. -/
def xposeCheck (_ : State) (u : UCmd) : Option Byte :=
  let a := u.descA
  let b := u.descB
  lowest (memChecks u ++ moveFormats u ++
    [(decide (b.extent 0 < a.extent 1) || decide (b.extent 1 < a.extent 0), codeBounds)])

/-- What XPOSE writes into the run of `dst` at indices 1, 2, …: unit j comes from the source's run at outer index j. The two are
seen as `Desc.oneRun` has them; only valid positions are written (R115, R120). -/
def State.xposeRun (s : State) (a b : Desc) (cov : Option Nat) (idx : List Nat) : List (Nat × List Byte) × Bool :=
  let src := a.oneRun
  let dst := b.oneRun
  let (k, kc) := clampTo (src.extent 0) (idx.getD 0 0)
  let from_ (j : Nat) : Option Nat × Bool :=
    let (p, c) := src.runFor cov ((j :: idx.drop 1).map Int.ofNat)
    (if k < a.valid cov then p else none, c)
  let l := (List.range b.writable).map from_
  let at_ := dst.runAt (idx.take (dst.rank - 1))
  let z := unitSize dst.fmt
  let w := if src.sblk = 0 ∧ dst.sblk = 0 then
      [(at_, l.flatMap fun (p, _) => match p with | some p => s.bytes (p + k * z) z | none => padUnit dst.fmt)]
    else
      let vs := l.map fun (p, _) => match p with
        | some p => (s.runVals src.fmt src.sblk (src.ext 0) p).getD k flZero
        | none => flZero
      if b.scaledLine then sparseRun b (vs.zipIdx.map fun (v, j) => (j, v)) else runWrites dst.fmt dst.sblk vs at_
  (w, kc || l.any (·.2))

/-- Rows of the source that XPOSE reads with a clamped index: of a rank-2 destination the source's rows are its columns. -/
def xposeClamps (a b : Desc) : Nat :=
  let src := a.oneRun
  let dst := b.oneRun
  if b.vext = 0 then 0
  else if dst.rank ≤ 2 then (if src.extent 0 < dst.vext then b.writable else b.writable - src.extent 1)
  else if (List.range (dst.rank - 1)).any fun i => decide (src.extent (if i = 0 then 1 else if i = 1 then 0 else i) < dst.extent i)
  then dst.vext else dst.vext - src.rows

/-- XPOSE, every read before the first write. A rank-1 side counts as one run, of extent 1 in dimension 1. -/
def xposeWork (s : State) (u : UCmd) : UCmd × State :=
  let dst := u.descB.oneRun
  let w := (List.range dst.vext).flatMap fun r => dst.middle.flatMap fun m =>
    (s.xposeRun u.descA u.descB u.cov (m ++ [r])).1
  let t := s.writes w
  let n := xposeClamps u.descA u.descB
  (u.moved u.descB.vext, if n = 0 then t else t.raiseFlag 1 n)

/-- The memory port's pass over an XPOSE. -/
def xposeRunCmd (s : State) (u : UCmd) : State := s.drive u xposeCheck memStart xposeWork

/-- XPOSE (R120). -/
def execXpose (c : Ctx) (f : Fields) (s : State) : Out := .next (s.issueUnit c (.xpose c f) f xposeRunCmd)

/-! ### GATHER, SCATTER, SCATTER.ADD (R124, R125) -/

/-- Index `i` of an index tensor, a row beyond its shape clamped and one beyond its valid rows zero; and whether it was
clamped. -/
def State.indexAt (s : State) (d : Desc) (cov : Option Nat) (i : Nat) : Int × Bool :=
  let d := d.rowed
  let (a, c) := d.runFor cov [i]
  (match a with | some a => (BitVec.ofNat 32 (s.num a 4)).toInt | none => 0, c)

/-- Codes that end GATHER before its first input. -/
def gatherCheck (_ : State) (u : UCmd) : Option Byte := lowest (memChecks u ++ moveFormats u ++ indexChecks u)

/-- The value of the row at outermost index `i` for a destination whose rows are single elements; and whether it was clamped. -/
def State.rowValue (s : State) (src : Desc) (cov : Option Nat) (i : Int) : Fl × Bool :=
  let (a, c) := src.rowed.runFor cov (List.replicate (src.rowed.rank - 2) 0 ++ [i])
  ((s.valuesOf src a 1).getD 0 flZero, c)

/-- GATHER: row i of the destination is the source's row idx[i] (R124). -/
def gatherWork (s : State) (u : UCmd) : UCmd × State :=
  let src := u.descA
  let dst := u.descB
  (u.moved dst.vext,
    if dst.scaledLine then
      s.putRows dst dst.vext fun t r =>
        let (i, c1) := t.indexAt u.descC u.covComp r
        let (v, c2) := t.rowValue src u.cov i
        ([v], (t.countClamp c1).countClamp c2)
    else eachRow dst.vext s fun t r =>
      let (i, c1) := s.indexAt u.descC u.covComp r
      let (w, c2) := rowMoves src.rowed dst.rowed u.cov r i (s.moveRun src dst)
      ((t.writes w).countClamp c1).countClamp c2)

/-- The memory port's pass over a GATHER. -/
def gatherRun (s : State) (u : UCmd) : State := s.drive u gatherCheck memStart gatherWork

/-- GATHER (R124). -/
def execGather (c : Ctx) (f : Fields) (s : State) : Out := .next (s.issueUnit c (.gather c f) f gatherRun)

/-- SCATTER in index order: a later row of the same index stands; a row whose index names no valid row of the destination is
counted and not written (R124). -/
def scatterWork (s : State) (u : UCmd) : UCmd × State :=
  let src := u.descA
  let dst := u.descB
  let rows := (List.range u.rowsIn).map fun r =>
    let (i, c1) := s.indexAt u.descC u.covComp r
    (r, i, c1, decide (i < 0) || decide ((dst.vext : Int) ≤ i))
  let t := rows.foldl (fun t (_, _, c1, out) => (t.countClamp c1).countClamp out) s
  let into := rows.filter fun (_, _, _, out) => !out
  (u.moved u.rowsIn,
    if dst.scaledLine then
      let vs := into.map fun (r, i, _, _) => (i.toNat, s.rowValue src u.cov r)
      let t := vs.foldl (fun t (_, _, c) => t.countClamp c) t
      t.writes (sparseRun dst (vs.map fun (i, v, _) => (i, v)))
    else into.foldl (fun t (r, i, _, _) =>
      let (w, c2) := rowMoves src.rowed dst.rowed u.cov i.toNat r (s.moveRun src dst)
      (t.writesCured w).countClamp c2) t)

/-- The memory port's pass over a SCATTER. -/
def scatterRun (s : State) (u : UCmd) : State := s.drive u gatherCheck memStart scatterWork

/-- SCATTER (R124). -/
def execScatter (c : Ctx) (f : Fields) (s : State) : Out := .next (s.issueUnit c (.scatter c f) f scatterRun)

/-- The adder format of a tensor format (R125). -/
def adderOf (fmt : Nat) : Option AddFmt :=
  if fmt = FP32 then some .fp32 else if fmt = BF16 then some .bf16 else if fmt = INT32 then some .int32
  else if fmt = INT64 then some .int64 else none

/-- Codes that end SCATTER.ADD before its first input (R87). -/
def scatterAddCheck (_ : State) (u : UCmd) : Option Byte :=
  lowest (memChecks u ++ [((adderOf u.descA.fmt).isNone || decide (u.descA.fmt ≠ u.descB.fmt), codeFormat)] ++ indexChecks u)

/-- Bytes added element by element to those at an address. -/
def State.addBytes (s : State) (f : AddFmt) (a : Nat) (bs : List Byte) : State :=
  let z := addSize f
  (List.range (bs.length / z)).foldl (fun t j =>
    t.setNum (a + j * z) z (addElem f (t.num (a + j * z) z) (leNat ((bs.drop (j * z)).take z)))) s

/-- A piece is added to the bytes at its address; into a poisoned line nothing is added, and the contents are lost to the half (R305).
The flag says that a line was lost. -/
def addPiece (f : AddFmt) (h : Option Half) (acc : Bool × State) (p : Nat × List Byte) : Bool × State :=
  match acc.2.lostIn p.1 p.2.length with
  | some l => (true, acc.2.lostRead l h)
  | none => (acc.1, acc.2.addBytes f p.1 p.2)

/-- SCATTER.ADD: rows in ascending order in the ordered variant, otherwise in a free order (R58, R125; log entry 3). -/
def scatterAddWork (s : State) (u : UCmd) : UCmd × State :=
  let src := u.descA
  let dst := u.descB
  let (k, s) := s.draw
  let f := (adderOf dst.fmt).getD .fp32
  let (lost, t) := (itemOrder (s.orderedCmd u) k u.rowsIn).foldl (fun (acc : Bool × State) r =>
    let (i, c1) := s.indexAt u.descC u.covComp r
    let t := acc.2.countClamp c1
    if i < 0 ∨ (dst.vext : Int) ≤ i then (acc.1, t.countClamp true)
    else
      let (w, c2) := rowMoves src.rowed dst.rowed u.cov i.toNat r (s.moveRun src dst)
      let r := w.foldl (addPiece f u.half) (acc.1, t)
      (r.1, r.2.countClamp c2)) (false, s)
  (if lost then u.done codeFault 0 else u.moved u.rowsIn, t)

/-- The memory port's pass over a SCATTER.ADD. -/
def scatterAddRun (s : State) (u : UCmd) : State := s.drive u scatterAddCheck memStart scatterAddWork

/-- SCATTER.ADD (R125). -/
def execScatterAdd (c : Ctx) (f : Fields) (s : State) : Out := .next (s.issueUnit c (.scatterAdd c f) f scatterAddRun)

end Sys2Proof.Machine
end

