-- ==== Sys2Proof/Machine/Rebound.lean ====
section
/-! DEFINITION. Ingest and Rebound: RECV.IN (R81, R216, R217, R374), REBOUND.RET (R85, R276 to R278), the arrival of answers
(R279 to R284), REBOUND.COMBINE with completion, conversion and emission (R84, R285 to R288), and cancellation (R289). -/

namespace Sys2Proof.Machine

/-! ### Packets read word by word -/

/-- The words read so far of the packet at the head of a queue, and those words replaced. -/
def State.readSoFar (s : State) (q : Nat) : List QWord := Tab.get [] s.reb.bufs q
def State.setReadSoFar (s : State) (q : Nat) (ws : List QWord) : State :=
  { s with reb := { s.reb with bufs := Tab.set [] s.reb.bufs q ws } }

/-- The words end a packet. -/
def wholePacket (ws : List QWord) : Bool := match ws.getLast? with | some w => w.last | none => false

/-- One word more of the packet at the head of a queue is read; none when no word is there. A packet that was cut after it
had been read in part is dropped (R213). -/
def State.readOn (s : State) (q : Nat) : Option State :=
  let (cut, t) := s.takeMark q
  if cut then some (t.setReadSoFar q [])
  else match t.popWord q with
    | none => none
    | some (w, t) => some (t.setReadSoFar q (t.readSoFar q ++ [w]))

/-- The bytes of queue words. -/
def wordsBytes (ws : List QWord) : List Byte := ws.flatMap fun w => lineBytes w.data

/-- The packet has a header and `size` payload bytes: its end mark is on word ⌈size / 64⌉, and the unused bytes of that word
are zero (R216, R276). -/
def packetShape (ws : List QWord) (size : Nat) : Bool :=
  decide (ws.length = 1 + ceilDiv size 64) && ((wordsBytes ws).drop (64 + size)).all fun b => decide (b = 0#8)

/-! ### RECV.IN (R81) -/

/-- Codes that end RECV.IN before its first input (R81, R92, R121). -/
def recvInCheck (s : State) (u : UCmd) : Option Byte :=
  lowest [(decide ((s.queue u.queue).cls ≠ .dispatch), codeOffside), (decide (u.f.sub ≠ 0), codeFormat),
    (!isElem u.descA.fmt || u.descA.xt, codeFormat), (!isElem u.descC.fmt || u.descC.xt, codeFormat),
    (decide (u.descA.rows < Min.min 65536 s.halfTokens), codeBounds)]

/-- Rows taken of half `h`, and the row count that its RECV.IN set. -/
def State.takenOf (s : State) (h : Nat) : Nat := s.reb.taken.getD h 0
def State.rowsOf (s : State) (h : Nat) : Option Nat := s.reb.rows.getD h none

/-- RECV.IN takes a half; it begins anew, or in a replay of the half with the rows it had taken (R358). -/
def recvInStart (s : State) (u : UCmd) : UCmd × State :=
  let h := u.queue % 2
  let hf : Half := (BitVec.ofNat 1 h).toFin
  let t := s.clearItems 0 h
  ({ u with half := some hf },
    if s.ref.rehalves.contains hf then t
    else { t with reb := { t.reb with taken := t.reb.taken.set h 0, rows := t.reb.rows.set h none } })

/-- The packet ends its half (R216): a single header word with EOH set and nothing else but the half bit. -/
def isEoh (ws : List QWord) : Bool :=
  match ws with
  | [w] => decide (w.kind = 1#3) && (decide (w.data.toNat = 2 ^ 153) || decide (w.data.toNat = 2 ^ 153 + 2 ^ 152))
  | _ => false

/-- The token packet is malformed for a destination (R217), or the half is full (R374). -/
def State.tokenBad (s : State) (u : UCmd) (ws : List QWord) : Bool :=
  let b := wordsBytes (ws.take 1)
  let d := u.descA
  let n := fieldLe b 16 2
  ws.any (fun w => decide (w.kind ≠ 1#3)) || decide (n ≠ d.ext 0) || decide (fieldLe b 18 1 ≠ d.fmt) || decide (d.sblk ≠ 0) ||
  decide (2 ≤ fieldLe b 19 1) || decide (fieldLe b 20 44 ≠ 0) || !packetShape ws (n * unitSize d.fmt) ||
  decide (Min.min 65536 s.halfTokens ≤ u.row)

/-- Row `u.row` of the half takes a reorder slot and is stamped (R81, R274); its item enters the input digest (R343). None when
no slot is free. -/
def State.takeToken (s : State) (u : UCmd) (pos payload : List Byte) : Option State :=
  let h := u.queue % 2
  match s.takeSlot with
  | none => none
  | some (n, t) =>
    let g := u.descA.token s.chip u.row
    let t := t.setRslot n { RSlot.reset with
      st := .open_, half := (BitVec.ofNat 1 h).toFin, row := u.row, batch := t.batch h, gen := t.gen h, gidx := g }
    let t : State := { t with reb := { t.reb with
      rowMap := Tab.set 0 t.reb.rowMap (rowKey h u.row) (n + 1)
      taken := t.reb.taken.set h (Max.max (t.takenOf h) (u.row + 1)) } }
    some (t.addItem 0 h (natLe 8 g ++ pos ++ payload))

/-- Payload and position of row `r` go to the destination and to its companion (R81). -/
def State.putToken (s : State) (u : UCmd) (pos payload : List Byte) : State :=
  let at_ (d : Desc) : Nat := (d.rowRuns u.row).headD 0
  let t := s.setBytes (at_ u.descA) payload
  if u.descC.rows ≤ u.row then t else t.setBytes (at_ u.descC) (pos.take u.descC.runBytes)

/-- RECV.IN has met the end of its half. -/
def State.endIn (s : State) (u : UCmd) : UCmd × State :=
  let h := u.queue % 2
  ({ u with out := some u.row, value := BitVec.ofNat 64 u.row },
   { s with reb := { s.reb with rows := s.reb.rows.set h (some u.row) }
            ref := { s.ref with inDig := s.ref.inDig.set h (s.items 0 h).2 } })

/-- RECV.IN goes on as far as words and reorder slots are there (R28); fuel bounds the words. -/
def recvInLoop : Nat → UCmd → State → UCmd × State
  | 0, u, s => (u, s)
  | k + 1, u, s =>
    let h := u.queue % 2
    if u.row < s.takenOf h then
      let d := u.descA
      let c := u.descC
      match s.lostIn ((d.rowRuns u.row).headD 0) (d.ext 0 * unitSize d.fmt) with
      | some l => (u.done codeFault 0, s.lostRead l u.half)
      | none =>
      let payload := s.bytes ((d.rowRuns u.row).headD 0) (d.ext 0 * unitSize d.fmt)
      let pos := (if c.rows ≤ u.row then [] else s.bytes ((c.rowRuns u.row).headD 0) (Min.min 16 c.runBytes))
      match s.takeToken u ((pos ++ List.replicate 16 0#8).take 16) payload with
      | none => (u, s)
      | some t => recvInLoop k { u with row := u.row + 1 } t
    else if (s.rowsOf h).isSome then s.endIn u
    else
      let ws := s.readSoFar u.queue
      if wholePacket ws then
        let t := s.setReadSoFar u.queue []
        if isEoh ws then t.endIn u
        else if s.tokenBad u ws then recvInLoop k u t.malformed
        else
          let b := wordsBytes ws
          let payload := (b.drop 64).take (u.descA.ext 0 * unitSize u.descA.fmt)
          match t.takeToken u (b.take 16) payload with
          | none => (u, s)
          | some t => recvInLoop k { u with row := u.row + 1 } (t.putToken u (b.take 16) payload)
      else match s.readOn u.queue with
        | none => (u, s)
        | some t => recvInLoop k u t

/-- What the ingest unit does for a started RECV.IN; FC_HOLD is driven anew (R219). -/
def recvInWork (s : State) (u : UCmd) : UCmd × State :=
  let (v, t) := recvInLoop (2 * (s.queueWords u.queue).length + s.takenOf (u.queue % 2) + 4) u s
  (v, t.holdUpdate)

/-- The ingest unit's pass over a RECV.IN. -/
def recvInRun (s : State) (u : UCmd) : State := s.drive u recvInCheck recvInStart recvInWork

/-- RECV.IN (R81). -/
def execRecvIn (c : Ctx) (f : Fields) (s : State) : Out := .next (s.issueUnit c (.recvIn c f) f recvInRun)

/-! ### REBOUND.RET (R85, R276 to R278) -/

/-- Codes that end RET before its first input (R85, R92, R121): of the block and structured formats its descriptor has that of a
RECV.NET. -/
def retCheck (s : State) (u : UCmd) : Option Byte :=
  lowest [(decide ((s.queue u.queue).cls ≠ .ret), codeOffside), (decide (u.f.sub ≠ 1), codeFormat),
    (!(isElem u.descA.fmt || decide (u.descA.fmt = RXI8)) || u.descA.xt, codeFormat)]

/-- RET starts; it serves its RECV.NET as soon as there is one. -/
def retStart (s : State) (u : UCmd) : UCmd × State := (u, s)

/-- RET takes up the oldest RECV.NET on its descriptor that no RET has served (R278): its half and its choices. -/
def retBind (s : State) (u : UCmd) : UCmd × State :=
  if u.stage = 1 then (u, s) else
  match s.reb.nets.find? fun n => decide (n.slot = u.slotA) && !n.served with
  | none => (u, s)
  | some n =>
    let i := s.reb.nets.idxOf n
    ({ u with half := some n.half, n1 := n.choices, stage := 1 },
     ({ s with reb := { s.reb with nets := s.reb.nets.eraseIdx i } } : State).halfEntry u.c.val u.serial (some n.half))

/-- The answer packet is malformed (R278). -/
def State.answerBad (s : State) (d : Desc) (ws : List QWord) : Bool :=
  let b := wordsBytes (ws.take 1)
  let tag := tagOf (fieldLe b 0 12)
  let n := fieldLe b 12 2
  decide (n ≠ d.ext 0) || decide (fieldLe b 14 1 ≠ s.ansFmt) || tag.multi || decide (fieldLe b 15 49 ≠ 0) ||
  !packetShape ws (n * ansElem s.ansFmt) || decide (s.sysSize ≤ tag.origin)

/-- A good answer is forwarded to its origin under the next packet id, and counts for the half of its tag (R278). -/
def State.forward (s : State) (ws : List QWord) : State :=
  let b := wordsBytes ws
  let tag := tagOf (fieldLe b 0 12)
  let len := 64 + fieldLe b 12 2 * ansElem s.ansFmt
  let h : Half := (BitVec.ofNat 1 tag.half).toFin
  let pid := s.vol.pid
  let fs := s.packetFrames tag.origin 2 h 0 pid (natLe 12 tag.bits.toNat) (b.take len)
  let t : State := { s with vol := { s.vol with pid := pid + 1 }
                            reb := { s.reb with fwd := s.reb.fwd.set h.val (s.reb.fwd.getD h.val 0 + 1) } }
  t.sendFrames fs

/-- RET has read an answer whole: forwarded, or discarded as malformed or as a packet of another kind (R208, R278). -/
def State.answerRead (s : State) (u : UCmd) (ws : List QWord) : State :=
  if ws.any fun w => decide (w.kind ≠ 2#3) then s.malformed
  else if s.answerBad u.descA ws then s.malformed.report ⟨0x0C, u.half, 0, 0xFFFF, 0, false⟩
  else s.forward ws

/-- RET goes on until the answers forwarded for its half reach the choices that its RECV.NET delivered; fuel bounds the
words. -/
def retLoop (h : Nat) : Nat → UCmd → State → UCmd × State
  | 0, u, s => (u, s)
  | k + 1, u, s =>
    let n := s.reb.fwd.getD h 0
    if u.n1 ≤ n then
      ({ u with out := some 0 }, { s with reb := { s.reb with fwd := s.reb.fwd.set h (n - u.n1) } })
    else
      let ws := s.readSoFar u.queue
      if wholePacket ws then retLoop h k u ((s.setReadSoFar u.queue []).answerRead u ws)
      else match s.readOn u.queue with
        | none => (u, s)
        | some t => retLoop h k u t

/-- What Rebound does for a started RET. -/
def retWork (s : State) (u : UCmd) : UCmd × State :=
  let (u, s) := retBind s u
  match u.half with
  | none => (u, s)
  | some h => retLoop h.val (2 * (s.queueWords u.queue).length + 4) u s

/-- Rebound's pass over a RET. -/
def retRun (s : State) (u : UCmd) : State := s.drive u retCheck retStart retWork

/-- REBOUND.RET (R85). -/
def execReboundRet (c : Ctx) (f : Fields) (s : State) : Out := .next (s.issueUnit c (.reboundRet c f) f retRun)

/-! ### Adding answers (R282 to R284) -/

/-- Bit `c` of a choice mask set. -/
def withBit (m : BitVec 16) (c : Nat) : BitVec 16 := m ||| (1#16 <<< c)

/-- The COMBINE of a half that runs, if one does. -/
def State.combineOf (s : State) (h : Nat) : Option UCmd :=
  s.ucmds.find? fun u => (match u.op with | .reboundCombine _ _ => true | _ => false) && u.started && decide (u.result = none) &&
    decide (u.half.map (·.val) = some h)

/-- The oldest COMBINE of a half that has issued and has not completed. -/
def State.combineIssued (s : State) (h : Nat) : Option UCmd :=
  s.ucmds.find? fun u => (match u.op with | .reboundCombine _ _ => true | _ => false) && decide (u.result = none) &&
    decide (u.queue % 2 = h)

/-- Answers of a half are added in the ordered variant: in Ordered mode, or when the COMBINE of the half that has issued has ORD set
(R58). Before one has issued they are added in Flow order (log entry 87). -/
def State.orderedAdds (s : State) (h : Nat) : Bool :=
  s.ordered || (match s.combineIssued h with | some u => u.ord | none => false)

/-- Element values of an answer: from the segments as they arrived, or read back from its answer slot. -/
def State.answerVals (s : State) (a : Answer) : List Fl :=
  let z := ansElem a.fmt
  (List.range a.n).map fun j => elemVal a.fmt (match a.slotAddr with
    | some addr => s.num (addr + j * z) z
    | none => loadLe a.bytes (64 + j * z) z)

/-- Weighted values of an answer (R283). -/
def State.weighted (s : State) (a : Answer) : List Fl := (s.answerVals a).map fun x => fMul (bf16 a.weight) x

/-- Values added to an accumulator, element by element (R283). -/
def accAdd (acc : List Word) (p : List Fl) : List Word :=
  acc.zipIdx.map fun (v, i) => toF32 ((f32 v).add (p.getD i flZero))

/-- The answer of choice `c` held for a slot. -/
def RSlot.answerOf (r : RSlot) (c : Nat) : Option Answer := r.answers.find? fun a => decide (a.choice = c)

/-- An answer takes the place of that of its choice, as the last of the list. -/
def RSlot.putAnswer (r : RSlot) (a : Answer) : RSlot :=
  { r with answers := (r.answers.filter fun x => decide (x.choice ≠ a.choice)) ++ [a] }

/-- A whole answer is added to the accumulator in the combine store, which it opens if there is none; its reservation
returns. -/
def State.addAnswer (s : State) (n : Nat) (a : Answer) : State :=
  let r := s.rslot n
  let p := s.weighted a
  let (acc, t) := match r.acc with
    | some l => (l, s)
    | none => (List.replicate a.n 0#32, s.takeLines (csLines (4 * a.n)))
  let r := (r.putAnswer { a with bytes := [], parked := false })
  (t.setRslot n { r with acc := some (accAdd acc p), done := withBit r.done a.choice }).returnRes n 1

/-- An answer is parked in the combine store. -/
def State.parkStore (s : State) (n : Nat) (a : Answer) : State :=
  (s.takeLines (csLines (a.n * ansElem a.fmt))).setRslot n ((s.rslot n).putAnswer { a with parked := true })

/-- Bytes of an answer slot are written: its lines are good (R305; log entry 94). -/
def State.setAnswer (s : State) (a : Nat) (bs : List Byte) : State :=
  (s.setBytes a bs).cureRange a ((bs.length + 255) / 256 * 256)

/-- An answer is parked in an answer slot of the stacks (R282). -/
def State.parkStack (s : State) (n : Nat) (a : Answer) : Option State :=
  match s.takeAns with
  | none => none
  | some (addr, t) =>
    let z := ansElem a.fmt
    let t := t.setAnswer addr ((List.range (a.n * z)).map fun i => Tab.get 0#8 a.bytes (64 + i))
    some ((t.setRslot n ((t.rslot n).putAnswer { a with parked := true, bytes := [], slotAddr := some addr })).bump 0x0C0050 1)

/-- The bytes of FP32 values. -/
def f32Bytes (l : List Word) : List Byte := l.flatMap fun w => natLe 4 w.toNat

/-- The FP32 row at an address. -/
def State.f32Row (s : State) (a n : Nat) : List Word := (List.range n).map fun j => BitVec.ofNat 32 (s.num (a + 4 * j) 4)

/-- Memory-side accumulation (R284): the first answer that goes to the stacks is written there as its weighted row, and each
further one is added into that row; an add into a poisoned line is discarded as lost contents (R305). -/
def State.sideAdd (s : State) (n : Nat) (a : Answer) : Option State :=
  let r := s.rslot n
  let q := { (r.putAnswer { a with bytes := [] }) with done := withBit r.done a.choice }
  match r.msAddr with
  | some addr =>
    let t := match s.lostIn addr (4 * a.n) with
      | some l => s.lostRead l (some r.half)
      | none => s.setBytes addr (f32Bytes (accAdd (s.f32Row addr a.n) (s.weighted a)))
    some ((t.setRslot n q).returnRes n 1)
  | none =>
    match s.takeAns with
    | none => none
    | some (addr, t) =>
      let row := accAdd (List.replicate a.n 0#32) (s.weighted a)
      some (((t.setAnswer addr (f32Bytes row)).setRslot n { q with msAddr := some addr }).bump 0x0C0050 1)

/-- A whole kept answer is added at once or parked (R282, R284); none while no place for it is free. -/
def State.placeAnswer (s : State) (n : Nat) (a : Answer) : Option State :=
  let r := s.rslot n
  let ord := s.orderedAdds r.half.val
  let room := r.acc.isSome || decide (csLines (4 * a.n) ≤ s.reb.cfree)
  let lower := decide (r.adm.toNat % 2 ^ a.choice = r.done.toNat % 2 ^ a.choice)
  if room && (!ord || lower) then some (s.addAnswer n a)
  else if csLines (a.n * ansElem a.fmt) ≤ s.reb.cfree then some (s.parkStore n a)
  else if !ord && decide (s.fld 0x0C0000 14 14 = 1) then s.sideAdd n a
  else s.parkStack n a

/-! ### Finishing a token (R282, R283, R285) -/

/-- Choices whose answers are parked whole. -/
def RSlot.parkedMask (r : RSlot) : BitVec 16 := r.answers.foldl (fun m a => if a.parked then withBit m a.choice else m) 0

/-- The token is complete (R282). -/
def RSlot.complete (r : RSlot) : Bool :=
  decide (r.st = RState.open_) && r.known && decide ((r.done ||| r.parkedMask) &&& r.adm = r.adm)

/-- Parked answers in ascending choice. -/
def choiceSort : List Answer → List Answer
  | [] => []
  | a :: l =>
    let m := choiceSort l
    (m.takeWhile fun x => decide (x.choice < a.choice)) ++ a :: m.dropWhile fun x => decide (x.choice < a.choice)

/-- The first poisoned line that finishing a token would read. -/
def State.lostParked (s : State) (r : RSlot) (n : Nat) : Option Nat :=
  match (r.answers.findSome? fun a => a.slotAddr.bind fun addr => s.lostIn addr (a.n * ansElem a.fmt)) with
  | some l => some l
  | none => r.msAddr.bind fun addr => s.lostIn addr (4 * n)

/-- The accumulator of a complete token with every parked answer added: in choice order in the ordered variant, else in
order of arrival, the row accumulated in memory as one term at a place that is free (R283, R284). -/
def State.sumToken (s : State) (n d : Nat) : List Word × State :=
  let r := s.rslot n
  let parked := r.answers.filter (·.parked)
  let parked := if s.orderedAdds r.half.val then choiceSort parked else parked
  let terms := parked.map s.weighted
  let (terms, t) := match r.msAddr with
    | none => (terms, s)
    | some addr =>
      let (k, t) := s.draw
      let i := Config.flowKey k 0 % (terms.length + 1)
      (terms.take i ++ ((s.f32Row addr d).map f32) :: terms.drop i, t)
  (terms.foldl accAdd (r.acc.getD (List.replicate d 0#32)), t)

/-- Reservations that a slot holds for answers kept for it: one for each parked answer, one for the row accumulated in memory, one for
a result in an answer slot. -/
def RSlot.heldRes (r : RSlot) : Nat :=
  (r.answers.filter (·.parked)).length + r.msAddr.toList.length + r.resAddr.toList.length

/-- What is held for a slot but the answer slot at an address. -/
def RSlot.without (r : RSlot) (addr : Nat) : RSlot :=
  { r with answers := r.answers.filter fun a => decide (a.slotAddr ≠ some addr)
           msAddr := if r.msAddr = some addr then none else r.msAddr }

/-- The answer slot that a result goes to: one that its token has in use, or a free one that it has reserved (R285). -/
def State.resultPlace (s : State) (n : Nat) : Option (Nat × State) :=
  let r := s.rslot n
  match r.stackSlots with
  | addr :: _ => some (addr, (s.setRslot n (r.without addr)).freeHeld n)
  | [] => if r.heldRes = 0 then none else (s.freeHeld n).takeAns

/-- The converted result takes the place of all that is held for a token: in the combine store, its reservations returned; or in one of
the token's answer slots, one reservation staying with it (R285). -/
def State.holdResult (s : State) (n : Nat) (bs : List Byte) : Option State :=
  let r := s.rslot n
  let put (t : State) (addr : Option Nat) : State :=
    t.setRslot n { t.rslot n with done := r.adm, result := some (if addr.isSome then [] else bs), resAddr := addr }
  if csLines bs.length ≤ s.reb.cfree + r.lines then
    some (put (((s.freeHeld n).returnRes n r.heldRes).takeLines (csLines bs.length)) none)
  else match s.resultPlace n with
    | none => none
    | some (addr, t) => some (put ((t.returnRes n (r.heldRes - 1)).setAnswer addr bs) (some addr))

/-- A poisoned line is read for a half; a half that waits for the Referee already reads it no more. -/
def State.lostOnce (s : State) (l : Nat) (h : Half) : State :=
  if s.ref.faults.any fun f => decide (f.half = some h) then s else s.lostRead l (some h)

/-- A fault is reported unless the same report waits already. -/
def State.reportOnce (s : State) (r : FaultRep) : State := if s.ref.faults.contains r then s else s.report r

/-- A complete token of a running COMBINE is finished (R285): its remaining answers are added and the sum is converted and
held. An answer of another element count or format is a fault of the half. -/
def State.finishToken (s : State) (n : Nat) : State :=
  let r := s.rslot n
  match s.combineOf r.half.val with
  | none => s
  | some u =>
    let d := u.descA
    let k := d.ext 0
    if !r.complete || decide (r.adm = 0) || r.result.isSome then s
    else if r.answers.any fun a => decide (a.n ≠ k) || decide (a.fmt ≠ s.ansFmt) then
      s.reportOnce ⟨0x0C, some r.half, 0, 0xFFFF, 0, false⟩
    else match s.lostParked r k with
      | some l => s.lostOnce l r.half
      | none =>
        let (acc, t) := s.sumToken n k
        (t.holdResult n (acc.flatMap fun w => natLe (unitSize d.fmt) (elemBits d.fmt (f32 w)))).getD s

/-! ### Arrival at the origin (R279, R280) -/

/-- The answer packet that a segment belongs to, begun if this is its first. -/
def State.answerPart (s : State) (f : Frame) : Part × State :=
  match s.vol.parts.find? fun p => decide (p.kind = 2) && decide (p.origin = f.origin) && decide (p.pid = f.pid) with
  | some p => (p, { s with vol := { s.vol with parts := s.vol.parts.erase p } })
  | none =>
    (⟨f.origin, f.pid, 2, f.half, f.inst, f.len, [], 0, BitVec.ofNat 96 (fieldLe f.inline_ 0 12)⟩,
      if 65536 ≤ s.vol.parts.length then s.bump 0x0B0060 1 else s)

/-- The segment has been judged: the packet's record goes on, or when every segment has arrived it goes to the duplicate
filter. -/
def State.endPart (s : State) (p : Part) (seg : Nat) (discarded : Bool) : State :=
  let p := { p with segs := seg :: p.segs, buf := if discarded then 1 else p.buf }
  if p.segs.length < segments p.len then { s with vol := { s.vol with parts := s.vol.parts ++ [p] } }
  else { s with vol := { s.vol with dups := s.vol.dups ++ [(p.origin, p.pid)] } }

/-- A segment is discarded: its answer counts once, at its first discarded segment, and enters the step record (R279). -/
def State.dropSegment (s : State) (p : Part) (reg : Nat) (h : Half) : State :=
  if p.buf = 1 then s else (s.bump reg 1).discarded h

/-- Every segment of choice `c` of slot `n` has arrived (R280). -/
def State.seeChoice (s : State) (n c : Nat) : State :=
  s.setRslot n { s.rslot n with seen := withBit (s.rslot n).seen c }

/-- A segment is kept at its offset in the answer of its choice. -/
def keepSegment (r : RSlot) (g : TagRec) (f : Frame) : Answer :=
  let a := (r.answerOf g.choice).getD ⟨g.choice, g.weight, 0, 0, f.len, [], true, [], none, false⟩
  let bytes := bytesWrite a.bytes (1980 * f.seg) f.data
  { a with segs := f.seg :: a.segs, bytes := bytes, n := loadLe bytes 12 2, fmt := loadLe bytes 14 1 }

/-- ANSWER_SEGMENT (R279, R280, R282): the next ANSWER segment passes the arrival checks in their order, or is discarded. The
last segment of an answer completes it. -/
def execAnswerSegment (s : State) : Out :=
  .next (match s.takeRx 2 with
    | none => s
    | some (f, t) =>
      let g := f.tag
      let n := g.slot
      let r := t.rslot n
      let h : Half := (BitVec.ofNat 1 g.half).toFin
      let (p, t) := t.answerPart f
      let last := decide (segments p.len ≤ p.segs.length + 1)
      if r.st = RState.free ∨ r.half ≠ h ∨ r.batch ≠ g.batch ∨ r.gen ≠ g.gen then
        (t.dropSegment p 0x0C0040 h).endPart p f.seg true
      else if r.st = RState.cancelled then
        let t := (t.dropSegment p 0x0C0044 h).endPart p f.seg true
        if last then ((t.seeChoice n g.choice).returnRes n (if r.seen.getLsbD g.choice then 0 else 1)).drainSlot n else t
      else if !r.known ∨ !r.adm.getLsbD g.choice then
        let t := t.dropSegment p 0x0C004C h
        let t := (if p.buf = 1 then t else t.report ⟨0x0C, some h, 0, 0xFFFF, 0, false⟩).endPart p f.seg true
        if last then t.seeChoice n g.choice else t
      else if r.seen.getLsbD g.choice || (match r.answerOf g.choice with | some a => a.segs.contains f.seg | none => false) then
        (t.dropSegment p 0x0C0048 h).endPart p f.seg true
      else
        let a := keepSegment r g f
        let t := t.endPart p f.seg false
        if a.segs.length < segments a.len then
          let t := t.setRslot n (r.putAnswer a)
          if last then t.seeChoice n g.choice else t
        else match (t.setRslot n { (r.putAnswer a) with seen := withBit r.seen g.choice }).placeAnswer n a with
          | none => s
          | some t => t.finishToken n)

/-! ### REBOUND.COMBINE (R84, R285) -/

/-- Codes that end COMBINE before its first input (R285). -/
def combineCheck (s : State) (u : UCmd) : Option Byte :=
  let d := u.descA
  let n := d.ext 0
  let a := s.ansBytes
  lowest [(decide (u.f.sub ≠ 0), codeFormat), (!([BF16, FP32, FP8E4, FP8E5].contains d.fmt) || decide (d.sblk ≠ 0), codeFormat),
    (decide ((s.queue u.queue).cls ≠ .unit), codeOffside), (decide (d.rows < Min.min 65536 s.halfTokens), codeBounds),
    (decide (a < n * ansElem s.ansFmt), codeBounds), (decide (a < n * unitSize d.fmt), codeBounds),
    (decide (s.fld 0x0C0000 14 14 = 1 ∧ a < 4 * n), codeBounds)]

/-- COMBINE of a half starts: its emission pointer is at row 0 (R286). -/
def combineStart (s : State) (u : UCmd) : UCmd × State :=
  let h := u.queue % 2
  let t := (s.clearItems 8 h).clearItems 6 h
  ({ u with half := some (BitVec.ofNat 1 h).toFin },
   { t with reb := { t.reb with eptr := t.reb.eptr.set h 0, active := t.reb.active.set h true, emitted := t.reb.emitted.set h 0 } })

/-- Slots of a half that are not released. -/
def State.halfSlots (s : State) (h : Nat) : List Nat :=
  (s.reb.slots.filter fun p => decide (p.2.st ≠ RState.free) && decide (p.2.half.val = h)).map (·.1)

/-- What Rebound does for a started COMBINE: the tokens that are complete are finished; it ends when its pointer has passed
the half's last row and every slot of the half is released (R288). -/
def combineWork (s : State) (u : UCmd) : UCmd × State :=
  let h := u.queue % 2
  match s.rowsOf h with
  | some n =>
    if s.reb.eptr.getD h 0 = n ∧ s.halfSlots h = [] ∧ s.flowing u.queue = false then
      let r := { s.reb with active := s.reb.active.set h false, rows := s.reb.rows.set h none, taken := s.reb.taken.set h 0 }
      let t : State := { s with
        reb := r
        ref := { s.ref with outDig := s.ref.outDig.set h (s.items 8 h).2, emitted := s.ref.emitted.set h 0 } }
      ({ u with out := some n, value := BitVec.ofNat 64 (t.reb.emitted.getD h 0) }, t.formFor 6 u.half)
    else (u, (s.halfSlots h).foldl State.finishToken s)
  | none => (u, (s.halfSlots h).foldl State.finishToken s)

/-- Rebound's pass over a COMBINE. -/
def combineRun (s : State) (u : UCmd) : State := s.drive u combineCheck combineStart combineWork

/-- REBOUND.COMBINE (R84). -/
def execReboundCombine (c : Ctx) (f : Fields) (s : State) : Out :=
  .next (s.issueUnit c (.reboundCombine c f) f combineRun)

/-! ### Emission (R286, R287) -/

/-- Choices set in a mask. -/
def maskCount (m : BitVec 16) : Nat := ((List.range 16).filter fun i => m.getLsbD i).length

/-- Bytes of the header of a result packet (R286). -/
def resultHeader (r : RSlot) (n fmt : Nat) : List Byte :=
  natLe 2 r.row ++ natLe 1 (r.half.val + 2 * b2n (decide (r.adm = 0))) ++ natLe 1 (maskCount r.adm) ++ natLe 2 r.batch.toNat ++
    natLe 1 r.gen.toNat ++ [0#8] ++ natLe 4 r.gidx ++ natLe 2 n ++ natLe 1 fmt ++ List.replicate 48 0#8 ++ [1#8]

/-- The result of a slot that can be emitted: zeros for a token with every choice dropped (R287), else what is held for it. -/
def State.resultBytes (s : State) (r : RSlot) (size : Nat) : Option (List Byte) :=
  if r.known ∧ r.adm = 0 then some (List.replicate size 0#8)
  else match r.result, r.resAddr with
    | some _, some addr => some (s.bytes addr size)
    | some bs, none => some bs
    | none, _ => none

/-- Slot `n` is OPEN for a row of a half. -/
def State.openFor (s : State) (n h row : Nat) : Bool :=
  let r := s.rslot n
  decide (r.st = RState.open_) && decide (r.half.val = h) && decide (r.row = row)

/-- The OPEN slot of a row, if it has one. -/
def State.rowOpen (s : State) (h row : Nat) : Option Nat := (s.rowSlot h row).filter fun n => s.openFor n h row

/-- The row's slot has been cancelled, and may have been released since; a row that a replay has still to take has no slot in the row
map (R286, R357). -/
def State.rowGone (s : State) (h row : Nat) : Bool := (s.rowSlot h row).any fun n => !s.openFor n h row

/-- The pointer passes rows whose tokens are cancelled; fuel bounds them. -/
def State.passRows (s : State) (h : Nat) : Nat → State
  | 0 => s
  | k + 1 =>
    let p := s.reb.eptr.getD h 0
    if p < s.takenOf h ∧ s.rowGone h p = true then
      State.passRows { s with reb := { s.reb with eptr := s.reb.eptr.set h (p + 1) } } h k
    else s

/-- The first poisoned line that emitting the result of a slot would read: of its answer slot, or of the row emitted before. -/
def State.lostResult (s : State) (u : UCmd) (r : RSlot) (size : Nat) : Option Nat :=
  match r.resAddr.bind fun a => s.lostIn a size with
  | some l => some l
  | none =>
    if r.row < s.ref.emitted.getD r.half.val 0 then s.lostIn ((u.descA.rowRuns r.row).headD 0) size else none

/-- The result of the slot is emitted: packet, destination row, digests and counts; the slot is released. A row that was emitted
before its half was discarded is not emitted again, and its digest item is what stands in the destination (R358). -/
def State.emit (s : State) (u : UCmd) (n : Nat) (bs : List Byte) : State :=
  let r := s.rslot n
  let h := r.half.val
  let d := u.descA
  let a := (d.rowRuns r.row).headD 0
  let again := decide (r.row < s.ref.emitted.getD h 0)
  let bs := if again then s.bytes a bs.length else bs
  let hdr := resultHeader r (d.ext 0) d.fmt
  let t := if again then s else
    let t := (s.push u.queue (packetOf 7 (lineOf hdr :: linesOf bs.length bs))).setBytes a bs
    let t := if r.adm = 0 then t.bump 0x0C0054 1 else t
    t.bump 0x0C0058 1
  let t := (t.addItem 8 h (natLe 8 r.gidx ++ natLe 2 (d.ext 0) ++ bs)).addItem 6 h (hdr ++ bs)
  let t := { t with reb := { t.reb with eptr := t.reb.eptr.set h (r.row + 1)
                                        emitted := t.reb.emitted.set h (t.reb.emitted.getD h 0 + 1) } }
  t.releaseSlot n

/-- RESULT_EMISSION (R286): the pointer passes cancelled rows, and emits the row it comes to when that is finished and the packet
before it has entered the egress queue whole. A result on a poisoned line goes no further (R305, R354). -/
def execResultEmission (h : Half) (s : State) : Out :=
  .next (match s.combineOf h.val with
    | none => s
    | some u =>
      let t := s.passRows h.val (s.takenOf h.val)
      let p := t.reb.eptr.getD h.val 0
      if t.takenOf h.val ≤ p then t else
      match t.rowOpen h.val p with
      | none => t
      | some n =>
        let t := t.finishToken n
        let size := u.descA.ext 0 * unitSize u.descA.fmt
        match t.resultBytes (t.rslot n) size with
        | none => t
        | some bs =>
          if t.flowing u.queue then t else
          match t.lostResult u (t.rslot n) size with
          | some l => t.lostOnce l h
          | none => t.emit u n bs)

/-! ### Cancellation (R289) -/

/-- A slot is cancelled: what is held for it is freed with the reservations of its parked answers, and it drains. -/
def State.cancelSlot (s : State) (n : Nat) : State :=
  let t := (s.freeHeld n).returnRes n (s.rslot n).heldRes
  (t.setRslot n { t.rslot n with st := .cancelled }).drainSlot n

/-- Every OPEN slot of a kind is cancelled; how many there were. -/
def State.cancelWhere (s : State) (p : RSlot → Bool) : Nat × State :=
  let l := (s.reb.slots.filter fun x => decide (x.2.st = RState.open_) && p x.2).map (·.1)
  (l.length, l.foldl State.cancelSlot s)

/-- A write of `REB_CANCEL` (R289). -/
def State.cancelWrite (s : State) (v : Word) : Byte × State :=
  if !v.getLsbD 31 then (codeOk, s) else
  let (k, t) := s.cancelWhere fun r => decide (r.batch = BitVec.ofNat 14 v.toNat)
  (codeOk, { t with reb := { t.reb with cancelled := k } })

/-- REB_CANCEL (R289). -/
def execRebCancel (batch : BitVec 14) (s : State) : Out :=
  .next (s.hostWrite 0x0C0020 fun t => t.cancelWrite (BitVec.ofNat 32 (batch.toNat + 2 ^ 31)))

end Sys2Proof.Machine
end

