-- ==== Sys2Proof/Machine/Complete.lean ====
section
/-! DEFINITION. What the unit of a command does next, and UNIT_COMMAND_COMPLETION (R41), with the histogram slot of an ADMIT
(R177) and the output-block header of a COMBINE (R345). -/

namespace Sys2Proof.Machine

/-- One pass of the command's unit over it. -/
def unitRun (s : State) (u : UCmd) : State :=
  match u.op with
  | .norm _ _ => normRun s u
  | .pos _ _ => posRun s u
  | .score _ _ => scoreRun s u
  | .smax _ _ => smaxRun s u
  | .topk _ _ => topkRun s u
  | .admitRows _ _ => admitRun s u
  | .scout _ _ => scoutRun s u
  | .huddle _ _ => huddleRun s u
  | .pack _ _ => packRun s u
  | .keep _ _ => keepRun s u
  | .volley _ _ => volleyRun s u
  | .recvIn _ _ => recvInRun s u
  | .recvNet _ _ => recvNetRun s u
  | .reboundCombine _ _ => combineRun s u
  | .reboundRet _ _ => retRun s u
  | .fuse _ _ => fuseRun s u
  | .micro _ _ => microRun s u
  | .copy _ _ => copyRunCmd s u
  | .xpose _ _ => xposeRunCmd s u
  | .gather _ _ => gatherRun s u
  | .scatter _ _ => scatterRun s u
  | .scatterAdd _ _ => scatterAddRun s u
  | _ => s

/-! ### Output-block headers (R345) -/

/-- The 64 bytes of a header. -/
def State.blockHeader (s : State) (h : Half) (emitted : Nat) : List Byte :=
  natLe 8 s.step.toNat ++ natLe 2 (s.batch h.val).toNat ++ natLe 1 (h.val + 4 * (s.gen h.val).toNat) ++
  natLe 1 (s.ref.halfGate.getD h.val 0) ++ natLe 4 emitted ++ natLe 8 (s.briale h).toNat ++
  natLe 8 (s.ref.outDig.getD h.val 0).toNat ++ natLe 8 (s.ref.inDig.getD h.val 0).toNat ++ List.replicate 16 0#8 ++
  natLe 8 s.step.toNat

/-- Base of the output-block ring. -/
def State.obhBase (s : State) : Nat := s.fld 0x0E0114 31 6 * 64 + s.fld 0x0E0118 15 0 * 2 ^ 32

/-- A completed COMBINE writes its header, or a full ring drops it. -/
def State.outHeader (s : State) (u : UCmd) : State :=
  if s.fld 0x0E0110 0 0 = 0 then s else
  let n := ringSlots (s.fld 0x0E0110 4 1)
  let wr := s.fld 0x0E011C 12 0
  let rd := s.fldNow 0x0E0120 12 0
  if n ≤ (wr + 8192 - rd) % 8192 then
    let t := s.bump 0x2214 1
    { t with adm := { t.adm with sflags := t.adm.sflags ||| 0x4#16 } }
  else
    let h : Half := ⟨u.queue % 2, Nat.mod_lt _ (by decide)⟩
    let t := s.setBytes (s.obhBase + wr % n * 64) (s.blockHeader h (u.value.toNat % 2 ^ 32))
    t.setFld 0x0E011C 12 0 ((wr + 1) % 8192)

/-- OBH_RD_WRITE (R345): refused with BOUNDS when (WR − RD) mod 8192 would exceed the slot count. -/
def State.obhRd (s : State) (v : Word) : Byte × State :=
  let rd := bitsOf v.toNat 12 0
  if ringSlots (s.fld 0x0E0110 4 1) < (s.fld 0x0E011C 12 0 + 8192 - rd) % 8192 then (codeBounds, s)
  else (codeOk, s.liveWrite 0x0E0120 (BitVec.ofNat 32 rd))

/-- OBH_RD_WRITE. -/
def execObhRdWrite (v : Word) (s : State) : Out := .next (s.hostWrite 0x0E0120 fun t => t.obhRd v)

/-! ### Completion (R41) -/

/-- What else a command does as it completes with OK. -/
def State.atEnd (s : State) (u : UCmd) (r : UResult) : State :=
  if r.code ≠ codeOk then s else
  match u.op with
  | .admitRows _ _ => s.histogram u
  | .reboundCombine _ _ => s.outHeader u
  | _ => s

/-- UNIT_COMMAND_COMPLETION (R41): the unit goes on with the command as far as it can; once it has finished it, the command
completes in its context. -/
def execUnitCommandCompletion (c : Ctx) (serial : BitVec 16) (s : State) : Out :=
  .next (match s.cmd c serial with
    | none => s
    | some u =>
      let t := if u.result.isNone && s.isHead u then unitRun s u else s
      match t.cmd c serial with
      | none => t
      | some v => match v.result with
        | some r => (t.atEnd v r).complete v r
        | none => t)

end Sys2Proof.Machine
end

