-- ==== Sys2Proof/Machine/Boundary.lean ====
section
/-! DEFINITION. STEP, SAVE, RESTORE, CNT and SEED (R53, R88, R89), and the step boundary: staged values (R53, R363), steering
(R174 to R176), the step record (R180, R379), the checkpoint (R356), the SAVE image (R346 to R348), and the whistle (R54). -/

namespace Sys2Proof.Machine

/-! ### Instructions -/

/-- STEP (R53): the context holds the STEP, waits for its outstanding commands and enters STEPWAIT. -/
def execStepInsn (c : Ctx) (f : Fields) (s : State) : Out :=
  .next (s.localOp c (.stepInsn c f) f [] false fun t =>
    (t.setCtx c { t.ctx c with drain := .toStepwait }).drained c)

/-- Bytes of a SAVE image (R346). -/
def saveBytes : Nat := 1126400

/-- SAVE or RESTORE issues (R88): OFFSIDE while one is armed, ALIGN for an address that is not 4 KiB aligned, BOUNDS for an image
beyond the stacks (log entry 24); otherwise it is armed, and its code comes at the boundary. -/
def State.armImage (s : State) (c : Ctx) (f : Fields) (restore : Bool) : State :=
  let x := s.ctx c
  let a := (x.xr f.srcA).toNat
  match lowest [(s.arm.isSome || s.saving.isSome, codeOffside), (decide (a % 4096 ≠ 0), codeAlign),
      (decide (s.stackBytes < a + saveBytes), codeBounds)] with
  | some k => s.retire c k
  | none => { s.setCtx c (x.after x.pc) with arm := some ⟨restore, c, x.pc, a⟩ }

/-- SAVE (R88). -/
def execSaveInsn (c : Ctx) (f : Fields) (s : State) : Out :=
  .next (s.localOp c (.saveInsn c f) f [] false fun t => t.armImage c f false)

/-- RESTORE (R88). -/
def execRestoreInsn (c : Ctx) (f : Fields) (s : State) : Out :=
  .next (s.localOp c (.restoreInsn c f) f [] false fun t => t.armImage c f true)

/-- Offset of event counter `n`, if it is defined (R381). -/
def counterOffset (n : Nat) : Option Nat :=
  if n ≤ 0x13 then some (0x2100 + 4 * n)
  else if 0x40 ≤ n ∧ n ≤ 0x45 then some (0x2200 + 4 * (n - 0x40)) else none

/-- CNT (R89, R381). -/
def execCnt (c : Ctx) (f : Fields) (s : State) : Out :=
  .next (s.localOp c (.cnt c f) f [] true fun t =>
    match counterOffset (bitsOf f.imm.toNat 15 0) with
    | some off => t.retireX c f.dst (BitVec.ofNat 64 (t.reg off).toNat)
    | none => t.retire c codeBounds)

/-- SEED (R89): xA is the seed from the next step boundary on. -/
def execSeed (c : Ctx) (f : Fields) (s : State) : Out :=
  .next (s.localOp c (.seed c f) f [] false fun t =>
    ({ t with seedNext := some ((t.ctx c).xr f.srcA) } : State).retire c codeOk)

/-! ### The step group (R53, R55) -/

/-- The contexts that are neither FREE nor HALTED. -/
def State.group (s : State) : List Nat :=
  (s.ctxs.filter fun c => decide (c.2.st ≠ .free) && decide (c.2.st ≠ .halted)).map (·.1)

/-- Every member of the step group is in STEPWAIT, and there is one. -/
def State.allStepwait (s : State) : Bool :=
  decide (s.group ≠ []) && s.group.all fun c => decide ((s.ctx c).st = .stepwait)

/-! ### Staged values (R53, R174, R177, R363, R373) -/

/-- A ring of 2^LOGSLOTS slots lies inside one enabled tensor region (R177). -/
def State.ringInside (s : State) (ctrl base slot : Nat) : Bool := s.inRegion base (ringSlots (s.fld ctrl 4 1) * slot)

/-- EN of a ring's control register is refused where the ring lies outside every region (R177, R345). -/
def State.ringCheck (s : State) (was : Bool) (ctrl base slot : Nat) : State :=
  if s.fld ctrl 0 0 = 1 ∧ !was ∧ !s.ringInside ctrl base slot then (s.setFld ctrl 0 0 0).raiseFlag 5 1 else s

/-- The staged fields of the registers take effect. -/
def State.applyRegs (s : State) : State :=
  let hist := s.fld 0x070018 0 0 == 1
  let obh := s.fld 0x0E0110 0 0 == 1
  let t := s.staged.foldl (fun t e => match e.2 with
    | some (m, v) => t.setReg e.1 ((t.reg e.1 &&& ~~~m) ||| (v &&& m))
    | none => t) s
  let t : State := { t with staged := [] }
  let t := t.ringCheck hist 0x070018 (t.fld 0x070010 31 19 * 2 ^ 19 + t.fld 0x070014 15 0 * 2 ^ 32) 0x80000
  t.ringCheck obh 0x0E0110 t.obhBase 64

/-- With AUTO in force each batch id that the host did not stage rises by 2 (R373). -/
def State.autoBatch (before s : State) : State :=
  if s.fld 0x1014 0 0 = 0 then s else
  [0, 1].foldl (fun t h =>
    if (Tab.get none before.staged (0x100C + 4 * h)).isSome then t
    else t.setFld (0x100C + 4 * h) 13 0 ((t.batch h).toNat + 2)) s

/-- The generation of a half starts at 0 with a batch id that is new to it (R24). -/
def State.newBatch (before s : State) : State :=
  [0, 1].foldl (fun t h =>
    if t.batch h = before.batch h then t else { t with ref := { t.ref with gens := t.ref.gens.set h 0 } }) s

/-- Word `w` of the steering table. -/
def State.steerWord (s : State) (w : Nat) : Nat := loadLe s.tbl.steer (4 * w) 4

/-- Word `w` of the steering table takes a value. -/
def State.setSteer (s : State) (w v : Nat) : State := { s with tbl := { s.tbl with steer := storeLe s.tbl.steer (4 * w) 4 v } }

/-- Entries of a layer that are enabled. -/
def State.steerEnabled (s : State) (l : Nat) : List Nat :=
  (List.range 64).filter fun j => bitOf (s.steerWord (256 * l + 4 * j)) 15

/-- Expert of steering entry `j` of a layer. -/
def State.steerExpert (s : State) (l j : Nat) : Nat := bitsOf (s.steerWord (256 * l + 4 * j)) 11 0

/-- Enabled entries of a layer that name an expert which a lower one names have their EN cleared; how many (R174). -/
def State.steerDups (s : State) (l : Nat) : List Nat :=
  let en := s.steerEnabled l
  en.filter fun j => en.any fun i => decide (i < j) && decide (s.steerExpert l i = s.steerExpert l j)

/-- Each entry once. -/
def distinct : List Nat → List Nat
  | [] => []
  | x :: l => if l.contains x then distinct l else x :: distinct l

/-- Staged steering entries take effect; duplicates of every layer are cleared, with their number (R174). A layer of which the table
lists no byte has no enabled entry. -/
def State.applySteer (s : State) : Nat × State :=
  let t := s.tbl.steerStaged.foldl (fun t e => match e.2 with
    | some v => t.setSteer e.1 v.toNat
    | none => t) s
  let t : State := { t with tbl := { t.tbl with steerStaged := [] } }
  (distinct (t.tbl.steer.map fun e => e.1 / 1024)).foldl (fun acc l =>
    let d := acc.2.steerDups l
    (acc.1 + d.length, d.foldl (fun t j => t.setSteer (256 * l + 4 * j)
      (putBits (t.steerWord (256 * l + 4 * j)) 15 15 0)) acc.2)) (0, t)

/-! ### The steering update (R175, R176) -/

/-- Choices counted for a layer, and demand of one of its entries. -/
def State.choicesOf (s : State) (l : Nat) : Nat := Tab.get 0 s.adm.choices (2 * l) + Tab.get 0 s.adm.choices (2 * l + 1)
def State.demandOf (s : State) (l j : Nat) : Nat :=
  Tab.get 0 s.adm.demand (128 * l + 2 * j) + Tab.get 0 s.adm.demand (128 * l + 2 * j + 1)

/-- The new value of an entry, and whether it was NaN (R176). -/
def steerNext (dem nch : Nat) (target value eta vmax : Fl) : Fl × Bool :=
  let load := fDiv (rn (Fl.ofInt dem)) (rn (Fl.ofInt nch))
  let v := fAdd value (fMul eta (fSub target load))
  if v.isNan then (value, true)
  else if vmax.lt v then (vmax, false)
  else if v.lt vmax.neg then (vmax.neg, false) else (v, false)

/-- A parameter of the update is negative, infinite or NaN. -/
def steerBad (w : Word) : Bool :=
  match f32 w with
  | .nan => true
  | .inf _ => true
  | .fin n m _ => n && decide (m ≠ 0)

/-- One layer is updated; how many of its entries gave a NaN. `keep` holds the value words staged at this boundary. -/
def State.steerLayer (s : State) (keep : List Nat) (eta vmax : Fl) (l : Nat) : Nat × State :=
  let nch := s.choicesOf l
  let js := (s.steerEnabled l).filter fun j => decide (s.steerExpert l j < Tab.get 0 s.adm.layerE l) &&
    !keep.contains (256 * l + 4 * j + 2)
  js.foldl (fun acc j =>
    let w := 256 * l + 4 * j
    let val (i : Nat) : Fl := f32 (BitVec.ofNat 32 (s.steerWord (w + i)))
    let (v, bad) := steerNext (s.demandOf l j) nch (val 1) (val 2) eta vmax
    if bad then (acc.1 + 1, acc.2) else (acc.1, acc.2.setSteer (w + 2) (toF32 v).toNat)) (0, s)

/-- The update of every layer with choices, in ascending order: layers updated, configuration errors, state (R176). -/
def State.steerUpdate (s : State) (keep : List Nat) : Nat × Nat × State :=
  let clear (t : State) : State := { t with adm := { t.adm with demand := [], choices := [] } }
  if s.fld 0x070038 0 0 = 0 then (0, 0, clear s)
  else if steerBad (s.reg 0x070030) || steerBad (s.reg 0x070034) then (0, 1, clear s)
  else
    let layers := (List.range 256).filter fun l => decide (0 < s.choicesOf l)
    let (n, t) := layers.foldl (fun acc l =>
      let r := acc.2.steerLayer keep (f32 (s.reg 0x070030)) (f32 (s.reg 0x070034)) l
      (acc.1 + r.1, r.2)) (0, s)
    (layers.length, n, clear t)

/-! ### The step record (R180, R379) -/

/-- Count `f` of the record, its two halves summed and saturated, and whether it saturated. -/
def State.recCount (s : State) (f : Nat) : Nat × Bool :=
  let n := Tab.get 0 s.adm.srec (2 * f) + Tab.get 0 s.adm.srec (2 * f + 1)
  if n < 2 ^ 32 then (n, false) else (2 ^ 32 - 1, true)

/-- The epoch of table `t` as the record gives it. -/
def State.recEpoch (s : State) (t : Nat) : Byte := (s.banked t).active.getD 0

/-- The 64 bytes of the record of the step that ends. -/
def State.stepRecord (s : State) (steered cfgErrors : Nat) : List Byte :=
  let counts := (List.range 10).map s.recCount
  let un := s.recCount 12
  let none_ (t : Nat) : Nat := b2n (s.banked t).active.isNone
  let flags := b2n s.ordered + 2 * b2n (counts.any (·.2) || un.2) + 8 * b2n (decide (0 < cfgErrors)) +
    64 * none_ 0 + 128 * none_ 1 + 256 * none_ 2 + 512 * none_ 3
  natLe 8 s.step.toNat ++ (counts.flatMap fun p => natLe 4 p.1) ++ (List.range 4).map s.recEpoch ++
  natLe 2 (s.adm.sflags ||| BitVec.ofNat 16 flags).toNat ++ natLe 2 steered ++ natLe 4 un.1 ++ List.replicate 4 0#8

/-- The record goes into the host's ring of 16 and raises the step interrupt; a full ring loses its oldest (R379). -/
def State.postRecord (s : State) (r : List Byte) : State :=
  let wr := s.fld 0x3040 4 0
  let rd := s.fld 0x3044 4 0
  let full := decide ((wr + 32 - rd) % 32 = 16)
  let t := (List.range 16).foldl (fun t j =>
    t.setReg (0x3400 + 0x40 * (wr % 16) + 4 * j) (BitVec.ofNat 32 (leNat ((r.drop (4 * j)).take 4)))) s
  let t := t.setFld 0x3040 4 0 (wr + 1)
  let t := if full then (t.setFld 0x3044 4 0 (rd + 1)).raiseFlag 19 1 else t
  t.raiseInt 1

/-! ### The SAVE image (R346) -/

/-- The number of a context state (R33). -/
def stateNum : CtxState → Nat
  | .free => 0
  | .running => 1
  | .waiting => 2
  | .stepwait => 3
  | .trapped => 4
  | .halted => 5

/-- The context state of a number. -/
def stateOf (n : Nat) : CtxState :=
  match n with
  | 1 => .running
  | 2 => .waiting
  | 3 => .stepwait
  | 4 => .trapped
  | 5 => .halted
  | _ => .free

/-- The 16 bytes of a loop-stack entry. -/
def loopBytes (l : Loop) : List Byte :=
  natLe 4 l.iter ++ natLe 4 l.trip ++ natLe 4 (l.first / 8) ++ natLe 2 l.body ++ natLe 1 l.dst.val ++ [0#8]

/-- The loop that a loop-stack entry describes. -/
def loopOf (bs : List Byte) : Loop :=
  ⟨fieldLe bs 0 4, fieldLe bs 4 4, fieldLe bs 8 4 % 2 ^ 19 * 8, fieldLe bs 12 2,
    ⟨fieldLe bs 14 1 % 32, Nat.mod_lt _ (by decide)⟩⟩

/-- The 384 bytes of a context record; entry 0 of the loop stack is the outermost loop. -/
def Context.record384 (x : Context) : List Byte :=
  natLe 8 x.pc ++ natLe 1 (stateNum x.st) ++ natLe 1 x.loops.length ++ List.replicate 6 0#8 ++
  ((List.range 31).flatMap fun i => natLe 8 (Tab.get 0#64 x.x (i + 1)).toNat) ++
  ((List.range 4).flatMap fun i => natLe 2 (Tab.get 0 x.cs i)) ++ natLe 2 x.serial.toNat ++ List.replicate 14 0#8 ++
  ((x.loops.reverse.flatMap loopBytes ++ List.replicate 64 0#8).take 64) ++ List.replicate 32 0#8

/-- The context that a record describes, with the status that it had before. -/
def Context.ofRecord (bs : List Byte) (x : Context) : Context :=
  let st := stateOf (fieldLe bs 8 1)
  let y : Context := { Context.reset with last := x.last, first := x.first, firstPc := x.firstPc }
  if st = .free then y else
  { y with
    st := st, pc := fieldLe bs 0 8
    x := (List.range 31).foldl (fun t i => Tab.set 0#64 t (i + 1) (BitVec.ofNat 64 (fieldLe bs (16 + 8 * i) 8))) []
    cs := (List.range 4).foldl (fun t i => Tab.set 0 t i (fieldLe bs (264 + 2 * i) 2 % 32768)) []
    serial := BitVec.ofNat 16 (fieldLe bs 272 2)
    loops := ((List.range (Min.min 4 (fieldLe bs 9 1))).map fun i => loopOf (bs.drop (288 + 16 * i))).reverse }

/-- Layer entry of table `t` as the header gives it. -/
def State.layerOf (s : State) (t : Nat) : Nat :=
  if (s.banked t).active.isNone then 0
  else if t = 0 then s.repLayer s.tbl.rep.bank else if t = 1 then s.tbl.gateNow.entry.toNat else 0

/-- The four bytes of a table in the header. -/
def State.tableBytes (s : State) (t : Nat) : List Byte :=
  let b := s.banked t
  match b.active with
  | some e => natLe 4 (e.toNat + b.bank.val * 2 ^ 8 + 2 ^ 9 + s.layerOf t * 2 ^ 16)
  | none => natLe 4 0

/-- The four bytes of `VOL_INST`. -/
def State.instBytes (s : State) : List Byte := [s.openInst 0, s.openInst 1, s.sendInst 0, s.sendInst 1]

/-- The header of an image with a given digest. -/
def State.imageHeader (s : State) (digest : DWord) : List Byte :=
  let h := natLe 4 0x45564153 ++ natLe 4 1 ++ natLe 4 saveBytes ++ natLe 4 (b2n s.gradeB + 256 * b2n s.ordered) ++
    natLe 4 Config.behaviourId.toNat ++ natLe 4 0 ++ natLe 8 s.step.toNat ++ natLe 8 s.seed.toNat ++
    natLe 8 s.ref.progDig.toNat ++ natLe 8 digest.toNat ++ (List.range 4).flatMap s.tableBytes ++ s.instBytes ++
    natLe 4 ((s.gen 0).toNat + 4 * (s.gen 1).toNat) ++ natLe 2 (s.fld 0x07001C 12 0)
  (h ++ List.replicate 4096 0#8).take 4096

/-- What follows the header. -/
def State.imageBody (s : State) : List Byte :=
  ((List.range 128).flatMap fun c => (s.ctx c).record384) ++
  ((List.range 4096).flatMap fun n => lineBytes (s.slot n).bits) ++
  (((List.range 512).flatMap fun i => natLe 1 ((List.range 8).foldl (fun v j => v + b2n (s.slot (8 * i + j)).valid * 2 ^ j) 0)) ++
    List.replicate 3584 0#8) ++
  ((List.range 32768).flatMap fun n => natLe 4 (s.obj n).cnt.toNat ++ natLe 4 (s.obj n).thr.toNat) ++
  bytesRead s.tbl.steer 0 262144 ++
  (if s.tbl.rep.active.isSome then bytesRead s.tbl.repMem (s.tbl.rep.bank.val * repBank) 278784 else List.replicate 278784 0#8) ++
  List.replicate 3840 0#8

/-- The whole image. -/
def State.imageBytes (s : State) : List Byte :=
  let body := s.imageBody
  s.imageHeader (bdig (s.imageHeader 0 ++ body)) ++ body

/-! ### RESTORE (R348) -/

/-- Some queue holds a word. -/
def State.anyWord (s : State) : Bool := s.queues.any fun q => decide (0 < q.2.occ)

/-- The image at an address does not fit this engine. -/
def State.imageBad (s : State) (a : Nat) : Bool :=
  let n (o k : Nat) : Nat := s.num (a + o) k
  let bs := s.bytes a saveBytes
  let zeroed := bs.take 0x30 ++ List.replicate 8 0#8 ++ bs.drop 0x38
  decide (n 0 4 ≠ 0x45564153) || decide (n 4 4 ≠ 1) || decide (n 8 4 ≠ saveBytes) ||
  decide (n 0x30 8 ≠ (bdig zeroed).toNat) || decide (n 0x0C 1 % 2 ≠ b2n s.gradeB) ||
  decide (n 0x10 4 ≠ Config.behaviourId.toNat) || decide (n 0x28 8 ≠ s.ref.progDig.toNat)

/-- The tables of an image come into force. -/
def State.loadTables (s : State) (a : Nat) : State :=
  let w (t : Nat) : Nat := s.num (a + 0x38 + 4 * t) 4
  let epoch (t : Nat) : Option Byte := if bitOf (w t) 9 then some (BitVec.ofNat 8 (w t)) else none
  let bank (t : Nat) : Fin 2 := ⟨bitsOf (w t) 8 8 % 2, Nat.mod_lt _ (by decide)⟩
  let lo := (bank 0).val * repBank
  let rep : Banked := match epoch 0 with | some e => ⟨some e, bank 0, false, false⟩ | none => .reset
  let mem := if (epoch 0).isSome then
      bytesWrite (s.tbl.repMem.filter fun c => decide (c.1 < lo) || decide (lo + repBank ≤ c.1)) lo
        (s.bytes (a + 0xCE000) 278784)
    else s.tbl.repMem
  let t : State := { s with tbl := { s.tbl with rep := rep, repMem := mem, gateLd := { s.tbl.gateLd with busy := false } } }
  let t := match epoch 1 with
    | some e =>
      let t := t.startGate (bitsOf (w 1) 23 16)
      let g := t.gateEntry (bitsOf (w 1) 23 16)
      { t with tbl := { t.tbl with
        gate := ⟨some e, bank 1, false, decide (g.mode ≠ 2)⟩, gateNow := g, gateLd := { t.tbl.gateLd with fresh := false } } }
    | none => { t with tbl := { t.tbl with gate := .reset } }
  let swap (b : Banked) (e : Option Byte) : Banked :=
    match e with | some e => ⟨some e, b.shadow, false, false⟩ | none => b
  { t with tbl := { t.tbl with sfu := swap t.tbl.sfu (epoch 2), bias := swap t.tbl.bias (epoch 3) } }

/-- Everything in the image at an address is loaded. -/
def State.loadImage (s : State) (a : Nat) : State :=
  let ctxs := (List.range 128).foldl (fun t c => Tab.set Context.reset t c
    (Context.ofRecord (s.bytes (a + 0x1000 + 384 * c) 384) (s.ctx c))) []
  let slots := (List.range 4096).foldl (fun t n => Tab.set Slot.reset t n
    ⟨BitVec.ofNat 512 (s.num (a + 0xD000 + 64 * n) 64), bitOf (s.num (a + 0x4D000 + n / 8) 1) (n % 8)⟩) []
  let sync := (List.range 32768).foldl (fun t n => Tab.set SyncObj.reset t n
    ⟨BitVec.ofNat 32 (s.num (a + 0x4E000 + 8 * n) 4), BitVec.ofNat 32 (s.num (a + 0x4E004 + 8 * n) 4)⟩) []
  let i (k : Nat) : Byte := s.byte (a + 0x48 + k)
  let g := s.num (a + 0x4C) 4
  let t : State := { s with
    ctxs := ctxs, slots := slots, sync := sync, syncWr := [], step := BitVec.ofNat 64 (s.num (a + 0x18) 8)
    seed := BitVec.ofNat 64 (s.num (a + 0x20) 8)
    tbl := { s.tbl with steer := bytesWrite [] 0 (s.bytes (a + 0x8E000) 262144) }
    vol := { s.vol with openInst := [i 0, i 1], sendInst := [i 2, i 3] }
    ref := { s.ref with gens := [BitVec.ofNat 2 g, BitVec.ofNat 2 (g / 4)] } }
  let t := (t.setFld 0x1000 0 0 (s.num (a + 0x0D) 1)).setFld 0x07001C 12 0 (s.num (a + 0x50) 2)
  (t.loadTables a).newProgramDigest

/-! ### The boundary -/

/-- An armed SAVE or RESTORE ends with a code in its context; a trap acts before the context's next issue (R57, R88). -/
def State.endArm (s : State) (cap : Capture) (code : Byte) : State :=
  let c := cap.c.val
  let x := s.ctx c
  s.setCtx c { x.record code cap.pc with trapDue := s.trapOn c code && decide (x.st = .stepwait) }

/-- The armed SAVE or RESTORE acts (R88, R347, R348). -/
def State.doArm (s : State) : State :=
  match s.arm with
  | none => s
  | some cap =>
    let t : State := { s with arm := none }
    if t.anyWord || (!cap.restore && t.ref.repair) then t.endArm cap codeOffside
    else if cap.restore then
      (match t.imageLostRead cap.addr saveBytes with
       | some u => u.endArm cap codeFault
       | none => if t.imageBad cap.addr then t.endArm cap codeFormat else (t.loadImage cap.addr).endArm cap codeOk)
    else
      let u := (t.setBytes cap.addr t.imageBytes).cureRange cap.addr saveBytes
      { u with saving := some cap }

/-- A context as it is released from STEPWAIT (R54): its STEP ends with OK. -/
def Context.stepped (x : Context) : Context :=
  let y := (x.record codeOk x.pc).after x.pc
  { y with st := .running }

/-- Every member in STEPWAIT is released; one with a trap due enters TRAPPED before its next issue (R57). -/
def State.releaseAll (s : State) : State :=
  s.group.foldl (fun t c =>
    let x := t.ctx c
    if x.st ≠ CtxState.stepwait then t else
    let u := t.setCtx c x.stepped
    if x.trapDue then u.trap c (u.ctx c).pc false else u) { s with boundary := false }

/-- The whistle is tested (R54). -/
def State.whistle (s : State) : State :=
  if 0 < s.standing then ({ s with standing := s.standing - 1 } : State).releaseAll else { s with boundary := true }

/-- The checkpoint is taken, as the members will go on, and the journals are opened (R356). -/
def State.checkpoint (s : State) : State :=
  { s with ref := { s.ref with
      check := s.group.foldl (fun t c => Tab.set none t c (some (s.ctx c).stepped)) []
      journal := [], jpos := [], replay := false, rehalves := [], discards := [0, 0], emitted := [0, 0], rowHalf := [] }
           vol := { s.vol with eohLeft := [false, false] } }

/-- Progress queues are flushed and recorded writers cleared (R118). -/
def State.endProgress (s : State) : State :=
  let qs := (s.queues.map (·.1)).filter fun q => (s.queueWords q).any fun w => decide (w.kind = 5#3)
  let t := qs.foldl State.flush s
  (t.ctxs.map (·.1)).foldl (fun t c => t.setCtx c { t.ctx c with writers := [] }) t

/-- Reports that have come are compared, live audits are then freed and counted, and the fallback rate is tested (R202, R203). -/
def State.scoutBoundary (s : State) : State :=
  let s := s.auditAll (s.queue (s.fld 0x08002C 11 0)).occ
  let t := s.bump 0x080024 s.scout.audits.length
  let rate := s.fld 0x080030 15 0
  let t := if rate ≠ 0 ∧ rate * s.scout.rows < s.scout.fallbacks * 65536 then t.raiseFlag 8 1 else t
  { t with scout := { t.scout with audits := [], rows := 0, fallbacks := 0 } }

/-- The staged values take effect: registers, batch ids, seed, steering entries and values. Layers updated, configuration errors,
and the state after. -/
def State.stagedStep (s : State) : Nat × Nat × State :=
  let keep := s.tbl.steerStaged.map (·.1)
  let t := State.newBatch s (State.autoBatch s s.applyRegs)
  let t : State := { t with seed := t.seedNext.getD t.seed, seedNext := none }
  let (dups, t) := t.applySteer
  let (n, bad, t) := t.steerUpdate keep
  (n, dups + bad, if 0 < dups + bad then t.raiseFlag 4 (dups + bad) else t)

/-- The record of the step that ended is posted, its digest item formed, and its counts begin anew (R53, R180, R350). -/
def State.endStep (s : State) (steered cfgErrors : Nat) : State :=
  let r := s.stepRecord steered cfgErrors
  let item := r.take 32 ++ (r.drop 48).take 4 ++ (r.drop 54).take 6
  let t := (((s.clearItems 7 0).addItem 7 0 item).formDigest 7 0).postRecord r
  { t with adm := { t.adm with srec := [], sflags := 0, expDemand := [] } }

/-- The step number rises (R53). -/
def State.nextStep (s : State) : State := { s with step := s.step + 1 }

/-- STEP_BOUNDARY (R53, R54, R88): with every member in STEPWAIT. The record is that of the step that ended, a RESTORE comes after it
(R180, R348). -/
def execStepBoundary (s : State) : Out :=
  .next (if !s.allStepwait || s.boundary || s.saving.isSome || s.ref.replayDue || s.ref.recov then s else
    let (n, bad, t) := s.scoutBoundary.stagedStep
    let t := ((t.endProgress.endStep n bad).doArm.nextStep).checkpoint
    if t.saving.isSome then t else t.whistle)

/-- SAVE_IMAGE_WRITTEN (R347): SAVE completes, and the release goes ahead. -/
def execSaveImageWritten (s : State) : Out :=
  .next (match s.saving with
    | some cap => (({ s with saving := none } : State).endArm cap codeOk).whistle
    | none => s)

end Sys2Proof.Machine
end

