-- ==== Sys2Proof/Machine/Referee.lean ====
section
/-! DEFINITION. The Referee's handling of faults: fault records (R355), early faults and re-issue (R357), replay (R358, R359),
late faults and step loss (R360), the progress watchdog (R353), substitution (R338), and the registers that clear what it
records (R352, R368). -/

namespace Sys2Proof.Machine

/-! ### Fault records (R355) -/

/-- The 32 bytes of a fault record. -/
def State.recordBytes (s : State) (seq : Word) (r : FaultRep) (action : Nat) : List Byte :=
  let hb : Nat × Nat × Nat := match r.half with
    | some h => ((s.batch h.val).toNat, h.val + 4 * (s.gen h.val).toNat, (s.sendInst h.val).toNat)
    | none => (0, 2, 0)
  natLe 4 seq.toNat ++ natLe 8 s.spcnt.toNat ++ [r.mech] ++ natLe 1 action ++ natLe 2 r.item.toNat ++
  natLe 2 r.logical.toNat ++ natLe 2 hb.1 ++ natLe 1 hb.2.1 ++ natLe 1 hb.2.2 ++ natLe 2 0 ++ natLe 8 r.detail.toNat

/-- A fault record goes into the ring of 64 and raises the fault interrupt; sequences run from 1 and pass 0. Record i holds
sequences 1 + i modulo 64 (log entry 25). -/
def State.faultRecord (s : State) (r : FaultRep) (action : Nat) : State :=
  let seq : Word := if s.ref.fseq = 0xFFFFFFFF#32 then 1 else s.ref.fseq + 1
  let bs := s.recordBytes seq r action
  let i := (seq.toNat + 63) % 64
  let frec := (List.range 8).foldl (fun t j =>
    Tab.set 0#32 t (8 * i + j) (BitVec.ofNat 32 (leNat ((bs.drop (4 * j)).take 4)))) s.ref.frec
  ({ s with ref := { s.ref with frec := frec, fseq := seq } } : State).raiseInt 3

/-- Reports in ascending mechanism code (R359). -/
def byMech (l : List FaultRep) : List FaultRep :=
  (List.range 16).flatMap fun m => l.filter fun r => decide (r.mech.toNat = m)

/-- Reports that name no half and lose no step are recorded: nothing is re-issued for them, and their action is free, as R355 names
none for them (log entry 26). -/
def State.noHalf (s : State) : State :=
  let mine := s.ref.faults.filter fun r => r.half.isNone && !r.lost
  let t : State := { s with ref := { s.ref with faults := s.ref.faults.filter fun r => !(r.half.isNone && !r.lost) } }
  (byMech mine).foldl (fun t r =>
    let (k, t) := t.draw
    t.faultRecord r (Config.flowKey k 1 % 6)) t

/-! ### Errors of the block's own stores and operations (R353) -/

/-- A masked fault counts for its mechanism; the count wraps. -/
def State.maskedBy (s : State) (mech : Nat) : State :=
  { s with ref := { s.ref with masked := Tab.upd 0 s.ref.masked mech fun v => (v + 1) % 2 ^ 32 } }

/-- The Referee reloads the bank of the active gate from its image (R353); a streamed gate has none. -/
def State.reloadGate (s : State) : State :=
  let g := s.tbl.gateNow
  if s.tbl.gate.active = none ∨ g.mode = 2 then s else
  match s.imageLostRead g.base g.bytes with
  | some t => t
  | none =>
    let at_ := if g.mode = 1 then 0 else s.tbl.gate.bank.val * 33554432
    { s with tbl := { s.tbl with gateMem := bytesWrite s.tbl.gateMem at_ (s.bytes g.base g.bytes) } }

/-- The Referee reloads the active bank of the replica table from its image (R353). -/
def State.reloadRep (s : State) : State :=
  let b := s.tbl.rep.bank
  let a := s.repBase (s.repLayer b)
  let n := 0x4100 + 4 * s.repN b
  if s.tbl.rep.active = none then s else
  match s.imageLostRead a n with
  | some t => t
  | none => { s with tbl := { s.tbl with repMem := bytesWrite s.tbl.repMem (b.val * repBank) (s.bytes a n) } }

/-- What a checker has found is masked, or reported to the Referee (R353, R360). Huddle's own check has no packet: the packet id of
its detail is free. -/
def State.found (s : State) (f : Found) : State :=
  let fault (mech : Byte) (h : Option Half) (lost : Bool) : FaultRep := ⟨mech, h, 0, 0xFFFF, 0, lost⟩
  match f with
  | .nothing => s
  | .single => s.maskedBy 1
  | .repeated => s.maskedBy 3
  | .refetched => s.maskedBy 6
  | .double h => s.report (fault 0x02 (some h) false)
  | .doubleTable gate h => (if gate then s.reloadGate else s.reloadRep).report (fault 0x02 (some h) false)
  | .doubleShared => s.report (fault 0x02 none true)
  | .unconserved h =>
    let (k, t) := s.draw
    t.report { fault 0x04 (some h) false with detail := BitVec.ofNat 64 (Config.flowKey k 2 % 2 ^ 32 + 2 ^ 32 * s.chip) }

/-! ### Discarding a half (R357) -/

/-- A reservation that requester `r` of pool `n` waits for is given up. -/
def State.noWait (s : State) (n r : Nat) : State :=
  let p := s.pool n
  s.setPool n { p with waiting := p.waiting.filter fun w => !(decide (w.1 = r) && decide (w.2 ≠ 0)) }

/-- What a unit gives up with a command that is stopped. -/
def State.stopCmd (s : State) (u : UCmd) : State :=
  match u.op with
  | .admitRows _ _ => { s with adm := { s.adm with recs := [], stalled := false } }
  | .huddle _ _ =>
    let n := s.fld 0x090208 2 0
    let t : State := { s with hud := { s.hud with recs := [], resv := [] } }
    s.hud.resv.foldl (fun t i => t.poolGive n 0 i) (if u.stage = 0 then t.noWait n 0 else t)
  | .volley _ _ =>
    let n := s.fld 0x0B0008 2 0
    let t : State := { s with vol := { s.vol with resv := [] } }
    s.vol.resv.foldl (fun t i => t.poolGive n 1 i) (if u.stage = 0 then t.noWait n 1 else t)
  | .scout _ _ => { s with scout := { s.scout with bins := [] } }
  | .reboundCombine _ _ => { s with reb := { s.reb with active := s.reb.active.set (u.queue % 2) false } }
  | .reboundRet _ _ =>
    match u.half with
    | some h => if u.stage = 1 then { s with reb := { s.reb with nets := s.reb.nets ++ [⟨u.slotA, h, u.n1, false⟩] } } else s
    | none => s
  | _ => s

/-- Every command of a half is stopped, its completion withheld. -/
def State.stopHalf (s : State) (h : Half) : State :=
  let gone := s.ucmds.filter fun u => decide (u.half = some h)
  gone.foldl State.stopCmd { s with ucmds := s.ucmds.filter fun u => decide (u.half ≠ some h) }

/-- Queue `q` belongs to the send-queue block of a half. -/
def State.inSendBlock (s : State) (h q : Nat) : Bool :=
  let (b, n) := s.sendBlock h
  decide ((q + 4096 - b) % 4096 < n)

/-- The companion slot of a journal entry that has one. -/
def JEnt.slotC (e : JEnt) : Option Nat :=
  if readsC e.op || writesC e.op then
    some ((e.idx.getD (match e.op with | .norm _ _ => 1 | _ => 0) 0 + 1) % 4096)
  else none

/-- The progress queue that slot `n` names, if it is tracked. -/
def State.progressQueue (s : State) (n : Nat) : List Nat :=
  let d := descOf (s.slot n).bits
  if d.trk then [d.pq] else []

/-- Admission-record, send and progress queues that the journal entries of a half name. -/
def State.halfQueues (s : State) (h : Half) : List Nat :=
  let es := s.ref.journal.flatMap fun j => j.2.filter fun e => e.unit && decide (e.half = some h)
  let own := es.flatMap fun e =>
    let i (k : Nat) : Nat := e.idx.getD k 0
    let q := match e.op with
      | .admitRows _ _ | .huddle _ _ | .volley _ _ => [i 2]
      | _ => []
    q ++ s.progressQueue (i 0) ++ (if writesB e.op then s.progressQueue (i 1) else []) ++
      (match e.slotC with | some n => s.progressQueue n | none => [])
  let send := (s.queues.map (·.1)).filter fun q => s.inSendBlock h.val q && decide ((s.queue q).cls = .unit)
  distinct (own ++ (if es.any fun e => match e.op with | .huddle _ _ => true | _ => false then send else []))

/-- Queues flushed, Huddle's bank cleared, send lists returned, frames that wait for a port discarded, and the per-destination
counts zero. -/
def State.emptyHalf (s : State) (h : Half) : State :=
  let t := (s.halfQueues h).foldl State.flush s
  let t := t.setHbank h.val HudBank.reset
  let mine := t.vol.jobs.filter fun j => t.inSendBlock h.val j.queue
  let t := mine.foldl (fun t j => j.bufs.foldl (fun t b => t.poolGive j.pool 1 b.2) t) t
  { t with vol := { t.vol with
      jobs := t.vol.jobs.filter fun j => !t.inSendBlock h.val j.queue
      stuck := t.vol.stuck.filter fun f => !(decide (f.kind = 1) && decide (f.half = h) && decide (f.origin = t.chip))
      destCnt := t.vol.destCnt.filter fun e => decide (e.1 / 8192 ≠ h.val) } }

/-- Slots released, and the rows already emitted recorded. -/
def State.dropSlots (s : State) (h : Half) (running : Bool) : State :=
  let n := if running then Max.max (s.ref.emitted.getD h.val 0) (s.reb.emitted.getD h.val 0) else s.ref.emitted.getD h.val 0
  let t := (s.halfSlots h.val).foldl State.releaseSlot s
  { t with ref := { t.ref with emitted := t.ref.emitted.set h.val n }
           reb := { t.reb with rowMap := t.reb.rowMap.filter fun e => decide (e.1 / 65536 ≠ h.val) } }

/-- Counts of a half that start again (R175, R180, R350), its digests, and its next generation (R24). -/
def State.restartHalf (s : State) (h : Half) : State :=
  let odd (k : Nat) : Bool := decide (k % 2 = h.val)
  let a := { s.adm with
    choices := s.adm.choices.filter fun e => !odd e.1
    demand := s.adm.demand.filter fun e => !odd e.1
    srec := s.adm.srec.filter fun e => !(odd e.1 && (decide (e.1 / 2 ≤ 5) || decide (e.1 / 2 = 12)))
    sflags := s.adm.sflags ||| 0x20#16 }
  let t := (List.range 6).foldl (fun t u => t.clearItems (u + 1) h.val) ({ s with adm := a } : State)
  { t with ref := { t.ref with gens := t.ref.gens.set h.val (t.gen h.val + 1)
                               discards := t.ref.discards.set h.val (t.ref.discards.getD h.val 0 + 1) } }

/-- A DISCARD with the new generation goes to every chip (R250). -/
def State.sendDiscards (s : State) (h : Half) : State :=
  s.sendFrames ((List.range s.sysSize).map fun d =>
    s.inlineFrame d 6 h (s.sendInst h.val) (natLe 2 (s.batch h.val).toNat ++ natLe 1 (s.gen h.val).toNat))

/-- Steps 2 to 6 of R357 for one half. -/
def State.discardHalf (s : State) (h : Half) : State :=
  ((((s.stopHalf h).emptyHalf h).dropSlots h (s.reb.active.getD h.val false)).restartHalf h).sendDiscards h

/-- The first EOH of the half's send instance has left. -/
def State.eohGone (s : State) (h : Half) : Bool := s.vol.eohLeft.getD h.val false

/-- Halves that a fault of half `h` discards: those being re-issued with it while a replay runs, and none while the half waits
for its replay already (R359). -/
def State.toDiscard (s : State) (h : Half) : List Half :=
  if s.ref.replayDue then (if s.ref.rehalves.contains h then [] else [h])
  else if s.ref.replay then h :: s.ref.rehalves.filter fun g => decide (g ≠ h) && !s.eohGone g
  else [h]

/-- A report of poisoned contents whose re-issue the host's repair holds (R305). -/
def State.heldRep (s : State) (r : FaultRep) : Bool :=
  decide (r.mech = 0x0A#8) && s.mp.lostPending && (match r.half with | some h => s.mp.lostHalves.contains h | none => false)

/-- The reports of a half that are early, all of them. -/
def State.repsOf (s : State) (h : Half) : List FaultRep :=
  s.ref.faults.filter fun r => decide (r.half = some h) && !r.lost

/-- EARLY_FAULT_RECOVERY (R353, R357, R359): what a checker has found is taken in, the records are written, the half is discarded, and its replay is due; a fourth discard in
one step is a step loss. The engine is in recovery state until the replay or the next FCLK. -/
def execEarlyFaultRecovery (i : FoundIn) (s : State) : Out :=
  let h := i.half
  let s := (s.found i.found).noHalf
  let reps := s.repsOf h
  let hs := s.toDiscard h
  .next (if reps = [] ∨ s.eohGone h then s
    else if hs.any fun g => decide (3 ≤ s.ref.discards.getD g.val 0) then
      { s with ref := { s.ref with faults := s.ref.faults.map fun r => if reps.contains r then { r with lost := true } else r } }
    else
      let held := reps.any s.heldRep
      let t := (byMech reps).foldl (fun t r => t.faultRecord r (if t.heldRep r then 4 else 1)) s
      let t : State := { t with ref := { t.ref with
        faults := t.ref.faults.filter fun r => !reps.contains r
        rehalves := if s.ref.replay || s.ref.replayDue then hs ++ s.ref.rehalves.filter (fun g => !hs.contains g) else hs
        heldFor := if held then h :: t.ref.heldFor else t.ref.heldFor
        recov := true, replayDue := true } }
      hs.foldl State.discardHalf t)

/-! ### Replay (R358) -/

/-- A context of the step group returns to its checkpoint, its status standing. -/
def State.rewind (s : State) (c : Nat) : State :=
  match Tab.get none s.ref.check c with
  | some k =>
    let x := s.ctx c
    s.setCtx c { k with last := x.last, first := x.first, firstPc := x.firstPc }
  | none => s

/-- REPLAY (R357 steps 7 to 9, R358): no re-issue is held, and the marks and entries of R310 and R338 are persisted; commands of the halves that began since the discard are stopped. -/
def execReplay (s : State) : Out :=
  .next (if !s.ref.replayDue || decide (s.ref.heldFor ≠ []) || decide (s.kick.nvsq ≠ []) then s else
    let t := s.ref.rehalves.foldl State.stopHalf s
    let t := t.group.foldl State.rewind t
    { t with ref := { t.ref with
        recov := false, replayDue := false, jpos := [], replay := t.ref.journal.any fun j => decide (j.2 ≠ []) } })

/-! ### Late faults and step loss (R360) -/

/-- REPAIR is set, with its interrupt, and the standing whistle count is zero. -/
def State.setRepair (s : State) : State :=
  let t := if s.ref.repair then s else s.raiseInt 9
  { t with ref := { t.ref with repair := true }, standing := 0 }

/-- A context is halted (R59): it leaves a WAIT or STEPWAIT at once, and is HALTED once its outstanding commands complete. -/
def State.haltCtx (s : State) (c : Nat) : State :=
  let x := s.ctx c
  let t := match x.wait with
    | .object _ _ => (s.dropOpen c).setCtx c { x with st := .running, wait := .nothing, drain := .toHalted }
    | _ => (if x.st = CtxState.stepwait ∨ x.drain = Drain.toStepwait then s.dropOpen c else s).setCtx c { x with drain := .toHalted }
  t.drained c

/-- A late fault of half `h`: its slots are cancelled, records written, REPAIR set. -/
def State.lateHalf (s : State) (h : Half) (reps : List FaultRep) : State :=
  let (_, t) := s.cancelWhere fun r => decide (r.half = h)
  let t := (byMech reps).foldl (fun t r => t.faultRecord r 2) t
  ({ t with ref := { t.ref with faults := t.ref.faults.filter fun r => !reps.contains r } } : State).setRepair

/-- A step loss: every half of the step is lost, and every context of the step group is halted. -/
def State.stepLoss (s : State) (reps : List FaultRep) : State :=
  let (_, t) := s.cancelWhere fun _ => true
  let t := (byMech reps).foldl (fun t r => t.faultRecord r 3) t
  let t : State := { t with ref := { t.ref with
    faults := t.ref.faults.filter fun r => !reps.contains r
    recov := false, replayDue := false, replay := false, heldFor := [] } }
  t.group.foldl State.haltCtx t.setRepair

/-- LATE_FAULT (R353, R360): what a checker has found is taken in; a step loss that is due comes first; otherwise the late faults of
half `h`. -/
def execLateFault (i : FoundIn) (s : State) : Out :=
  let h := i.half
  let s := (s.found i.found).noHalf
  let lost := s.ref.faults.filter (·.lost)
  .next (if lost ≠ [] then s.stepLoss lost
    else if s.repsOf h ≠ [] ∧ s.eohGone h then s.lateHalf h (s.repsOf h) else s)

/-! ### Substitution (R338) -/

/-- Class number of R330, logical units, first bench unit, bench units and mark word of a class; link ports apart. -/
def State.classOf (s : State) (u : UnitClass) : Nat × Nat × Nat × Nat × Nat :=
  match u with
  | .scoreTile => (1, s.nTile, 64, 4, 0)
  | .scoutTile => (2, s.nScout, 16, 1, 3)
  | .sequencer => (3, s.nSeq, 32, 2, 4)
  | .linkPort => (4, s.nLink, 64, 4, 6)

/-- Physical unit that holds logical index `i` of a class. -/
def State.physUnit (s : State) (cls i : Nat) : Nat := (Tab.get none s.ref.phys (64 * cls + i)).getD i

/-- The lowest bench unit of a class that holds no logical index and is not marked out. -/
def State.freeBench (s : State) (u : UnitClass) : Option Nat :=
  let (cls, n, bench, k, w) := s.classOf u
  ((List.range k).map (· + bench)).find? fun b => !s.marked w b && (List.range n).all fun i => decide (s.physUnit cls i ≠ b)

/-- The half that the failing unit works on, if it does: that of the command that the tiles run. -/
def State.workHalf (s : State) (u : UnitClass) : Option Half :=
  let at_ (k : Nat) : Option Half :=
    (s.ucmds.find? fun v => decide (unitOf v.op = k) && v.started && v.result.isNone).bind (·.half)
  match u with
  | .scoreTile => at_ 1
  | .scoutTile => at_ 4
  | _ => none

/-- Mechanism by which a unit of a class is declared failed (R338, R353). -/
def failCode (u : UnitClass) (why : UnitFail) : Option Byte :=
  match u, why with
  | .scoreTile, .residue | .scoutTile, .residue => some 0x03
  | .scoreTile, .watchdog | .scoutTile, .watchdog | .sequencer, .watchdog => some 0x08
  | .sequencer, .parity => some 0x06
  | .sequencer, .signature => some 0x07
  | _, _ => none

/-- Logical unit `i` is given bench unit `b`: the failed unit is marked out and logged; the half that the failure affects is
reported, and a sequencer's contexts replay from their checkpoints. What the watchdog found is recorded already. -/
def State.substitute (s : State) (u : UnitClass) (i b : Nat) (mech : Byte) : State :=
  let (cls, _, _, _, w) := s.classOf u
  let p := s.physUnit cls i
  let item : BitVec 16 := BitVec.ofNat 16 (4096 * cls + p)
  let t : State := { s with ref := { s.ref with phys := Tab.set none s.ref.phys (64 * cls + i) (some b) } }
  let t := (t.markOut w p).logEvent 0 item
  let rep (h : Option Half) : FaultRep := ⟨mech, h, item, BitVec.ofNat 16 i, 0, false⟩
  let t := if mech = 0x08#8 then t else
    match t.workHalf u with
    | some h => t.report (rep (some h))
    | none => t.faultRecord (rep none) 5
  if u = .sequencer then
    { t with ref := { t.ref with replayDue := true, rehalves := if t.ref.replay || t.ref.replayDue then t.ref.rehalves else [] } }
  else t

/-- UNIT_SUBSTITUTION (R338): a logical unit has failed. A bench unit that fails its own test is marked out and takes nothing; with
no free bench unit the step is lost. -/
def execUnitSubstitution (u : UnitClass) (i : Fin 64) (test : BenchTest) (s : State) : Out :=
  let (cls, n, _, _, w) := s.classOf u
  .next (if n ≤ i.val then s else
    match u with
    | .linkPort =>
      (match s.benchPorts with
       | b :: _ => if test.ok then s.portSubst i.val else s.markOut 6 (64 + b)
       | [] => s)
    | _ =>
      match failCode u test.why, s.freeBench u with
      | none, _ => s
      | some m, some b => if test.ok then s.substitute u i.val b m else s.markOut w b
      | some m, none => s.report ⟨m, none, BitVec.ofNat 16 (4096 * cls + s.physUnit cls i.val), BitVec.ofNat 16 i.val, 0, true⟩)

/-! ### The progress watchdog (R353) -/

/-- A unit class has bench units: the score tiles, the scout tiles (R3). -/
def benched (i : Instr) : Bool := decide (unitOf i = 1) || decide (unitOf i = 4)

/-- A sequencer by its physical unit, as records and log entries name it (R330). -/
def State.seqItem (s : State) (q : Nat) : BitVec 16 := BitVec.ofNat 16 (3 * 4096 + s.physUnit 3 q)

/-- WATCHDOG_EXPIRY (R353): an accepted command, or a context with a ready instruction, makes no progress: a fault of the command's
half. A unit without a bench that fails its test is a step loss (R360); one with a bench is substituted (UNIT_SUBSTITUTION), as is
a sequencer that fails its test, which is recorded here when a bench unit is free. -/
def execWatchdogExpiry (t : WdTarget) (testOk : Bool) (s : State) : Out :=
  .next (match t with
    | .command c serial =>
      match s.cmd c serial with
      | some u =>
        if !u.started || u.result.isSome then s
        else s.report ⟨0x08, u.half, 0, 0xFFFF, 0, !testOk && !benched u.op⟩
      | none => s
    | .context c =>
      let q := c.val / 4
      let r : FaultRep := ⟨0x08, none, s.seqItem q, BitVec.ofNat 16 q, 0, false⟩
      if !s.atIssue c then s
      else if testOk then s.report r
      else if (s.freeBench .sequencer).isSome then s.faultRecord r 5 else s)

/-! ### Host registers (R352, R368) -/

/-- A write of `REF_REPAIR` (R368). -/
def State.repairClear (s : State) (v : Word) : Byte × State :=
  if !v.getLsbD 0 then (codeOk, s)
  else if s.group.all fun c => decide ((s.ctx c).st = .stepwait) then
    (codeOk, { s with ref := { s.ref with repair := false } })
  else (codeOffside, s)

/-- REPAIR_CLEAR. -/
def execRepairClear (s : State) : Out := .next (s.hostWrite 0x0E010C fun t => t.repairClear 1)

/-- A write of `REF_PC_DIVCLR` (R352). -/
def State.divClear (s : State) (v : Word) : Byte × State :=
  if v.getLsbD 0 then
    (codeOk, { s with ref := { s.ref with divValid := false, divUnit := 0, divHalf := 0, divStep := 0 } })
  else (codeOk, s)

/-- PC_DIVCLR. -/
def execPcDivclr (s : State) : Out := .next (s.hostWrite 0x0E0158 fun t => t.divClear 1)

end Sys2Proof.Machine
end

