-- ==== Sys2Proof/Machine/Paged.lean ====
section
/-! DEFINITION. The paged window (R383, R384): its targets, what a read of it returns, and how a write into a table is judged
(R139, R141, R155, R163, R174, R187). -/

namespace Sys2Proof.Machine

/-- What the paged window shows. -/
inductive Target
  | gate (bank : Fin 2)
  | sfu (bank : Fin 2)
  | scout (bank : Fin 2)
  | bias (bank : Fin 2)
  | replica (bank : Fin 2)
  | steering
  | queues
  deriving DecidableEq, Repr

/-- The target that `GCTL_PAGE.TARGET` selects; codes 0x10 to 0x13 mean the bank that is not active now, or bank 0 (R383). -/
def State.target (s : State) : Option Target :=
  match s.fld 0x1100 4 0 with
  | 0x01 => some (.gate 0)
  | 0x02 => some (.gate 1)
  | 0x03 => some (.sfu 0)
  | 0x04 => some (.sfu 1)
  | 0x05 => some (.scout 0)
  | 0x06 => some (.scout 1)
  | 0x07 => some (.bias 0)
  | 0x08 => some (.bias 1)
  | 0x09 => some (.replica 0)
  | 0x0A => some (.replica 1)
  | 0x0B => some .steering
  | 0x0C => some .queues
  | 0x10 => some (.sfu s.tbl.sfu.shadow)
  | 0x11 => some (.scout s.tbl.sfu.shadow)
  | 0x12 => some (.bias s.tbl.bias.shadow)
  | 0x13 => some (.replica s.tbl.rep.shadow)
  | _ => none

/-- Bytes of a target. -/
def Target.size : Target → Nat
  | .gate _ => 33554432
  | .sfu _ => 1048576
  | .scout _ => 0x10100
  | .bias _ => 16384
  | .replica _ => 0x44100
  | .steering => 262144
  | .queues => 131072

/-- Byte of its target that word `w` of the window begins at. -/
def State.pageByte (s : State) (w : Nat) : Nat := s.fld 0x1100 9 8 * 8388608 + 4 * w

/-- Word `w` of the window; zero beyond the target (R10, R383). -/
def State.pageRead (s : State) (w : Nat) : Word :=
  let a := s.pageByte w
  match s.target with
  | none => 0
  | some t =>
    if t.size ≤ a then 0 else
    match t with
    | .gate b => BitVec.ofNat 32 (loadLe s.tbl.gateMem (b.val * 33554432 + a) 4)
    | .sfu b => s.sfuWord b a
    | .scout b => BitVec.ofNat 32 (loadLe s.tbl.scoutMem (b.val * scoutBank + a) 4)
    | .bias b => BitVec.ofNat 32 (loadLe s.tbl.biasMem (b.val * 16384 + a) 4)
    | .replica b => BitVec.ofNat 32 (loadLe s.tbl.repMem (b.val * repBank + a) 4)
    | .steering => BitVec.ofNat 32 (s.steerWord (a / 4))
    | .queues => s.queueTable (a / 32) (a % 32 / 4)

/-- A host write into bank `b` of table `t` meets an active bank, an unreleased bank, or a bank that a loader fills. -/
def State.bankShut (s : State) (t : Nat) (b : Fin 2) : Bool :=
  let k := s.banked t
  (k.active.isSome && decide (b = k.bank)) || (k.oldHeld && decide (b = k.shadow)) ||
  (decide (t = 0) && s.tbl.repLd.busy && decide (b = if k.fill then k.bank else k.shadow))

/-- A refused table write is discarded (R384). -/
def State.tableRefused (s : State) (code : Byte) : Byte × State := (code, s.raiseFlag 2 1)

/-- Bits of word `a` of an SFU bank that hold something (R139). -/
def sfuMask (a : Nat) : Word :=
  if a = 0 then 0xFFFFFFFF#32 else if a = 4 then 3#32 else if 8 ≤ a ∧ a < 0x18 then 0xFFFFFFFF#32
  else if a < 0x1000 ∨ 0x8E000 ≤ a ∨ (0x41800 ≤ a ∧ a < 0x42000) then 0#32
  else if 0x41000 ≤ a ∧ a < 0x41800 then (if a / 4 % 2 = 0 then 0x801F1FFF#32 else 0#32) else 0xFFFFFFFF#32

/-- Bits of word `a` of a scout bank that hold something (R187). -/
def scoutMask (a : Nat) : Word :=
  if a = 0 then 0xFF#32 else if a < 0x100 then 0#32
  else match a / 4 % 4 with
    | 0 => 0x800FFFFF#32
    | 1 => 0x3FF#32
    | 2 => 0xFFFFFFFF#32
    | _ => 0#32

/-- Bits of word `a` of a replica bank that hold something (R160, R161). -/
def replicaMask (a : Nat) : Word :=
  if a = 0 then 0x000FFFFF#32 else if a = 4 then 0xFFFFFFFF#32 else if a < 0x100 then 0#32
  else if a < 0x4100 then 0x800FFFFF#32 else 0xFFFF1FFF#32

/-- Bits of word `a` of a steering entry that hold something (R174). -/
def steerMask (a : Nat) : Word :=
  match a / 4 % 4 with
  | 0 => 0x00008FFF#32
  | 1 | 2 => 0xFFFFFFFF#32
  | _ => 0#32

/-- A write of word `w` of the window. -/
def State.pageWrite (s : State) (w : Nat) (v : Word) : Byte × State :=
  let a := s.pageByte w
  match s.target with
  | none => (codeOk, s)
  | some t =>
    if t.size ≤ a then (codeOk, s) else
    match t with
    | .gate _ => s.tableRefused codeOffside
    | .sfu b =>
      (match lowest [(isVendor a, codeOffside), (s.bankShut 2 b, codeEpoch)] with
       | some k => s.tableRefused k
       | none => (codeOk, { s with tbl := { s.tbl with
           sfuMem := storeLe s.tbl.sfuMem (b.val * 1048576 + a) 4 (v &&& sfuMask a).toNat } }))
    | .scout b =>
      if s.bankShut 2 b then s.tableRefused codeEpoch
      else (codeOk, { s with tbl := { s.tbl with
        scoutMem := storeLe s.tbl.scoutMem (b.val * scoutBank + a) 4 (v &&& scoutMask a).toNat } })
    | .bias b =>
      if s.bankShut 3 b then s.tableRefused codeEpoch
      else (codeOk, { s with tbl := { s.tbl with biasMem := storeLe s.tbl.biasMem (b.val * 16384 + a) 4 v.toNat } })
    | .replica b =>
      if s.bankShut 0 b then s.tableRefused codeEpoch
      else (codeOk, { s with tbl := { s.tbl with
        repMem := storeLe s.tbl.repMem (b.val * repBank + a) 4 (v &&& replicaMask a).toNat } })
    | .steering =>
      (codeOk, { s with tbl := { s.tbl with steerStaged := Tab.set none s.tbl.steerStaged (a / 4) (some (v &&& steerMask a)) } })
    | .queues => s.queueTableWrite (a / 32) (a % 32 / 4) v

/-- PAGED_WINDOW_WRITE (R384). -/
def execPagedWindowWrite (w : Fin 2097152) (v : Word) (s : State) : Out :=
  .next (s.hostWrite (0x800000 + 4 * w.val) fun t => t.pageWrite w.val v)

end Sys2Proof.Machine
end

