-- ==== Sys2Proof/Machine/Window.lean ====
section
/-! DEFINITION. What a host read returns (R369, R371): registers whose value is computed from the state of the block, the
program store, the image window, the paged window, and the words that a read of a low word captures. -/

namespace Sys2Proof.Machine

/-- A number as a register word. -/
def word (n : Nat) : Word := BitVec.ofNat 32 n

/-- Low and high word of a 64-bit value. -/
def loOf (v : Nat) : Word := word v
def hiOf (v : Nat) : Word := word (v / 2 ^ 32)

/-- The summary bit of the interrupts: a status flag stands that `GCTL_FLAGEN` enables (R382). -/
def State.flagSummary (s : State) : Bool := decide (s.reg 0x2000 &&& s.regNow 0x2808 ≠ 0)

/-- The levels of `INT[15:0]` (R382): pending and enabled; lines 10 to 15 never rise. -/
def State.intLines (s : State) : BitVec 16 :=
  ((putBits (s.reg 0x2800).toNat 5 5 (b2n s.flagSummary)).toUInt32.toBitVec &&& s.regNow 0x2804).setWidth 16 &&& 0x03FF#16

/-- Identity, global control, interrupts and whistles (R6, R314, R372, R375, R382). -/
def State.viewGlobal (s : State) (off : Nat) : Option Word :=
  match off with
  | 0x000008 => some (word Config.stepping.toNat)
  | 0x001004 => some (word (b2n s.gradeB))
  | 0x001008 => some (word (s.engine + 256 * b2n s.idle))
  | 0x001018 => some (word ((s.gen 0).toNat + 4 * (s.gen 1).toNat))
  | 0x00101C => some (loOf s.step.toNat)
  | 0x001060 => some (word (b2n s.kick.locked + 2 * b2n s.kick.aligned + 4 * b2n s.kick.spmok))
  | 0x001064 => some (loOf s.spcnt.toNat)
  | 0x002800 => some (word (putBits (s.reg 0x2800).toNat 5 5 (b2n s.flagSummary)))
  | 0x003034 => some (word (s.standing + 256 * b2n s.boundary))
  | _ => none

/-- Registers of a context or a sequencer; one that the grade does not provide reads zero (R59). -/
def State.viewSeq (s : State) (off : Nat) : Option Word :=
  if off < 0x010000 ∨ 0x020000 ≤ off then none else
  let n := (off - 0x010000) / 0x800
  let r := off % 0x800
  let c := 4 * n + r / 0x100
  let x := s.ctx c
  if s.nSeq ≤ n then some 0
  else if r = 0x400 then some (word (s.physUnit 3 n))
  else if 0x400 ≤ r then none
  else match r % 0x100 with
    | 0x04 => some (word (stateNum x.st + 8 * b2n (x.precise && decide (x.st = .trapped)) + 16 * x.loops.length +
        256 * s.outstanding c))
    | 0x0C => some (word (bitsOf x.pc 21 3 * 8))
    | 0x30 => some (word (x.last.toNat + 256 * x.first.toNat))
    | 0x34 => some (word (bitsOf x.firstPc 21 3 * 8))
    | 0x3C => some (match x.wait with
        | .object o _ => word (o + 2 ^ 31)
        | _ => 0)
    | _ => none

/-- Sync objects: the value as it stands, or as last written while the sync file has not adopted it (R11, R49). -/
def State.viewSync (s : State) (off : Nat) : Option Word :=
  if off < 0x020000 ∨ 0x060000 ≤ off then none else
  let n := (off - 0x020000) / 8
  let thr := decide (off % 8 = 4)
  match s.syncWr.reverse.find? fun e => decide (e.1 = n) && decide (e.2.1 = thr) with
  | some (_, _, v) => some v
  | none => some (if thr then (s.obj n).thr else (s.obj n).cnt)

/-- Valid, bank in [1], epoch in [9:2] of a table's status; zero while no epoch is active. -/
def Banked.status (b : Banked) : Nat := match b.active with | some e => 1 + 2 * b.bank.val + 4 * e.toNat | none => 0

/-- The shadow bank is released and writable. -/
def Banked.shadowFree (b : Banked) (loading : Bool) : Bool := !b.oldHeld && !loading

/-- Score, gate loader, SFU, admission and scout status (R159, R181, R206). -/
def State.viewTables (s : State) (off : Nat) : Option Word :=
  let g := s.tbl.gate
  let r := s.tbl.rep
  match off with
  | 0x060000 =>
    let on := g.active.isSome
    some (word (g.status + (if on then s.tbl.gateNow.entry.toNat * 2 ^ 10 + s.tbl.gateNow.mode * 2 ^ 18 else 0) +
      b2n g.fill * 2 ^ 20 + b2n s.tbl.gateLd.busy * 2 ^ 21))
  | 0x060010 => some (word (s.tbl.gateLd.layer.toNat + s.tbl.gateLd.cause.toNat * 256))
  | 0x060018 => some (word (match s.tbl.bias.active with | some e => 1 + 2 * e.toNat | none => 0))
  | 0x062000 => some (word (s.tbl.sfu.status + b2n (s.tbl.sfu.active.isSome && s.tbl.sfu.shadowFree false) * 2 ^ 10))
  | 0x070000 =>
    some (word (r.status + (if r.active.isSome then s.repLayer r.bank * 2 ^ 10 else 0) + b2n r.fill * 2 ^ 18 +
      b2n s.tbl.repLd.busy * 2 ^ 19 + b2n (r.shadowFree (s.tbl.repLd.busy && !r.fill)) * 2 ^ 20))
  | 0x07000C => some (word (s.tbl.repLd.layer.toNat + s.tbl.repLd.cause.toNat * 256))
  | 0x080000 =>
    some (word (s.tbl.sfu.status + (if s.tbl.sfu.active.isSome then s.scoutLayer s.tbl.sfu.bank * 2 ^ 10 else 0)))
  | _ =>
    if 0x060100 ≤ off ∧ off < 0x060200 then some (word (s.physUnit 1 ((off - 0x060100) / 4)))
    else if 0x080100 ≤ off ∧ off < 0x080140 then some (word (s.physUnit 2 ((off - 0x080100) / 4)))
    else none

/-- Huddle and buffer pools (R238, R239). -/
def State.viewPools (s : State) (off : Nat) : Option Word :=
  if off = 0x09020C then
    let a := s.hud.bankA
    let b := s.hud.bankB
    some (word (b2n (decide (a.unsent ≠ 0)) + 2 * b2n (decide (b.unsent ≠ 0)) + 4 * b2n a.packed + 8 * b2n b.packed))
  else if 0x0A0000 ≤ off ∧ off < 0x0A0200 then
    let n := (off - 0x0A0000) / 0x40
    match off % 0x40 with
    | 0x18 => some (word (if s.poolEn n then (s.pool n).freeCount (s.poolCount n) + b2n (s.pool n).ready * 2 ^ 31 else 0))
    | 0x1C => some (word (s.quarCount n))
    | _ => none
  else if 0x0A3000 ≤ off ∧ off < 0x0A5000 then
    let i := (off - 0x0A3000) / 4
    some (word (Tab.get 0 (s.pool (i % 8)).held (i / 8)))
  else none

/-- Volley (R272). -/
def State.viewVolley (s : State) (off : Nat) : Option Word :=
  if off = 0x0B0028 then some (word (leNat s.instBytes))
  else if off = 0x0B0030 then some (word (s.benchPorts.foldl (fun v b => v + 2 ^ b) 0))
  else if 0x0B1000 ≤ off ∧ off < 0x0B2000 then
    let l := (off - 0x0B1000) / 0x40
    let p := s.port l
    if s.nLink ≤ l then some 0 else
    let lanes (a n : Nat) : Nat := (List.range n).foldl (fun v j => v + (p.lmap.getD (a + j) 0) * 32 ^ j) 0
    match off % 0x40 with
    | 0x00 => some (word (p.st + 16 * b2n p.spare.isSome + s.physOf l * 2 ^ 8 + p.lanes * 2 ^ 16))
    | 0x04 => some (word (lanes 0 6))
    | 0x08 => some (word (lanes 6 6))
    | 0x0C => some (word (lanes 12 4))
    | 0x18 => some (word p.credit)
    | _ => none
  else none

/-- Rebound (R292). -/
def State.viewRebound (s : State) (off : Nat) : Option Word :=
  let e (h : Nat) : Option Word := some (word (s.reb.eptr.getD h 0 % 65536 + b2n (s.reb.active.getD h false) * 2 ^ 31))
  match off with
  | 0x0C0004 => some (word s.freeSlots)
  | 0x0C0008 => some (word s.reb.aslots)
  | 0x0C000C => some (word s.reb.used)
  | 0x0C0010 => some (word s.reb.cfree)
  | 0x0C0014 => e 0
  | 0x0C0018 => e 1
  | 0x0C0024 =>
    some (word (s.reb.cancelled + b2n (s.reb.slots.any fun r => decide (r.2.st = .cancelled)) * 2 ^ 31))
  | _ => none

/-- Memory port (R314). -/
def State.viewMem (s : State) (off : Nat) : Option Word :=
  match off with
  | 0x0D0000 => some (word s.mp.nlines)
  | 0x0D0010 => some (word (b2n s.mp.lostPending))
  | 0x0D0014 => some (loOf s.mp.lostAddr)
  | 0x0D0018 => some (hiOf s.mp.lostAddr)
  | 0x0D0020 => some (word (s.quarList.length + b2n s.mp.qfull * 2 ^ 31))
  | 0x0D200C => some (word (s.fld 0x0D200C 7 0 + 256 * b2n (s.mp.maint.any (·.host))))
  | _ =>
    if 0x0D1000 ≤ off ∧ off < 0x0D1140 then
      let k := (off - 0x0D1000) / 0x10
      let mine (c : Nat) : Bool := decide (c / 32 = k)
      match off % 0x10 with
      | 0 => some (word ((s.stack k).st + (if 2 ≤ (s.stack k).st then (s.stack k).spare * 16 else 0)))
      | 4 => some (word ((s.mp.retraining.filter mine).foldl (fun v c => v + 2 ^ (c % 32)) 0))
      | 8 => some (word ((s.mp.holdq.filter fun e => mine e.1).foldl (fun v e => v + reqHold e.2) 0))
      | _ => none
    else none

/-- Referee (R333, R368) and the image window (R334). -/
def State.viewReferee (s : State) (off : Nat) : Option Word :=
  match off with
  | 0x0E0000 => some (word ((if s.kick.st = 3 then s.kick.stopStep else s.kick.step) + 16 * s.kick.st + 256 * s.kick.cause.toNat))
  | 0x0E0004 => some (word s.kick.item.toNat)
  | 0x0E0008 => some (word s.kickCount)
  | 0x0E001C => some (word (match s.newestLog with | some (_, q) => q | none => 0))
  | 0x0E0020 => some (word (b2n s.kick.persist + 2 * b2n s.kick.wrerr))
  | 0x0E0100 => some (word (b2n s.ref.recov + 2 * b2n s.ref.replay + 4 * b2n s.ref.repair))
  | 0x0E0104 => some s.ref.fseq
  | 0x0E0124 => some (loOf s.ref.progDig.toNat)
  | 0x0E014C => some (word (s.ref.divUnit.toNat + 256 * s.ref.divHalf.val + b2n s.ref.divValid * 2 ^ 31))
  | 0x0E0150 => some (loOf s.ref.divStep.toNat)
  | _ =>
    if 0x0E1800 ≤ off ∧ off < 0x0E2000 ∧ off % 8 = 0 then
      some (loOf (Tab.get 0#64 s.ref.gateDig ((off - 0x0E1800) / 8)).toNat)
    else if 0x0E2000 ≤ off ∧ off < 0x0E2800 then some (Tab.get 0#32 s.ref.frec ((off - 0x0E2000) / 4))
    else if 0x0E8000 ≤ off ∧ off < 0x0EA000 then some (s.img ((off - 0x0E8000) / 4))
    else none

/-- A measurement counter in its units: 64 bytes, 1024 MACs, lines (R391). -/
def State.measured (s : State) (k : Nat) : Nat :=
  let n := Tab.get 0 s.obs.cnt k
  if k = 1 ∨ k = 2 then n / 64 else if k = 3 then n / 1024 else n

/-- Observation port (R393). -/
def State.viewObs (s : State) (off : Nat) : Option Word :=
  match off with
  | 0x0F0204 => some (word (b2n s.obs.run + 2 * b2n (decide (s.obs.arm ≠ 0))))
  | 0x0F0208 => some (word (s.measured 0))
  | 0x0F0210 => some (loOf (s.measured 1))
  | 0x0F0218 => some (loOf (s.measured 2))
  | 0x0F0220 => some (loOf (s.measured 3))
  | 0x0F0228 => some (loOf (s.measured 4))
  | 0x0F0230 => some (loOf (s.measured 5))
  | _ => none

/-- The high word that a read of a low word captures, with its offset (R369). -/
def State.highOf (s : State) (off : Nat) : Option (Nat × Word) :=
  match off with
  | 0x00101C => some (0x001020, hiOf s.step.toNat)
  | 0x001064 => some (0x001068, hiOf s.spcnt.toNat)
  | 0x080010 => some (0x080014, s.reg 0x080014)
  | 0x0E0124 => some (0x0E0128, hiOf s.ref.progDig.toNat)
  | 0x0E0150 => some (0x0E0154, hiOf s.ref.divStep.toNat)
  | 0x0F0210 => some (0x0F0214, hiOf (s.measured 1))
  | 0x0F0218 => some (0x0F021C, hiOf (s.measured 2))
  | 0x0F0220 => some (0x0F0224, hiOf (s.measured 3))
  | 0x0F0228 => some (0x0F022C, hiOf (s.measured 4))
  | 0x0F0230 => some (0x0F0234, hiOf (s.measured 5))
  | _ =>
    if 0x0E1800 ≤ off ∧ off < 0x0E2000 ∧ off % 8 = 0 then
      some (off + 4, hiOf (Tab.get 0#64 s.ref.gateDig ((off - 0x0E1800) / 8)).toNat)
    else if 0x0E1000 ≤ off ∧ off < 0x0E1800 ∧ off % 8 = 0 then some (off + 4, s.reg (off + 4))
    else none

/-- The offset is that of a captured high word. -/
def highWord (off : Nat) : Bool :=
  [0x001020, 0x001068, 0x080014, 0x0E0128, 0x0E0154, 0x0F0214, 0x0F021C, 0x0F0224, 0x0F022C, 0x0F0234].contains off ||
  (decide (0x0E1000 ≤ off) && decide (off < 0x0E2000) && decide (off % 8 = 4))

/-- The bits that a register has; reserved bits and offsets read zero (R10), and so do WO bits (R11). -/
def readMask (off : Nat) : Word :=
  BitVec.ofNat 32 ((fieldsAt off).foldl (fun v f => if f.acc = .wo then v else putBits v f.hi f.lo (2 ^ (f.hi + 1 - f.lo) - 1)) 0)

/-- The value that a host read at an offset returns: zero for an address that is not aligned (R369). -/
def State.read (s : State) (off : Nat) : Word :=
  if off % 4 ≠ 0 then 0
  else if 0x800000 ≤ off then s.pageRead ((off - 0x800000) / 4)
  else if 0x500000 ≤ off then 0
  else if 0x100000 ≤ off then Tab.get 0#32 s.ps ((off - 0x100000) / 4)
  else if highWord off then Tab.get 0#32 s.capt off
  else
    match [s.viewGlobal off, s.viewSeq off, s.viewSync off, s.viewTables off, s.viewPools off, s.viewVolley off,
      s.viewRebound off, s.viewMem off, s.viewReferee off, s.viewObs off].findSome? id with
    | some v => v
    | none => s.reg off &&& readMask off

/-- LOW_WORD_READ (R369): a host read; that of a low word captures the high word beside it. Before K1 ends the window does not
answer (R323). -/
def execLowWordRead (off : BitVec 24) (s : State) : Out :=
  .next (if !s.served then s else
    let t : State := { s with pins := { s.pins with rdata := s.read off.toNat, hwAck := true } }
    match s.highOf off.toNat with
    | some (hi, v) => { t with capt := Tab.set 0#32 t.capt hi v }
    | none => t)

end Sys2Proof.Machine
end

