-- ==== Sys2Proof/Machine/Control.lean ====
section
/-! DEFINITION. Host control: contexts (R34, R59), the program store and its locks (R42, R43), the mailbox (R375 to R377),
whistles (R54, R378), and the flags and interrupts that a write clears (R366, R382). -/

namespace Sys2Proof.Machine

/-! ### Contexts (R59) -/

/-- A context as it starts (R34, R56): at its start program counter, with its arguments, and no non-OK code yet. -/
def State.startOf (s : State) (c : Nat) : Context :=
  let b := ctxBase c
  let arg (a : Nat) : DWord := s.reg (b + 0x14 + 8 * a) ++ s.reg (b + 0x10 + 8 * a)
  let x := s.ctx c
  { Context.reset with
    st := .running, pc := s.fld (b + 0x08) 21 3 * 8, last := x.last, serial := x.serial, writers := x.writers
    x := (List.range 4).foldl (fun t a => Tab.set 0#64 t (a + 1) (arg a)) [] }

/-- A context starts: it enters the step group with a checkpoint of its own and an empty journal (log entry 28). -/
def State.startCtx (s : State) (c : Nat) : State :=
  let x := s.startOf c
  let t := s.setCtx c x
  { t with ref := { t.ref with
      check := Tab.set none t.ref.check c (some x), journal := Tab.set [] t.ref.journal c [], jpos := Tab.set 0 t.ref.jpos c 0 } }

/-- A context goes on at a program counter. -/
def State.continueCtx (s : State) (c pc : Nat) : State :=
  s.setCtx c { s.ctx c with st := .running, pc := pc, precise := false, wait := .nothing, drain := .no }

/-- The state of a context allows an entry of `SEQ_CTX_CTRL`, by its bit. -/
def ctrlAllowed (st : CtxState) (bit : Nat) : Bool :=
  match bit with
  | 0 => decide (st = .free)
  | 1 => decide (st ≠ .free) && decide (st ≠ .halted)
  | 2 => decide (st = .trapped) || decide (st = .halted)
  | 3 => decide (st = .trapped)
  | _ => decide (st = .halted)

/-- One entry of `SEQ_CTX_CTRL` acts. -/
def State.ctrlAct (s : State) (c bit : Nat) : State :=
  match bit with
  | 0 => s.startCtx c
  | 1 => s.haltCtx c
  | 2 => s.continueCtx c (s.ctx c).pc
  | 3 => s.continueCtx c ((s.ctx c).pc + 8)
  | _ => s.setCtx c { s.ctx c with st := .free, wait := .nothing, drain := .no }

/-- CLRERR: FIRST and FIRSTPC are cleared. -/
def State.clrErr (s : State) (c : Nat) : State := s.setCtx c { s.ctx c with first := 0, firstPc := 0 }

/-- A write of `SEQ_CTX_CTRL`, judged as a whole against the state before it (R59). -/
def State.ctrlWrite (s : State) (c : Nat) (v : Word) : Byte × State :=
  if s.nSeq ≤ c / 4 then (codeOk, s) else
  let acts := [0, 1, 2, 3, 5].filter fun i => v.getLsbD i
  if 1 < acts.length || !acts.all (ctrlAllowed (s.ctx c).st) then (codeOffside, s)
  else
    let t := if v.getLsbD 4 then s.clrErr c else s
    (codeOk, acts.foldl (fun t i => t.ctrlAct c i) t)

/-- A write of `SEQ_CTX_CTRL` with bit `bit`, and CLRERR beside it or not. -/
def State.ctrlBit (s : State) (c : Ctx) (bit : Nat) (clr : Bool) : State :=
  s.hostWrite (ctxBase c) fun t => t.ctrlWrite c (BitVec.ofNat 32 (2 ^ bit + 16 * b2n clr))

/-- CTX_START (R34, R59). -/
def execCtxStart (c : Ctx) (clr : Bool) (s : State) : Out := .next (s.ctrlBit c 0 clr)

/-- CTX_HALT (R59). -/
def execCtxHalt (c : Ctx) (clr : Bool) (s : State) : Out := .next (s.ctrlBit c 1 clr)

/-- CTX_RESUME (R57, R59). -/
def execCtxResume (c : Ctx) (clr : Bool) (s : State) : Out := .next (s.ctrlBit c 2 clr)

/-- CTX_SKIP (R57, R59). -/
def execCtxSkip (c : Ctx) (clr : Bool) (s : State) : Out := .next (s.ctrlBit c 3 clr)

/-- CTX_CLRERR (R59). -/
def execCtxClrerr (c : Ctx) (s : State) : Out := .next (s.hostWrite (ctxBase c) fun t => t.ctrlWrite c 16#32)

/-- CTX_FREE (R59). -/
def execCtxFree (c : Ctx) (clr : Bool) (s : State) : Out := .next (s.ctrlBit c 5 clr)

/-! ### The program store (R42, R43) -/

/-- The lines of the regions in a list leave every instruction cache (R43). -/
def State.icDrop (s : State) (rs : List Nat) : State :=
  { s with icache := s.icache.filterMap fun e =>
      let l := e.2.filter fun k => !rs.contains (k / 1024)
      if l = [] then none else some (e.1, l) }

/-- A write of a lock register, regions `lo` to `lo` + 31 (R43, R343): a lock that a program still needs cannot be cleared; a lock
that is set drops the cached lines of its region, whose digest is formed. -/
def State.lockWrite (s : State) (off lo : Nat) (v : Word) : Byte × State :=
  let old := s.reg off
  let bits (w : Word) : List Nat := (List.range 32).filter fun i => w.getLsbD i
  let off_ := (bits (old &&& ~~~v)).map (· + lo)
  let on := (bits (v &&& ~~~old)).map (· + lo)
  if s.ctxs.any fun c => decide (c.2.st ≠ .free) && off_.contains (c.2.pc / 0x10000) then (codeOffside, s)
  else
    let t := (s.liveWrite off v).icDrop on
    let dig := on.foldl (fun d r => Tab.set 0#64 d r (bdig (t.regionBytes r))) t.ref.regDig
    let t : State := { t with ref := { t.ref with regDig := dig } }
    (codeOk, if v = old then t else t.newProgramDigest)

/-- PS_LOCK_WRITE (R43). -/
def execPsLockWrite (hi : Bool) (v : Word) (s : State) : Out :=
  .next (if hi then s.hostWrite 0x1044 fun t => t.lockWrite 0x1044 32 v else s.hostWrite 0x1040 fun t => t.lockWrite 0x1040 0 v)

/-- A write of word `w` of the program store (R42, R43). -/
def State.psWrite (s : State) (w : Nat) (v : Word) : Byte × State :=
  if s.locked (w / 16384) then (codeOffside, s) else (codeOk, { s with ps := Tab.set 0#32 s.ps w v })

/-- PROGRAM_STORE_WRITE (R43). -/
def execProgramStoreWrite (w : Fin 1048576) (v : Word) (s : State) : Out :=
  .next (s.hostWrite (0x100000 + 4 * w.val) fun t => t.psWrite w.val v)

/-! ### The mailbox (R375 to R377) -/

/-- Argument `a` of the mailbox. -/
def State.mbArg (s : State) (a : Nat) : Nat := (s.reg (0x3004 + 4 * a)).toNat

/-- Pool and requester of ALLOC and FREE. -/
def State.mbPool (s : State) : Nat := bitsOf (s.mbArg 0) 2 0
def State.mbReq (s : State) : Nat := bitsOf (s.mbArg 0) 15 8

/-- The checks that ALLOC and FREE share (R377). -/
def State.mbChecks (s : State) : List (Bool × Byte) :=
  [(!s.poolEn s.mbPool || !(s.pool s.mbPool).ready, codeOffside),
   (decide (s.mbReq < 16) || decide (s.poolClass s.mbPool ≠ 0), codeBounds)]

/-- SIGNAL (R376). -/
def State.mbSignal (s : State) : Byte × State := (codeOk, s.signal (bitsOf (s.mbArg 0) 14 0) (s.mbArg 1))

/-- ALLOC (R376, R377). -/
def State.mbAlloc (s : State) : Byte × State :=
  let n := s.mbPool
  let r := s.mbReq
  match lowest (s.mbChecks ++ [(!s.underQuota n r 1 || (s.poolTake n r none).isNone, codeQuota)]) with
  | some k => (k, s)
  | none =>
    match s.poolTake n r none with
    | none => (codeQuota, s)
    | some (i, t) =>
      let a := t.bufAddr n i
      (codeOk, (t.setReg 0x3014 (loOf a)).setReg 0x3018 (word (a / 2 ^ 32 % 65536)))

/-- FREE (R376, R377): a request that waits for a buffer is served with it. -/
def State.mbFree (s : State) : Byte × State :=
  let n := s.mbPool
  let r := s.mbReq
  let a := s.mbArg 1 + bitsOf (s.mbArg 2) 15 0 * 2 ^ 32
  let k := s.freeCode n a
  match lowest (s.mbChecks ++ [(decide (Tab.get 0 (s.pool n).held r = 0), codeOffside), (decide (k ≠ codeOk), k)]) with
  | some k => (k, s)
  | none =>
    let t := s.poolGive n r ((a - s.poolBase n) / s.bufBytes n)
    (codeOk, t.serveWaiting n (t.pool n).waiting.length)

/-- PING (R376). -/
def State.mbPing (s : State) : Byte × State := (codeOk, s.setReg 0x3014 0x4D424F4B#32)

/-- A mailbox operation runs: an undefined one ends with FORMAT. -/
def State.mbOp (s : State) (op : Nat) : Byte × State :=
  match op with
  | 1 => s.mbSignal
  | 2 => s.mbAlloc
  | 3 => s.mbFree
  | 4 => s.mbPing
  | _ => (codeFormat, s)

/-- A write of `GCTL_MB_CMD` (R375): with GO the operation runs to its end; its code stands in the status. -/
def State.mbWrite (s : State) (v : Word) : Byte × State :=
  let op := bitsOf v.toNat 7 0
  let t := s.liveWrite 0x3000 (word op)
  if !v.getLsbD 31 then (codeOk, t) else
  let (k, t) := t.mbOp op
  (codeOk, (t.setReg 0x301C (word (k.toNat + op * 65536))).raiseInt 6)

/-- A mailbox row: its operation with GO. -/
def State.mbGo (s : State) (op : Nat) : State := s.hostWrite 0x3000 fun t => t.mbWrite (word (op + 2 ^ 31))

/-- MB_SIGNAL (R376). -/
def execMbSignal (s : State) : Out := .next (s.mbGo 1)

/-- MB_ALLOC (R377). -/
def execMbAlloc (s : State) : Out := .next (s.mbGo 2)

/-- MB_FREE (R377). -/
def execMbFree (s : State) : Out := .next (s.mbGo 3)

/-- MB_PING (R376). -/
def execMbPing (s : State) : Out := .next (s.mbGo 4)

/-! ### Whistles (R54, R378) -/

/-- A grant of `n` whistles: one releases a boundary that waits, and the rest stand. -/
def State.grant (s : State) (n : Nat) : Byte × State :=
  let m := if s.boundary then s.standing + n - 1 else s.standing + n
  if n = 0 then (codeOk, s)
  else if 255 < m then (codeOffside, s)
  else
    let t := if s.boundary then s.releaseAll else s
    (codeOk, { t with standing := m })

/-- A write of `GCTL_WHISTLE`: the grant acts, then CLEAR (log entry 29). -/
def State.whistleWrite (s : State) (v : Word) : Byte × State :=
  let (k, t) := s.grant (bitsOf v.toNat 7 0)
  (k, if v.getLsbD 31 && decide (k = codeOk) then { t with standing := 0 } else t)

/-- WHISTLE_GRANT (R378). -/
def execWhistleGrant (n : Byte) (s : State) : Out := .next (s.hostWrite 0x3030 fun t => t.whistleWrite (word n.toNat))

/-- WHISTLE_CLEAR (R378). -/
def execWhistleClear (s : State) : Out := .next (s.hostWrite 0x3030 fun t => t.whistleWrite 0x80000000#32)

/-! ### Flags and interrupts (R11, R366, R382) -/

/-- FLAG_CLEAR (R366): flags written as 1 are cleared, their counters standing. -/
def State.flagClear (s : State) (mask : Word) : Byte × State := (codeOk, s.setReg 0x2000 (s.reg 0x2000 &&& ~~~mask))

/-- FLAG_CLEAR. -/
def execFlagClear (mask : Word) (s : State) : Out := .next (s.hostWrite 0x2000 fun t => t.flagClear mask)

/-- INT_PEND_CLEAR (R382): pending bits written as 1 are cleared; bit 5 is the summary of the flags, which no write changes. -/
def State.pendClear (s : State) (mask : Word) : Byte × State := (codeOk, s.setReg 0x2800 (s.reg 0x2800 &&& ~~~mask))

/-- INT_PEND_CLEAR. -/
def execIntPendClear (mask : Word) (s : State) : Out := .next (s.hostWrite 0x2800 fun t => t.pendClear mask)

end Sys2Proof.Machine
end

