-- ==== Sys2Proof/Machine/Register.lean ====
section
/-! DEFINITION. REGISTER_WRITE (R11, R394): which rule judges a write at each offset; LIVE_ADOPT (R364, R365); the observation
port (R387 to R391) and the superperiod boundary (R316). -/

namespace Sys2Proof.Machine

/-! ### Fields by their access codes (R11, R394) -/

/-- A write whose fields no other rule judges: a changed RW field needs an idle engine, and the write is refused as a whole;
RWS fields are staged, RWL fields are live, the rest is ignored. -/
def State.fieldWrite (s : State) (off : Nat) (v : Word) : Byte × State :=
  let fs := fieldsAt off
  let old := s.reg off
  let rw := maskOf fs .rw
  let rws := maskOf fs .rws
  let rwl := maskOf fs .rwl
  if (old ^^^ v) &&& rw ≠ 0 ∧ s.idle = false then (codeOffside, s)
  else
    let t := if (old ^^^ v) &&& rw = 0 then s else s.setReg off ((old &&& ~~~rw) ||| (v &&& rw))
    let t := if rws = 0 then t else
      let p := (Tab.get none t.staged off).getD (0, 0)
      { t with staged := Tab.set none t.staged off (some (p.1 ||| rws, (p.2 &&& ~~~rws) ||| (v &&& rws))) }
    let t := if rwl = 0 then t else t.liveWrite off ((t.reg off &&& ~~~rwl) ||| (v &&& rwl))
    (codeOk, t)

/-- A write that would change a register of an enabled region or pool is refused (R103, R232). -/
def State.heldWrite (s : State) (en : Bool) (off : Nat) (v : Word) : Byte × State :=
  if en && decide ((s.reg off ^^^ v) &&& maskOf (fieldsAt off) .rw ≠ 0) then (codeOffside, s) else s.fieldWrite off v

/-! ### Observation registers (R387 to R391) -/

/-- A write of `OBS_SEL[p]`: MODE 11 is refused and the field keeps its value (R390). -/
def State.selWrite (s : State) (p : Nat) (v : Word) : Byte × State :=
  let off := 0x0F0100 + 4 * p
  if bitsOf v.toNat 17 16 = 3 then (codeFormat, s) else s.fieldWrite off v

/-- OBS_SEL_WRITE (R390). -/
def execObsSelWrite (p : Fin 16) (v : Word) (s : State) : Out :=
  .next (s.hostWrite (0x0F0100 + 4 * p.val) fun t => t.selWrite p.val v)

/-- A write of `OBS_MWIN` (R391): START arms, STOP arms while the window runs, both together are refused. -/
def State.mwinWrite (s : State) (v : Word) : Byte × State :=
  let start := v.getLsbD 0
  let stop := v.getLsbD 1
  if start && stop then (codeFormat, s)
  else if start then (codeOk, { s with obs := { s.obs with arm := 1 } })
  else if stop && s.obs.run then (codeOk, { s with obs := { s.obs with arm := 2 } })
  else (codeOk, s)

/-- MWIN_START (R391). -/
def execMwinStart (s : State) : Out := .next (s.hostWrite 0x0F0200 fun t => t.mwinWrite 1)

/-- MWIN_STOP (R391). -/
def execMwinStop (s : State) : Out := .next (s.hostWrite 0x0F0200 fun t => t.mwinWrite 2)

/-! ### Registers by offset -/

/-- Global control, mailbox, whistles, flags. -/
def State.globalWrite (s : State) (off : Nat) (v : Word) : Byte × State :=
  match off with
  | 0x001040 => s.lockWrite 0x1040 0 v
  | 0x001044 => s.lockWrite 0x1044 32 v
  | 0x002000 => s.flagClear v
  | 0x002800 => s.pendClear v
  | 0x003000 => s.mbWrite v
  | 0x003030 => s.whistleWrite v
  | _ => s.fieldWrite off v

/-- Registers of a context or a sequencer (R59). -/
def State.seqWrite (s : State) (off : Nat) (v : Word) : Byte × State :=
  let n := (off - 0x010000) / 0x800
  let r := off % 0x800
  let c := 4 * n + r / 0x100
  if s.nSeq ≤ n ∨ 0x400 ≤ r then (codeOk, s)
  else match r % 0x100 with
    | 0x00 => s.ctrlWrite c v
    | 0x38 => (codeOk, s.liveWrite off (v &&& 0xBFE#32))
    | k =>
      if (k = 0x08 ∨ (0x10 ≤ k ∧ k < 0x30)) ∧ (s.ctx c).st ≠ CtxState.free then (codeOffside, s)
      else s.fieldWrite off v

/-- Sync objects (R49): the write acts as the sync file adopts it. -/
def State.syncWrite (s : State) (off : Nat) (v : Word) : Byte × State :=
  let n := (off - 0x020000) / 8
  let t := s.noteLive 1
  (codeOk, { t with syncWr := t.syncWr ++ [(n, decide (off % 8 = 4), v)] })

/-- Registers of the score tiles, admission, the scout and the ports. -/
def State.routeWrite (s : State) (off : Nat) (v : Word) : Byte × State :=
  if off = 0x060004 then s.gldWrite v
  else if off = 0x070004 then s.rldWrite v
  else if off = 0x070020 then s.histRd v
  else if 0x090000 ≤ off ∧ off < 0x090080 then s.ingCtrl ((off - 0x090000) / 4) v
  else if 0x090100 ≤ off ∧ off < 0x090180 then s.egrCtrl ((off - 0x090100) / 4) v
  else s.fieldWrite off v

/-- Registers of the buffer pools (R232, R233). -/
def State.poolWrite (s : State) (off : Nat) (v : Word) : Byte × State :=
  if off < 0x0A0200 then
    let n := (off - 0x0A0000) / 0x40
    if off % 0x40 = 0x14 then s.poolCtrl n v else s.heldWrite (s.poolEn n) off v
  else if 0x0A1000 ≤ off ∧ off < 0x0A3000 then
    let i := (off - 0x0A1000) / 4
    s.quotaWrite (i % 8) (i / 8) v
  else s.fieldWrite off v

/-- Registers of Volley (R265, R269, R272). -/
def State.volWrite (s : State) (off : Nat) (v : Word) : Byte × State :=
  if off = 0x0B0000 then
    let n := bitsOf v.toNat 13 0
    if n ≠ s.sysSize ∧ s.idle = false then (codeOffside, s)
    else if n = 0 ∨ 8192 < n then (codeBounds, s) else s.fieldWrite off v
  else if off = 0x0B0004 then
    let n := bitsOf v.toNat 12 0
    if n ≠ s.chip ∧ s.idle = false then (codeOffside, s)
    else if s.sysSize ≤ n then (codeBounds, s) else s.fieldWrite off v
  else if off = 0x0B002C then (if v.getLsbD 0 then s.instClear else (codeOk, s))
  else if 0x0B1000 ≤ off ∧ off < 0x0B2000 ∧ off % 0x40 = 0x1C then s.portCtrl ((off - 0x0B1000) / 0x40) (v.getLsbD 0)
  else s.fieldWrite off v

/-- Registers of Rebound, the memory port and the tensor regions (R103, R289, R305, R313). -/
def State.memWrite (s : State) (off : Nat) (v : Word) : Byte × State :=
  if off = 0x0C0020 then s.cancelWrite v
  else if off = 0x0D001C then (codeOk, if v.getLsbD 0 then s.memResume else s)
  else if off = 0x0D2000 then
    (if v.getLsbD 31 then s.maintGo (bitsOf v.toNat 4 0) (bitsOf v.toNat 10 5) (bitsOf v.toNat 23 16) else s.fieldWrite off v)
  else if 0x0D8000 ≤ off ∧ off < 0x0D9000 then
    let n := (off - 0x0D8000) / 0x10
    if off % 0x10 = 0x0C then s.tregCtrl n v else s.heldWrite (s.region n).2.2 off v
  else s.fieldWrite off v

/-- Registers of the Referee and the image (R333, R334, R345, R352, R368). -/
def State.refWrite (s : State) (off : Nat) (v : Word) : Byte × State :=
  match off with
  | 0x0E000C => s.kctlWrite v
  | 0x0E010C => s.repairClear v
  | 0x0E0120 => s.obhRd v
  | 0x0E0158 => s.divClear v
  | _ =>
    if 0x0E8000 ≤ off ∧ off < 0x0EA000 then s.imgWrite ((off - 0x0E8000) / 4) v else s.fieldWrite off v

/-- Registers of the observation port. -/
def State.obsWrite (s : State) (off : Nat) (v : Word) : Byte × State :=
  if 0x0F0100 ≤ off ∧ off < 0x0F0140 then s.selWrite ((off - 0x0F0100) / 4) v
  else if off = 0x0F0200 then s.mwinWrite v else s.fieldWrite off v

/-- A host write at an offset: an unaligned one ends with ALIGN (R369). -/
def State.write (s : State) (off : Nat) (v : Word) : Byte × State :=
  if off % 4 ≠ 0 then (codeAlign, s)
  else if off < 0x010000 then s.globalWrite off v
  else if off < 0x020000 then s.seqWrite off v
  else if off < 0x060000 then s.syncWrite off v
  else if off < 0x0A0000 then s.routeWrite off v
  else if off < 0x0B0000 then s.poolWrite off v
  else if off < 0x0C0000 then s.volWrite off v
  else if off < 0x0E0000 then s.memWrite off v
  else if off < 0x0F0000 then s.refWrite off v
  else if off < 0x100000 then s.obsWrite off v
  else if off < 0x500000 then s.psWrite ((off - 0x100000) / 4) v
  else if off < 0x800000 then (codeOk, s)
  else s.pageWrite ((off - 0x800000) / 4) v

/-- REGISTER_WRITE (R11, R394). A write of `REF_KCTL.WARM` that is accepted ends in the reset, which records no write (R321). -/
def execRegisterWrite (off : BitVec 24) (v : Word) (s : State) : Out :=
  let warm := decide (off = 0x0E000C#24) && v.getLsbD 2
  .next (if warm && s.served && decide ((s.kctlWrite v).1 = codeOk) then (s.kctlWrite v).2
    else s.hostWrite off.toNat fun t => t.write off.toNat v)

/-! ### Adoption (R364, R365) -/

/-- Every live field that group `u` reads is in force. -/
def State.adopt (s : State) (u : Nat) : State :=
  let t : State := { s with lag := s.lag.filter fun e => decide (ownerOf e.1 ≠ u) }
  let t := if u = 1 then t.adoptSync else if u = 8 then t.adoptQueues else t
  if bitOf (s.reg 0x1080).toNat u then t else t.setAdopt u

/-- LIVE_ADOPT (R364, R365): a group adopts at its packet boundary. The observation port adopts at a superperiod boundary alone
(R390). -/
def execLiveAdopt (u : Fin 15) (s : State) : Out := .next (if u.val = 14 then s else s.adopt u.val)

/-! ### Superperiods (R316, R299, R390, R391) -/

/-- The measurement window at a superperiod boundary. -/
def State.window (s : State) : State :=
  match s.obs.arm with
  | 1 => { s with obs := { s.obs with arm := 0, run := true, cnt := [] } }
  | 2 => ({ s.measure 0 1 with obs := { (s.measure 0 1).obs with arm := 0, run := false } } : State)
  | _ => s.measure 0 1

/-- SUPERPERIOD_BOUNDARY (R316, R319): the count advances, `SPM_OUT` is driven for a cycle, the memory ports gain credit (R299), the observation port adopts (R390) and
the measurement window turns (R391). Before K1 ends there is no boundary. -/
def execSuperperiodBoundary (s : State) : Out :=
  .next (if !s.served then s else
    let t : State := { s with spcnt := s.spcnt + 1, pins := { s.pins with spmOut := true } }
    (t.gainCredit.adopt 14).window)

/-! ### Observation pins (R388, R389) -/

/-- Signal `local_` of region `r` exists in this part (R388). -/
def State.obsSignal (s : State) (r l : Nat) : Bool :=
  let i := l / 8
  let j := l % 8
  match r with
  | 0 => decide (l ≤ 12)
  | 15 => decide (l ≤ 6)
  | 18 => decide (l ≤ 37)
  | 21 => decide (j ≤ 4)
  | 37 => decide (l ≤ 4)
  | _ =>
    if 1 ≤ r ∧ r ≤ 4 then decide (8 * (r - 1) + i < s.nSeq)
    else if 5 ≤ r ∧ r ≤ 12 then decide (8 * (r - 5) + i < s.nTile) && decide (j ≤ 5)
    else if r = 16 ∨ r = 17 then decide (8 * (r - 16) + i < s.nScout) && decide (j ≤ 5)
    else if 22 ≤ r ∧ r ≤ 29 then decide (8 * (r - 22) + i < s.nLink)
    else [13, 14, 19, 20, 30, 31, 32, 33, 34, 35, 36].contains r

/-- The value that a pin shows for one update period: the signal's value at each source edge in it, oldest first, and what the
pin showed before. -/
def State.pinValue (s : State) (p : Nat) (edges : List Bool) (before : Bool) : Bool :=
  let off := 0x0F0100 + 4 * p
  let live := s.obsSignal (s.fldNow off 13 8) (s.fldNow off 5 0)
  let e := edges.map fun b => b && live
  match s.fldNow off 17 16 with
  | 0 => e.getLastD false
  | 1 => e.any id
  | _ => before ^^ ((e.filter id).length % 2 == 1)

/-- OBS_UPDATE_PERIOD (R389): `samples` gives for each pin the values of its selected signal at the source edges of the period. With
`OBS_CTRL.EN` clear the pins are low. -/
def execObsUpdatePeriod (samples : List (List Bool)) (s : State) : Out :=
  let on := s.fldNow 0x0F0000 0 0 == 1
  let v := (List.range 16).foldl (fun v p =>
    v + b2n (on && s.pinValue p (samples.getD p []) (s.obs.pins.getLsbD p)) * 2 ^ p) 0
  .next { s with obs := { s.obs with pins := BitVec.ofNat 16 v } }

end Sys2Proof.Machine
end

