-- ==== Sys2Proof/Machine/Dispatch.lean ====
section
/-! DEFINITION. The meaning of a command: one arm for each constructor of `Instr`. -/

namespace Sys2Proof.Machine

/-- What a command does to everything but the queue of commands that wait. -/
def exec (i : Instr) (s : State) : Host.Outcome State Fault Refusal :=
  match i with
  | .nop c f => Sys2Proof.Machine.execNop c f s
  | .endProg c f => Sys2Proof.Machine.execEndProg c f s
  | .li c f => Sys2Proof.Machine.execLi c f s
  | .lui c f => Sys2Proof.Machine.execLui c f s
  | .add c f => Sys2Proof.Machine.execAdd c f s
  | .sub c f => Sys2Proof.Machine.execSub c f s
  | .and c f => Sys2Proof.Machine.execAnd c f s
  | .or c f => Sys2Proof.Machine.execOr c f s
  | .xor c f => Sys2Proof.Machine.execXor c f s
  | .shl c f => Sys2Proof.Machine.execShl c f s
  | .shr c f => Sys2Proof.Machine.execShr c f s
  | .mul c f => Sys2Proof.Machine.execMul c f s
  | .min c f => Sys2Proof.Machine.execMin c f s
  | .max c f => Sys2Proof.Machine.execMax c f s
  | .beq c f => Sys2Proof.Machine.execBeq c f s
  | .bne c f => Sys2Proof.Machine.execBne c f s
  | .blt c f => Sys2Proof.Machine.execBlt c f s
  | .bge c f => Sys2Proof.Machine.execBge c f s
  | .bltu c f => Sys2Proof.Machine.execBltu c f s
  | .loop c f => Sys2Proof.Machine.execLoop c f s
  | .loopv c f => Sys2Proof.Machine.execLoopv c f s
  | .stat c f => Sys2Proof.Machine.execStat c f s
  | .sysr c f => Sys2Proof.Machine.execSysr c f s
  | .signal c f => Sys2Proof.Machine.execSignal c f s
  | .wait c f => Sys2Proof.Machine.execWait c f s
  | .remoteSignal c f => Sys2Proof.Machine.execRemoteSignal c f s
  | .csset c f => Sys2Proof.Machine.execCsset c f s
  | .descLoad c f => Sys2Proof.Machine.execDescLoad c f s
  | .descClone c f => Sys2Proof.Machine.execDescClone c f s
  | .descInval c f => Sys2Proof.Machine.execDescInval c f s
  | .fit c f => Sys2Proof.Machine.execFit c f s
  | .norm c f => Sys2Proof.Machine.execNorm c f s
  | .pos c f => Sys2Proof.Machine.execPos c f s
  | .score c f => Sys2Proof.Machine.execScore c f s
  | .smax c f => Sys2Proof.Machine.execSmax c f s
  | .topk c f => Sys2Proof.Machine.execTopk c f s
  | .admitRows c f => Sys2Proof.Machine.execAdmitRows c f s
  | .admissionStallEnd => Sys2Proof.Machine.execAdmissionStallEnd s
  | .scout c f => Sys2Proof.Machine.execScout c f s
  | .huddle c f => Sys2Proof.Machine.execHuddle c f s
  | .pack c f => Sys2Proof.Machine.execPack c f s
  | .keep c f => Sys2Proof.Machine.execKeep c f s
  | .volley c f => Sys2Proof.Machine.execVolley c f s
  | .recvIn c f => Sys2Proof.Machine.execRecvIn c f s
  | .recvNet c f => Sys2Proof.Machine.execRecvNet c f s
  | .reboundCombine c f => Sys2Proof.Machine.execReboundCombine c f s
  | .reboundRet c f => Sys2Proof.Machine.execReboundRet c f s
  | .fuse c f => Sys2Proof.Machine.execFuse c f s
  | .micro c f => Sys2Proof.Machine.execMicro c f s
  | .copy c f => Sys2Proof.Machine.execCopy c f s
  | .xpose c f => Sys2Proof.Machine.execXpose c f s
  | .gather c f => Sys2Proof.Machine.execGather c f s
  | .scatter c f => Sys2Proof.Machine.execScatter c f s
  | .scatterAdd c f => Sys2Proof.Machine.execScatterAdd c f s
  | .stepInsn c f => Sys2Proof.Machine.execStepInsn c f s
  | .saveInsn c f => Sys2Proof.Machine.execSaveInsn c f s
  | .restoreInsn c f => Sys2Proof.Machine.execRestoreInsn c f s
  | .qctlFlush c f => Sys2Proof.Machine.execQctlFlush c f s
  | .qctlDroprest c f => Sys2Proof.Machine.execQctlDroprest c f s
  | .qctlCount c f => Sys2Proof.Machine.execQctlCount c f s
  | .epoch c f => Sys2Proof.Machine.execEpoch c f s
  | .cnt c f => Sys2Proof.Machine.execCnt c f s
  | .seed c f => Sys2Proof.Machine.execSeed c f s
  | .unitCommandCompletion c serial => Sys2Proof.Machine.execUnitCommandCompletion c serial s
  | .icacheMissFill c => Sys2Proof.Machine.execIcacheMissFill c s
  | .syncWaiterRelease obj => Sys2Proof.Machine.execSyncWaiterRelease obj s
  | .waitTimeout c => Sys2Proof.Machine.execWaitTimeout c s
  | .stepBoundary => Sys2Proof.Machine.execStepBoundary s
  | .saveImageWritten => Sys2Proof.Machine.execSaveImageWritten s
  | .ctxStart c clr => Sys2Proof.Machine.execCtxStart c clr s
  | .ctxHalt c clr => Sys2Proof.Machine.execCtxHalt c clr s
  | .ctxResume c clr => Sys2Proof.Machine.execCtxResume c clr s
  | .ctxSkip c clr => Sys2Proof.Machine.execCtxSkip c clr s
  | .ctxClrerr c => Sys2Proof.Machine.execCtxClrerr c s
  | .ctxFree c clr => Sys2Proof.Machine.execCtxFree c clr s
  | .psLockWrite hi v => Sys2Proof.Machine.execPsLockWrite hi v s
  | .programStoreWrite w v => Sys2Proof.Machine.execProgramStoreWrite w v s
  | .gldGo v => Sys2Proof.Machine.execGldGo v s
  | .gateLoadComplete => Sys2Proof.Machine.execGateLoadComplete s
  | .rldGo v => Sys2Proof.Machine.execRldGo v s
  | .replicaLoadComplete => Sys2Proof.Machine.execReplicaLoadComplete s
  | .epochRelease t => Sys2Proof.Machine.execEpochRelease t s
  | .tregEnable n => Sys2Proof.Machine.execTregEnable n s
  | .poolEnable n v => Sys2Proof.Machine.execPoolEnable n v s
  | .poolRingBuilt n => Sys2Proof.Machine.execPoolRingBuilt n s
  | .poolQuotaWrite n r v => Sys2Proof.Machine.execPoolQuotaWrite n r v s
  | .poolAllocate n r => Sys2Proof.Machine.execPoolAllocate n r s
  | .poolFree n r addr => Sys2Proof.Machine.execPoolFree n r addr s
  | .poolCacheRefill n => Sys2Proof.Machine.execPoolCacheRefill n s
  | .ingestGroupEnable p v => Sys2Proof.Machine.execIngestGroupEnable p v s
  | .egressGroupEnable p v => Sys2Proof.Machine.execEgressGroupEnable p v s
  | .queCfgFlush q => Sys2Proof.Machine.execQueCfgFlush q s
  | .histRdWrite v => Sys2Proof.Machine.execHistRdWrite v s
  | .obhRdWrite v => Sys2Proof.Machine.execObhRdWrite v s
  | .mbSignal => Sys2Proof.Machine.execMbSignal s
  | .mbAlloc => Sys2Proof.Machine.execMbAlloc s
  | .mbFree => Sys2Proof.Machine.execMbFree s
  | .mbPing => Sys2Proof.Machine.execMbPing s
  | .whistleGrant n => Sys2Proof.Machine.execWhistleGrant n s
  | .whistleClear => Sys2Proof.Machine.execWhistleClear s
  | .rebCancel batch => Sys2Proof.Machine.execRebCancel batch s
  | .volInstclr => Sys2Proof.Machine.execVolInstclr s
  | .portOutWrite l out => Sys2Proof.Machine.execPortOutWrite l out s
  | .kctlRelease => Sys2Proof.Machine.execKctlRelease s
  | .hostWarmReset => Sys2Proof.Machine.execHostWarmReset s
  | .kctlForget => Sys2Proof.Machine.execKctlForget s
  | .refImgWrite w v => Sys2Proof.Machine.execRefImgWrite w v s
  | .memResume => Sys2Proof.Machine.execMemResume s
  | .maintMarginT stack pc => Sys2Proof.Machine.execMaintMarginT stack pc s
  | .maintMarginV stack pc => Sys2Proof.Machine.execMaintMarginV stack pc s
  | .maintRowq stack pc => Sys2Proof.Machine.execMaintRowq stack pc s
  | .maintRemap stack pc => Sys2Proof.Machine.execMaintRemap stack pc s
  | .maintCread stack pc => Sys2Proof.Machine.execMaintCread stack pc s
  | .maintCwrite stack pc => Sys2Proof.Machine.execMaintCwrite stack pc s
  | .maintTakeover stack pc => Sys2Proof.Machine.execMaintTakeover stack pc s
  | .maintResult v => Sys2Proof.Machine.execMaintResult v s
  | .repairClear => Sys2Proof.Machine.execRepairClear s
  | .pcDivclr => Sys2Proof.Machine.execPcDivclr s
  | .mwinStart => Sys2Proof.Machine.execMwinStart s
  | .mwinStop => Sys2Proof.Machine.execMwinStop s
  | .obsSelWrite p v => Sys2Proof.Machine.execObsSelWrite p v s
  | .pagedWindowWrite w v => Sys2Proof.Machine.execPagedWindowWrite w v s
  | .flagClear mask => Sys2Proof.Machine.execFlagClear mask s
  | .intPendClear mask => Sys2Proof.Machine.execIntPendClear mask s
  | .lowWordRead off => Sys2Proof.Machine.execLowWordRead off s
  | .registerWrite off v => Sys2Proof.Machine.execRegisterWrite off v s
  | .liveAdopt u => Sys2Proof.Machine.execLiveAdopt u s
  | .powerOnReset => Sys2Proof.Machine.execPowerOnReset s
  | .warmReset => Sys2Proof.Machine.execWarmReset s
  | .resetRelease power warm => Sys2Proof.Machine.execResetRelease power warm s
  | .lockLoss => Sys2Proof.Machine.execLockLoss s
  | .kickoffK0 x => Sys2Proof.Machine.execKickoffK0 x s
  | .kickoffK1 x => Sys2Proof.Machine.execKickoffK1 x s
  | .kickoffK2 fails => Sys2Proof.Machine.execKickoffK2 fails s
  | .kickoffK3 fails => Sys2Proof.Machine.execKickoffK3 fails s
  | .kickoffK4 x => Sys2Proof.Machine.execKickoffK4 x s
  | .kickoffK5 x => Sys2Proof.Machine.execKickoffK5 x s
  | .kickoffK6 fails => Sys2Proof.Machine.execKickoffK6 fails s
  | .kickoffK7 fails => Sys2Proof.Machine.execKickoffK7 fails s
  | .kickoffK8 => Sys2Proof.Machine.execKickoffK8 s
  | .nvsCommandDone rdata => Sys2Proof.Machine.execNvsCommandDone rdata s
  | .nvsTimeout => Sys2Proof.Machine.execNvsTimeout s
  | .spmMarker early => Sys2Proof.Machine.execSpmMarker early s
  | .spmMarkerTimeout => Sys2Proof.Machine.execSpmMarkerTimeout s
  | .superperiodBoundary => Sys2Proof.Machine.execSuperperiodBoundary s
  | .obsUpdatePeriod samples => Sys2Proof.Machine.execObsUpdatePeriod samples s
  | .ingestPacket p ports => Sys2Proof.Machine.execIngestPacket p ports s
  | .queueSpillFill q => Sys2Proof.Machine.execQueueSpillFill q s
  | .egressWords p hold => Sys2Proof.Machine.execEgressWords p hold s
  | .memRequestIssue r => Sys2Proof.Machine.execMemRequestIssue r s
  | .memResponse m tag status => Sys2Proof.Machine.execMemResponse m tag status s
  | .retrainStart ch => Sys2Proof.Machine.execRetrainStart ch s
  | .retrainDone ch => Sys2Proof.Machine.execRetrainDone ch s
  | .retrainWindowExpiry ch => Sys2Proof.Machine.execRetrainWindowExpiry ch s
  | .channelFailed ch => Sys2Proof.Machine.execChannelFailed ch s
  | .spareReady stack => Sys2Proof.Machine.execSpareReady stack s
  | .sendListBuild => Sys2Proof.Machine.execSendListBuild s
  | .eohSend h => Sys2Proof.Machine.execEohSend h s
  | .frameSend l => Sys2Proof.Machine.execFrameSend l s
  | .controlBlockReceive l bytes => Sys2Proof.Machine.execControlBlockReceive l bytes s
  | .frameReceive l bytes => Sys2Proof.Machine.execFrameReceive l bytes s
  | .copySegment => Sys2Proof.Machine.execCopySegment s
  | .answerSegment => Sys2Proof.Machine.execAnswerSegment s
  | .signalPacket => Sys2Proof.Machine.execSignalPacket s
  | .sigack => Sys2Proof.Machine.execSigack s
  | .eohPacket => Sys2Proof.Machine.execEohPacket s
  | .discardPacket => Sys2Proof.Machine.execDiscardPacket s
  | .faultnPacket => Sys2Proof.Machine.execFaultnPacket s
  | .pstatePacket => Sys2Proof.Machine.execPstatePacket s
  | .digestPacket => Sys2Proof.Machine.execDigestPacket s
  | .ackTimeout l seq => Sys2Proof.Machine.execAckTimeout l seq s
  | .partialTimeout origin pid => Sys2Proof.Machine.execPartialTimeout origin pid s
  | .conservationTimeout h origin => Sys2Proof.Machine.execConservationTimeout h origin s
  | .dupFilterExpiry origin pid => Sys2Proof.Machine.execDupFilterExpiry origin pid s
  | .signalResendTimeout seq => Sys2Proof.Machine.execSignalResendTimeout seq s
  | .remoteSignalTimeout c => Sys2Proof.Machine.execRemoteSignalTimeout c s
  | .laneFail l lane => Sys2Proof.Machine.execLaneFail l lane s
  | .portRetrainDone l => Sys2Proof.Machine.execPortRetrainDone l s
  | .portSubstitution l => Sys2Proof.Machine.execPortSubstitution l s
  | .pcPartnerTimeout step unit h => Sys2Proof.Machine.execPcPartnerTimeout step unit h s
  | .resultEmission h => Sys2Proof.Machine.execResultEmission h s
  | .scoutBinReady e => Sys2Proof.Machine.execScoutBinReady e s
  | .stagingLoadComplete e => Sys2Proof.Machine.execStagingLoadComplete e s
  | .auditReport => Sys2Proof.Machine.execAuditReport s
  | .watchdogExpiry t testOk => Sys2Proof.Machine.execWatchdogExpiry t testOk s
  | .earlyFaultRecovery h => Sys2Proof.Machine.execEarlyFaultRecovery h s
  | .replay => Sys2Proof.Machine.execReplay s
  | .lateFault h => Sys2Proof.Machine.execLateFault h s
  | .unitSubstitution u x testOk => Sys2Proof.Machine.execUnitSubstitution u x testOk s
  | .undefinedInstruction c => Sys2Proof.Machine.execUndefinedInstruction c s
  | .unlockedRegionFetch c => Sys2Proof.Machine.execUnlockedRegionFetch c s
  | .pllLockTimeout altOk => Sys2Proof.Machine.execPllLockTimeout altOk s
  | .linkPartnerTimeout l => Sys2Proof.Machine.execLinkPartnerTimeout l s

end Sys2Proof.Machine
end

