-- ==== Sys2Proof/Machine/Tick.lean ====
section
/-! DEFINITION. What one FCLK does when no command waits (log entry 5): the Referee records faults without a half and ends the
recovery state (R355, R357), the stall counters count (R159, R169, R206, R256), every unit goes on with the command at the
head of its queue (R40), held memory requests go out as tags become free (R302), queues move words (R211), frames that wait
for a port try again (R256), and FC_HOLD is driven (R219); HW_ACK and SPM_OUT, which a cycle drove, fall (R319). -/

namespace Sys2Proof.Machine

/-- The admission stall of an FCLK (R169, R180): it counts, and in the step record of the half too. -/
def State.stallAdmission (s : State) : State :=
  if !s.adm.stalled then s else
  match s.ucmds.find? fun u => decide (unitOf u.op = 3) && u.started && u.result.isNone with
  | some u => (s.bump 0x070040 1).countRec 9 (u.queue % 2) 1
  | none => s.bump 0x070040 1

/-- Rows of the running SCORE wait for the fill of their gate (R152, R159). -/
def State.stallScore (s : State) : State :=
  if s.ucmds.any fun u => decide (unitOf u.op = 1) && u.started && u.result.isNone && s.isHead u && u.segs.any fun b => s.fillWait b.epoch
  then s.bump 0x060014 1 else s

/-- The ready bin that is next in turn waits for its staging load (R206). -/
def State.stallScout (s : State) : State :=
  match s.scoutCmd, s.scout.bins with
  | some u, b :: _ => if b.ready && s.binWaits u b then s.bump 0x080038 1 else s
  | _, _ => s

/-- A frame has no eligible port (R256). -/
def State.stallLinks (s : State) : State :=
  if s.vol.stuck.any fun f => decide (f.dest ≠ s.chip) && decide (s.eligible f = []) then s.bump 0x0B005C 1 else s

/-- One or more requests wait on a full hold queue (R302). -/
def State.stallMemory (s : State) : State := if s.mp.wait = [] then s else s.bump 0x0D0030 1

/-- A command at the head of its unit's queue goes on. -/
def State.goOn (s : State) (k : Ctx × BitVec 16) : State :=
  match s.cmd k.1 k.2 with
  | some u => if u.result.isNone && s.isHead u then unitRun s u else s
  | none => s

/-- One FCLK. -/
def State.tick (s : State) : State :=
  let t := s.noHalf
  let t : State := { t with ref := { t.ref with recov := false }, pins := { t.pins with hwAck := false, spmOut := false } }
  let t := t.stallAdmission.stallScore.stallScout.stallLinks.ageBins
  let t := (t.ucmds.map fun u => (u.c, u.serial)).foldl State.goOn t
  let t := t.stallMemory.maintSend.memRun
  let t := (t.queues.map (·.1)).foldl State.settleQueue t
  let t := (t.flow.map (·.1)).foldl State.flowOn t
  t.retryStuck.holdUpdate

end Sys2Proof.Machine
end

