-- ==== Sys2Proof/Machine/Step.lean ====
section
/-! DEFINITION. The step: the command at the front of the queue runs on the state with the queue's rest; with an
empty queue the block lets one FCLK pass (log entry 5). -/

namespace Sys2Proof.Machine

/-- The state with the command that a table word spells put in front of the queue: no row of the table has bits,
so the state as it is (log entry 4). -/
def State.withFetchWord (s : State) (nbits w : Nat) : State :=
  match decodeTableWord nbits w with
  | some i => { s with pending := i :: s.pending }
  | none => s

/-- One step. -/
def step (s : State) : Host.Outcome State Fault Refusal :=
  match s.pending with
  | [] => .next s.tick
  | i :: rest => exec i { s with pending := rest }

end Sys2Proof.Machine
end

