-- ==== Sys2Proof/Safety.lean ====
section
/-! DEFINITION. What the statements speak of: when an instruction issues and a host write is answered, what an
instruction computes, said on integers, and what a step may change. -/

namespace Sys2Proof.Safety

open Sys2Proof.Machine

/-! ### Runs -/

/-- Every step keeps the property. -/
def Kept (p : State → Prop) : Prop := ∀ s t, p s → step s = .next t → p t

/-- A command stops with a fault. -/
def Faults (i : Instr) (s : State) : Prop := ∃ r, exec i s = .fault r

/-! ### Issue (R32, R35, R37, R40, R43, R44, R60) -/

/-- Instruction `i` is the next one of context `c` and nothing holds it back: the context is RUNNING, not on its way to
another state (R45, R53, R57, R59), of a logical sequencer that exists (R32); its program counter stands in a locked region
of the store (R43) whose line the cache holds (R44), and the word there decodes to `i` (R37); fewer than 16 commands are
outstanding (R32, R40), the registers that `i` reads are written (R35), a STAT finds no REMOTE.SIGNAL open (R60), and the turn is the
context's (R32). -/
structure Issues (s : State) (c : Ctx) (i : Instr) : Prop where
  running : (s.ctx c).st = .running
  staying : (s.ctx c).drain = .no
  untrapped : (s.ctx c).trapDue = false
  present : c.val < 4 * s.nSeq
  inStore : (s.ctx c).pc < psBytes
  locked : s.locked ((s.ctx c).pc / 0x10000) = true
  cached : s.icHeld c (s.ctx c).pc = true
  word : decodeWord c (s.psWord (s.ctx c).pc) = some i
  room : s.outstanding c < 16
  operands : ∀ op d f, opcodeOf i = some (op, d, f) → ∀ r ∈ readsOf op f, s.regBusy c r = false
  local_ : ∀ d f, opcodeOf i = some (0x1C, d, f) → s.remoteOpen c = false
  turn : s.turn c = true

/-- No replay runs, and the journal of the context takes one more entry (R356, R358). -/
def Journals (s : State) (c : Ctx) : Prop := s.ref.replay = false ∧ (s.journal c).length < 1024

/-- Offset of the issue count of a context's sequencer (R59). -/
def issueCount (c : Ctx) : Nat := 0x010404 + 0x800 * (c.val / 4)

/-- What an instruction of the control class may change: its own context, the issue count of its sequencer, the order of
issue, the contexts that stood ready, and the order of cache use. Everything else is as it was. -/
def ControlFrame (c : Ctx) (s t : State) : Prop :=
  t = { s with ctxs := t.ctxs, regs := t.regs, icache := t.icache, lastIssue := t.lastIssue, stood := t.stood, slow := t.slow } ∧
  (∀ d, d ≠ c.val → t.ctx d = s.ctx d) ∧ (∀ o, o ≠ issueCount c → t.reg o = s.reg o) ∧
  t.reg (issueCount c) = s.reg (issueCount c) + 1

/-- What an instruction outside the control class may change beside its own effect: as `ControlFrame`, and the journal of
its context (R356). -/
def JournalFrame (c : Ctx) (s t : State) : Prop :=
  t = { s with ctxs := t.ctxs, regs := t.regs, icache := t.icache, lastIssue := t.lastIssue, stood := t.stood, slow := t.slow,
               ref := { s.ref with journal := t.ref.journal, jpos := t.ref.jpos } } ∧
  (∀ d, d ≠ c.val → t.ctx d = s.ctx d ∧ t.journal d = s.journal d) ∧
  (∀ o, o ≠ issueCount c → t.reg o = s.reg o)

/-! ### Host writes (R323, R370) -/

/-- The window answers a write at an offset: K1 has ended, and before K8 only the Referee's and the observation port's registers
take writes (R323, R370, R387). -/
def HostReady (s : State) (off : Nat) : Prop :=
  s.served = true ∧ (s.preService = false ∨ refereeOffset off = true ∨ observeOffset off = true)

/-- The state with an access of the host acknowledged (R370). -/
def acked (s : State) : State := { s with pins := { s.pins with hwAck := true } }

/-- The last write's offset and code stand in the write status (R370). -/
def WriteCode (t : State) (off : Nat) (k : Byte) : Prop := t.reg 0x3020 = BitVec.ofNat 32 (off % 2 ^ 24 + k.toNat * 2 ^ 24)

/-! ### What an instruction computes (R65), on integers -/

/-- Operand B: xB plus the sign-extended immediate, modulo 2^64. -/
def operandB (x : Context) (f : Fields) : Nat := (((x.xr f.srcB).toNat + f.imm.toInt) % 2 ^ 64).toNat

/-- The number that 64 bits stand for as a signed value. -/
def signed (v : Nat) : Int := if v < 2 ^ 63 then (v : Int) else (v : Int) - 2 ^ 64

/-- The value that an arithmetic instruction writes to xD, with its context and fields; none for another row. -/
def arithValue (x : Context) : Instr → Option (Ctx × Fields × Nat)
  | .li c f => some (c, f, (f.imm.toInt % 2 ^ 64).toNat)
  | .lui c f => some (c, f, (x.xr f.dst).toNat % 2 ^ 32 + f.imm.toNat * 2 ^ 32)
  | .add c f => some (c, f, ((x.xr f.srcA).toNat + operandB x f) % 2 ^ 64)
  | .sub c f => some (c, f, ((x.xr f.srcA).toNat + (2 ^ 64 - operandB x f)) % 2 ^ 64)
  | .and c f => some (c, f, (x.xr f.srcA).toNat &&& operandB x f)
  | .or c f => some (c, f, (x.xr f.srcA).toNat ||| operandB x f)
  | .xor c f => some (c, f, (x.xr f.srcA).toNat ^^^ operandB x f)
  | .shl c f => some (c, f, (x.xr f.srcA).toNat * 2 ^ (operandB x f % 64) % 2 ^ 64)
  | .shr c f => some (c, f, (x.xr f.srcA).toNat / 2 ^ (operandB x f % 64))
  | .mul c f => some (c, f, (x.xr f.srcA).toNat * operandB x f % 2 ^ 64)
  | .min c f => some (c, f, if signed (x.xr f.srcA).toNat < signed (operandB x f) then (x.xr f.srcA).toNat else operandB x f)
  | .max c f => some (c, f, if signed (operandB x f) < signed (x.xr f.srcA).toNat then (x.xr f.srcA).toNat else operandB x f)
  | _ => none

/-- Whether a branch is taken, with its context and fields; none for another row (R65). -/
def branchTaken (x : Context) : Instr → Option (Ctx × Fields × Bool)
  | .beq c f => some (c, f, decide ((x.xr f.srcA).toNat = (x.xr f.srcB).toNat))
  | .bne c f => some (c, f, decide ((x.xr f.srcA).toNat ≠ (x.xr f.srcB).toNat))
  | .blt c f => some (c, f, decide (signed (x.xr f.srcA).toNat < signed (x.xr f.srcB).toNat))
  | .bge c f => some (c, f, decide (signed (x.xr f.srcB).toNat ≤ signed (x.xr f.srcA).toNat))
  | .bltu c f => some (c, f, decide ((x.xr f.srcA).toNat < (x.xr f.srcB).toNat))
  | _ => none

end Sys2Proof.Safety
end

