-- ==== Sys2Proof/Certificates/Slice0/Obligations.lean ====
section
/-! DEFINITION. The statements of this model, one `def Obligations.<Name> : Prop` each; OBLIGATIONS.json lists them. A
command's statement says that `exec` answers a next state, what that state holds, and what it leaves as it was. -/

open Sys2Proof Sys2Proof.Machine Sys2Proof.Safety

/-! ## The machine as a whole -/

/-- A step runs the command at the front of the queue on the state with the queue's rest. -/
def Obligations.StepRunsTheFrontCommand : Prop :=
  ∀ (s : State) (i : Instr) (rest : List Instr), s.pending = i :: rest → step s = exec i { s with pending := rest }

/-- What the manual says the block shows right after a power-on reset: the engine is in reset (R333, R372), every FC_HOLD
output is high (R322), every context is FREE with x0 to x31 zero (R33, R34), every sync object, descriptor slot and queue is
as the reset columns give it (R47, R49, R237), the step counter is 0 (R53) and no command waits. -/
def Obligations.ResetState : Prop :=
  State.reset.pending = [] ∧ State.reset.engine = 0 ∧ State.reset.pins.fcHold = 0xFFFFFFFF#32 ∧ State.reset.step = 0 ∧
  (∀ c, (State.reset.ctx c).st = .free ∧ (State.reset.ctx c).loops = [] ∧ ∀ r, (State.reset.ctx c).xr r = 0) ∧
  (∀ n, State.reset.obj n = ⟨0, 0⟩) ∧ (∀ n, (State.reset.slot n).valid = false) ∧
  (∀ q, (State.reset.queue q).cls = .disabled ∧ (State.reset.queueWords q) = []) ∧
  State.reset.reg 0x000000 = 0x44595753#32 ∧ State.reset.reg 0x000004 = 2#32 ∧
  (∀ b, State.reset.fld 0x2000 b b = 0)

/-- The stacks' contents are in canonical form at reset. -/
def Obligations.ResetMemoryCanonical : Prop := Memory.wf State.reset.mem = true

/-- Every step keeps the canonical form of the stacks' contents: addresses rise strictly, and no listed byte is one that
reads as an unlisted byte (log entry 1), so that equal memories are equal data. -/
def Obligations.StepKeepsMemoryCanonical : Prop := Kept fun s => Memory.wf s.mem = true

/-- No command but the one in front of it touches the queue, and no command changes the fused grade (R3): what `exec`
answers has the queue and the grade it was given. -/
def Obligations.CommandsKeepQueueAndGrade : Prop :=
  ∀ (i : Instr) (s t : State), exec i s = .next t → t.pending = s.pending ∧ t.gradeB = s.gradeB

/-! ## Instruction words (R36 to R39, R64) -/

/-- Decoding the word of a well-formed instruction of a layer program gives the instruction back, whatever its context and
operands. Every word that decodes is the word of what it decodes to: no bit of a word is without a place in the instruction. R36:
the 64 bits of the word are the opcode in [63:56], dst in [55:50], srcA in [49:44], srcB in [43:38], the flags in [37:32] and the
immediate in [31:0]. -/
def Obligations.DecodeAndEncodeAgree : Prop :=
  (∀ (i : Instr) (op : Nat) (c : Ctx) (f : Fields), i.wf = true → opcodeOf i = some (op, c, f) →
    decodeWord c (encodeWord i) = some i) ∧
  (∀ (c : Ctx) (w : DWord) (i : Instr), decodeWord c w = some i → encodeWord i = w ∧ i.wf = true) ∧
  (∀ (i : Instr) (op : Nat) (c : Ctx) (f : Fields) (w : DWord), opcodeOf i = some (op, c, f) → w = encodeWord i →
    (w.extractLsb' 56 8).toNat = op ∧ (w.extractLsb' 50 6).toNat = f.dst ∧ (w.extractLsb' 44 6).toNat = f.srcA ∧
    (w.extractLsb' 38 6).toNat = f.srcB ∧ w.extractLsb' 32 6 = f.flags ∧ w.extractLsb' 0 32 = f.imm)

/-- R37: a register field from 32 to 63, and a set flag that the opcode does not define, make a word that is not executed; so
does an opcode that R64 does not list, such as 0x00, 0x1F and 0xFF. A few words written out from the encodings of R36, R39 and
R64: ADD x3, x1, x2 with immediate 5; LOOP of 3 passes over 2 instructions; NORM of slots 7 and 9 with WT; SIGNAL of object 5
by 1; DESC CLONE of slot 3 to slot 4; REBOUND.RET. -/
def Obligations.WordsOfTheManual : Prop :=
  ((∀ (c : Ctx) (w : DWord), 32 ≤ (w.extractLsb' 50 6).toNat ∨ 32 ≤ (w.extractLsb' 44 6).toNat ∨ 32 ≤ (w.extractLsb' 38 6).toNat →
    decodeWord c w = none) ∧
  (∀ (c : Ctx) (w : DWord), (w.extractLsb' 32 6) &&& ~~~flagMask (w.extractLsb' 56 8).toNat ≠ 0#6 → decodeWord c w = none) ∧
  (∀ (c : Ctx) (w : DWord), (w.extractLsb' 56 8).toNat ∈ [0x00, 0x1F, 0xFF] → decodeWord c w = none)) ∧
  (decodeWord 0 0x080C108000000005#64 = some (.add 0 ⟨3, 1, 2, 0, 5⟩) ∧
  decodeWord 0 0x1A08000000020003#64 = some (.loop 0 ⟨2, 0, 0, 0, 0x00020003⟩) ∧
  decodeWord 5 0x4000000100009007#64 = some (.norm 5 ⟨0, 0, 0, 1, 0x00009007⟩) ∧
  decodeWord 1 0x2000000000008005#64 = some (.signal 1 ⟨0, 0, 0, 0, 0x00008005⟩) ∧
  decodeWord 0 0x3000000001004003#64 = some (.descClone 0 ⟨0, 0, 0, 0, 0x01004003⟩) ∧
  decodeWord 0 0x4C00000001064007#64 = some (.reboundRet 0 ⟨0, 0, 0, 0, 0x01064007⟩))

/-! ## The sequencer: arithmetic, branches and loops (R45, R46, R65) -/

/-- LI, LUI and the ten arithmetic instructions write the value of R65 to xD, record OK and go on behind themselves; they
change nothing but their context, their sequencer's issue count, the order of issue with the contexts that stood ready, and the order of
cache use. -/
def Obligations.ArithmeticResults : Prop :=
  ∀ (s : State) (i : Instr) (c : Ctx) (f : Fields) (v : Nat),
    arithValue (s.ctx c) i = some (c, f, v) → Issues s c i →
    ∃ t, exec i s = .next t ∧ ControlFrame c s t ∧
      t.ctx c = (((s.ctx c).setX f.dst (BitVec.ofNat 64 v)).record codeOk (s.ctx c).pc).after (s.ctx c).pc

/-- The values that a write of xD leaves (R34): x0 reads zero and discards the write, the other registers read as written, and
no other register changes. R56: LAST is the code of the most recent completion; FIRST and FIRSTPC are those of the first code
that is not OK. -/
def Obligations.ContextRecords : Prop :=
  (∀ (x : Context) (r q : Reg) (v : DWord),
    x.xr 0 = 0 ∧ (x.setX 0 v = x) ∧ (r ≠ 0 → (x.setX r v).xr r = v) ∧ (q ≠ r → (x.setX r v).xr q = x.xr q)) ∧
  (∀ (x : Context) (k : Byte) (pc : Nat),
    (x.record k pc).last = k ∧
    (k ≠ codeOk ∧ x.first = 0 → (x.record k pc).first = k ∧ (x.record k pc).firstPc = pc) ∧
    (k = codeOk ∨ x.first ≠ 0 → (x.record k pc).first = x.first ∧ (x.record k pc).firstPc = x.firstPc) ∧
    (∀ r, (x.record k pc).xr r = x.xr r) ∧ (x.record k pc).pc = x.pc ∧ (x.record k pc).st = x.st)

/-- A branch whose target lies in the store completes (R45, R65): taken, it moves the program counter by the immediate in
instructions and pops every loop whose body it leaves; not taken, it goes on behind itself. R45: a taken branch whose target
lies outside the store traps with OFFSIDE at the branch, whatever TRAPEN says: the trap is precise, the branch is not taken,
the held program counter is the branch's, and so is FIRSTPC when it is the first error. -/
def Obligations.Branches : Prop :=
  (∀ (s : State) (i : Instr) (c : Ctx) (f : Fields) (b : Bool),
    branchTaken (s.ctx c) i = some (c, f, b) → Issues s c i →
    (b = true → 0 ≤ ((s.ctx c).pc : Int) + 8 * f.imm.toInt ∧ ((s.ctx c).pc : Int) + 8 * f.imm.toInt < 0x400000) →
    ∃ t, exec i s = .next t ∧ ControlFrame c s t ∧
      (b = false → t.ctx c = ((s.ctx c).record codeOk (s.ctx c).pc).after (s.ctx c).pc) ∧
      (b = true →
        (t.ctx c).pc = (((s.ctx c).pc : Int) + 8 * f.imm.toInt).toNat ∧
        (t.ctx c).loops = ((s.ctx c).loops.dropWhile fun l =>
          decide ((t.ctx c).pc < l.first) || decide (l.first + 8 * l.body ≤ (t.ctx c).pc)) ∧
        (t.ctx c).last = codeOk ∧ (t.ctx c).st = .running ∧ ∀ r, (t.ctx c).xr r = (s.ctx c).xr r)) ∧
  (∀ (s : State) (i : Instr) (c : Ctx) (f : Fields),
    branchTaken (s.ctx c) i = some (c, f, true) → Issues s c i →
    (((s.ctx c).pc : Int) + 8 * f.imm.toInt < 0 ∨ 0x400000 ≤ ((s.ctx c).pc : Int) + 8 * f.imm.toInt) →
    ∃ t, exec i s = .next t ∧
      (t.ctx c).st = .trapped ∧ (t.ctx c).precise = true ∧ (t.ctx c).pc = (s.ctx c).pc ∧ (t.ctx c).last = codeOffside ∧
      ((s.ctx c).first = 0 → (t.ctx c).first = codeOffside ∧ (t.ctx c).firstPc = (s.ctx c).pc) ∧
      (∀ r, (t.ctx c).xr r = (s.ctx c).xr r) ∧ t.fld 0x2800 2 2 = 1 ∧
      t = { s with ctxs := t.ctxs, regs := t.regs, icache := t.icache, lastIssue := t.lastIssue, stood := t.stood, slow := t.slow } ∧
      (∀ d, d ≠ c.val → t.ctx d = s.ctx d) ∧
      (∀ o, o ≠ issueCount c → o ≠ 0x2800 → t.reg o = s.reg o))

/-- NOP does nothing but go on (R65); END makes its context FREE at once when none of its commands is outstanding and no
REMOTE.SIGNAL of it is open, and otherwise sets it on its way to FREE (R45). STAT writes LAST and FIRST as they stand at its issue,
SYSR the value of its selector in the table of R66. -/
def Obligations.NopEndStatAndSysr : Prop :=
  (∀ (s : State) (c : Ctx) (f : Fields),
    (Issues s c (.nop c f) → ∃ t, exec (.nop c f) s = .next t ∧ ControlFrame c s t ∧
      t.ctx c = ((s.ctx c).record codeOk (s.ctx c).pc).after (s.ctx c).pc) ∧
    (Issues s c (.endProg c f) → ∃ t, exec (.endProg c f) s = .next t ∧ ControlFrame c s t ∧
      (s.outstanding c = 0 → s.remoteOpen c = false → (t.ctx c).st = .free) ∧
      (s.outstanding c ≠ 0 ∨ s.remoteOpen c = true → t.ctx c = { s.ctx c with drain := .toFree }))) ∧
  (∀ (s : State) (c : Ctx) (f : Fields), Journals s c →
    (Issues s c (.stat c f) → ∃ t, exec (.stat c f) s = .next t ∧ JournalFrame c s t ∧
      t.ctx c = (((s.ctx c).setX f.dst (BitVec.ofNat 64 ((s.ctx c).last.toNat + 256 * (s.ctx c).first.toNat))).record codeOk
        (s.ctx c).pc).after (s.ctx c).pc) ∧
    (∀ v : Nat, Issues s c (.sysr c f) →
      (f.imm.toNat % 256 = 0 ∧ v = s.chip ∨ f.imm.toNat % 256 = 1 ∧ v = s.sysSize ∨ f.imm.toNat % 256 = 2 ∧ v = s.step.toNat ∨
        f.imm.toNat % 256 = 3 ∧ v = c.val ∨ f.imm.toNat % 256 = 4 ∧ v = b2n s.ordered ∨
        f.imm.toNat % 256 = 5 ∧ v = b2n s.gradeB ∨ f.imm.toNat % 256 = 6 ∧ v = (s.gen 0).toNat + 4 * (s.gen 1).toNat ∨
        f.imm.toNat % 256 = 7 ∧ v = (match s.tbl.rep.active with | some e => 256 + e.toNat | none => 0)) →
      ∃ t, exec (.sysr c f) s = .next t ∧ JournalFrame c s t ∧
        t.ctx c = (((s.ctx c).setX f.dst (BitVec.ofNat 64 v)).record codeOk (s.ctx c).pc).after (s.ctx c).pc) ∧
    (8 ≤ f.imm.toNat % 256 → Issues s c (.sysr c f) → s.trapOn c codeBounds = false →
      ∃ t, exec (.sysr c f) s = .next t ∧ JournalFrame c s t ∧
        t.ctx c = ((s.ctx c).record codeBounds (s.ctx c).pc).after (s.ctx c).pc))

/-- LOOP takes its trip count from imm[15:0], LOOPV from xA[31:0] (R39, R46). With room on the stack, a body and, for LOOPV, xA
below 2^32, they complete: with passes to make they push the loop, put 0 in xD and enter the body; with a trip count of 0
nothing is pushed, and the context goes on as though the last instruction of the body had just been issued. R46: a fifth nested
loop is refused as OFFSIDE, a body length of 0 ends with BOUNDS, and so does a LOOPV whose xA[63:32] is not zero; nothing is
pushed or skipped. A taken branch with its target in the store pops the loops whose body it leaves, from the innermost outward, and
pushes nothing. With the code's trap clear the context goes on behind the instruction. What follows an instruction (R46):
the loops whose last instruction it is are tested from the innermost outward; a loop with a pass left starts it, with its new
iteration index in its register, and a loop that has finished is popped; with no such loop the context goes on 8 bytes further,
its loops as they were. -/
def Obligations.LoopInstructions : Prop :=
  (∀ (s : State) (i : Instr) (c : Ctx) (f : Fields) (n : Int), branchTaken (s.ctx c) i = some (c, f, true) → Issues s c i →
    n = ((s.ctx c).pc : Int) + 8 * f.imm.toInt → 0 ≤ n → n < 0x400000 →
    ∃ t, exec i s = .next t ∧ (t.ctx c).pc = n.toNat ∧ (t.ctx c).loops = ((s.ctx c).loops.dropWhile fun l =>
      decide (n.toNat < l.first) || decide (l.first + 8 * l.body ≤ n.toNat))) ∧
  ((∀ (s : State) (c : Ctx) (f : Fields) (i : Instr) (n : Nat),
    (i = .loop c f ∧ n = f.imm.toNat % 65536) ∨ (i = .loopv c f ∧ n = ((s.ctx c).xr f.srcA).toNat ∧ n < 2 ^ 32) →
    Issues s c i → (s.ctx c).loops.length < 4 → f.imm.toNat / 65536 ≠ 0 →
    ∃ t, exec i s = .next t ∧ ControlFrame c s t ∧
      (n ≠ 0 → t.ctx c = { (((s.ctx c).record codeOk (s.ctx c).pc).setX f.dst 0) with
          pc := (s.ctx c).pc + 8
          loops := ⟨0, n, (s.ctx c).pc + 8, f.imm.toNat / 65536, f.dst⟩ :: (s.ctx c).loops }) ∧
      (n = 0 → t.ctx c = ((s.ctx c).record codeOk (s.ctx c).pc).after ((s.ctx c).pc + 8 * (f.imm.toNat / 65536)))) ∧
  (∀ (s : State) (c : Ctx) (f : Fields) (i : Instr) (k : Byte),
    i = .loop c f ∨ i = .loopv c f → Issues s c i →
    (k = codeOffside ∧ 4 ≤ (s.ctx c).loops.length) ∨
      (k = codeBounds ∧ (s.ctx c).loops.length < 4 ∧
        (f.imm.toNat / 65536 = 0 ∨ (i = .loopv c f ∧ 2 ^ 32 ≤ ((s.ctx c).xr f.srcA).toNat))) →
    s.trapOn c k = false →
    ∃ t, exec i s = .next t ∧ ControlFrame c s t ∧
      t.ctx c = ((s.ctx c).record k (s.ctx c).pc).after (s.ctx c).pc)) ∧
  ((∀ (x : Context) (pc : Nat), (∀ l, x.loops.head? = some l → pc + 8 ≠ l.first + 8 * l.body) →
    x.after pc = { x with pc := pc + 8 }) ∧
  (∀ (x : Context) (pc : Nat) (l : Loop) (ls : List Loop), x.loops = l :: ls → pc + 8 = l.first + 8 * l.body →
    l.iter + 1 < l.trip →
    x.after pc = { (x.setX l.dst (BitVec.ofNat 64 (l.iter + 1))) with
                   pc := l.first, loops := { l with iter := l.iter + 1 } :: ls }) ∧
  (∀ (x : Context) (pc : Nat) (l : Loop) (ls : List Loop), x.loops = l :: ls → pc + 8 = l.first + 8 * l.body →
    l.trip ≤ l.iter + 1 → x.after pc = ({ x with loops := ls } : Context).after pc))

/-! ## Completion codes and traps (R14 to R16, R56, R57) -/

/-- R57: a code whose bit is set in TRAPEN traps the context that ends a local instruction with it: TRAPPED, precise, holding the
instruction's program counter, with the trap interrupt pending; the loops and registers stay. A code whose bit is clear is recorded
and the context goes on; FAULT never traps. -/
def Obligations.LocalTraps : Prop :=
  ∀ (s : State) (c : Nat) (k : Byte),
    (s.trapOn c k = true →
      ((s.retire c k).ctx c).st = .trapped ∧ ((s.retire c k).ctx c).precise = true ∧
      ((s.retire c k).ctx c).pc = (s.ctx c).pc ∧ ((s.retire c k).ctx c).last = k ∧
      ((s.retire c k).ctx c).loops = (s.ctx c).loops ∧ (∀ r, ((s.retire c k).ctx c).xr r = (s.ctx c).xr r) ∧
      (s.retire c k).fld 0x2800 2 2 = 1) ∧
    (s.trapOn c k = false → (s.retire c k).ctx c = ((s.ctx c).record k (s.ctx c).pc).after (s.ctx c).pc) ∧
    s.trapOn c codeFault = false ∧ s.trapOn c codeOk = false ∧
    (∀ d, d ≠ c → (s.retire c k).ctx d = s.ctx d)

/-! ## The sequencer: the other local instructions (R50 to R52, R66 to R69) -/

/-- SIGNAL adds the amount imm[31:15] to object (imm[14:0] + xA[14:0]) mod 32,768 (R39, R50). Within 32 bits the sum is the new
count and no flag changes; above, the count is 0xFFFFFFFF, the sync-saturation flag is set and its counter adds 1. The
threshold, every other object and everything beside the context, its journal and the issue count stay. WAIT writes xB[31:0] to
the threshold if srcB is not x0, and blocks its context on the object (R51). CSSET loads the slot flags[33:32] with the object
of the S form (R67). -/
def Obligations.SyncInstructions : Prop :=
  (∀ (s : State) (c : Ctx) (f : Fields) (n a : Nat), Journals s c → Issues s c (.signal c f) →
    n = (f.imm.toNat % 32768 + ((s.ctx c).xr f.srcA).toNat) % 32768 → a = f.imm.toNat / 32768 →
    ∃ t, exec (.signal c f) s = .next t ∧
      (t.obj n).thr = (s.obj n).thr ∧ (∀ m, m ≠ n → t.obj m = s.obj m) ∧
      ((s.obj n).cnt.toNat + a < 2 ^ 32 → (t.obj n).cnt.toNat = (s.obj n).cnt.toNat + a ∧
        ∀ o, o ≠ issueCount c → t.reg o = s.reg o) ∧
      (2 ^ 32 ≤ (s.obj n).cnt.toNat + a → (t.obj n).cnt = 0xFFFFFFFF#32 ∧ t.fld 0x2000 0 0 = 1 ∧
        t.reg 0x2100 = s.reg 0x2100 + 1 ∧ ∀ o, o ≠ issueCount c → o ≠ 0x2000 → o ≠ 0x2100 → t.reg o = s.reg o) ∧
      t.ctx c = ((s.ctx c).record codeOk (s.ctx c).pc).after (s.ctx c).pc ∧ (∀ d, d ≠ c.val → t.ctx d = s.ctx d) ∧
      t = { s with ctxs := t.ctxs, regs := t.regs, icache := t.icache, lastIssue := t.lastIssue, stood := t.stood, slow := t.slow, sync := t.sync,
                   ref := { s.ref with journal := t.ref.journal, jpos := t.ref.jpos } }) ∧
  (∀ (s : State) (c : Ctx) (f : Fields) (n : Nat), Journals s c →
    n = (f.imm.toNat % 32768 + ((s.ctx c).xr f.srcA).toNat) % 32768 →
    (Issues s c (.wait c f) → ∃ t, exec (.wait c f) s = .next t ∧
      (t.ctx c).st = .waiting ∧ (t.ctx c).wait = .object n (f.flags.getLsbD 0) ∧ (t.ctx c).pc = (s.ctx c).pc ∧
      (∀ r, (t.ctx c).xr r = (s.ctx c).xr r) ∧ (t.obj n).cnt = (s.obj n).cnt ∧
      (f.srcB ≠ 0 → (t.obj n).thr.toNat = ((s.ctx c).xr f.srcB).toNat % 2 ^ 32) ∧
      (f.srcB = 0 → (t.obj n).thr = (s.obj n).thr) ∧ (∀ m, m ≠ n → t.obj m = s.obj m) ∧
      (∀ d, d ≠ c.val → t.ctx d = s.ctx d) ∧
      t = { s with ctxs := t.ctxs, regs := t.regs, icache := t.icache, lastIssue := t.lastIssue, stood := t.stood, slow := t.slow, sync := t.sync,
                   ref := { s.ref with journal := t.ref.journal, jpos := t.ref.jpos } }) ∧
    (Issues s c (.csset c f) → ∃ t, exec (.csset c f) s = .next t ∧ JournalFrame c s t ∧
      Tab.get 0 (t.ctx c).cs (f.flags.toNat % 4) = n ∧
      (∀ k, k ≠ f.flags.toNat % 4 → Tab.get 0 (t.ctx c).cs k = Tab.get 0 (s.ctx c).cs k) ∧
      (t.ctx c).last = codeOk))

/-- REMOTE.SIGNAL to a chip below the system size completes at its issue (R52, R60): it awaits its acknowledgement under the next
signal sequence, its context goes on behind it with no code recorded yet, and the SIGNAL packet with its amount and object
leaves: for this chip by the loopback while the receive store has room for it; for another chip into the frame queue of the eligible
port with the fewest queued cells, or, with no port eligible, among the frames that wait. A chip at or above the system size ends it
with BOUNDS, and nothing is sent. Nothing else changes. -/
def Obligations.RemoteSignalSends : Prop :=
  ∀ (s : State) (c : Ctx) (f : Fields) (d : Nat) (g : SigOut), Journals s c → Issues s c (.remoteSignal c f) →
    d = ((s.ctx c).xr f.srcA).toNat % 8192 →
    g = ⟨s.vol.sigSeq, c, (s.ctx c).pc, d, f.imm.toNat % 32768, f.imm.toNat / 32768⟩ →
    (d < s.sysSize → ∃ t, exec (.remoteSignal c f) s = .next t ∧
      t.vol.sigs = s.vol.sigs ++ [g] ∧ t.vol.sigSeq = s.vol.sigSeq + 1 ∧ t.remoteOpen c = true ∧
      t.ctx c = (s.ctx c).after (s.ctx c).pc ∧ (∀ e, e ≠ c.val → t.ctx e = s.ctx e) ∧
      (d = s.chip → s.loopFull 1 = false → t.vol.rx = s.vol.rx ++ [(none, s.signalFrame g)]) ∧
      (d ≠ s.chip → s.eligible (s.signalFrame g) = [] → t.vol.stuck = s.vol.stuck ++ [s.signalFrame g]) ∧
      (∀ l, d ≠ s.chip → s.shortest (s.eligible (s.signalFrame g)) = some l → (s.port l).queued < 1024 →
        (t.port l).txq = (s.port l).txq ++ [s.signalFrame g] ∧ ∀ m, m ≠ l → t.port m = s.port m) ∧
      t = { s with ctxs := t.ctxs, regs := t.regs, icache := t.icache, lastIssue := t.lastIssue, stood := t.stood, slow := t.slow,
                   vol := t.vol, ref := { s.ref with journal := t.ref.journal, jpos := t.ref.jpos } }) ∧
    (s.sysSize ≤ d → s.trapOn c codeBounds = false → ∃ t, exec (.remoteSignal c f) s = .next t ∧ JournalFrame c s t ∧
      t.ctx c = ((s.ctx c).record codeBounds (s.ctx c).pc).after (s.ctx c).pc)

/-- DESC CLONE copies a valid slot, DESC LOAD the image n = imm[11:0] + xA[11:0] at the base of the DESC's own region plus
64·n, into the destination slot (R68), when the contents validate (R107): the slot is valid with those bits, and every
outstanding command keeps its copy. DESC refuses without writing a slot, with the lowest code of those that
apply (R15, R16, R68): OFFSIDE for a clone of an invalid slot, BOUNDS for image 1024 or above, FORMAT for sub-operation 11 and for a
set bit [31:26], and the code of the validation for contents that do not validate. The image index is the plain sum of the DD field
and xA[11:0] (log entry 78). DESC INVAL makes its slot invalid and completes. -/
def Obligations.Descriptors : Prop :=
  (∀ (s : State) (c : Ctx) (f : Fields) (i : Instr) (n : Nat) (l : Line), Journals s c → Issues s c i →
    n = (f.imm.toNat / 4096 % 4096 + ((s.ctx c).xr f.srcB).toNat) % 4096 →
    (i = .descClone c f ∧ (s.slot ((f.imm.toNat % 4096 + ((s.ctx c).xr f.srcA).toNat) % 4096)).valid = true ∧
        l = (s.slot ((f.imm.toNat % 4096 + ((s.ctx c).xr f.srcA).toNat) % 4096)).bits ∨
      i = .descLoad c f ∧ f.sub = 0 ∧ f.imm.toNat % 4096 + ((s.ctx c).xr f.srcA).toNat % 4096 < 1024 ∧
        l = s.image (s.ctx c).pc (f.imm.toNat % 4096 + ((s.ctx c).xr f.srcA).toNat % 4096)) →
    s.validate l = codeOk →
    ∃ t, exec i s = .next t ∧ t.slot n = ⟨l, true⟩ ∧ (∀ m, m ≠ n → t.slot m = s.slot m) ∧
      t.ucmds.map (fun u => (u.c, u.serial, u.dA, u.dB, u.comp)) = s.ucmds.map (fun u => (u.c, u.serial, u.dA, u.dB, u.comp)) ∧
      t.ctx c = ((s.ctx c).record codeOk (s.ctx c).pc).after (s.ctx c).pc ∧ (∀ d, d ≠ c.val → t.ctx d = s.ctx d) ∧
      (∀ o, o ≠ issueCount c → t.reg o = s.reg o) ∧
      t = { s with ctxs := t.ctxs, regs := t.regs, icache := t.icache, lastIssue := t.lastIssue, stood := t.stood, slow := t.slow, slots := t.slots, ucmds := t.ucmds,
                   ref := { s.ref with journal := t.ref.journal, jpos := t.ref.jpos } }) ∧
  (∀ (s : State) (c : Ctx) (f : Fields), Journals s c →
    (∀ k, Issues s c (.descLoad c f) → s.trapOn c k = false →
      (k = codeFormat ∧ 3 ≤ f.sub ∧
          (f.sub % 4 = 0 → f.imm.toNat % 4096 + ((s.ctx c).xr f.srcA).toNat % 4096 < 1024) ∧
          (f.sub % 4 = 1 → (s.slot ((f.imm.toNat % 4096 + ((s.ctx c).xr f.srcA).toNat) % 4096)).valid = true) ∨
        k = codeBounds ∧ f.sub % 4 = 0 ∧ 1024 ≤ f.imm.toNat % 4096 + ((s.ctx c).xr f.srcA).toNat % 4096 ∨
        k = codeOffside ∧ 3 ≤ f.sub ∧ f.sub % 4 = 1 ∧
          (s.slot ((f.imm.toNat % 4096 + ((s.ctx c).xr f.srcA).toNat) % 4096)).valid = false ∨
        k = s.validate (s.image (s.ctx c).pc (f.imm.toNat % 4096 + ((s.ctx c).xr f.srcA).toNat % 4096)) ∧ k ≠ codeOk ∧ f.sub = 0 ∧
          f.imm.toNat % 4096 + ((s.ctx c).xr f.srcA).toNat % 4096 < 1024) →
      ∃ t, exec (.descLoad c f) s = .next t ∧ JournalFrame c s t ∧
        t.ctx c = ((s.ctx c).record k (s.ctx c).pc).after (s.ctx c).pc) ∧
    (Issues s c (.descClone c f) → s.trapOn c codeOffside = false →
      (s.slot ((f.imm.toNat % 4096 + ((s.ctx c).xr f.srcA).toNat) % 4096)).valid = false →
      ∃ t, exec (.descClone c f) s = .next t ∧ JournalFrame c s t ∧
        t.ctx c = ((s.ctx c).record codeOffside (s.ctx c).pc).after (s.ctx c).pc) ∧
    (∀ n, Issues s c (.descInval c f) → n = (f.imm.toNat / 4096 % 4096 + ((s.ctx c).xr f.srcB).toNat) % 4096 →
      ∃ t, exec (.descInval c f) s = .next t ∧ (t.slot n).valid = false ∧ (∀ m, m ≠ n → t.slot m = s.slot m) ∧
        t.ctx c = ((s.ctx c).record codeOk (s.ctx c).pc).after (s.ctx c).pc ∧ (∀ d, d ≠ c.val → t.ctx d = s.ctx d)))

/-- FIT completes with UNSUP when a value of the manifest breaches a hard limit of R18 (`fitUnsup`); with QRY it writes the resource mask to xD; without it, it ends with FIT when a
bit from [2] upward is set and with OK otherwise (R69). What the manifest's bytes say is a free value (`Config.manifest`; log entry 13). -/
def Obligations.FitChecks : Prop :=
  ∀ (s : State) (c : Ctx) (f : Fields) (m : Manifest), Journals s c → Issues s c (.fit c f) →
    m = Config.manifest ((List.range 4).flatMap fun j => lineBytes (s.image (s.ctx c).pc (f.imm.toNat % 4096 + j))) →
    (∀ k, s.trapOn c k = false →
      (k = codeUnsup ∧ fitUnsup m = true ∨ f.flags.getLsbD 0 = false ∧ fitUnsup m = false ∧
        k = (if s.fitMask m / 4 = 0 then codeOk else codeFit)) →
      ∃ t, exec (.fit c f) s = .next t ∧ JournalFrame c s t ∧
        t.ctx c = ((s.ctx c).record k (s.ctx c).pc).after (s.ctx c).pc) ∧
    (fitUnsup m = false → f.flags.getLsbD 0 = true →
      ∃ t, exec (.fit c f) s = .next t ∧ JournalFrame c s t ∧
        t.ctx c = (((s.ctx c).setX f.dst (BitVec.ofNat 64 (s.fitMask m))).record codeOk (s.ctx c).pc).after (s.ctx c).pc)

/-- A context about to take an instruction traps with FORMAT at a word that does not decode (R37) and with OFFSIDE at one in an
unlocked region or beyond the store (R43), whatever TRAPEN says: precise, holding that program counter, its registers as they
were. A miss of a context fills the line of its next instruction, which is then held and most recently used, and counts one
miss of its sequencer (R44, R59); a cache set never holds more than its four ways. One waiter of an object, and the object's
count at or above its threshold: the waiter is released with OK and goes on behind its WAIT; a consuming one subtracts the
threshold (R51). A count below the threshold releases nobody. R51: a WAIT under a limit that is not zero ends with TIMEOUT and
subtracts nothing. -/
def Obligations.FetchAndWaitEvents : Prop :=
  ((∀ (s : State) (c : Ctx) (i : Instr) (k : Byte), s.atIssue c = true →
    (i = .undefinedInstruction c ∧ k = codeFormat ∧ s.fetchable (s.ctx c).pc = true ∧ s.icHeld c (s.ctx c).pc = true ∧
        decodeWord c (s.psWord (s.ctx c).pc) = none ∨
      i = .unlockedRegionFetch c ∧ k = codeOffside ∧ s.fetchable (s.ctx c).pc = false) →
    ∃ t, exec i s = .next t ∧ (t.ctx c).st = .trapped ∧ (t.ctx c).precise = true ∧ (t.ctx c).pc = (s.ctx c).pc ∧
      (t.ctx c).last = k ∧ (∀ r, (t.ctx c).xr r = (s.ctx c).xr r) ∧ t.fld 0x2800 2 2 = 1 ∧
      (∀ d, d ≠ c.val → t.ctx d = s.ctx d) ∧ (∀ o, o ≠ 0x2800 → t.reg o = s.reg o) ∧
      t = { s with ctxs := t.ctxs, regs := t.regs, icache := t.icache }) ∧
  (∀ (s : State) (c : Ctx), s.atIssue c = true → s.fetchable (s.ctx c).pc = true → s.icHeld c (s.ctx c).pc = false →
    ∃ t, exec (.icacheMissFill c) s = .next t ∧ t.icHeld c (s.ctx c).pc = true ∧
      (Tab.get [] t.icache (icSet c (s.ctx c).pc)).head? = some ((s.ctx c).pc / 64) ∧
      (Tab.get [] t.icache (icSet c (s.ctx c).pc)).length ≤ 4 ∧
      t.reg (0x010408 + 0x800 * (c.val / 4)) = s.reg (0x010408 + 0x800 * (c.val / 4)) + 1 ∧
      t = { s with regs := t.regs, icache := t.icache })) ∧
  ((∀ (s : State) (c : Ctx) (obj : Fin 32768) (k : Bool),
    (s.ctx c).st = .waiting → (s.ctx c).wait = .object obj k → (s.ctx c).trapDue = false →
    (∀ d, d < 128 → d ≠ c.val → ∀ b, (s.ctx d).wait ≠ .object obj b) →
    ∃ t, exec (.syncWaiterRelease obj) s = .next t ∧
      ((s.obj obj).thr ≤ (s.obj obj).cnt →
        t.ctx c = (({ s.ctx c with st := .running, wait := .nothing } : Context).record codeOk (s.ctx c).pc).after (s.ctx c).pc ∧
        (t.obj obj).cnt = (if k then (s.obj obj).cnt - (s.obj obj).thr else (s.obj obj).cnt) ∧
        (t.obj obj).thr = (s.obj obj).thr ∧ (∀ m, m ≠ obj.val → t.obj m = s.obj m)) ∧
      (¬ (s.obj obj).thr ≤ (s.obj obj).cnt → t = s) ∧
      (∀ d, d ≠ c.val → t.ctx d = s.ctx d)) ∧
  (∀ (s : State) (c : Ctx) (o : Nat) (k : Bool),
    (s.ctx c).st = .waiting → (s.ctx c).wait = .object o k → (s.ctx c).trapDue = false → s.regNow 0x1048 ≠ 0 →
    s.trapOn c codeTimeout = false →
    ∃ t, exec (.waitTimeout c) s = .next t ∧ t.sync = s.sync ∧
      t.ctx c = (({ s.ctx c with st := .running, wait := .nothing } : Context).record codeTimeout (s.ctx c).pc).after (s.ctx c).pc ∧
      (∀ d, d ≠ c.val → t.ctx d = s.ctx d) ∧ (∀ o, t.reg o = s.reg o)))

/-! ## Step, host and maintenance instructions (R53, R88, R89) -/

/-- STEP with no command outstanding and no REMOTE.SIGNAL open puts its context in STEPWAIT; otherwise the context issues nothing and
is on its way there (R53). SEED stages xA as the seed of the next step boundary, and CNT writes a defined event counter to xD (R89). -/
def Obligations.StepSeedAndCnt : Prop :=
  ∀ (s : State) (c : Ctx) (f : Fields), Journals s c →
    (Issues s c (.stepInsn c f) → ∃ t, exec (.stepInsn c f) s = .next t ∧ JournalFrame c s t ∧
      (s.outstanding c = 0 → s.remoteOpen c = false → t.ctx c = { s.ctx c with st := .stepwait }) ∧
      (s.outstanding c ≠ 0 ∨ s.remoteOpen c = true → t.ctx c = { s.ctx c with drain := .toStepwait } ∧ ∀ i, t.canIssue c i = false)) ∧
    (Issues s c (.seed c f) → ∃ t, exec (.seed c f) s = .next t ∧ t.seedNext = some ((s.ctx c).xr f.srcA) ∧ t.seed = s.seed ∧
      t.ctx c = ((s.ctx c).record codeOk (s.ctx c).pc).after (s.ctx c).pc ∧ (∀ d, d ≠ c.val → t.ctx d = s.ctx d) ∧
      t = { s with ctxs := t.ctxs, regs := t.regs, icache := t.icache, lastIssue := t.lastIssue, stood := t.stood, slow := t.slow, seedNext := t.seedNext,
                   ref := { s.ref with journal := t.ref.journal, jpos := t.ref.jpos } }) ∧
    (∀ n, Issues s c (.cnt c f) → n = f.imm.toNat % 65536 →
      (n < 0x14 → ∃ t, exec (.cnt c f) s = .next t ∧ JournalFrame c s t ∧
        t.ctx c = (((s.ctx c).setX f.dst ((s.reg (0x2100 + 4 * n)).zeroExtend 64)).record codeOk (s.ctx c).pc).after (s.ctx c).pc) ∧
      (0x46 ≤ n → s.trapOn c codeBounds = false → ∃ t, exec (.cnt c f) s = .next t ∧ JournalFrame c s t ∧
        t.ctx c = ((s.ctx c).record codeBounds (s.ctx c).pc).after (s.ctx c).pc))

/-- SAVE and RESTORE arm their image at xA for the next boundary when none is armed, the address is 4 KiB aligned and the image
lies inside the stacks (R88); while one is armed they end with OFFSIDE, and nothing is armed. -/
def Obligations.SaveAndRestoreArm : Prop :=
  ∀ (s : State) (c : Ctx) (f : Fields) (i : Instr) (r : Bool) (a : Nat), Journals s c → Issues s c i →
    (i = .saveInsn c f ∧ r = false ∨ i = .restoreInsn c f ∧ r = true) → a = ((s.ctx c).xr f.srcA).toNat →
    (s.arm = none → s.saving = none → a % 4096 = 0 → a + saveBytes ≤ s.stackBytes →
      ∃ t, exec i s = .next t ∧ t.arm = some ⟨r, c, (s.ctx c).pc, a⟩ ∧ t.ctx c = (s.ctx c).after (s.ctx c).pc ∧
        (∀ d, d ≠ c.val → t.ctx d = s.ctx d) ∧
        t = { s with ctxs := t.ctxs, regs := t.regs, icache := t.icache, lastIssue := t.lastIssue, stood := t.stood, slow := t.slow, arm := t.arm,
                     ref := { s.ref with journal := t.ref.journal, jpos := t.ref.jpos } }) ∧
    (s.arm ≠ none → s.trapOn c codeOffside = false →
      ∃ t, exec i s = .next t ∧ JournalFrame c s t ∧
        t.ctx c = ((s.ctx c).record codeOffside (s.ctx c).pc).after (s.ctx c).pc)

/-- QCTL on queue (imm[23:12] + xA[11:0]) mod 4096 (R39, R89): FLUSH empties it, even mid-packet; COUNT writes its packet counter to
xD; DROPREST completes in kickoff, test and recovery state only and is OFFSIDE elsewhere; a sub-operation above 2 is FORMAT. Every
other queue stays, and so does memory when FLUSH finds no bucket block of Huddle in the queue. -/
def Obligations.QueueControl : Prop :=
  ∀ (s : State) (c : Ctx) (f : Fields) (q : Nat), Journals s c →
    q = (f.imm.toNat / 4096 % 4096 + ((s.ctx c).xr f.srcA).toNat) % 4096 →
    (Issues s c (.qctlFlush c f) → ∃ t, exec (.qctlFlush c f) s = .next t ∧ t.queueWords q = [] ∧ (t.queue q).pkt = 0 ∧
      (∀ p, p ≠ q → t.queue p = s.queue p) ∧ ((∀ b ∈ (s.queue q).blks ++ (s.queue q).mid, s.bucketOf b.1 = none) → t.mem = s.mem) ∧
      t.ctx c = ((s.ctx c).record codeOk (s.ctx c).pc).after (s.ctx c).pc ∧ (∀ d, d ≠ c.val → t.ctx d = s.ctx d)) ∧
    (Issues s c (.qctlCount c f) → f.sub = 2 → ∃ t, exec (.qctlCount c f) s = .next t ∧ JournalFrame c s t ∧
      t.ctx c = (((s.ctx c).setX f.dst ((s.queue q).pkt.zeroExtend 64)).record codeOk (s.ctx c).pc).after (s.ctx c).pc) ∧
    (Issues s c (.qctlCount c f) → f.sub ≠ 2 → s.trapOn c codeFormat = false →
      ∃ t, exec (.qctlCount c f) s = .next t ∧ JournalFrame c s t ∧
        t.ctx c = ((s.ctx c).record codeFormat (s.ctx c).pc).after (s.ctx c).pc) ∧
    (Issues s c (.qctlDroprest c f) → s.engine ∈ [1, 3, 4] → ∃ t, exec (.qctlDroprest c f) s = .next t ∧
      (t.ctx c).last = codeOk ∧ (∀ p, p ≠ q → t.queue p = s.queue p) ∧ (∀ d, d ≠ c.val → t.ctx d = s.ctx d)) ∧
    (Issues s c (.qctlDroprest c f) → s.engine ∈ [0, 2, 5] → s.trapOn c codeOffside = false →
      ∃ t, exec (.qctlDroprest c f) s = .next t ∧ JournalFrame c s t ∧
        t.ctx c = ((s.ctx c).record codeOffside (s.ctx c).pc).after (s.ctx c).pc)

/-- EPOCH completes on a table whose earlier bank is released, and for the gate and replica tables with a load since the last switch;
the replica table also with no ADMIT running and its new bank within the receive limit (R89, R140, R152, R162 to R164): its shadow
bank becomes active under epoch (old + 1) mod 256, or epoch 0 where none was active, and the new epoch is the value for xD; no other
table is switched. A running ADMIT ends it on the replica table with OFFSIDE, and any other of those conditions that fails with EPOCH;
no table changes. GLD_GO and RLD_GO complete on an entry without a fault while no load runs: the loader is busy with that entry
(R151, R162); GLD_GO on an entry with a fault is refused with its cause, and the gate-load-error flag is set. EPOCH_RELEASE
completes for a bank whose last reader has left: it is released (R89). GATE_LOAD_COMPLETE and REPLICA_LOAD_COMPLETE complete when the
load has its space and its image lies in no poisoned line: the loader is free again and nothing of it is pending, the gate's digest is
kept (R343), an active epoch that waited for the fill no longer does, and an enabled sync object is signalled by 1. A poisoned image
leaves the tables as they were (R305; log entry 83). -/
def Obligations.TablesAndEpochs : Prop :=
  (∀ (s : State) (c : Ctx) (f : Fields) (n : Nat) (e : Byte), Journals s c → Issues s c (.epoch c f) → n = f.imm.toNat % 4 →
    ((s.banked n).oldHeld = false → e = (match (s.banked n).active with | some k => k + 1 | none => 0) →
      (n = 0 → s.admitting = false ∧ s.tbl.repLd.fresh = true ∧ s.capSum s.tbl.rep.shadow * s.sysSize ≤ s.fld 0x070048 31 0) →
      (n = 1 → s.tbl.gateLd.fresh = true) →
      ∃ t, exec (.epoch c f) s = .next t ∧ (t.banked n).active = some e ∧
        (t.banked n).bank = (match (s.banked n).active with | some _ => 1 - (s.banked n).bank | none => 0) ∧
        (∀ m, m < 4 → m ≠ n → t.banked m = s.banked m) ∧
        t.ctx c = (((s.ctx c).setX f.dst (e.zeroExtend 64)).record codeOk (s.ctx c).pc).after (s.ctx c).pc ∧
        (∀ d, d ≠ c.val → t.ctx d = s.ctx d) ∧ t.mem = s.mem) ∧
    (∀ k, k = codeOffside ∧ n = 0 ∧ s.admitting = true ∨
        k = codeEpoch ∧ (n = 0 → s.admitting = false) ∧ ((s.banked n).oldHeld = true ∨ n = 0 ∧ s.tbl.repLd.fresh = false ∨
          n = 1 ∧ s.tbl.gateLd.fresh = false ∨ n = 0 ∧ s.fld 0x070048 31 0 < s.capSum s.tbl.rep.shadow * s.sysSize) →
      s.trapOn c k = false →
      ∃ t, exec (.epoch c f) s = .next t ∧ JournalFrame c s t ∧
        t.ctx c = ((s.ctx c).record k (s.ctx c).pc).after (s.ctx c).pc)) ∧
  (((∀ (s : State) (v : Word) (n : Nat), HostReady s 0x060004 → n = v.toNat % 256 → s.tbl.gateLd.busy = false →
    s.gateCause n = 0 → ∃ t, exec (.gldGo v) s = .next t ∧ WriteCode t 0x060004 codeOk ∧ t.tbl.gateLd.busy = true ∧
      t.tbl.gateLd.fresh = true ∧ t.tbl.gateLd.gate = s.gateEntry n ∧ t.tbl.gateMem = s.tbl.gateMem ∧ t.mem = s.mem) ∧
  (∀ (s : State) (v : Word) (n : Nat), HostReady s 0x070004 → n = v.toNat % 256 → s.tbl.repLd.busy = false →
    s.headerLost n = none → s.repCause n = 0 →
    ∃ t, exec (.rldGo v) s = .next t ∧ WriteCode t 0x070004 codeOk ∧ t.tbl.repLd.busy = true ∧
      t.tbl.repLd.fresh = true ∧ t.tbl.repLd.gate.base = s.repBase n ∧ t.tbl.repMem = s.tbl.repMem ∧ t.mem = s.mem) ∧
  (∀ (s : State) (v : Word) (n : Nat), HostReady s 0x060004 → n = v.toNat % 256 → s.tbl.gateLd.busy = false →
    s.gateCause n ≠ 0 → ∃ t, exec (.gldGo v) s = .next t ∧ t.tbl.gateLd.busy = false ∧
      t.tbl.gateLd.cause = BitVec.ofNat 3 (s.gateCause n) ∧ t.fld 0x2000 3 3 = 1 ∧ t.tbl.gateMem = s.tbl.gateMem) ∧
  (∀ (s : State) (k : Fin 4), (s.banked k.val).oldHeld = true → s.oldInFlight k.val = false →
    ∃ t, exec (.epochRelease k) s = .next t ∧ (t.banked k.val).oldHeld = false ∧
      (t.banked k.val).active = (s.banked k.val).active ∧ (∀ m, m < 4 → m ≠ k.val → t.banked m = s.banked m) ∧
      t = { s with tbl := t.tbl })) ∧
  ((∀ (s : State) (l : Loader), l = s.tbl.gateLd → l.busy = true → s.gateSpaceFree = true → l.deferred = false →
    (s.lostIn l.gate.base l.gate.bytes = none →
      ∃ t, exec .gateLoadComplete s = .next t ∧ t.tbl.gateLd.busy = false ∧ t.tbl.gate.fill = false ∧
        t.tbl.gate.active = s.tbl.gate.active ∧
        Tab.get 0 t.ref.gateDig l.layer.toNat = bdig (s.bytes l.gate.base l.gate.bytes) ∧
        t.mem = s.mem ∧ t.ctxs = s.ctxs ∧ (s.fldNow 0x060008 15 15 ≠ 1 → t.sync = s.sync) ∧
        (∀ o, s.fldNow 0x060008 15 15 = 1 → o = s.fldNow 0x060008 14 0 → (s.obj o).cnt ≠ 0xFFFFFFFF#32 →
          (t.obj o).cnt = (s.obj o).cnt + 1)) ∧
    (∀ k, s.lostIn l.gate.base l.gate.bytes = some k → ∃ t, exec .gateLoadComplete s = .next t ∧ t.tbl = s.tbl)) ∧
  (∀ (s : State) (l : Loader), l = s.tbl.repLd → l.busy = true → s.tbl.rep.fill = true ∨ s.tbl.rep.oldHeld = false →
    l.deferred = false →
    (s.lostIn l.gate.base (0x4100 + 4 * l.gate.e) = none →
      ∃ t, exec .replicaLoadComplete s = .next t ∧ t.tbl.repLd.busy = false ∧ t.tbl.rep.fill = false ∧
        t.tbl.rep.active = s.tbl.rep.active ∧ t.mem = s.mem ∧ t.ctxs = s.ctxs ∧
        (s.fldNow 0x070008 15 15 ≠ 1 → t.sync = s.sync) ∧
        (∀ o, s.fldNow 0x070008 15 15 = 1 → o = s.fldNow 0x070008 14 0 → (s.obj o).cnt ≠ 0xFFFFFFFF#32 →
          (t.obj o).cnt = (s.obj o).cnt + 1)) ∧
    (∀ k, s.lostIn l.gate.base (0x4100 + 4 * l.gate.e) = some k →
      ∃ t, exec .replicaLoadComplete s = .next t ∧ t.tbl = s.tbl))))

/-! ## Unit commands (R38, R40, R41, R48, R57, R62, R63, R115) -/

/-- A unit command issues (R40): its context goes on behind it, or with WT set waits for it at its program counter; the command enters the queue of
its unit behind every other, with copies of the slots it names as they stand (R48) and the serial after the last of its
context; one that no earlier command of its unit precedes is taken up by the unit at once, in the same step. A unit command
that names an invalid slot, or uses an invalid companion slot, is refused as OFFSIDE (R48): it is finished with that code at
its issue, no unit takes it up, and neither memory nor a queue nor a slot changes. R63: a unit makes its checks before its
first input. A code found there finishes the command with it: nothing else changes but the writers that its context had recorded for it, which
are taken back (R15, R62). -/
def Obligations.UnitCommands : Prop :=
  (∀ (s : State) (i : Instr) (op : Nat) (c : Ctx) (f : Fields) (u : UCmd), opcodeOf i = some (op, c, f) → 0x40 ≤ op → op < 0x70 →
    Issues s c i → Journals s c → u = s.newCmd c i f → s.issueCode u = none →
    ∃ t s1, exec i s = .next t ∧ t = (if s1.isHead u then unitRun s1 u else s1) ∧
      s1.ucmds = s.ucmds ++ [u] ∧ u.c = c ∧ u.op = i ∧ u.serial = (s.ctx c).serial + 1 ∧ u.result = none ∧ u.started = false ∧
      u.dA = (s.slot u.slotA).bits ∧ u.dB = (s.slot u.slotB).bits ∧ u.comp = (s.slot u.slotC).bits ∧
      (s1.ctx c).serial = u.serial ∧ (s1.ctx c).last = (s.ctx c).last ∧
      (u.wt = true → (s1.ctx c).st = .waiting ∧ (s1.ctx c).wait = .command u.serial ∧ (s1.ctx c).pc = (s.ctx c).pc ∧
        (s1.ctx c).loops = (s.ctx c).loops ∧ ∀ r, (s1.ctx c).xr r = (s.ctx c).xr r) ∧
      (u.wt = false → (s1.ctx c).st = .running ∧ (s1.ctx c).wait = (s.ctx c).wait ∧
        (s1.ctx c).pc = ((s.ctx c).after (s.ctx c).pc).pc ∧ (s1.ctx c).loops = ((s.ctx c).after (s.ctx c).pc).loops ∧
        ∀ r, (s1.ctx c).xr r = ((s.ctx c).after (s.ctx c).pc).xr r) ∧
      (∀ d, d ≠ c.val → s1.ctx d = s.ctx d) ∧ (∀ o, o ≠ issueCount c → s1.reg o = s.reg o) ∧
      s1 = { s with ctxs := s1.ctxs, regs := s1.regs, icache := s1.icache, lastIssue := s1.lastIssue, stood := s1.stood, slow := s1.slow, ucmds := s1.ucmds,
                    slots := s1.slots, ref := { s.ref with journal := s1.ref.journal, jpos := s1.ref.jpos } }) ∧
  ((∀ (s : State) (i : Instr) (op : Nat) (c : Ctx) (f : Fields) (u : UCmd), opcodeOf i = some (op, c, f) → 0x40 ≤ op → op < 0x70 →
    Issues s c i → Journals s c → u = s.newCmd c i f →
    ((s.slot u.slotA).valid = false ∨ (writesB i = true ∧ (s.slot u.slotB).valid = false) ∨
      ((readsC i = true ∨ writesC i = true) ∧ (s.slot u.slotC).valid = false)) →
    ∃ t, exec i s = .next t ∧ t.ucmds = s.ucmds ++ [{ u with result := some ⟨codeOffside, 0⟩ }] ∧
      t.mem = s.mem ∧ t.queues = s.queues ∧ t.vol = s.vol ∧ t.reb = s.reb ∧ t.hud = s.hud ∧ t.adm = s.adm ∧ t.tbl = s.tbl ∧
      (∀ n, (t.slot n).valid = (s.slot n).valid) ∧ (∀ d, d ≠ c.val → t.ctx d = s.ctx d)) ∧
  (∀ (s : State) (u : UCmd) (check : State → UCmd → Option Byte) (start work : State → UCmd → UCmd × State) (k : Byte),
    u.result = none → u.started = false → check s u = some k →
    s.drive u check start work = (s.unrecord u).putCmd { u with result := some ⟨k, 0⟩ } ∧
    s.drive u check start work = { s with ctxs := (s.drive u check start work).ctxs, ucmds := (s.drive u check start work).ucmds } ∧
    (∀ d, ∃ w, (s.drive u check start work).ctx d = { s.ctx d with writers := w }) ∧
    ∀ d, d ≠ u.c.val → (s.drive u check start work).ctx d = s.ctx d))

/-- UNIT_COMMAND_COMPLETION completes for a command that its unit has finished, of every row (R41, R57, R115): with OK its value enters
xD where the row returns one; its code is recorded with its program counter; a context that waited for the command goes on behind it,
and one that did not goes on as it was; the command is gone, and no other context changes. Of a row other than ADMIT and COMBINE,
which also write what R177 and R345 say: with OK VEXT of its destination slot takes the rows it produced; SG signals 1 to its
completion-sync object unless the code is FAULT; and memory stays. This is outside a replay, with the code's trap clear, and for a
context that is on its way to no other state. -/
def Obligations.UnitCommandsComplete : Prop :=
  ∀ (s : State) (u : UCmd) (r : UResult) (x y : Context) (o : Nat),
    y = (if returnsOf u.op = true ∧ r.code = codeOk then x.setX u.f.dst r.value else x) →
    s.cmd u.c u.serial = some u → u.result = some r → s.ref.replay = false → s.trapOn u.c r.code = false →
    (s.ctx u.c).drain = .no → (s.ctx u.c).trapDue = false → x = s.ctx u.c → o = Tab.get 0 x.cs u.cs →
    ∃ t, exec (.unitCommandCompletion u.c u.serial) s = .next t ∧
      t.cmd u.c u.serial = none ∧ (∀ v ∈ t.ucmds, v ∈ s.ucmds) ∧ (∀ d, d ≠ u.c.val → t.ctx d = s.ctx d) ∧
      (t.ctx u.c).last = r.code ∧
      (x.wait = .command u.serial → (t.ctx u.c).st = .running ∧ (t.ctx u.c).wait = .nothing ∧
        (t.ctx u.c).pc = (y.after y.pc).pc ∧ (t.ctx u.c).loops = (y.after y.pc).loops ∧
        ∀ g, (t.ctx u.c).xr g = (y.after y.pc).xr g) ∧
      (x.wait ≠ .command u.serial → (t.ctx u.c).st = x.st ∧ (t.ctx u.c).wait = x.wait ∧ (t.ctx u.c).pc = x.pc ∧
        (t.ctx u.c).loops = x.loops ∧ ∀ g, (t.ctx u.c).xr g = y.xr g) ∧
      (r.code ≠ codeOk → t.slots = s.slots) ∧
      ((∀ f c, u.op ≠ .admitRows c f ∧ u.op ≠ .reboundCombine c f) →
        (u.sg = true → r.code ≠ codeFault → (s.obj o).cnt ≠ 0xFFFFFFFF#32 → (t.obj o).cnt = (s.obj o).cnt + 1) ∧
        (u.sg = false ∨ r.code = codeFault → t.sync = s.sync) ∧ t.mem = s.mem ∧
        (∀ n, r.code = codeOk → u.setsVext = true → u.out = some n → u.rew.contains u.destSlot = false →
          (descOf (t.slot u.destSlot).bits).vext = n % 2 ^ 20 ∧ ∀ m, m ≠ u.destSlot → t.slot m = s.slot m))

/-! ## The step boundary (R53, R54, R347) -/

/-- STEP_BOUNDARY completes with every member of the step group in STEPWAIT, no boundary waiting, no image being written and no fault
being handled (R53, R54): the staged values are gone and the step record's interrupt is pending. With nothing armed the step number
increments, the staged seed is in force, and the whistle is tested: either a standing whistle is used up and every member without a
trap due is released with OK, or the boundary waits and every member stays in STEPWAIT; while no digest of the pair-compare partner
waits (R352), it is the first just when a whistle stands. With a SAVE armed, no queue in use and no repair awaited, the members
stay in STEPWAIT while the image is written (R347). SAVE_IMAGE_WRITTEN completes for a SAVE whose context is in STEPWAIT: its code OK is
recorded in its context, memory stays, and the whistle is tested as at a boundary. -/
def Obligations.StepBoundary : Prop :=
  (∀ (s : State), s.allStepwait = true → s.boundary = false → s.saving = none → s.ref.replayDue = false → s.ref.recov = false →
    ∃ t, exec .stepBoundary s = .next t ∧ t.staged = [] ∧ t.seedNext = none ∧ t.fld 0x2800 1 1 = 1 ∧ t.arm = none ∧
      (s.arm = none → t.step = s.step + 1 ∧ t.seed = s.seedNext.getD s.seed ∧
        (t.boundary = true ∧ t.standing = 0 ∧ (∀ c ∈ s.group, (t.ctx c).st = .stepwait) ∨
          t.boundary = false ∧ t.standing + 1 = s.standing ∧
            ∀ c ∈ s.group, (s.ctx c).trapDue = false → (t.ctx c).st = .running ∧ (t.ctx c).last = codeOk) ∧
        ((∀ e ∈ s.ref.compares, e.mine = true) → (t.boundary = true ↔ s.standing = 0))) ∧
      (∀ cap, s.arm = some cap → cap.restore = false → s.queues = [] → s.ref.repair = false →
        t.step = s.step + 1 ∧ t.saving = some cap ∧ t.boundary = false ∧ ∀ c ∈ s.group, (t.ctx c).st = .stepwait)) ∧
  (∀ (s : State) (cap : Capture), s.saving = some cap → (s.ctx cap.c).st = .stepwait →
    ∃ t, exec .saveImageWritten s = .next t ∧ t.saving = none ∧ (t.ctx cap.c).last = codeOk ∧ t.mem = s.mem ∧ t.step = s.step ∧
      (s.standing = 0 → t.boundary = true ∧ (t.ctx cap.c).st = .stepwait) ∧
      (0 < s.standing → t.standing = s.standing - 1 ∧ t.boundary = false ∧ (t.ctx cap.c).st = .running))

/-! ## Host writes: contexts, store, mailbox, whistles, flags (R34, R43, R54, R59, R366, R370, R375 to R378, R382) -/

/-- What every host write records (R370), by the example of a status-flag write at any mask: its offset and code stand in the write
status, whatever was there before, and the access is acknowledged; before K1 ends the window does not answer and nothing changes; from
there to K8 a write outside the Referee and the observation port is refused as OFFSIDE and counted, and no other register changes.
FLAG_CLEAR and INT_PEND_CLEAR complete in service: they clear the bits written as 1 and no other, and a flag's counter stands (R366,
R382). -/
def Obligations.FlagAndInterruptClear : Prop :=
  ∀ (s : State) (mask : Word),
    (s.served = false → exec (.flagClear mask) s = .next s ∧ exec (.intPendClear mask) s = .next s) ∧
    (s.served = true → s.preService = true → ∀ i off, i = .flagClear mask ∧ off = 0x2000 ∨ i = .intPendClear mask ∧ off = 0x2800 →
      ∃ t, exec i s = .next t ∧ WriteCode t off codeOffside ∧
        t.reg 0x3024 = s.reg 0x3024 + 1 ∧ (∀ o, o ≠ 0x3020 → o ≠ 0x3024 → t.reg o = s.reg o) ∧
        t = { acked s with regs := t.regs }) ∧
    (HostReady s 0x2000 → ∃ t, exec (.flagClear mask) s = .next t ∧ WriteCode t 0x2000 codeOk ∧
      t.reg 0x2000 = s.reg 0x2000 &&& ~~~mask ∧ (∀ o, o ≠ 0x2000 → o ≠ 0x3020 → t.reg o = s.reg o) ∧
      t = { acked s with regs := t.regs }) ∧
    (HostReady s 0x2800 → ∃ t, exec (.intPendClear mask) s = .next t ∧ WriteCode t 0x2800 codeOk ∧
      t.reg 0x2800 = s.reg 0x2800 &&& ~~~mask ∧ (∀ o, o ≠ 0x2800 → o ≠ 0x3020 → t.reg o = s.reg o) ∧
      t = { acked s with regs := t.regs })

/-- CTX_START of a FREE context (R34, R59): it runs at `SEQ_CTX_PC.START`, with its arguments in x1 to x4, x5 to x31 zero, its loop
stack empty, its completion-sync slots at object 0 and no non-OK code recorded yet. The context of a sequencer that the grade has;
every other context stays: contexts share no register, and the sync objects, descriptors and program store, which they share, stay.
Register x0 reads zero and a write to it is discarded. -/
def Obligations.ContextStarts : Prop :=
  (∀ (x : Context) (v : DWord), x.xr 0 = 0 ∧ x.setX 0 v = x) ∧
  ∀ (s : State) (c : Ctx) (clr : Bool), HostReady s (ctxBase c) → c.val < 4 * s.nSeq → (s.ctx c).st = .free →
    ∃ t, exec (.ctxStart c clr) s = .next t ∧ WriteCode t (ctxBase c) codeOk ∧
      (t.ctx c).st = .running ∧ (t.ctx c).pc = 8 * s.fld (ctxBase c + 8) 21 3 ∧ (t.ctx c).loops = [] ∧
      (∀ k, Tab.get 0 (t.ctx c).cs k = 0) ∧ (t.ctx c).first = 0 ∧ (t.ctx c).drain = .no ∧
      (∀ r : Reg, (t.ctx c).xr r = (if 1 ≤ r.val ∧ r.val ≤ 4 then
        s.reg (ctxBase c + 0x0C + 8 * r.val) ++ s.reg (ctxBase c + 8 + 8 * r.val) else 0)) ∧
      (∀ d, d ≠ c.val → t.ctx d = s.ctx d) ∧ (∀ o, o ≠ 0x3020 → t.reg o = s.reg o) ∧
      t = { acked s with ctxs := t.ctxs, regs := t.regs, ref := t.ref }

/-- The other entries of `SEQ_CTX_CTRL` (R57, R59): RESUME continues a TRAPPED or HALTED context at its held program counter,
SKIP a TRAPPED one at the instruction after it; HALT completes for one that is neither FREE nor HALTED: it is HALTED at its program
counter, at once when none of its commands is outstanding and no remote signal is open, and on its way there otherwise; FREE frees a
HALTED one; CLRERR, alone or written beside another entry, clears FIRST and FIRSTPC, which stand without it. Registers,
loops and every other context stay. R59: START of a context that is not FREE, RESUME of one that is neither TRAPPED nor HALTED,
SKIP of one that is not TRAPPED, HALT of a FREE or HALTED one and FREE of one that is not HALTED are refused as OFFSIDE; no
context changes, CLRERR beside them or not. -/
def Obligations.ContextControl : Prop :=
  (∀ (s : State) (c : Ctx) (clr : Bool) (i : Instr), HostReady s (ctxBase c) → c.val < 4 * s.nSeq →
    (i = .ctxResume c clr ∧ ((s.ctx c).st = .trapped ∨ (s.ctx c).st = .halted) ∨
      i = .ctxSkip c clr ∧ (s.ctx c).st = .trapped ∨
      i = .ctxHalt c clr ∧ (s.ctx c).st ≠ .free ∧ (s.ctx c).st ≠ .halted ∨
      i = .ctxFree c clr ∧ (s.ctx c).st = .halted ∨ i = .ctxClrerr c ∧ clr = true) →
    ∃ t, exec i s = .next t ∧ WriteCode t (ctxBase c) codeOk ∧
      (i = .ctxResume c clr → (t.ctx c).st = .running ∧ (t.ctx c).pc = (s.ctx c).pc) ∧
      (i = .ctxSkip c clr → (t.ctx c).st = .running ∧ (t.ctx c).pc = (s.ctx c).pc + 8) ∧
      (i = .ctxHalt c clr → (t.ctx c).pc = (s.ctx c).pc ∧
        (s.outstanding c = 0 → s.remoteOpen c = false → (t.ctx c).st = .halted) ∧
        (s.outstanding c ≠ 0 ∨ s.remoteOpen c = true → (t.ctx c).drain = .toHalted)) ∧
      (i = .ctxFree c clr → (t.ctx c).st = .free) ∧ (i = .ctxClrerr c → (t.ctx c).st = (s.ctx c).st) ∧
      (clr = true → (t.ctx c).first = 0 ∧ (t.ctx c).firstPc = 0) ∧
      (clr = false → (t.ctx c).first = (s.ctx c).first ∧ (t.ctx c).firstPc = (s.ctx c).firstPc) ∧
      (∀ r, (t.ctx c).xr r = (s.ctx c).xr r) ∧ (t.ctx c).loops = (s.ctx c).loops ∧
      (∀ d, d ≠ c.val → t.ctx d = s.ctx d) ∧ (∀ o, o ≠ 0x3020 → t.reg o = s.reg o)) ∧
  (∀ (s : State) (c : Ctx) (clr : Bool) (i : Instr), HostReady s (ctxBase c) → c.val < 4 * s.nSeq →
    (i = .ctxStart c clr ∧ (s.ctx c).st ≠ .free ∨
      i = .ctxResume c clr ∧ (s.ctx c).st ≠ .trapped ∧ (s.ctx c).st ≠ .halted ∨
      i = .ctxSkip c clr ∧ (s.ctx c).st ≠ .trapped ∨ i = .ctxHalt c clr ∧ ((s.ctx c).st = .free ∨ (s.ctx c).st = .halted) ∨
      i = .ctxFree c clr ∧ (s.ctx c).st ≠ .halted) →
    ∃ t, exec i s = .next t ∧ WriteCode t (ctxBase c) codeOffside ∧ t = { acked s with regs := t.regs })

/-- A host write reaches its word of an unlocked region and no other; in a locked region it is refused as OFFSIDE (R43). Setting a lock
takes the lines of its region from every instruction cache; a lock whose region holds the program counter of a context that is not FREE
cannot be cleared, and the register keeps its value. A context at its issue whose program counter lies in an unlocked region or
beyond the store traps with OFFSIDE at that instruction, whatever TRAPEN says. -/
def Obligations.ProgramStoreAndLocks : Prop :=
  (∀ (s : State) (r : Nat), (r < 32 → s.locked r = (s.reg 0x1040).getLsbD r) ∧ (32 ≤ r → r < 64 → s.locked r = (s.reg 0x1044).getLsbD (r - 32))) ∧
  (∀ (s : State) (c : Ctx), s.atIssue c = true → (0x400000 ≤ (s.ctx c).pc ∨ s.locked ((s.ctx c).pc / 0x10000) = false) →
    ∃ t, exec (.unlockedRegionFetch c) s = .next t ∧ (t.ctx c).st = .trapped ∧ (t.ctx c).precise = true ∧
      (t.ctx c).pc = (s.ctx c).pc ∧ (t.ctx c).last = codeOffside ∧ (∀ i, t.canIssue c i = false) ∧ t.mem = s.mem) ∧
  (∀ (s : State) (w : Fin 1048576) (v : Word), HostReady s (0x100000 + 4 * w.val) →
    (s.locked (w.val / 16384) = false → ∃ t, exec (.programStoreWrite w v) s = .next t ∧
      WriteCode t (0x100000 + 4 * w.val) codeOk ∧ Tab.get 0 t.ps w = v ∧
      (∀ k, k ≠ w.val → Tab.get 0 t.ps k = Tab.get 0 s.ps k) ∧ t = { acked s with ps := t.ps, regs := t.regs }) ∧
    (s.locked (w.val / 16384) = true → ∃ t, exec (.programStoreWrite w v) s = .next t ∧
      WriteCode t (0x100000 + 4 * w.val) codeOffside ∧ t = { acked s with regs := t.regs })) ∧
  (∀ (s : State) (hi : Bool) (v : Word) (off lo : Nat), (hi = true ∧ off = 0x1044 ∧ lo = 32 ∨ hi = false ∧ off = 0x1040 ∧ lo = 0) →
    HostReady s off →
    ((∃ e ∈ s.ctxs, e.2.st ≠ .free ∧ ∃ i < 32, (s.reg off).getLsbD i = true ∧ v.getLsbD i = false ∧ e.2.pc / 0x10000 = i + lo) →
      ∃ t, exec (.psLockWrite hi v) s = .next t ∧ WriteCode t off codeOffside ∧ t = { acked s with regs := t.regs } ∧
        t.reg off = s.reg off) ∧
    ((∀ e ∈ s.ctxs, e.2.st ≠ .free → ∀ i < 32, (s.reg off).getLsbD i = true → v.getLsbD i = false → e.2.pc / 0x10000 ≠ i + lo) →
      ∃ t, exec (.psLockWrite hi v) s = .next t ∧ WriteCode t off codeOk ∧ t.reg off = v ∧ t.ps = s.ps ∧ t.ctxs = s.ctxs ∧
        (∀ i < 32, (s.reg off).getLsbD i = false → v.getLsbD i = true →
          ∀ e ∈ t.icache, ∀ k ∈ e.2, k / 1024 ≠ i + lo)))

/-- The mailbox (R375, R376) completes: SIGNAL adds argument 1 to the object of argument 0, PING answers 0x4D424F4B; the operation's code
stands in the status beside the operation, and the mailbox interrupt is set. Mailbox ALLOC and FREE (R377) on a ready GENERAL
pool by a host requester (16 and up) complete: ALLOC under the quota with a buffer free answers the address of a buffer, which is
allocated now; FREE of an allocated buffer takes it back, and it is free while no request waits for one. Then, and for ALLOC, the buffer's
bit of the allocation bitmap in the pool's ring area is written, and no byte but that bit's (R232; log entry 85). R377: a pool that is not enabled or not ready ends
them with OFFSIDE, a requester below 16 or a pool of another class with BOUNDS; ALLOC ends with QUOTA at the quota or with no free
buffer; FREE for a requester that holds none ends with OFFSIDE, and otherwise with the code of the checks of R235, BOUNDS outside
the buffer area, ALIGN off a buffer's start, OFFSIDE for a buffer that is not allocated. A refused one changes no pool. -/
def Obligations.Mailbox : Prop :=
  (∀ (s : State) (i : Instr) (k : Nat), HostReady s 0x3000 → (i = .mbSignal ∧ k = 1 ∨ i = .mbPing ∧ k = 4) →
    ∃ t, exec i s = .next t ∧ WriteCode t 0x3000 codeOk ∧ t.reg 0x301C = BitVec.ofNat 32 (k * 65536) ∧ t.fld 0x2800 6 6 = 1 ∧
      (i = .mbPing → t.reg 0x3014 = 0x4D424F4B#32) ∧
      (i = .mbSignal → s.syncWr = [] → (s.obj (s.fld 0x3004 14 0)).cnt.toNat + (s.reg 0x3008).toNat < 2 ^ 32 →
        (t.obj (s.fld 0x3004 14 0)).cnt.toNat = (s.obj (s.fld 0x3004 14 0)).cnt.toNat + (s.reg 0x3008).toNat ∧
        (∀ m, m ≠ s.fld 0x3004 14 0 → t.obj m = s.obj m)) ∧
      t.ctxs = s.ctxs ∧ t.mem = s.mem) ∧
  (∀ (s : State) (n r : Nat), HostReady s 0x3000 → n = s.fld 0x3004 2 0 → r = s.fld 0x3004 15 8 → 16 ≤ r → s.poolEn n = true →
    (s.pool n).ready = true → s.poolClass n = 0 →
    (∀ b p, s.underQuota n r 1 = true → (s.pool n).next (s.poolCount n) = some (b, p) →
      ∃ t, exec .mbAlloc s = .next t ∧ WriteCode t 0x3000 codeOk ∧ t.reg 0x301C = BitVec.ofNat 32 (2 * 65536) ∧
        (t.reg 0x3014).toNat + 2 ^ 32 * (t.reg 0x3018).toNat = s.bufAddr n b % 2 ^ 48 ∧
        Tab.get false (t.pool n).bitmap b = true ∧ Tab.get 0 (t.pool n).held r = Tab.get 0 (s.pool n).held r + 1 ∧
        bitOf (t.byte (s.poolRing n + 8 * s.poolCount n + b / 8)).toNat (b % 8) = true ∧
        (∀ a, a ≠ s.poolRing n + 8 * s.poolCount n + b / 8 → t.byte a = s.byte a) ∧
        (∀ m, m ≠ n → t.pool m = s.pool m) ∧ t.ctxs = s.ctxs) ∧
    (∀ b, 0 < Tab.get 0 (s.pool n).held r → b < s.poolCount n → Tab.get false (s.pool n).bitmap b = true →
      (s.reg 0x3008).toNat + 2 ^ 32 * s.fld 0x300C 15 0 = s.poolBase n + b * s.bufBytes n →
      ∃ t, exec .mbFree s = .next t ∧ WriteCode t 0x3000 codeOk ∧ t.reg 0x301C = BitVec.ofNat 32 (3 * 65536) ∧
        t.ctxs = s.ctxs ∧ (∀ m, m ≠ n → t.pool m = s.pool m) ∧ ((s.pool n).waiting = [] →
        Tab.get false (t.pool n).bitmap b = false ∧ Tab.get 0 (t.pool n).held r = Tab.get 0 (s.pool n).held r - 1 ∧
        bitOf (t.byte (s.poolRing n + 8 * s.poolCount n + b / 8)).toNat (b % 8) = false ∧
        ∀ a, a ≠ s.poolRing n + 8 * s.poolCount n + b / 8 → t.byte a = s.byte a))) ∧
  (∀ (s : State) (n r : Nat) (i : Instr) (op : Nat) (k : Byte) (ready general : Bool), HostReady s 0x3000 → n = s.fld 0x3004 2 0 →
    r = s.fld 0x3004 15 8 → ready = (s.poolEn n && (s.pool n).ready) → general = (decide (16 ≤ r) && decide (s.poolClass n = 0)) →
    (i = .mbAlloc ∧ op = 2 ∧
        (ready = false ∧ k = codeOffside ∨ ready = true ∧ general = false ∧ k = codeBounds ∨
          ready = true ∧ general = true ∧ k = codeQuota ∧ (s.underQuota n r 1 = false ∨ (s.pool n).next (s.poolCount n) = none)) ∨
      i = .mbFree ∧ op = 3 ∧
        (k = codeOffside ∧ (ready = false ∨ Tab.get 0 (s.pool n).held r = 0) ∨
          ready = true ∧ 0 < Tab.get 0 (s.pool n).held r ∧
            ∀ e, e = s.freeCode n ((s.reg 0x3008).toNat + 2 ^ 32 * s.fld 0x300C 15 0) →
              k = (if general = true then e else if e = codeOffside then codeOffside else codeBounds) ∧ k ≠ codeOk)) →
    ∃ t, exec i s = .next t ∧ WriteCode t 0x3000 codeOk ∧ t.reg 0x301C = BitVec.ofNat 32 (k.toNat + op * 65536) ∧
      t.fld 0x2800 6 6 = 1 ∧ t.pools = s.pools ∧ t.mem = s.mem ∧ t.ctxs = s.ctxs) ∧
  (∀ (s : State) (n a b z : Nat), b = s.poolBase n → z = s.bufBytes n →
    (a < b ∨ b + s.poolCount n * z ≤ a → s.freeCode n a = codeBounds) ∧
    (b ≤ a → a < b + s.poolCount n * z → (a - b) % z ≠ 0 → s.freeCode n a = codeAlign) ∧
    (b ≤ a → a < b + s.poolCount n * z → (a - b) % z = 0 →
      s.freeCode n a = if Tab.get false (s.pool n).bitmap ((a - b) / z) = true then codeOk else codeOffside))

/-- Whistles (R54, R378): a grant of n while no boundary waits adds n to the standing count when the sum stays within 255, and is
refused as OFFSIDE with the count unchanged when it does not; while a boundary waits the grant releases its members and n − 1 stand;
CLEAR sets the count to zero. -/
def Obligations.Whistles : Prop :=
  ∀ (s : State) (n : Byte), HostReady s 0x3030 →
    (s.boundary = false → s.standing + n.toNat ≤ 255 → ∃ t, exec (.whistleGrant n) s = .next t ∧ WriteCode t 0x3030 codeOk ∧
      t.standing = s.standing + n.toNat ∧ t.ctxs = s.ctxs ∧ t.boundary = false ∧ t.mem = s.mem) ∧
    (s.boundary = false → n ≠ 0 → 255 < s.standing + n.toNat → ∃ t, exec (.whistleGrant n) s = .next t ∧ WriteCode t 0x3030 codeOffside ∧
      t.standing = s.standing ∧ t = { acked s with regs := t.regs }) ∧
    (s.boundary = true → s.standing = 0 → n ≠ 0 → ∃ t, exec (.whistleGrant n) s = .next t ∧ WriteCode t 0x3030 codeOk ∧
      t.standing = n.toNat - 1 ∧ t.boundary = false ∧
      ∀ c ∈ s.group, (s.ctx c).st = .stepwait → (s.ctx c).trapDue = false → (t.ctx c).st = .running) ∧
    (∃ t, exec .whistleClear s = .next t ∧ WriteCode t 0x3030 codeOk ∧ t.standing = 0 ∧ t = { acked s with regs := t.regs, standing := 0 })

/-! ## Host writes: tables, pools, regions, queues (R89, R103, R151, R162, R214, R218, R222, R232 to R235) -/

/-- Setting EN of a tensor region while the engine is idle: refused with BOUNDS for no size, an end beyond the stacks or an
overlap with an enabled region or pool, and otherwise in force (R103); outside idle OFFSIDE. While EN is 1 a write that would
change the region's base or size is refused as OFFSIDE, and the region is the one that was checked. A pool quota is written while
idle, and refused with BOUNDS where the quotas of an enabled GENERAL pool would exceed its buffers (R233). Enabling a pool
without a fault while idle starts its ring (R232); one with a fault is refused with BOUNDS. POOL_RING_BUILT of an enabled pool completes:
the pool is ready, and no byte outside its ring area changes while no request waits; a pool of another class than RETURN then has nothing
allocated, and so has a RETURN pool when an answer slot has no size (R292); Rebound takes every sound buffer of any other RETURN
pool (R281). -/
def Obligations.PoolsAndRegions : Prop :=
  ((∀ (s : State) (n : Fin 256) (b z : Nat) (en : Bool), HostReady s (0x0D800C + 0x10 * n.val) →
    s.reg (0x0D800C + 0x10 * n.val) ≠ 1 → s.region n = (b, z, en) →
    (s.idle = false → ∃ t, exec (.tregEnable n) s = .next t ∧ WriteCode t (0x0D800C + 0x10 * n.val) codeOffside ∧
      t = { acked s with regs := t.regs }) ∧
    (s.idle = true → (z = 0 ∨ s.stackBytes < b + z ∨ s.meetsRegion n b z = true ∨ s.meetsPool 8 b z = true) →
      ∃ t, exec (.tregEnable n) s = .next t ∧ WriteCode t (0x0D800C + 0x10 * n.val) codeBounds ∧ t = { acked s with regs := t.regs }) ∧
    (s.idle = true → z ≠ 0 → b + z ≤ s.stackBytes → s.meetsRegion n b z = false → s.meetsPool 8 b z = false →
      ∃ t, exec (.tregEnable n) s = .next t ∧ WriteCode t (0x0D800C + 0x10 * n.val) codeOk ∧ (t.region n).2.2 = true ∧
        t = { acked s with regs := t.regs } ∧ ∀ o, o ≠ 0x3020 → o ≠ 0x0D800C + 0x10 * n.val → t.reg o = s.reg o)) ∧
  (∀ (s : State) (n : Fin 256) (k : Nat) (off : BitVec 24) (v : Word), HostReady s off.toNat → k < 3 →
    off.toNat = 0x0D8000 + 0x10 * n.val + 4 * k → (s.region n).2.2 = true →
    ((s.reg off.toNat ^^^ v) &&& (if k = 0 then 0xFFFFF000#32 else if k = 1 then 0x0000FFFF#32 else 0x0FFFFFFF#32)) ≠ 0 →
    ∃ t, exec (.registerWrite off v) s = .next t ∧ WriteCode t off.toNat codeOffside ∧ t = { acked s with regs := t.regs } ∧
      t.region n = s.region n) ∧
  (∀ (s : State) (n : Fin 8) (r : Fin 256) (v : Word) (off : Nat), off = 0x0A1000 + 4 * (8 * r.val + n.val) → HostReady s off →
    (r.val < 4 ∨ 16 ≤ r.val) → s.idle = true → s.quota n r ≠ v.toNat % 2 ^ 24 →
    (s.poolEn n = false ∨ s.poolClass n ≠ 0 →
      ∃ t, exec (.poolQuotaWrite n r v) s = .next t ∧ WriteCode t off codeOk ∧ t.quota n r = v.toNat % 2 ^ 24 ∧
        t = { acked s with regs := t.regs }) ∧
    (s.poolEn n = true → s.poolClass n = 0 →
      s.poolCount n - s.quarCount n < (s.setReg off (BitVec.ofNat 32 (v.toNat % 2 ^ 24))).quotaSum n →
      ∃ t, exec (.poolQuotaWrite n r v) s = .next t ∧ WriteCode t off codeBounds ∧ t = { acked s with regs := t.regs } ∧
        t.quota n r = s.quota n r))) ∧
  ((∀ (s : State) (n : Fin 8) (v : Word) (u : State), HostReady s (poolReg n 0x14) → s.idle = true →
    u = s.setReg (poolReg n 0x14) ((v ||| 0x80000000#32) &&& 0x8000000F#32) → (s.reg (poolReg n 0x14)).getLsbD 31 = false →
    (u.poolBad n = false → u.poolBase n % u.bufBytes n = 0 →
      ∃ t, exec (.poolEnable n v) s = .next t ∧ WriteCode t (poolReg n 0x14) codeOk ∧ t.poolEn n = true ∧
        (t.pool n).ready = false ∧ (∀ m, m ≠ n.val → t.pool m = s.pool m)) ∧
    (u.poolBad n = true → ∃ t, exec (.poolEnable n v) s = .next t ∧ WriteCode t (poolReg n 0x14) codeBounds ∧
      t = { acked s with regs := t.regs } ∧ t.poolEn n = false)) ∧
  (∀ (s : State) (n : Fin 8), s.poolEn n = true → (s.pool n).ready = false →
    ∃ t, exec (.poolRingBuilt n) s = .next t ∧ (t.pool n).ready = true ∧ (∀ m, m ≠ n.val → t.pool m = s.pool m) ∧
      ((s.pool n).waiting = [] → (∀ a, a < s.poolRing n ∨ s.poolRing n + s.ringBytes n ≤ a → t.byte a = s.byte a) ∧
        (s.poolClass n ≠ 2 ∨ s.ansBytes = 0 → (t.pool n).bitmap = [] ∧ (t.pool n).held = [] ∧ t.reb = s.reb)) ∧
      (s.poolClass n = 2 → s.ansBytes ≠ 0 → (∀ i, i < s.poolCount n → Tab.get false (s.pool n).quar i = false →
        Tab.get false (t.pool n).bitmap i = true) ∧ t.reb.aslots = t.answerTotal n)))

/-- A buffer's way (R234, R235), while no request waits for one. POOL_ALLOCATE of a ready GENERAL pool by a requester under its quota
completes: it takes the next free buffer, never one that is quarantined. POOL_FREE with a pointer of an allocated buffer
returns it; with a pointer that is no buffer's it changes no pool, and a unit's is counted. Either changes no byte of memory but the
buffer's byte of the allocation bitmap (R232; log entry 85). POOL_CACHE_REFILL at 64 entries or fewer moves buffers from the ring to the
cache; it allocates none at any fill. -/
def Obligations.BuffersComeAndGo : Prop :=
  (∀ (s : State) (n : Fin 8) (r : Fin 256) (b : Nat) (p : Pool), s.poolEn n = true → (s.pool n).ready = true → s.poolClass n = 0 →
    (s.pool n).waiting = [] → s.underQuota n r 1 = true → (s.pool n).next (s.poolCount n) = some (b, p) →
    ∃ t, exec (.poolAllocate n r) s = .next t ∧ Tab.get false (t.pool n).bitmap b = true ∧
      (∀ k, k ≠ b → Tab.get false (t.pool n).bitmap k = Tab.get false (s.pool n).bitmap k) ∧
      Tab.get 0 (t.pool n).held r = Tab.get 0 (s.pool n).held r + 1 ∧ Tab.get false (s.pool n).quar b = false ∧
      (∀ a, a ≠ s.poolRing n + 8 * s.poolCount n + b / 8 → t.byte a = s.byte a) ∧
      t = { s with pools := t.pools, mem := t.mem } ∧ ∀ m, m ≠ n.val → t.pool m = s.pool m) ∧
  (∀ (s : State) (n : Fin 8) (r : Fin 256) (a : BitVec 48) (b : Nat), s.poolEn n = true → (s.pool n).waiting = [] →
    b = (a.toNat - s.poolBase n) / s.bufBytes n →
    (s.freeCode n a.toNat = codeOk → ∃ t, exec (.poolFree n r a) s = .next t ∧ Tab.get false (t.pool n).bitmap b = false ∧
      (∀ k, k ≠ b → Tab.get false (t.pool n).bitmap k = Tab.get false (s.pool n).bitmap k) ∧
      Tab.get 0 (t.pool n).held r = Tab.get 0 (s.pool n).held r - 1 ∧
      (∀ x, x ≠ s.poolRing n + 8 * s.poolCount n + b / 8 → t.byte x = s.byte x) ∧ t = { s with pools := t.pools, mem := t.mem }) ∧
    (s.freeCode n a.toNat ≠ codeOk → ∃ t, exec (.poolFree n r a) s = .next t ∧ t.pools = s.pools ∧ t.mem = s.mem ∧
      (16 ≤ r.val → t = s) ∧ (r.val < 16 → t.reg (poolReg n 0x20) = s.reg (poolReg n 0x20) + 1))) ∧
  (∀ (s : State) (n : Fin 8), s.poolEn n = true → (s.pool n).ready = true → (s.pool n).waiting = [] →
    ∃ t, exec (.poolCacheRefill n) s = .next t ∧ (t.pool n).bitmap = (s.pool n).bitmap ∧
      ((s.pool n).cached ≤ 64 → t.mem = s.mem ∧
        (t.pool n).cached = Min.min ((s.pool n).cached + 128) ((s.pool n).freeCount (s.poolCount n))) ∧
      t = { s with pools := t.pools, mem := t.mem })

/-- Setting EN of an ingest or egress group (R214, R218) while idle: its port spans and queue are checked; a leader that is not aligned to
its span, or a queue of the wrong class, is refused with BOUNDS and the register keeps its value; otherwise the group is enabled. -/
def Obligations.PortGroupsEnable : Prop :=
  (∀ (s : State) (p : Fin 32) (v w : Word), HostReady s (0x090000 + 4 * p.val) → s.idle = true →
    w = (v ||| 0x80000000#32) &&& 0x80007FFF#32 → (s.reg (0x090000 + 4 * p.val)).getLsbD 31 = false →
    (s.ingBad p (w.toNat % 4096) (2 ^ (w.toNat / 4096 % 4)) (w.getLsbD 14) = false →
      ∃ t, exec (.ingestGroupEnable p v) s = .next t ∧ WriteCode t (0x090000 + 4 * p.val) codeOk ∧
        t.reg (0x090000 + 4 * p.val) = w ∧ t.ctxs = s.ctxs ∧ t.mem = s.mem) ∧
    (s.ingBad p (w.toNat % 4096) (2 ^ (w.toNat / 4096 % 4)) (w.getLsbD 14) = true →
      ∃ t, exec (.ingestGroupEnable p v) s = .next t ∧ WriteCode t (0x090000 + 4 * p.val) codeBounds ∧
        t = { acked s with regs := t.regs } ∧ t.reg (0x090000 + 4 * p.val) = s.reg (0x090000 + 4 * p.val)) ∧
    (p.val % 2 ^ (w.toNat / 4096 % 4) ≠ 0 ∨ (s.queue (w.toNat % 4096)).cls = .disabled ∨ (s.queue (w.toNat % 4096)).cls = .unit →
      s.ingBad p (w.toNat % 4096) (2 ^ (w.toNat / 4096 % 4)) (w.getLsbD 14) = true)) ∧
  (∀ (s : State) (p : Fin 32) (v w : Word), HostReady s (0x090100 + 4 * p.val) → s.idle = true →
    w = (v ||| 0x80000000#32) &&& 0x80003FFF#32 → (s.reg (0x090100 + 4 * p.val)).getLsbD 31 = false →
    (s.egrBad p (w.toNat % 4096) (2 ^ (w.toNat / 4096 % 4)) = false →
      ∃ t, exec (.egressGroupEnable p v) s = .next t ∧ WriteCode t (0x090100 + 4 * p.val) codeOk ∧
        t.reg (0x090100 + 4 * p.val) = w ∧ t = { acked s with regs := t.regs }) ∧
    (s.egrBad p (w.toNat % 4096) (2 ^ (w.toNat / 4096 % 4)) = true →
      ∃ t, exec (.egressGroupEnable p v) s = .next t ∧ WriteCode t (0x090100 + 4 * p.val) codeBounds ∧ t = { acked s with regs := t.regs }) ∧
    (p.val % 2 ^ (w.toNat / 4096 % 4) ≠ 0 ∨ (s.queue (w.toNat % 4096)).cls ≠ .unit →
      s.egrBad p (w.toNat % 4096) (2 ^ (w.toNat / 4096 % 4)) = true))

/-! ## Memory port (R294 to R314) -/

/-- A memory request (R293, R296 to R301): beyond the stacks it does not exist. One to a channel that is neither dead nor held, of a
unit with no earlier request waiting, completes: it is accepted, and has its effect in order: a READ changes no byte, a WRITE changes the
enabled bytes and no other, an ADD of a line that is not lost adds the enabled elements of its format and changes nothing outside its
sectors. With no other request at the ports it goes out at once when there are credit and a tag, is in flight under that tag and spends
its bytes of credit; without credit it waits in the port's queue. A port issues the oldest receive-path request that has credit,
and a dispatch request only when none is ready (R300). A controller's answer completes (R297, R305): the request leaves the port and its
tag is free; a READ or an ADD that meets a lost line, or is answered as poisoned, counts as a lost read, is recorded and reported as a
lost-contents fault of its half; with no request waiting and no maintenance command, nothing else changes. -/
def Obligations.MemoryTraffic : Prop :=
  (∀ (s : State) (r : MemReq) (c m : Nat), r.ok = true → c = lineChan r.line.toNat → m = portOfChan c →
    (s.mp.nlines * 640 ≤ r.line.toNat → exec (.memRequestIssue r) s = .fault .beyondStacks) ∧
    (r.line.toNat < s.mp.nlines * 640 → (r.op = .add → s.ordered = false) → c ∉ s.mp.dead → s.holds c = false →
      s.unitBusy c r.line.toNat = false → (∀ x ∈ s.mp.wait, x.unit ≠ r.unit) →
      ∃ t, exec (.memRequestIssue r) s = .next t ∧ t.mp.wait = s.mp.wait ∧
        (r.op = .read → t.mem = s.mem) ∧
        (r.op = .write → ∀ a, t.byte a = if reqAddr r ≤ a ∧ r.enable.getD (a - reqAddr r) false = true then
          r.data.getD (a - reqAddr r) 0 else s.byte a) ∧
        (r.op = .add → (∀ a, a < reqAddr r ∨ reqAddr r + reqBytes r ≤ a → t.byte a = s.byte a) ∧
          (s.lineLost r.line.toNat = true → t.mem = s.mem) ∧
          (s.lineLost r.line.toNat = false → ∀ j < reqBytes r / addSize r.fmt,
            t.num (reqAddr r + j * addSize r.fmt) (addSize r.fmt) =
              if r.enable.getD (j * addSize r.fmt) false = true then
                addElem r.fmt (s.num (reqAddr r + j * addSize r.fmt) (addSize r.fmt))
                  (leNat ((r.data.drop (j * addSize r.fmt)).take (addSize r.fmt))) % 2 ^ (8 * addSize r.fmt)
              else s.num (reqAddr r + j * addSize r.fmt) (addSize r.fmt))) ∧
        (∀ tag, s.mp.rq = [] → s.mp.holdq = [] → s.hasCredit m r = true → s.freeTag m = some tag →
          t.mp.flights = s.mp.flights ++ [⟨m, BitVec.ofNat 8 tag, c, r⟩] ∧ t.mp.rq = [] ∧
          Tab.get 0 t.mp.rdCredit m = Tab.get 0 s.mp.rdCredit m - (if r.op = .write then 0 else reqBytes r) ∧
          Tab.get 0 t.mp.wrCredit m = Tab.get 0 s.mp.wrCredit m - (if r.op = .read then 0 else reqBytes r)) ∧
        (s.mp.rq = [] → s.mp.holdq = [] → s.hasCredit m r = false → t.mp.flights = s.mp.flights ∧ t.mp.rq = [(c, r)]) ∧
        t = { s with mem := t.mem, mp := t.mp, pins := t.pins, obs := t.obs })) ∧
  (∀ (s : State) (m : Nat) (held : Bool) (c : Nat) (r : MemReq), s.nextReq m = some (held, c, r) →
    s.hasCredit m r = true ∧ s.blocked c = false ∧ portOfChan c = m ∧
    (held = false → s.mp.rq.find? (fun e => decide (e.1 = c) && decide (e.2.recv = r.recv)) = some (c, r)) ∧
    (held = true → s.mp.holdq.find? (fun e => decide (e.1 = c) && !s.unitBusy e.1 e.2.line.toNat) = some (c, r)) ∧
    (r.recv = false → ∀ f ∈ s.fronts m, s.hasCredit m f.2.2 = true → f.2.2.recv = false)) ∧
  (∀ (s : State) (m : Fin 40) (tag : Byte) (status : BitVec 2) (f : Flight), s.mp.rq = [] → s.mp.holdq = [] → s.mp.wait = [] →
    s.mp.maint = [] → s.mp.flights.find? (fun f => decide (f.port = m.val) && decide (f.tag = tag)) = some f →
    (f.req.op = .write ∨ s.lineLost f.req.line.toNat = false → status = 0 →
      exec (.memResponse m tag status) s = .next { s with mp := { s.mp with flights := s.mp.flights.erase f } }) ∧
    (f.req.op ≠ .write → s.lineLost f.req.line.toNat = true ∨ status = 3 →
      ∃ t, exec (.memResponse m tag status) s = .next t ∧ t.mp.flights = s.mp.flights.erase f ∧
        t.reg 0x0D0038 = s.reg 0x0D0038 + 1 ∧ t.mp.lostPending = true ∧
        (s.mp.lostPending = false → t.mp.lostAddr = 256 * f.req.line.toNat ∧ t.fld 0x2800 4 4 = 1) ∧
        (s.mp.lostPending = true → t.mp.lostAddr = s.mp.lostAddr) ∧
        t.ref = { s.ref with faults := s.ref.faults ++
          [⟨0x0A, f.req.half, 0, 0xFFFF, BitVec.ofNat 64 (256 * f.req.line.toNat), false⟩] } ∧
        t = { s with mp := t.mp, regs := t.regs, ref := t.ref }))

/-- Retraining (R302, R303). Out of reset, RETRAIN_START of a channel that works completes: it counts, and from then on no request goes out to the
channel: one of a unit with no earlier request waiting is accepted, has its effect and enters the channel's hold queue while its class has
room there; without room it waits in its unit, and an FCLK while one or more wait counts once. RETRAIN_DONE completes: the channel does not
retrain any longer, and with one request held, credit and a tag, and nothing else at the ports, that request goes out. The expiry of the window
of a channel that does not retrain does nothing; of one that does it is the channel's failure. -/
def Obligations.RetrainingHolds : Prop :=
  ∀ (s : State) (ch : Fin 640),
    (s.kick.st ≠ 0 → ch.val ∉ s.mp.retraining → ch.val ∉ s.mp.dead → ∃ t, exec (.retrainStart ch) s = .next t ∧
      t.mp = { s.mp with retraining := s.mp.retraining ++ [ch.val] } ∧ t.reg 0x0D002C = s.reg 0x0D002C + 1 ∧
      (∀ o, o ≠ 0x0D002C → t.reg o = s.reg o) ∧ t = { s with mp := t.mp, regs := t.regs } ∧ t.holds ch = true) ∧
    (∀ r : MemReq, r.ok = true → lineChan r.line.toNat = ch.val → r.line.toNat < s.mp.nlines * 640 →
      (r.op = .add → s.ordered = false) → ch.val ∉ s.mp.dead → s.holds ch = true → (∀ x ∈ s.mp.wait, x.unit ≠ r.unit) →
      (s.heldBytes ch + reqHold r ≤ (if r.recv = true then 65536 else 49152) →
        ∃ t, exec (.memRequestIssue r) s = .next t ∧ t.mp.holdq = s.mp.holdq ++ [(ch.val, r)] ∧ t.mp.flights = s.mp.flights ∧
          t.mp.wait = s.mp.wait ∧ t.mp.rq = s.mp.rq ∧ t.mem = (s.carryOut r).mem ∧ t = { s with mem := t.mem, mp := t.mp }) ∧
      ((if r.recv = true then 65536 else 49152) < s.heldBytes ch + reqHold r →
        exec (.memRequestIssue r) s = .next { s with mp := { s.mp with wait := s.mp.wait ++ [r] } })) ∧
    (s.mp.wait ≠ [] → s.stallMemory.reg 0x0D0030 = s.reg 0x0D0030 + 1 ∧ s.stallMemory = { s with regs := s.stallMemory.regs }) ∧
    (ch.val ∈ s.mp.retraining → ∃ t, exec (.retrainDone ch) s = .next t ∧ t.mp.retraining = s.mp.retraining.erase ch.val ∧
      t.ctxs = s.ctxs ∧ (s.mp.wait = [] → t.mem = s.mem) ∧
      (∀ r tag, s.mp.retraining = [ch.val] → s.onSpare ch = false → s.inMaint ch = false → s.mp.rq = [] → s.mp.wait = [] →
        s.mp.holdq = [(ch.val, r)] → s.unitBusy ch r.line.toNat = false → s.hasCredit (portOfChan ch) r = true →
        s.freeTag (portOfChan ch) = some tag →
        t.mp.holdq = [] ∧ t.mp.flights = s.mp.flights ++ [⟨portOfChan ch, BitVec.ofNat 8 tag, ch.val, r⟩])) ∧
    (ch.val ∉ s.mp.retraining → exec (.retrainWindowExpiry ch) s = .next s) ∧
    (ch.val ∈ s.mp.retraining → ∃ t, exec (.retrainWindowExpiry ch) s = .next t ∧ exec (.channelFailed ch) s = .next t)

/-- Takeover (R304 to R306). A failed channel whose stack's spare is free is served by the spare, which is not ready yet; its contents are
lost, TAKEOVER is among the commands for the controller, and every half with work in flight is faulted. With the spare in use already, or
put out of use at K4, the stack is LOST, the channel is dead, its requests are gone, and the stack-lost flag and the memory interrupt are
set. Every other stack stays, and no byte of memory is changed. SPARE_READY of a spare in use completes: it is ready, and no byte of memory
changes while no request waits in a unit. MEM_RESUME completes and ends the waits. -/
def Obligations.TakeoverAndResume : Prop :=
  (∀ (s : State) (ch : Fin 640) (k : Nat), k = ch.val / 32 → ch.val ∉ s.mp.dead →
    ((s.stack k).st = 1 → (s.stack k).noSpare = false → ∃ t, exec (.channelFailed ch) s = .next t ∧
      t.stack k = ⟨2, ch.val % 32, false, false⟩ ∧
      (∀ j, j ≠ k → t.stack j = s.stack j) ∧ ch.val ∈ t.mp.lostCh ∧
      (∃ tag, (⟨false, k, ch.val % 32, 0x30, BitVec.ofNat 32 (ch.val % 32), 0, false, tag⟩ : Maint) ∈ t.mp.maint) ∧
      t.ref.faults = s.ref.faults ++ s.halvesInFlight.map (fun h => ⟨0x0D, some h, itemPc k (ch.val % 32), 0xFFFF, 0, false⟩) ∧
      t.mem = s.mem ∧ t.ctxs = s.ctxs) ∧
    (2 ≤ (s.stack k).st ∨ (s.stack k).noSpare = true → ∃ t, exec (.channelFailed ch) s = .next t ∧ (t.stack k).st = 3 ∧
      (∀ j, j ≠ k → t.stack j = s.stack j) ∧ ch.val ∈ t.mp.dead ∧ (∀ e ∈ t.mp.holdq, e.1 ≠ ch.val) ∧ (∀ e ∈ t.mp.rq, e.1 ≠ ch.val) ∧
      t.fld 0x2000 17 17 = 1 ∧ t.fld 0x2800 4 4 = 1 ∧ t.mem = s.mem ∧ t.ctxs = s.ctxs)) ∧
  (∀ (s : State) (k : Fin 20), 2 ≤ (s.stack k).st → (s.stack k).spareReady = false →
    ∃ t, exec (.spareReady k) s = .next t ∧ t.stack k = { s.stack k with spareReady := true } ∧
      (∀ j, j ≠ k.val → t.stack j = s.stack j) ∧ (s.mp.wait = [] → t.mem = s.mem) ∧ t.ctxs = s.ctxs) ∧
  (∀ s : State, HostReady s 0x0D001C → ∃ t, exec .memResume s = .next t ∧ WriteCode t 0x0D001C codeOk ∧
    t = { acked s with regs := t.regs, mp := { s.mp with lostPending := false, lostHalves := [] }, ref := { s.ref with heldFor := [] } })

/-- A host maintenance command for a pseudo-channel of at most 32 on a stack that exists completes (R313): in its allowed states and with none of
the host in progress it stands behind the commands for the controller, with its argument and, for CWRITE, the value of `MEM_MAINT_RSP`; with one
in progress, or outside its states, it ends with OFFSIDE and nothing is sent; a pseudo-channel above 32, or a stack above 19 (the model's
choice, log entry 49), ends with FORMAT. MAINT_RESULT is the controller's answer to the command at the front (R308, R309, R313), while no
request waits: the result of a query or scan of the host stands in `MEM_MAINT_RSP`, that of its CWRITE is zero, and the command is gone; a REMAP of the
Referee counts, and once DONE its row unit is poisoned unless its contents are kept, while without DONE no line changes. -/
def Obligations.MaintenanceCommands : Prop :=
  (∀ (s : State) (st : BitVec 5) (pc : BitVec 6) (i : Instr) (op : Byte), HostReady s 0x0D2000 →
    (i = .maintMarginT st pc ∧ op = 0x01 ∨ i = .maintMarginV st pc ∧ op = 0x02 ∨ i = .maintRowq st pc ∧ op = 0x10 ∨
      i = .maintRemap st pc ∧ op = 0x11 ∨ i = .maintCread st pc ∧ op = 0x20 ∨ i = .maintCwrite st pc ∧ op = 0x21 ∨
      i = .maintTakeover st pc ∧ op = 0x30) →
    ((∀ m ∈ s.mp.maint, m.host = false) → op = 0x10 ∨ op = 0x20 ∨ s.engine = 3 → pc.toNat ≤ 32 → st.toNat ≤ 19 →
      ∃ t, exec i s = .next t ∧ WriteCode t 0x0D2000 codeOk ∧ t.mem = s.mem ∧ t.ctxs = s.ctxs ∧
        t.mp = { s.mp with maint := t.mp.maint } ∧
        t.mp.maint.map (fun m => { m with tag := none }) = (s.mp.maint ++ [(⟨true, st.toNat, pc.toNat, op, s.reg 0x0D2004,
          if op = 0x21 then s.reg 0x0D2008 else 0, false, none⟩ : Maint)]).map (fun m => { m with tag := none })) ∧
    ((∃ m ∈ s.mp.maint, m.host = true) ∨ op ≠ 0x10 ∧ op ≠ 0x20 ∧ s.engine ≠ 1 ∧ s.engine ≠ 3 →
      ∃ t, exec i s = .next t ∧ WriteCode t 0x0D2000 codeOffside ∧ t.fld 0x0D200C 7 0 = 1 ∧ t = { acked s with regs := t.regs }) ∧
    ((∀ m ∈ s.mp.maint, m.host = false) → op = 0x10 ∨ op = 0x20 ∨ s.engine = 3 → 32 < pc.toNat ∨ 19 < st.toNat →
      ∃ t, exec i s = .next t ∧ WriteCode t 0x0D2000 codeFormat ∧ t.fld 0x0D200C 7 0 = 8 ∧ t = { acked s with regs := t.regs })) ∧
  (∀ (s : State) (m : Maint) (l : List Maint) (v : Word), s.mp.maint = m :: l → s.mp.holdq = [] → s.mp.rq = [] → s.mp.wait = [] →
    (m.host = true → m.op ∈ [0x01#8, 0x02#8, 0x10#8, 0x20#8, 0x21#8] →
      ∃ t, exec (.maintResult v) s = .next t ∧ t.reg 0x0D2008 = (if m.op = 0x21#8 then 0 else v) ∧ t.fld 0x0D200C 7 0 = 0 ∧
        (∀ o, o ≠ 0x0D2008 → o ≠ 0x0D200C → t.reg o = s.reg o) ∧
        t.mp.maint.map (fun m => { m with tag := none }) = l.map (fun m => { m with tag := none }) ∧
        t = { s with mp := { s.mp with maint := t.mp.maint }, regs := t.regs, pins := t.pins }) ∧
    (∀ c, m.host = false → m.op = 0x11#8 → s.chanOf m.stack m.pc = some c → v.getLsbD 10 = false →
      ∃ t, exec (.maintResult v) s = .next t ∧ t.reg 0x0D0034 = s.reg 0x0D0034 + 1 ∧
        t.mp.maint.map (fun m => { m with tag := none }) = l.map (fun m => { m with tag := none }) ∧
        (v.getLsbD 0 = true → m.keep = false → ∀ n ∈ s.unitLineNos c (m.arg.toNat % 2 ^ 20), Tab.get false t.mp.poison n = true) ∧
        (v.getLsbD 0 = false ∨ m.keep = true → t.mp.poison = s.mp.poison) ∧ t.mem = s.mem ∧ t.ctxs = s.ctxs))

/-! ## Observation port and superperiods (R299, R316, R387 to R391) -/

/-- A selection of an observation pin (R390): MODE 11 is refused with FORMAT and the register keeps its value; any other is
written, and is not in force before the next superperiod boundary. An update period of the observation pins (R388, R389): with
`OBS_CTRL.EN` clear they are low; otherwise SAMPLE shows the signal at the last source edge, STICKY whether it was 1 at any,
PARITY inverts the pin once for each edge at which it was 1; a signal that does not exist reads 0. Nothing else changes. -/
def Obligations.ObservationPort : Prop :=
  (∀ (s : State) (p : Fin 16) (v : Word) (off : Nat), off = 0x0F0100 + 4 * p.val → HostReady s off →
    (v.toNat / 65536 % 4 = 3 → ∃ t, exec (.obsSelWrite p v) s = .next t ∧ WriteCode t off codeFormat ∧
      t = { acked s with regs := t.regs } ∧ t.reg off = s.reg off) ∧
    (v.toNat / 65536 % 4 ≠ 3 → ∃ t, exec (.obsSelWrite p v) s = .next t ∧ WriteCode t off codeOk ∧
      t.fld off 5 0 = v.toNat % 64 ∧ t.fld off 13 8 = v.toNat / 256 % 64 ∧ t.fld off 17 16 = v.toNat / 65536 % 4 ∧
      t.regNow off = s.regNow off ∧ t.mem = s.mem ∧ t.ctxs = s.ctxs)) ∧
  (∀ (s : State) (samples : List (List Bool)), ∃ t, exec (.obsUpdatePeriod samples) s = .next t ∧
    t = { s with obs := { s.obs with pins := t.obs.pins } } ∧
    (s.fldNow 0x0F0000 0 0 = 0 → t.obs.pins = 0) ∧
    (s.fldNow 0x0F0000 0 0 = 1 → ∀ p : Fin 16, ∀ off live e, off = 0x0F0100 + 4 * p.val →
      live = s.obsSignal (s.fldNow off 13 8) (s.fldNow off 5 0) → e = samples.getD p.val [] →
      (s.fldNow off 17 16 = 0 → t.obs.pins.getLsbD p = (e.getLastD false && live)) ∧
      (s.fldNow off 17 16 = 1 → t.obs.pins.getLsbD p = (e.contains true && live)) ∧
      (s.fldNow off 17 16 = 2 → t.obs.pins.getLsbD p =
        (s.obs.pins.getLsbD p ^^ (live && decide (e.count true % 2 = 1))))))

/-- A superperiod boundary (R316, R299, R390, R391): the count goes up by 1; each port's credits grow to at most 4096 bytes; every
selection written is in force; `SPM_OUT` is driven; an armed START clears every counter and the window runs, an armed STOP freezes them after this
superperiod; a running window counts it. Before K1 ends there is no boundary. START and STOP complete and arm, and a STOP while no window
runs does nothing. No byte of memory and no context changes. -/
def Obligations.SuperperiodBoundary : Prop :=
  (∀ s : State, s.served = false → exec .superperiodBoundary s = .next s) ∧
  (∀ s : State, s.served = true → ∃ t, exec .superperiodBoundary s = .next t ∧ t.spcnt = s.spcnt + 1 ∧
    (∀ m < 40, Tab.get 0 t.mp.rdCredit m ≤ 4096 ∧ Min.min 4096 (Tab.get 0 s.mp.rdCredit m) ≤ Tab.get 0 t.mp.rdCredit m ∧
      Tab.get 0 t.mp.wrCredit m ≤ 4096 ∧ Min.min 4096 (Tab.get 0 s.mp.wrCredit m) ≤ Tab.get 0 t.mp.wrCredit m) ∧
    (∀ p : Fin 16, t.regNow (0x0F0100 + 4 * p.val) = s.reg (0x0F0100 + 4 * p.val)) ∧
    (s.obs.arm = 1 → t.obs = { s.obs with arm := 0, run := true, cnt := [] }) ∧
    (s.obs.arm = 2 → s.obs.run = true → t.obs.run = false ∧ t.obs.arm = 0 ∧
      Tab.get 0 t.obs.cnt 0 = Tab.get 0 s.obs.cnt 0 + 1) ∧
    (s.obs.arm = 0 → s.obs.run = true → t.obs.run = true ∧ Tab.get 0 t.obs.cnt 0 = Tab.get 0 s.obs.cnt 0 + 1 ∧
      ∀ k, k ≠ 0 → Tab.get 0 t.obs.cnt k = Tab.get 0 s.obs.cnt k) ∧
    (s.obs.arm = 0 → s.obs.run = false → t.obs = s.obs) ∧
    t = { s with spcnt := t.spcnt, mp := t.mp, lag := t.lag, regs := t.regs, obs := t.obs, pins := { s.pins with spmOut := true } }) ∧
  (∀ s : State, HostReady s 0x0F0200 →
    (∃ t, exec .mwinStart s = .next t ∧ WriteCode t 0x0F0200 codeOk ∧
      t = { acked s with regs := t.regs, obs := { s.obs with arm := 1 } }) ∧
    (∃ t, exec .mwinStop s = .next t ∧ WriteCode t 0x0F0200 codeOk ∧
      t = { acked s with regs := t.regs, obs := { s.obs with arm := if s.obs.run = true then 2 else s.obs.arm } }))

/-! ## Registers by offset (R11, R177, R222, R345, R363 to R365, R369, R384, R394) -/

/-- A host write by offset (R11, R363 to R365, R369). At an address that is not a multiple of 4 it ends with ALIGN and changes
nothing. Over the global page's registers that no other rule judges: one that would change an RW field while the engine is not
idle is refused whole, with OFFSIDE; otherwise RW fields take their bits, RWS bits are staged for the next boundary, RWL bits
are written and counted, and no other bit of the register changes. A host read (R369): the word at the offset is on `HW_RDATA`,
and nothing else changes but the captured words; the read of the low word of the superperiod count or of the step captures the
high word, which a read of the high word then gives. An address that is not aligned reads zero. -/
def Obligations.HostAccesses : Prop :=
  ((∀ (s : State) (off : BitVec 24) (v : Word), off.toNat % 4 ≠ 0 → HostReady s off.toNat →
    ∃ t, exec (.registerWrite off v) s = .next t ∧ WriteCode t off.toNat codeAlign ∧ t = { acked s with regs := t.regs }) ∧
  (∀ (s : State) (off : BitVec 24) (v : Word) (o : Nat) (rw rws rwl : Word), o = off.toNat → o % 4 = 0 → o < 0x10000 →
    o ∉ [0x1040, 0x1044, 0x2000, 0x2800, 0x3000, 0x3020, 0x3024, 0x3030] → HostReady s o →
    rw = maskOf (fieldsAt o) .rw → rws = maskOf (fieldsAt o) .rws → rwl = maskOf (fieldsAt o) .rwl →
    ((s.reg o ^^^ v) &&& rw ≠ 0 → s.idle = false →
      ∃ t, exec (.registerWrite off v) s = .next t ∧ WriteCode t o codeOffside ∧ t = { acked s with regs := t.regs } ∧
        t.reg o = s.reg o) ∧
    ((s.reg o ^^^ v) &&& rw = 0 ∨ s.idle = true →
      ∃ t, exec (.registerWrite off v) s = .next t ∧ WriteCode t o codeOk ∧
        t.reg o &&& rw = v &&& rw ∧ t.reg o &&& rwl = v &&& rwl ∧ t.reg o &&& ~~~(rw ||| rwl) = s.reg o &&& ~~~(rw ||| rwl) ∧
        (rwl = 0 → rws = 0 → t = { acked s with regs := t.regs }) ∧
        (rwl ≠ 0 → t.reg 0x1084 = s.reg 0x1084 + 1) ∧
        (rws ≠ 0 → ∀ p, p = (Tab.get none s.staged o).getD (0, 0) →
          Tab.get none t.staged o = some (p.1 ||| rws, (p.2 &&& ~~~rws) ||| (v &&& rws))) ∧
        t.mem = s.mem ∧ t.ctxs = s.ctxs))) ∧
  (∀ (s : State) (off : BitVec 24), s.served = true →
    ∃ t, exec (.lowWordRead off) s = .next t ∧ t = { s with pins := { s.pins with rdata := t.pins.rdata }, capt := t.capt } ∧
      (off.toNat % 4 ≠ 0 → t.pins.rdata = 0) ∧
      (off = 0x001064#24 → t.pins.rdata.toNat = s.spcnt.toNat % 2 ^ 32 ∧ (t.read 0x001068).toNat = s.spcnt.toNat / 2 ^ 32) ∧
      (off = 0x00101C#24 → t.pins.rdata.toNat = s.step.toNat % 2 ^ 32 ∧ (t.read 0x001020).toNat = s.step.toNat / 2 ^ 32) ∧
      (off = 0x002000#24 → t.pins.rdata = s.reg 0x2000 &&& readMask 0x2000))

/-- A unit group at its packet boundary (R364, R365): every live field that it reads is in force as written, and its bit of
`GCTL_ADOPT` is set, with DONE when it is the last. The observation port has no packet boundary of its own. Read pointers of
the two rings that the host empties (R177, R345): a value that would make (WR − RD) mod 8192 exceed the ring's slots is refused
with BOUNDS and the pointer keeps its value; any other is written. -/
def Obligations.LiveRegisters : Prop :=
  (∀ (s : State) (u : Fin 15),
    (u = 14 → exec (.liveAdopt u) s = .next s) ∧
    (u ≠ 14 → ∃ t, exec (.liveAdopt u) s = .next t ∧ (∀ off, ownerOf off = u.val → off < 0x0F0000 → off ≠ 0x1080 →
      t.regNow off = t.reg off) ∧ (∀ off, off ≠ 0x1080 → off < 0x2000 → t.reg off = s.reg off) ∧
      bitOf (t.reg 0x1080).toNat u = true ∧
      (bitOf (s.reg 0x1080).toNat u = false → (∀ k < 15, k ≠ u.val → bitOf (s.reg 0x1080).toNat k = true) →
        bitOf (t.reg 0x1080).toNat 31 = true) ∧
      (u.val = 1 → t.syncWr = []) ∧ t.mem = s.mem ∧ t.ctxs = s.ctxs)) ∧
  (∀ (s : State) (v : Word) (i : Instr) (off wr n : Nat), HostReady s off →
    (i = .histRdWrite v ∧ off = 0x070020 ∧ wr = s.fld 0x07001C 12 0 ∧ n = ringSlots (s.fld 0x070018 4 1) ∨
      i = .obhRdWrite v ∧ off = 0x0E0120 ∧ wr = s.fld 0x0E011C 12 0 ∧ n = ringSlots (s.fld 0x0E0110 4 1)) →
    (n < (wr + 8192 - v.toNat % 8192) % 8192 → ∃ t, exec i s = .next t ∧ WriteCode t off codeBounds ∧
      t = { acked s with regs := t.regs } ∧ t.reg off = s.reg off) ∧
    ((wr + 8192 - v.toNat % 8192) % 8192 ≤ n → ∃ t, exec i s = .next t ∧ WriteCode t off codeOk ∧
      (t.reg off).toNat = v.toNat % 8192 ∧ t.mem = s.mem ∧ t.ctxs = s.ctxs))

/-- A write through the paged window (R383, R384): into the gate store OFFSIDE; into an active bank, an earlier bank still held
or a bank that a loader fills EPOCH, each with the table-write-refused flag and the tables unchanged; into a free bank of the
predictor, the bias table or the replica table, within its target, it is what the window then shows, in the bits that the word
has. FLUSH in a queue's configuration (R222), with the queue table in the paged window: the queue is empty, its packet counter
zero; every other queue and every context stay, and so does memory when no bucket block of Huddle lies in the queue. -/
def Obligations.PagedWindow : Prop :=
  (∀ (s : State) (w : Fin 2097152) (v : Word) (a : Nat) (b : Fin 2), HostReady s (0x800000 + 4 * w.val) → a = s.pageByte w.val →
    (s.target = some (.gate b) → a < 33554432 → ∃ t, exec (.pagedWindowWrite w v) s = .next t ∧
      WriteCode t (0x800000 + 4 * w.val) codeOffside ∧ t.fld 0x2000 2 2 = 1 ∧ t = { acked s with regs := t.regs }) ∧
    (∀ k n g, (k = Target.scout b ∧ n = 2 ∧ g = scoutMask a ∨ k = Target.bias b ∧ n = 3 ∧ g = 0xFFFFFFFF#32 ∨
        k = Target.replica b ∧ n = 0 ∧ g = replicaMask a) → s.target = some k → a < k.size →
      (s.bankShut n b = true → ∃ t, exec (.pagedWindowWrite w v) s = .next t ∧
        WriteCode t (0x800000 + 4 * w.val) codeEpoch ∧ t.fld 0x2000 2 2 = 1 ∧ t = { acked s with regs := t.regs }) ∧
      (s.bankShut n b = false → ∃ t, exec (.pagedWindowWrite w v) s = .next t ∧
        WriteCode t (0x800000 + 4 * w.val) codeOk ∧ t.pageRead w.val = v &&& g ∧
        (∀ x : Fin 2097152, x ≠ w → t.pageRead x.val = s.pageRead x.val) ∧ t = { acked s with regs := t.regs, tbl := t.tbl })) ∧
    ((s.banked 2).active.isSome = true → b = (s.banked 2).bank → s.bankShut 2 b = true)) ∧
  (∀ (s : State) (q : Fin 4096), HostReady s (0x800000 + 32 * q.val) → s.regNow 0x1100 = 0x0C#32 →
    ∃ t, exec (.queCfgFlush q) s = .next t ∧ WriteCode t (0x800000 + 32 * q.val) codeOk ∧ t.queueWords q = [] ∧ (t.queue q).pkt = 0 ∧
      ((s.queue q).atEnd = false → (t.queue q).resync = true) ∧ ((s.queue q).resync = true → (t.queue q).resync = true) ∧
      (∀ p, p ≠ q.val → t.queue p = s.queue p) ∧
      ((∀ b ∈ (s.queue q).blks ++ (s.queue q).mid, s.bucketOf b.1 = none) → t.mem = s.mem) ∧ t.ctxs = s.ctxs)

/-! ## Resets and kickoff (R318, R319, R321 to R334) -/

/-- Resets (R318, R321 to R323). A power-on reset leaves every register at its reset value; a warm reset keeps the on-block image and the
registers that R321 names, and no other; the stacks stay in both; a pin that falls in reset is only noted. With both pins released in reset
K0 begins. A host warm reset where the window answers, and a lock loss once kickoff has stopped or passed, start the engine at once as a
warm reset does; before that they do nothing. -/
def Obligations.Resets : Prop :=
  ∀ s : State,
    (∃ t, exec .powerOnReset s = .next t ∧ t.kick.st = 0 ∧ t.kick.power = true ∧ t.kick.readImage = true ∧ t.kick.img = [] ∧
      t = { State.reset with pending := s.pending, gradeB := s.gradeB, mem := s.mem, free := t.free, kick := t.kick } ∧
      (s.kick.nvsq = [] → t.kick.nvs = s.kick.nvs)) ∧
    (s.kick.st ≠ 0 → ∃ t, exec .warmReset s = .next t ∧ t.kick.st = 0 ∧ t.kick.warm = true ∧ t.kick.readImage = false ∧
      t.kick.img = s.kick.img ∧ (∀ o ∈ warmKept, t.reg o = s.reg o) ∧ (∀ o, o ∉ warmKept → t.reg o = State.reset.reg o) ∧
      t = { State.reset with pending := s.pending, gradeB := s.gradeB, mem := s.mem, regs := t.regs, free := t.free, kick := t.kick }) ∧
    (s.kick.st = 0 → exec .warmReset s = .next { s with kick := { s.kick with warm := true } }) ∧
    (∀ p w : Bool, s.kick.st ≠ 0 → exec (.resetRelease p w) s = .next { s with kick := { s.kick with
      power := s.kick.power && !p, warm := s.kick.warm && !w } }) ∧
    (∀ p w : Bool, s.kick.st = 0 → ∃ t, exec (.resetRelease p w) s = .next t ∧ t = { s with kick := t.kick } ∧
      t.kick.power = (s.kick.power && !p) ∧ t.kick.warm = (s.kick.warm && !w) ∧
      (t.kick.power = false ∧ t.kick.warm = false → t.kick.st = 1 ∧ t.kick.step = 0) ∧
      (t.kick.power = true ∨ t.kick.warm = true → t.kick.st = 0)) ∧
    (s.served = true → ∃ t, exec .hostWarmReset s = .next t ∧ t.kick.st = 1 ∧ t.kick.step = 0 ∧ t.kick.readImage = false ∧
      t.kick.img = s.kick.img ∧ t.mem = s.mem ∧ t.ctxs = [] ∧ (∀ o ∈ warmKept, t.reg o = s.reg o) ∧
      (∀ o, o ∉ warmKept → t.reg o = State.reset.reg o)) ∧
    (s.served = false → exec .hostWarmReset s = .next s) ∧
    (2 ≤ s.kick.st → ∃ t, exec .lockLoss s = .next t ∧ t.kick.st = 1 ∧ t.kick.step = 0 ∧
      t.kick.img = (s.logEvent 0x05 0).kick.img ∧ t.mem = s.mem ∧ t.ctxs = [] ∧ (∀ o ∈ warmKept, t.reg o = s.reg o)) ∧
    (s.kick.st < 2 → exec .lockLoss s = .next s)

/-- A kickoff step that finds no fault completes: it passes, and the next may begin (R324 to R326). K0 with the image read and sound, the lock in
time and the reference in range counts the kickoff; K1 aligns the dividers and starts the superperiod count at 0 (R316); K2 and K3 with no
unit marked or failing assign every logical unit its own; K4 with no stack recorded as taken over or lost takes the line count that every
controller reports; K5 brings every logical port into service on 16 lanes, and a follower whose pair-compare port is in service takes its
partner's count (R319); K6 loads the ROM's tables and the behaviour identity; K7 writes the default contents; K8 enters service, or test
hold, and raises the kickoff interrupt. -/
def Obligations.KickoffPasses : Prop :=
  ∀ s : State, s.kick.st = 1 → s.kick.nvsq = [] → s.kick.tried = [] → s.kick.note = 0 →
    (∀ w, 16 ≤ w → w < 128 → s.img w = 0) → s.kick.marks = [] → s.kick.lostStk = [] → s.kick.lockMiss = none →
    (∀ i : K0In, s.kick.step = 0 → s.kick.readImage = false → s.imgOk = true → i.count ≠ 0 → 154687500 ≤ i.hertz →
      i.hertz ≤ 157812500 → i.lockTime.toNat ≤ 7812 →
      ∃ t, exec (.kickoffK0 i) s = .next t ∧ t.kick.st = 1 ∧ t.kick.step = 1 ∧ t.kick.locked = true ∧
        t.kickCount = (s.kickCount + 1) % 65536 ∧ t = { s with kick := t.kick }) ∧
    (∀ i : K1In, s.kick.step = 1 → i.phaseOk = true → ∃ t, exec (.kickoffK1 i) s = .next t ∧ t.kick.st = 1 ∧ t.kick.step = 2 ∧
      t.kick.aligned = true ∧ t.served = true ∧ t.spcnt = 0 ∧
      t = { s with kick := t.kick, spcnt := t.spcnt }) ∧
    (s.kick.step = 2 → ∃ t, exec (.kickoffK2 []) s = .next t ∧ t.kick.st = 1 ∧ t.kick.step = 3 ∧ t = { s with kick := t.kick }) ∧
    (s.kick.step = 3 → ∃ t, exec (.kickoffK3 []) s = .next t ∧ t.kick.st = 1 ∧ t.kick.step = 4 ∧ t.ref.phys = s.ref.phys ∧
      t = { s with kick := t.kick }) ∧
    (∀ (i : K4In) (n : Nat), s.kick.step = 4 → i.lines = List.replicate 20 n → i.fails = [] →
      (∀ k < 20, s.marginLow i k = false) → s.quarList.length < 256 →
      ∃ t, exec (.kickoffK4 i) s = .next t ∧ t.kick.st = 1 ∧ t.kick.step = 5 ∧ t.mp.nlines = n % 2 ^ 23 ∧
        (∀ k < 20, t.stack k = ⟨1, 0, false, false⟩) ∧ t = { s with kick := t.kick, mp := t.mp }) ∧
    (∀ n : DWord, s.kick.step = 5 → (∀ l, l < s.nLink → (s.port l).st = 0) → ∃ t, exec (.kickoffK5 ⟨[], [], n⟩) s = .next t ∧
      t.kick.st = 1 ∧ t.kick.step = 6 ∧ (s.follows = false → t.spcnt = s.spcnt) ∧
      (s.follows = true → s.fld 0x0B0014 5 0 < s.nLink → t.spcnt = n) ∧ (∀ l, l < s.nLink → (t.port l).st = 2 ∧ (t.port l).lanes = 16 ∧ (t.port l).spare = none) ∧ t.mem = s.mem) ∧
    (s.kick.step = 6 → ∃ t, exec (.kickoffK6 []) s = .next t ∧ t.kick.st = 1 ∧ t.kick.step = 7 ∧
      t.reg 0x10 = Config.behaviourId ∧ t.tbl.rom = true ∧ (∀ o, o ≠ 0x10 → t.reg o = s.reg o) ∧
      t = { s with kick := t.kick, tbl := { s.tbl with rom := true }, regs := t.regs }) ∧
    (s.kick.step = 7 → ∃ t, exec (.kickoffK7 []) s = .next t ∧ t.kick.st = 1 ∧ t.kick.step = 8 ∧ t.tbl = s.tbl.defaults ∧
      t.queues = [] ∧ t.pools = [] ∧ t.slots = [] ∧ t.sync = [] ∧ t.mem = s.mem) ∧
    (s.kick.step = 8 → ∃ t, exec .kickoffK8 s = .next t ∧ t.kick.step = 8 ∧
      t.kick.st = (if s.fld 0x0E000C 0 0 = 1 then 4 else 2) ∧ t.fld 0x2800 0 0 = 1 ∧ t = { s with kick := t.kick, regs := t.regs })

/-- A failure in kickoff, once the image has been read (R325, R331, R332): the lock or the marker that does not come, the reference, the dividers, a
partner. Where the step offers neither action, or the run of the action fails, kickoff stops with the
step, the cause and the item, and raises the kickoff interrupt; where the policy's action for the cause is one that the step offers and
its run passes, kickoff goes on with what that action does. -/
def Obligations.KickoffFailures : Prop :=
  ∀ (s : State) (act : Byte → Nat → BitVec 16 → Nat), s.kick.st = 1 → s.kick.nvsq = [] → s.kick.tried = [] → s.kick.note = 1 → s.kick.lockMiss = none →
    (∀ cause n item, act cause n item = if s.repeats n cause item < (s.policyFor n cause).2.2 then (s.policyFor n cause).1
      else (s.policyFor n cause).2.1) →
    (∀ i : K0In, s.kick.step = 0 → s.kick.readImage = false → i.count = 0 → i.lockTime.toNat ≤ 7812 →
      ∃ t, exec (.kickoffK0 i) s = .next t ∧ t.kick.st = 3 ∧ t.kick.stopStep = 0 ∧ t.kick.cause = 0x01 ∧ t.kick.item = 0 ∧
        t.fld 0x2800 0 0 = 1 ∧ t.kick.locked = false) ∧
    (∀ i : K1In, s.kick.step = 1 → i.phaseOk = false → i.retryOk = false → ∃ t, exec (.kickoffK1 i) s = .next t ∧ t.kick.st = 3 ∧
      t.kick.stopStep = 1 ∧ t.kick.cause = 0x10 ∧ t.kick.item = 0 ∧ t.fld 0x2800 0 0 = 1 ∧ t.spcnt = s.spcnt) ∧
    (s.kick.step = 1 → s.follows = true →
      (act 0x11 1 0 = 2 → ∃ t, exec .spmMarkerTimeout s = .next t ∧ t.kick.st = 1 ∧ t.follows = false) ∧
      (act 0x11 1 0 ≠ 2 → ∃ t, exec .spmMarkerTimeout s = .next t ∧ t.kick.st = 3 ∧ t.kick.cause = 0x11 ∧ t.fld 0x2800 0 0 = 1)) ∧
    (∀ ok : Bool, s.kick.step = 0 →
      (act 0x03 0 0 = 2 → ok = true → ∃ t, exec (.pllLockTimeout ok) s = .next t ∧ t.kick.st = 1 ∧ t.answered 0x03 = true) ∧
      (act 0x03 0 0 ≠ 2 ∨ ok = false → ∃ t, exec (.pllLockTimeout ok) s = .next t ∧ t.kick.st = 3 ∧ t.kick.cause = 0x03 ∧
        t.fld 0x2800 0 0 = 1)) ∧
    (∀ (l : Fin 64) (item : BitVec 16), s.kick.step = 5 → l.val < s.nLink → (s.port l).st = 0 → item = BitVec.ofNat 16 (0x4000 + l.val) →
      (act 0x53 5 item = 1 → ∃ t, exec (.linkPartnerTimeout l) s = .next t ∧ t.kick.st = 1 ∧ (t.port l).st = 5) ∧
      (act 0x53 5 item ≠ 1 → ∃ t, exec (.linkPartnerTimeout l) s = .next t ∧ t.kick.st = 3 ∧ t.kick.cause = 0x53 ∧ t.kick.item = item))

/-- The store and the Referee's kickoff registers (R319, R325, R327, R332 to R334). NVS_COMMAND_DONE completes: while K0 reads the image the
word enters the copy and the next one is asked for; otherwise the word write at the front is durable and the next one waits, and with none
nothing happens. NVS_TIMEOUT completes: a write that fails in service turns persistence off. RELEASE leaves test hold and is OFFSIDE elsewhere; FORGET is OFFSIDE while kickoff
runs; an image word is written in the policy table, or in the standing record in test hold, and nowhere else. A marker away from its
edge is a miss. -/
def Obligations.StoreAndKickoffRegisters : Prop :=
  (∀ (s : State) (r : Word),
    (s.reading = true → exec (.nvsCommandDone r) s = .next { s with kick := { s.kick with
      img := Tab.set 0 s.kick.img s.kick.rd r, rd := s.kick.rd + 1 } }) ∧
    (s.reading = false → s.kick.nvsq = [] → exec (.nvsCommandDone r) s = .next s ∧ exec .nvsTimeout s = .next s)) ∧
  (∀ (s : State) (r : Word) (w : Nat) (v : Word) (l : List (Nat × Word)), s.kick.nvsq = (w, v) :: l →
    (s.reading = false → ∃ t, exec (.nvsCommandDone r) s = .next t ∧ Tab.get 0 t.kick.nvs w = v ∧
      (∀ k, k ≠ w → Tab.get 0 t.kick.nvs k = Tab.get 0 s.kick.nvs k) ∧ t.kick.nvsq = l ∧
      t = { s with kick := { s.kick with nvs := t.kick.nvs, nvsq := l } }) ∧
    (s.kick.st ≠ 1 → exec .nvsTimeout s = .next { s with kick := { s.kick with persist := false, wrerr := true, nvsq := [] } })) ∧
  (∀ s : State, HostReady s 0x0E000C →
    (s.kick.st = 4 → ∃ t, exec .kctlRelease s = .next t ∧ WriteCode t 0x0E000C codeOk ∧
      t = { acked s with regs := t.regs, kick := { s.kick with st := 2 } }) ∧
    (s.kick.st ≠ 4 → ∃ t, exec .kctlRelease s = .next t ∧ WriteCode t 0x0E000C codeOffside ∧ t = { acked s with regs := t.regs }) ∧
    (s.kick.st = 1 → ∃ t, exec .kctlForget s = .next t ∧ WriteCode t 0x0E000C codeOffside ∧ t = { acked s with regs := t.regs }) ∧
    (s.kick.st ≠ 1 → ∃ t, exec .kctlForget s = .next t ∧ WriteCode t 0x0E000C codeOk ∧
      (s.newestLog = none → fieldLe (t.logBytes 0) 6 1 = 15 + 16 * 6) ∧ t = { acked s with regs := t.regs, kick := t.kick })) ∧
  (∀ (s : State) (w : Fin 2048) (v : Word), HostReady s (0x0E8000 + 4 * w.val) →
    ((128 ≤ w.val ∧ w.val < 256) ∨ (16 ≤ w.val ∧ w.val < 128 ∧ s.kick.st = 4) →
      ∃ t, exec (.refImgWrite w v) s = .next t ∧ WriteCode t (0x0E8000 + 4 * w.val) codeOk ∧ t.img w = v ∧
        (∀ k, k ≠ w.val → t.img k = s.img k) ∧ (s.kick.persist = true → Tab.get 0 t.kick.nvs w.val = v ∧ t.kick.nvsq = []) ∧
        t = { acked s with regs := t.regs, kick := t.kick }) ∧
    (¬ ((128 ≤ w.val ∧ w.val < 256) ∨ (16 ≤ w.val ∧ w.val < 128 ∧ s.kick.st = 4)) →
      ∃ t, exec (.refImgWrite w v) s = .next t ∧ WriteCode t (0x0E8000 + 4 * w.val) codeOffside ∧ t = { acked s with regs := t.regs })) ∧
  (∀ (s : State) (early : BitVec 7), s.follows = true → s.kick.aligned = true →
    (early.toNat = Min.min 79 (s.fld 0x106C 7 1) → exec (.spmMarker early) s = .next s) ∧
    (early.toNat ≠ Min.min 79 (s.fld 0x106C 7 1) → ∃ t, exec (.spmMarker early) s = .next t ∧ t.kick.spmok = false ∧
      t.reg 0x1070 = s.reg 0x1070 + 1 ∧ t.fld 0x2000 16 16 = 1 ∧ t = { s with regs := t.regs, kick := { s.kick with spmok := false } }))

/-! ## Ports, spill and admission's stall (R178, R207 to R219) -/

/-- Ports (R207 to R219). INGEST_PACKET completes: the words of ports that belong to no enabled group, or whose `ING_VALID` is low, are
discarded and only FC_HOLD is driven; a one-word packet at any port of a group whose queue is not amid a packet and has room is the
queue's last word. EGRESS_WORDS of an enabled group that is not held, whose queue is all in its head with no word marked, completes: it
presents eight words for each of its ports, the queue's words first, and IDLE words behind them; a held one presents none; a port that leads
no enabled group does nothing. QUEUE_SPILL_FILL completes: the head takes the oldest block of the middle when it has room for one, and the
queue's words are the same. ADMISSION_STALL_END completes: a reservation stall ends when an answer slot is free, and stands when none is. -/
def Obligations.PortsAndSpill : Prop :=
  (∀ (s : State) (p : Fin 32) (w : QWord) (q g l : Nat), s.ingLeader p = some l → s.ing l = (true, q, g, false) → w.kind ≠ 0 →
    w.last = true →
    (s.queue q).atEnd = true → (s.queue q).resync = false → (s.queue q).cut = false → (s.queue q).mid = [] →
    (s.queue q).head.length + (s.queue q).tail.length < 16 →
    ∃ t, exec (.ingestPacket p [(true, [w])]) s = .next t ∧ t.queueWords q = s.queueWords q ++ [w] ∧ (t.queue q).pkt = (s.queue q).pkt + 1 ∧
      (∀ r, r ≠ q → t.queue r = s.queue r) ∧ t = { s with queues := t.queues, pins := t.pins }) ∧
  (∀ (s : State) (p : Fin 32) (ports : List (Bool × List QWord)),
    (∀ i x, ports[i]? = some x → x.1 = false ∨ s.ingLeader (p.val + i) = none) →
    exec (.ingestPacket p ports) s = .next s.holdUpdate ∧
      s.holdUpdate = { s with pins := { s.pins with fcHold := s.holdUpdate.pins.fcHold } }) ∧
  (∀ (s : State) (p : Fin 32) (q g : Nat), s.egr p = (true, q, g) →
    (s.flow = [] → (s.queue q).mid = [] → (s.queue q).tail = [] → (s.queue q).cuts = [] → (s.queue q).blks = [] →
      ∃ t, exec (.egressWords p false) s = .next t ∧
      Tab.get [] t.pins.egr p = (s.queueWords q).take (8 * g) ++ List.replicate (8 * g - (s.queueWords q).length) idleWord ∧
      t.queueWords q = (s.queueWords q).drop (8 * g) ∧ (∀ r, r ≠ q → t.queue r = s.queue r) ∧
      t = { s with queues := t.queues, pins := t.pins }) ∧
    (∃ t, exec (.egressWords p true) s = .next t ∧ Tab.get [] t.pins.egr p = [] ∧ t = { s with pins := t.pins })) ∧
  (∀ (s : State) (p : Fin 32) (hold : Bool), (s.egr p).1 = false → exec (.egressWords p hold) s = .next s) ∧
  (∀ (s : State) (q : Fin 4096), ∃ t, exec (.queueSpillFill q) s = .next t ∧ t.queueWords q = s.queueWords q ∧
    (∀ r, r ≠ q.val → t.queue r = s.queue r) ∧ t.mem = s.mem ∧ t.ctxs = s.ctxs ∧
    (∀ b l, (s.queue q).mid = b :: l → (s.queue q).head.length ≤ 1 → (t.queue q).mid = l)) ∧
  (∀ s : State, s.adm.stalled = true → s.reb.used < s.reb.aslots → (∀ u ∈ s.ucmds, unitOf u.op ≠ 3) →
    ∃ t, exec .admissionStallEnd s = .next t ∧ t = { s with adm := { s.adm with stalled := false } }) ∧
  (∀ s : State, s.adm.stalled = true → s.reb.aslots ≤ s.reb.used → exec .admissionStallEnd s = .next s)

/-! ## Volley: the link layer (R244 to R256, R267 to R269) -/

/-- FRAME_SEND of a port in service completes (R243, R244, R247, R255, R271). At the end of a superframe it sends the control block, with up to
eight NAKs. Before that: a frame to be sent again, counted, under its old sequence, where the credit covers it and the cell reserved for the
pair-compare channel stays free; with none to be sent again the first inline packet, ANSWER or COPY frame, in this order of kinds,
for which the same holds and whose bytes fit the retry buffer, kept there under the next sequence; with neither, on the port of the
pair-compare channel the oldest waiting digest or an empty one where the credit covers it, and on another port the next control block. A
port out of service sends nothing. ACK_TIMEOUT of a kept frame completes: it is to be sent again, or after four sendings takes its port out of
service to retrain. -/
def Obligations.FramesLeave : Prop :=
  ∀ (s : State) (l : Fin 64) (p : Port), p = s.port l →
    (p.up = false → exec (.frameSend l) s = .next s) ∧
    (p.up = true → 640 ≤ p.cell ∨ (p.txq = [] ∧ (∀ r ∈ p.retry, r.resend = false) ∧ s.pcPort l = false) →
      ∃ t, exec (.frameSend l) s = .next t ∧ Tab.get [] t.pins.lnk l = s.controlBlock l ∧
        t.port l = { p with naks := p.naks.drop 8, sf := p.sf + 1, cell := p.cell - 640 } ∧ (∀ m, m ≠ l.val → t.port m = s.port m) ∧
        t = { s with vol := t.vol, pins := t.pins }) ∧
    (p.up = true → p.cell < 640 → p.txq = [] → (∀ r ∈ p.retry, r.resend = false) → s.pcPort l = true →
      1 ≤ p.credit → p.retryBytes + 64 ≤ 262144 → ∃ t, exec (.frameSend l) s = .next t ∧ (t.port l).nextSeq = p.nextSeq + 1 ∧
        (s.vol.digests = [] → Tab.get [] t.pins.lnk l = s.emptyDigest.wire p.nextSeq.toNat) ∧
        (∀ d ds, s.vol.digests = d :: ds → t.vol.digests = ds ∧ Tab.get [] t.pins.lnk l = (s.digestFrame d).wire p.nextSeq.toNat) ∧
        (∀ m, m ≠ l.val → t.port m = s.port m) ∧ t = { s with vol := t.vol, pins := t.pins }) ∧
    (∀ r, p.up = true → p.cell < 640 → p.retry.find? (·.resend) = some r → r.frame.cells ≤ p.credit →
      s.slotFree l r.frame.cells = true →
      ∃ t, exec (.frameSend l) s = .next t ∧ Tab.get [] t.pins.lnk l = r.frame.wire r.seq.toNat ∧
        t.reg (0x0B1010 + 0x40 * l.val) = s.reg (0x0B1010 + 0x40 * l.val) + 1 ∧ (t.port l).nextSeq = p.nextSeq ∧
        (t.port l).sent = p.sent + BitVec.ofNat 32 r.frame.cells ∧ t = { s with vol := t.vol, pins := t.pins, regs := t.regs }) ∧
    (∀ f : Frame, p.up = true → p.cell < 640 → (∀ r ∈ p.retry, r.resend = false) → s.slotFree l f.cells = true →
      (p.pick (fun f => decide (3 ≤ f.kind)) = some f ∨
        p.pick (fun f => decide (3 ≤ f.kind)) = none ∧ (p.pick (fun f => decide (f.kind = 2)) = some f ∨
          p.pick (fun f => decide (f.kind = 2)) = none ∧ p.pick (fun f => decide (f.kind = 1)) = some f)) →
      ∃ t, exec (.frameSend l) s = .next t ∧ Tab.get [] t.pins.lnk l = f.wire p.nextSeq.toNat ∧ t.ctxs = s.ctxs ∧
        (s.vol.stuck = [] → t.port l = { p with txq := p.txq.erase f, retry := p.retry ++ [⟨p.nextSeq, 1, false, f⟩]
                                                nextSeq := p.nextSeq + 1, sent := p.sent + BitVec.ofNat 32 f.cells
                                                cell := p.cell + f.cells } ∧
          ∀ m, m ≠ l.val → t.port m = s.port m) ∧ (s.vol.jobs = [] → t.mem = s.mem)) ∧
    (∀ (q : BitVec 24) (r : Retry), p.up = true → p.retry.find? (fun r => decide (r.seq = q)) = some r →
      (r.tries < 4 → ∃ t, exec (.ackTimeout l q) s = .next t ∧
        t.port l = { p with retry := p.retry.map fun x => if x = r then { r with resend := true } else x } ∧
        (∀ m, m ≠ l.val → t.port m = s.port m)) ∧
      (4 ≤ r.tries → ∃ t, exec (.ackTimeout l q) s = .next t ∧ (t.port l).st = 4 ∧ (t.port l).retry = [] ∧ (t.port l).txq = []))

/-- FRAME_RECEIVE at a port in service completes (R244, R247, R248, R257). A frame that fails a CRC is kept nowhere, its cells are granted anew,
and a NAK names its sequence, or the next expected one where its header is bad. A good one that has come before is counted as a
duplicate, and so is a segment that has; one with a header that is not valid, for another chip or with a tag that does not fit is discarded
and counted as a tag error; any other waits to be processed, the sequences that it skipped named in NAKs. CONTROL_BLOCK_RECEIVE completes: a good
control block without NAKs takes acknowledged frames out of the retry buffer and gives credit; a bad one does nothing. -/
def Obligations.FramesArrive : Prop :=
  ∀ (s : State) (l : Fin 64) (bytes : List Byte) (p : Port), p = s.port l → p.up = true →
    (64 ≤ bytes.length → bytes.length % 64 = 0 →
      (crc32 (bytes.take 60) ≠ fieldLe bytes 60 4 → ∃ t, exec (.frameReceive l bytes) s = .next t ∧ t.vol.rx = s.vol.rx ∧
        (t.port l).rxSeq = p.rxSeq + 1 ∧ (t.port l).naks = p.naks ++ [p.rxSeq] ∧
        (t.port l).grants = p.grants + BitVec.ofNat 32 (bytes.length / 64) ∧ t = { s with vol := t.vol }) ∧
      (crc32 (bytes.take 60) = fieldLe bytes 60 4 → ∀ (f : Frame) (q : BitVec 24) (bad : Prop), frameOf bytes = (f, q) →
        (bad ↔ 64 < bytes.length ∧
          crc32 ((bytes.drop 64).take (bytes.length - 68)) ≠ fieldLe bytes (bytes.length - 4) 4) →
        (bad → ∃ t, exec (.frameReceive l bytes) s = .next t ∧ t.vol.rx = s.vol.rx ∧ q ∈ (t.port l).naks ∧
          (t.port l).grants = p.grants + BitVec.ofNat 32 (bytes.length / 64) ∧ t = { s with vol := t.vol }) ∧
        (¬ bad → p.had q = true → ∃ t, exec (.frameReceive l bytes) s = .next t ∧ t.vol.rx = s.vol.rx ∧
          t.reg 0x0B0048 = s.reg 0x0B0048 + 1 ∧ t = { s with vol := t.vol, regs := t.regs }) ∧
        (¬ bad → p.had q = false → headerValid bytes = false ∨ f.dest ≠ s.chip ∨ f.tagBad = true →
          ∃ t, exec (.frameReceive l bytes) s = .next t ∧ t.vol.rx = s.vol.rx ∧ t.reg 0x0B0040 = s.reg 0x0B0040 + 1 ∧
            t.fld 0x2000 12 12 = 1 ∧ t = { s with vol := t.vol, regs := t.regs }) ∧
        (¬ bad → p.had q = false → headerValid bytes = true → f.dest = s.chip → f.tagBad = false →
          (s.seenSegment f = true → ∃ t, exec (.frameReceive l bytes) s = .next t ∧ t.vol.rx = s.vol.rx ∧
            t.reg 0x0B0048 = s.reg 0x0B0048 + 1 ∧ t = { s with vol := t.vol, regs := t.regs }) ∧
          (s.seenSegment f = false → ∃ t, exec (.frameReceive l bytes) s = .next t ∧ t.vol.rx = s.vol.rx ++ [(some l, f)] ∧
            (t.port l).rxCells = p.rxCells + bytes.length / 64 ∧
            (∀ n, n = (q - p.rxSeq).toNat → n < 2 ^ 23 → (t.port l).rxSeq = q + 1 ∧
              (t.port l).naks = (p.naks ++ (List.range n).map fun i => p.rxSeq + BitVec.ofNat 24 i).filter fun x => decide (x ≠ q)) ∧
            (2 ^ 23 ≤ (q - p.rxSeq).toNat → (t.port l).rxSeq = p.rxSeq ∧ q ∉ (t.port l).naks) ∧
            t = { s with vol := t.vol, obs := t.obs })))) ∧
    (∀ ack : BitVec 24, ack = BitVec.ofNat 24 (fieldLe bytes 10 3) → bytes.length = 160 → bytes.take 8 = ctlMarker →
      crc32 (bytes.take 152) = fieldLe bytes 152 4 → (∀ i < 8, bitOf (fieldLe bytes (13 + 4 * i) 4) 31 = false) →
      ∃ t, exec (.controlBlockReceive l bytes) s = .next t ∧
        t.port l = { p with retry := p.retry.filter (fun r => decide (2 ^ 23 ≤ (ack - r.seq).toNat)),
                            granted := BitVec.ofNat 32 (fieldLe bytes 45 4), partner := bytes.getD 49 0 } ∧
        (∀ m, m ≠ l.val → t.port m = s.port m) ∧ t = { s with vol := t.vol }) ∧
    (bytes.length ≠ 160 ∨ bytes.take 8 ≠ ctlMarker ∨ crc32 (bytes.take 152) ≠ fieldLe bytes 152 4 →
      exec (.controlBlockReceive l bytes) s = .next s)

/-- Lanes and ports (R267 to R269, R272). A failed lane in use takes its port out of service to retrain; one that is not in use is only
noted. Retrained with 16 good lanes the port is in service on them; short of 16 with no bench port, at half width on 8, and short of 8
out of service; with a bench port free it waits for the substitution, which gives its logical index to the bench port and marks the
failed one out. The host takes a port out of service and lets it retrain. -/
def Obligations.PortsRetrain : Prop :=
  (∀ (s : State) (l : Fin 64) (lane : Fin 18) (p : Port), p = s.port l → l.val < s.nLink → lane.val ∉ p.bad →
    (p.up = true → lane.val ∈ p.lmap → ∃ t, exec (.laneFail l lane) s = .next t ∧ (t.port l).st = 4 ∧
      (t.port l).bad = p.bad ++ [lane.val] ∧ (t.port l).txq = [] ∧ (t.port l).retry = []) ∧
    (p.up = false ∨ lane.val ∉ p.lmap → ∃ t, exec (.laneFail l lane) s = .next t ∧
      t.port l = { p with bad := p.bad ++ [lane.val] } ∧ (∀ m, m ≠ l.val → t.port m = s.port m) ∧ t = { s with vol := t.vol })) ∧
  (∀ (s : State) (l : Fin 64) (p : Port), p = s.port l →
    (p.st ≠ 4 → exec (.portRetrainDone l) s = .next s) ∧
    (p.st = 4 → 16 ≤ p.good.length → ∃ t, exec (.portRetrainDone l) s = .next t ∧ (t.port l).st = 2 ∧ (t.port l).lanes = 16 ∧
      (t.port l).lmap = remapLanes p.good p.lmap ∧ (t.port l).bad = p.bad ∧ t.mem = s.mem) ∧
    (p.st = 4 → p.good.length < 16 → 8 ≤ p.good.length → s.benchPorts = [] → ∃ t, exec (.portRetrainDone l) s = .next t ∧
      (t.port l).st = 3 ∧ (t.port l).lanes = 8 ∧ (t.port l).lmap = p.good.take 8) ∧
    (p.st = 4 → p.good.length < 8 → s.benchPorts = [] → ∃ t, exec (.portRetrainDone l) s = .next t ∧ (t.port l).st = 5) ∧
    (∀ b bs, s.benchPorts = b :: bs → p.good.length < 16 → exec (.portRetrainDone l) s = .next s ∧
      (p.st = 4 → ∃ t, exec (.portSubstitution l) s = .next t ∧ (t.port l).st = 2 ∧ (t.port l).spare = some b ∧
        (t.port l).nextSeq = 0 ∧ (t.port l).rxSeq = 0 ∧ t.marked 6 (s.physOf l) = true)) ∧
    (s.benchPorts = [] ∨ p.st ≠ 4 ∨ 16 ≤ p.good.length → exec (.portSubstitution l) s = .next s)) ∧
  (∀ (s : State) (l : Fin 64) (out : Bool), HostReady s (0x0B101C + 0x40 * l.val) →
    (l.val < s.nLink → ∃ t, exec (.portOutWrite l out) s = .next t ∧ WriteCode t (0x0B101C + 0x40 * l.val) codeOk ∧
      (t.port l).st = (if out = true then 5 else if (s.port l).st = 5 then 4 else (s.port l).st) ∧ t.mem = s.mem) ∧
    (s.nLink ≤ l.val → ∃ t, exec (.portOutWrite l out) s = .next t ∧ WriteCode t (0x0B101C + 0x40 * l.val) codeOk ∧
      t = { acked s with regs := t.regs }))

/-! ## Volley: what arrives and what is sent (R250 to R266, R270) -/

/-- Copies and notices at their arrival entry (R258 to R263). COPY_SEGMENT completes: with no COPY segment received nothing happens; a segment
whose packet has its RECEIVE buffer, or takes one, goes to its place in it; with its last segment a copy of the open instance whose entry
is fresh counts in its origin's entry. EOH_PACKET completes: an EOH of the open instance for a fresh entry, or for one of its batch and
generation, gives the entry its count, one of the next instance is held with the copies that came before it, any other is stale.
DISCARD_PACKET completes: a fresh entry takes its batch and generation; one of the next generation empties the entry, one of another batch
does nothing. PARTIAL_TIMEOUT of a packet left partial and CONSERVATION_TIMEOUT of an entry short of its count complete: they are counted, the
packet is gone, and an answer's is a fault of its half; DUP_FILTER_EXPIRY completes: the filter entry is gone. -/
def Obligations.CopiesAndNotices : Prop :=
  (∀ s : State, (∀ x ∈ s.vol.rx, x.2.kind ≠ 1) → exec .copySegment s = .next s) ∧
  (∀ (s t0 t1 : State) (f : Frame) (p : Part), s.takeRx 1 = some (f, t0) → t0.partOf f = some (p, t1) →
    (∀ n, s.poolOf 1 = some n → (s.pool n).ready = true ∧ 1980 * f.seg + f.data.length ≤ s.bufBytes n) →
    (p.segs.length + 1 < segments p.len → ∃ t, exec .copySegment s = .next t ∧
      t.vol.parts = t1.vol.parts ++ [{ p with segs := f.seg :: p.segs }] ∧
      (s.poolOf 1 ≠ none → t.bytes (p.buf + 1980 * f.seg) f.data.length = f.data) ∧
      (∀ a, a < p.buf + 1980 * f.seg ∨ p.buf + 1980 * f.seg + f.data.length ≤ a → t.byte a = t1.byte a) ∧
      t.vol.arrivals = s.vol.arrivals ∧ t.ctxs = s.ctxs) ∧
    (segments p.len ≤ p.segs.length + 1 → p.inst = s.openInst p.half.val → (s.arrival p.half.val p.origin).taken = false →
      ∃ t, exec .copySegment s = .next t ∧ (t.arrival p.half.val p.origin).taken = true ∧
        (t.arrival p.half.val p.origin).cnt = (s.arrival p.half.val p.origin).cnt + 1 ∧
        (f.origin, f.pid) ∈ t.vol.dups ∧ t.vol.parts = t1.vol.parts)) ∧
  (∀ (s t0 : State) (f : Frame) (h o : Nat) (b : BitVec 14) (g : BitVec 2), s.takeRx 5 = some (f, t0) → h = f.half.val → o = f.origin →
    b = BitVec.ofNat 14 (fieldLe f.inline_ 0 2) → g = BitVec.ofNat 2 (fieldLe f.inline_ 2 1) →
    (f.inst = s.openInst h → ((s.arrival h o).taken = false ∨ (s.arrival h o).batch = b ∧ (s.arrival h o).gen = g) →
      ∃ t, exec .eohPacket s = .next t ∧ (t.arrival h o).taken = true ∧ (t.arrival h o).batch = b ∧ (t.arrival h o).gen = g ∧
        (t.arrival h o).eohSeen = true ∧ (t.arrival h o).eohCnt = fieldLe f.inline_ 4 4 ∧
        (t.arrival h o).cnt = (s.arrival h o).cnt ∧ t.mem = s.mem) ∧
    (f.inst = s.openInst h + 1 → ∃ t, exec .eohPacket s = .next t ∧ t.vol.arrivals = s.vol.arrivals ∧
      t.vol.earlyEoh = s.vol.earlyEoh ++ [⟨false, f.half, o, b, g, fieldLe f.inline_ 4 4, (s.queuedCopies (s.earlyQueue h)).map (·.2.2)⟩]) ∧
    (f.inst ≠ s.openInst h → f.inst ≠ s.openInst h + 1 → ∃ t, exec .eohPacket s = .next t ∧ t.vol.arrivals = s.vol.arrivals ∧
      t.reg 0x0B0044 = s.reg 0x0B0044 + 1)) ∧
  (∀ (s t0 : State) (f : Frame) (h o : Nat) (b : BitVec 14) (g : BitVec 2), s.takeRx 6 = some (f, t0) → h = f.half.val → o = f.origin →
    b = BitVec.ofNat 14 (fieldLe f.inline_ 0 2) → g = BitVec.ofNat 2 (fieldLe f.inline_ 2 1) → f.inst = s.openInst h →
    ((s.arrival h o).taken = false → ∃ t, exec .discardPacket s = .next t ∧
      t.arrival h o = { s.arrival h o with taken := true, batch := b, gen := g } ∧ t.mem = s.mem) ∧
    ((s.arrival h o).taken = true → (s.arrival h o).batch = b → g = (s.arrival h o).gen + 1 →
      ∃ t, exec .discardPacket s = .next t ∧ t.arrival h o = { s.arrival h o with gen := g, cnt := 0, eohSeen := false } ∧
        t.mem = s.mem) ∧
    ((s.arrival h o).taken = true → (s.arrival h o).batch ≠ b → ∃ t, exec .discardPacket s = .next t ∧
      t.vol.arrivals = s.vol.arrivals ∧ t.mem = s.mem)) ∧
  (∀ (s : State) (o : Fin 8192) (pid : Word),
    exec (.dupFilterExpiry o pid) s = .next { s with vol := { s.vol with dups := s.vol.dups.erase (o.val, pid) } } ∧
    (∀ p, s.vol.parts.find? (fun p => decide (p.origin = o.val) && decide (p.pid = pid)) = some p →
      ∃ t, exec (.partialTimeout o pid) s = .next t ∧ t.vol.parts = s.vol.parts.erase p ∧
        t.reg 0x0B004C = s.reg 0x0B004C + 1 ∧ (p.kind ≠ 1 → t.mem = s.mem ∧ t.ref.faults = s.ref.faults ++
          [⟨0x09, some p.half, 0, 0xFFFF, BitVec.ofNat 64 (pid.toNat + 2 ^ 32 * o.val), false⟩]))) ∧
  (∀ (s : State) (h : Half) (o : Fin 8192), (s.arrival h.val o.val).eohSeen = true →
    ((s.arrival h.val o.val).cnt < (s.arrival h.val o.val).eohCnt → ∃ t, exec (.conservationTimeout h o) s = .next t ∧
      t.reg 0x0B0050 = s.reg 0x0B0050 + 1 ∧ t.vol.arrivals = s.vol.arrivals ∧ t.mem = s.mem) ∧
    ((s.arrival h.val o.val).eohCnt ≤ (s.arrival h.val o.val).cnt → exec (.conservationTimeout h o) s = .next s))

/-- Inline packets (R52, R250, R266, R270, R351, R352). SIGNAL_PACKET completes: a remote signal under a new sequence, for an object from 28,672 on,
adds its amount once; one for an object below is counted and adds nothing; one seen before or too old adds nothing. SIGACK completes, outside a
replay: it ends the REMOTE.SIGNAL with OK; so does REMOTE_SIGNAL_TIMEOUT, with TIMEOUT, which is the last code of a context that is not on
its way to FREE. SIGNAL_RESEND_TIMEOUT completes: a signal not acknowledged goes out again and is counted. FAULTN_PACKET completes: it reports a
fault of its half for the batch and generation in force only. PSTATE_PACKET completes: it replaces the sender's reach entry. DIGEST_PACKET completes:
an empty digest does nothing, one with no entry to meet waits. PC_PARTNER_TIMEOUT completes: a digest that its partner never met is dropped
with a flag. -/
def Obligations.InlinePackets : Prop :=
  (∀ (s t0 : State) (f : Frame) (k n : Nat) (w : SigWin), s.takeRx 3 = some (f, t0) → n = fieldLe f.inline_ 0 4 % 32768 →
    (Tab.get SigWin.reset s.vol.wins f.origin).take (BitVec.ofNat 16 (fieldLe f.inline_ 4 2)) = (k, w) →
    ∃ t, exec .signalPacket s = .next t ∧ Tab.get SigWin.reset t.vol.wins f.origin = w ∧
      (k = 0 → 28672 ≤ n → (s.obj n).cnt.toNat + bitsOf (fieldLe f.inline_ 0 4) 31 15 < 2 ^ 32 →
        (t.obj n).cnt.toNat = (s.obj n).cnt.toNat + bitsOf (fieldLe f.inline_ 0 4) 31 15 ∧ ∀ m, m ≠ n → t.obj m = s.obj m) ∧
      (k = 0 → n < 28672 → t.sync = s.sync ∧ t.reg 0x0B0064 = s.reg 0x0B0064 + 1) ∧ (k ≠ 0 → t.sync = s.sync) ∧ t.mem = s.mem) ∧
  (∀ (s t0 : State) (f : Frame) (g : SigOut), s.takeRx 4 = some (f, t0) → s.ref.replay = false →
    s.vol.sigs.find? (fun g => decide (g.seq = BitVec.ofNat 16 (fieldLe f.inline_ 4 2)) && decide (g.dest = f.origin)) = some g →
    ∃ t, exec .sigack s = .next t ∧ t.vol.sigs = s.vol.sigs.erase g ∧ (t.ctx g.c).last = codeOk ∧
      (∀ d, d ≠ g.c.val → t.ctx d = s.ctx d)) ∧
  (∀ (s : State) (g : SigOut), (∀ c : Ctx, s.ref.replay = false → s.vol.sigs.find? (fun g => decide (g.c = c)) = some g →
      ∃ t, exec (.remoteSignalTimeout c) s = .next t ∧ t.vol.sigs = s.vol.sigs.erase g ∧
        ((s.ctx c).drain ≠ .toFree → (t.ctx c).last = codeTimeout) ∧ (∀ d, d ≠ c.val → t.ctx d = s.ctx d)) ∧
    (∀ q : BitVec 16, s.vol.sigs.find? (fun g => decide (g.seq = q)) = some g → ∃ t, exec (.signalResendTimeout q) s = .next t ∧
      t.reg 0x0B0058 = s.reg 0x0B0058 + 1 ∧ t.vol.sigs = s.vol.sigs ∧ t.ctxs = s.ctxs ∧
      (g.dest = s.chip → s.loopFull 1 = false → t.vol.rx = s.vol.rx ++ [(none, s.signalFrame g)]))) ∧
  (∀ (s t0 : State) (f : Frame), s.takeRx 7 = some (f, t0) → ∃ t, exec .faultnPacket s = .next t ∧ t.mem = s.mem ∧
    t.ref.faults = (if fieldLe f.inline_ 0 2 = (s.batch f.half.val).toNat ∧ fieldLe f.inline_ 2 1 = (s.gen f.half.val).toNat then
      s.ref.faults ++ [⟨0x0E, some f.half, 0, 0xFFFF, 0, false⟩] else s.ref.faults)) ∧
  (∀ (s t0 : State) (f : Frame), s.takeRx 8 = some (f, t0) → ∃ t, exec .pstatePacket s = .next t ∧
    t.reach f.origin = BitVec.ofNat 64 (fieldLe f.inline_ 0 8) ∧ (∀ d, d ≠ f.origin → t.reach d = s.reach d) ∧ t.mem = s.mem) ∧
  (∀ (s t0 : State) (f : Frame), s.takeRx 9 = some (f, t0) →
    (bitOf (fieldLe f.inline_ 9 1) 1 = true → exec .digestPacket s = .next t0) ∧
    (bitOf (fieldLe f.inline_ 9 1) 1 = false → s.ref.compares.length < 128 → (∀ e ∈ s.ref.compares, e.mine = false) →
      ∃ t, exec .digestPacket s = .next t ∧ t.mem = s.mem ∧ t.ref.compares = s.ref.compares ++
        [⟨false, BitVec.ofNat 64 (fieldLe f.inline_ 0 8), fieldLe f.inline_ 8 1, (BitVec.ofNat 1 (fieldLe f.inline_ 9 1)).toFin,
          BitVec.ofNat 32 (fieldLe f.inline_ 12 4), BitVec.ofNat 64 (fieldLe f.inline_ 16 8)⟩])) ∧
  (∀ (s : State) (q : DWord) (u : Fin 8) (h : Half) (e : Compare),
    s.ref.compares.find? (fun e => decide (e.d.step = q) && decide (e.d.unit = u.val) && decide (e.d.half = h)) = some e →
    ∃ t, exec (.pcPartnerTimeout q u h) s = .next t ∧ t.fld 0x2000 14 14 = 1 ∧
      t = { s with regs := t.regs, ref := { s.ref with compares := s.ref.compares.erase e } })

/-- Send lists and EOH (R251, R252, R265). SEND_LIST_BUILD completes: the list builder takes one whole packet of the oldest VOLLEY with entries left;
with no poisoned line in the stacks it goes out under the next packet id and counts for its destination; one of another kind is malformed, counted
and flagged, and goes nowhere. EOH_SEND completes: once every copy of a half's bank has gone, each chip is sent its count, this one by the
loopback while the receive store has room, the send instance advances, the counts begin again and the bank is done with; before that nothing
happens. VOL_INSTCLR completes while the engine is idle, and clears the instances; otherwise it is refused as OFFSIDE. -/
def Obligations.SendLists : Prop :=
  (∀ (s : State) (j : VJob) (ws : List QWord) (d h : Nat), s.vol.jobs.find? (fun j => decide (j.sent.length < j.total)) = some j →
    s.peekPacket j.queue = some ws → d = bitsOf (fieldLe (ws.flatMap fun w => lineBytes w.data) 40 8) 28 16 →
    h = (tagOf (fieldLe (ws.flatMap fun w => lineBytes w.data) 0 12)).half % 2 →
    ((∀ w ∈ ws, w.kind = 6) → d < s.sysSize → s.mp.poison = [] → s.mp.lostCh = [] → ∃ t, exec .sendListBuild s = .next t ∧ t.vol.pid = s.vol.pid + 1 ∧
      Tab.get 0 t.vol.destCnt (8192 * h + d) = Tab.get 0 s.vol.destCnt (8192 * h + d) + 1 ∧
      (t.hbank h).unsent = (s.hbank h).unsent - 1 ∧ t.ctxs = s.ctxs) ∧
    ((∃ w ∈ ws, w.kind ≠ 6) → ∃ t, exec .sendListBuild s = .next t ∧ t.vol.pid = s.vol.pid ∧ t.vol.destCnt = s.vol.destCnt ∧
      t.reg 0x090300 = s.reg 0x090300 + 1 ∧ t.fld 0x2000 9 9 = 1 ∧ t.ctxs = s.ctxs)) ∧
  (∀ (s : State) (h : Half), ((s.hbank h.val).open_ = true → (s.hbank h.val).unsent = 0 → ∃ t, exec (.eohSend h) s = .next t ∧
      (t.hbank h.val).open_ = false ∧ t.vol.sendInst = s.vol.sendInst.set h.val (s.sendInst h.val + 1) ∧
      t.vol.eohLeft = s.vol.eohLeft.set h.val true ∧ (∀ d < 8192, Tab.get 0 t.vol.destCnt (8192 * h.val + d) = 0) ∧
      (s.chip < s.sysSize → s.loopFull 1 = false → (none, s.inlineFrame s.chip 5 h (s.sendInst h.val)
        (natLe 2 (s.hbank h.val).batch.toNat ++ natLe 2 (s.hbank h.val).gen.toNat ++
          natLe 4 (Tab.get 0 s.vol.destCnt (8192 * h.val + s.chip)))) ∈ t.vol.rx) ∧ t.mem = s.mem ∧ t.ctxs = s.ctxs) ∧
    ((s.hbank h.val).open_ = false ∨ (s.hbank h.val).unsent ≠ 0 → exec (.eohSend h) s = .next s)) ∧
  (∀ s : State, HostReady s 0x0B002C →
    (s.idle = true → ∃ t, exec .volInstclr s = .next t ∧ WriteCode t 0x0B002C codeOk ∧ t.vol.openInst = [0, 0] ∧
      t.vol.sendInst = [0, 0] ∧ t.vol.arrivals = [] ∧ t.vol.reach = [] ∧ t = { acked s with regs := t.regs, vol := t.vol }) ∧
    (s.idle = false → ∃ t, exec .volInstclr s = .next t ∧ WriteCode t 0x0B002C codeOffside ∧ t = { acked s with regs := t.regs }))

/-! ## Rebound, the scout and the Referee (R199 to R201, R279 to R289, R338, R352 to R360) -/

/-- Answers and results (R279, R282, R283, R286, R287, R289). ANSWER_SEGMENT completes: a segment that passes the checks of its slot is
kept; the last one of an answer, with the token's sum open, no COMBINE of the half running and the half in Flow order, adds the weighted
answer to the sum; one for a slot that is free is counted once and dropped; with none received nothing happens. RESULT_EMISSION completes:
at the emission pointer a token with every choice dropped gives a row of zeros, counted, and its slot is released; with no COMBINE running
nothing happens. REB_CANCEL completes: it ends every OPEN slot of its batch and no other slot. -/
def Obligations.AnswersAndResults : Prop :=
  (∀ (s t0 : State) (f : Frame) (g : TagRec) (n : Nat) (r : RSlot) (p : Part), s.takeRx 2 = some (f, t0) → g = f.tag → n = g.slot →
    r = s.rslot n → (t0.answerPart f).1 = p →
    (r.st = .free → p.buf ≠ 1 → ∃ t, exec .answerSegment s = .next t ∧ t.reg 0x0C0040 = s.reg 0x0C0040 + 1 ∧
      t.rslot n = r ∧ t.mem = s.mem) ∧
    (r.st = .open_ → r.half.val = g.half % 2 → r.batch = g.batch → r.gen = g.gen → r.known = true → r.adm.getLsbD g.choice = true →
      r.seen.getLsbD g.choice = false → (∀ a, r.answerOf g.choice = some a → f.seg ∉ a.segs) →
      ((keepSegment r g f).segs.length < segments (keepSegment r g f).len → p.segs.length + 1 < segments p.len →
        ∃ t, exec .answerSegment s = .next t ∧ t.rslot n = r.putAnswer (keepSegment r g f) ∧ t.mem = s.mem ∧
          (∀ m, m ≠ n → t.rslot m = s.rslot m)) ∧
      (∀ l, segments (keepSegment r g f).len ≤ (keepSegment r g f).segs.length → r.acc = some l → s.orderedAdds r.half.val = false →
        s.combineOf r.half.val = none → ∃ t, exec .answerSegment s = .next t ∧
          (t.rslot n).acc = some (accAdd l (s.weighted (keepSegment r g f))) ∧ (t.rslot n).done = withBit r.done g.choice ∧
          (t.rslot n).seen = withBit r.seen g.choice ∧ t.mem = s.mem ∧ (∀ m, m ≠ n → t.rslot m = s.rslot m)))) ∧
  (∀ s : State, s.takeRx 2 = none → exec .answerSegment s = .next s) ∧
  (∀ (s : State) (h : Half), s.combineOf h.val = none → exec (.resultEmission h) s = .next s) ∧
  (∀ (s : State) (h : Half) (u : UCmd) (n row : Nat), s.combineOf h.val = some u → s.reb.eptr.getD h.val 0 = row →
    s.reb.eptr.length = 2 → s.reb.emitted.length = 2 → row < s.takenOf h.val → s.rowOpen h.val row = some n →
    (s.rslot n).known = true → (s.rslot n).adm = 0 → (s.rslot n).resAddr = none → s.ref.emitted.getD h.val 0 ≤ row → s.flow = [] →
    ∃ t, exec (.resultEmission h) s = .next t ∧ t.reb.eptr.getD h.val 0 = row + 1 ∧ t.rslot n = RSlot.reset ∧
      t.reb.emitted.getD h.val 0 = s.reb.emitted.getD h.val 0 + 1 ∧ t.reg 0x0C0054 = s.reg 0x0C0054 + 1 ∧
      t.reg 0x0C0058 = s.reg 0x0C0058 + 1 ∧
      t.bytes ((u.descA.rowRuns row).headD 0) (u.descA.ext 0 * unitSize u.descA.fmt) =
        List.replicate (u.descA.ext 0 * unitSize u.descA.fmt) 0 ∧ t.ctxs = s.ctxs) ∧
  (∀ (s : State) (b : BitVec 14), HostReady s 0x0C0020 → Tab.rising none s.reb.slots = true →
    ∃ t, exec (.rebCancel b) s = .next t ∧ WriteCode t 0x0C0020 codeOk ∧
      (∀ n, (s.rslot n).st = .open_ → (s.rslot n).batch = b → (t.rslot n).st ≠ .open_) ∧
      (∀ n, (s.rslot n).st ≠ .open_ ∨ (s.rslot n).batch ≠ b → t.rslot n = s.rslot n) ∧ t.mem = s.mem ∧ t.ctxs = s.ctxs)

/-- The scout's events (R198 to R202, R208). SCOUT_BIN_READY completes: a ready bin that is first in turn has its row delivered once its
expert's weights are staged; a bin that is not first, is not ready or waits for its weights changes nothing. STAGING_LOAD_COMPLETE
completes: the expert's WIDX rows as they stand are staged beside at most one other expert's, those in use among them, and nothing else
changes. AUDIT_REPORT completes: a report that meets its entry takes the entry away, real mispredictions and conservative blocks counted;
one without an entry is counted and changes no entry; a packet of another kind is malformed, counted and flagged. -/
def Obligations.ScoutEvents : Prop :=
  (∀ (s : State) (e : Fin 4096) (u : UCmd) (b : Bin) (bs : List Bin), s.scoutCmd = some u → s.scout.bins = b :: bs →
    (b.expert ≠ e.val ∨ b.ready = false ∨ s.binWaits u b = true → exec (.scoutBinReady e) s = .next s) ∧
    (∀ r, b.expert = e.val → b.ready = true → s.binWaits u b = false → b.rows = [r] → s.flowing u.queue = false →
      ∃ t, exec (.scoutBinReady e) s = .next t ∧ t.scout.rows = s.scout.rows + 1 ∧ t.ctxs = s.ctxs ∧
        (u.chainA = false → u.chainC = false → u.descA.vext ≤ u.n1 → (∀ x ∈ bs, x.ready = true) → t.scout.bins = bs)) ∧
    ((∃ x ∈ b :: bs, x.expert = e.val) → s.hasPredictor u e.val = true → s.stagedRows e.val u.epoch = none → s.lostInput u = none →
      ∃ t, exec (.stagingLoadComplete e) s = .next t ∧ t.stagedRows e.val u.epoch = some (s.predictorRows u e.val) ∧
        t.scout.staging.length ≤ 2 ∧
        ((s.stagedRows b.expert u.epoch).isSome = true → t.stagedRows b.expert u.epoch = s.stagedRows b.expert u.epoch) ∧
        t = { s with scout := { s.scout with staging := t.scout.staging } })) ∧
  (∀ (s : State) (e : Fin 4096), s.scoutCmd = none → exec (.scoutBinReady e) s = .next s ∧ exec (.stagingLoadComplete e) s = .next s) ∧
  (∀ (s : State) (q : Nat) (ws : List QWord) (bytes : List Byte) (m : Audit → Bool), q = s.fld 0x08002C 11 0 →
    s.fld 0x08002C 15 15 = 1 → (s.queue q).cls = .ret → s.peekPacket q = some ws → bytes = ws.flatMap (fun w => lineBytes w.data) →
    (s.queue q).mid = [] → (s.queue q).tail = [] → (s.queue q).blks = [] →
    (∀ a, m a = (decide (a.num = leNat (bytes.take 2)) && decide (a.nb = leNat ((bytes.drop 2).take 2)) &&
      decide (a.tag.toNat = leNat ((bytes.drop 4).take 12)))) →
    ((∀ w ∈ ws, w.kind = 3) → s.scout.audits.find? m = none → ∃ t, exec .auditReport s = .next t ∧ t.scout = s.scout ∧
      t.reg 0x080024 = s.reg 0x080024 + 1 ∧ t.mem = s.mem) ∧
    (∀ (a : Audit) (miss : Nat), (∀ w ∈ ws, w.kind = 3) → s.scout.audits.find? m = some a →
      miss = (a.mask.zipIdx.filter fun p => !p.1 && bitOf (bytes.getD (64 + p.2 / 8) 0).toNat (p.2 % 8)).length →
      ∃ t, exec .auditReport s = .next t ∧ t.scout.audits = s.scout.audits.erase a ∧
        t.audMiss = Min.min (s.audMiss + miss) (2 ^ 48 - 1) ∧
        t.reg 0x080020 = s.reg 0x080020 + BitVec.ofNat 32
          (a.mask.zipIdx.filter fun p => p.1 && !bitOf (bytes.getD (64 + p.2 / 8) 0).toNat (p.2 % 8)).length ∧ t.mem = s.mem) ∧
    ((∃ w ∈ ws, w.kind ≠ 3) → ∃ t, exec .auditReport s = .next t ∧ t.scout = s.scout ∧ t.reg 0x090300 = s.reg 0x090300 + 1 ∧
      t.fld 0x2000 9 9 = 1 ∧ t.mem = s.mem))

/-- Faults of a half (R353, R357 to R360). WATCHDOG_EXPIRY completes: it reports a fault of the half of a command without progress, or of a
context with a ready instruction; a sequencer that fails its test is recorded with action 5 where a bench unit is free. EARLY_FAULT_RECOVERY
and LATE_FAULT complete: each takes in what a checker has found, which is masked and counted, or reported, and then: an early fault is
recorded with its interrupt, and the half is discarded: its commands are gone, its generation advances, the engine is in recovery and a
replay is due; a fourth discard in a step is a step loss instead. A late fault sets REPAIR and takes the whistles away; a step loss also
ends recovery and replay, and halts every context of the step group. REPLAY completes: it takes the contexts of the step group back to
their checkpoints, their status standing; one that is not due or is held does nothing. -/
def Obligations.FaultRecovery : Prop :=
  (∀ (s : State) (c : Ctx) (k : BitVec 16) (ok : Bool) (u : UCmd),
    (s.cmd c k = some u → u.started = true → u.result = none → exec (.watchdogExpiry (.command c k) ok) s = .next
      (s.report ⟨0x08, u.half, 0, 0xFFFF, 0, !ok && !benched u.op⟩)) ∧
    (s.atIssue c = true → ∀ r, r = ⟨0x08, none, s.seqItem (c.val / 4), BitVec.ofNat 16 (c.val / 4), 0, false⟩ →
      exec (.watchdogExpiry (.context c) true) s = .next (s.report r) ∧
      (s.freeBench .sequencer = none → exec (.watchdogExpiry (.context c) false) s = .next s) ∧
      (s.freeBench .sequencer ≠ none → exec (.watchdogExpiry (.context c) false) s = .next (s.faultRecord r 5))) ∧
    (s.atIssue c = false → exec (.watchdogExpiry (.context c) ok) s = .next s)) ∧
  (∀ (s : State) (h : Half) (f : Found), exec (.earlyFaultRecovery ⟨h, f⟩) s = exec (.earlyFaultRecovery ⟨h, .nothing⟩) (s.found f) ∧
    exec (.lateFault ⟨h, f⟩) s = exec (.lateFault ⟨h, .nothing⟩) (s.found f) ∧
    (s.found .single).ref.masked = Tab.upd 0 s.ref.masked 1 (fun v => (v + 1) % 2 ^ 32) ∧
    (s.found .repeated).ref.masked = Tab.upd 0 s.ref.masked 3 (fun v => (v + 1) % 2 ^ 32) ∧
    (s.found .refetched).ref.masked = Tab.upd 0 s.ref.masked 6 (fun v => (v + 1) % 2 ^ 32) ∧
    s.found (.double h) = s.report ⟨0x02, some h, 0, 0xFFFF, 0, false⟩ ∧ s.found .doubleShared = s.report ⟨0x02, none, 0, 0xFFFF, 0, true⟩ ∧
    (∃ d, (s.found (.unconserved h)).ref.faults = s.ref.faults ++ [⟨0x04, some h, 0, 0xFFFF, d, false⟩]) ∧
    (s.ref.faults = [] → exec (.earlyFaultRecovery ⟨h, .nothing⟩) s = .next s ∧ exec (.lateFault ⟨h, .nothing⟩) s = .next s)) ∧
  (∀ (s : State) (h : Half) (r : FaultRep), (∀ x ∈ s.ref.faults, x.half ≠ none ∨ x.lost = true) → s.repsOf h = [r] →
    r.mech.toNat < 16 → s.eohGone h = false → s.ref.replay = false → s.ref.replayDue = false →
    (s.ref.discards.getD h.val 0 < 3 → ∃ t, exec (.earlyFaultRecovery ⟨h, .nothing⟩) s = .next t ∧ t.ref.recov = true ∧
      t.ref.replayDue = true ∧ t.ref.rehalves = [h] ∧ t.ref.gens = s.ref.gens.set h.val (s.gen h.val + 1) ∧
      (∀ u ∈ t.ucmds, u.half ≠ some h) ∧ t.ref.fseq = (if s.ref.fseq = 0xFFFFFFFF#32 then 1 else s.ref.fseq + 1) ∧
      t.fld 0x2800 3 3 = 1 ∧ t.ctxs = s.ctxs ∧
      (s.hud.resv = [] → s.vol.resv = [] → s.vol.jobs = [] → (∀ q, (s.queue q).mid = [] ∧ (s.queue q).blks = []) → t.mem = s.mem)) ∧
    (3 ≤ s.ref.discards.getD h.val 0 → ∃ t, exec (.earlyFaultRecovery ⟨h, .nothing⟩) s = .next t ∧
      t = { s with ref := { s.ref with faults := t.ref.faults } } ∧
      ∀ x ∈ t.ref.faults, x.half = some h → x.lost = true)) ∧
  (∀ s : State, (s.ref.replayDue = false ∨ s.ref.heldFor ≠ [] ∨ s.kick.nvsq ≠ [] → exec .replay s = .next s) ∧
    (s.ref.replayDue = true → s.ref.heldFor = [] → s.kick.nvsq = [] → ∃ t, exec .replay s = .next t ∧ t.ref.recov = false ∧ t.ref.replayDue = false ∧
      (∀ c k, c ∈ s.group → Tab.get none s.ref.check c = some k →
        t.ctx c = { k with last := (s.ctx c).last, first := (s.ctx c).first, firstPc := (s.ctx c).firstPc }) ∧
      (∀ c, c ∉ s.group → t.ctx c = s.ctx c) ∧ (∀ u ∈ t.ucmds, ∀ g ∈ s.ref.rehalves, u.half ≠ some g) ∧
      (s.hud.resv = [] → s.vol.resv = [] → t.mem = s.mem))) ∧
  (∀ (s : State) (h : Half), (∀ x ∈ s.ref.faults, x.half ≠ none ∨ x.lost = true) →
    ((∀ x ∈ s.ref.faults, x.lost = false) → s.repsOf h ≠ [] → s.eohGone h = true →
      ∃ t, exec (.lateFault ⟨h, .nothing⟩) s = .next t ∧ t.ref.repair = true ∧ t.standing = 0 ∧ t.ctxs = s.ctxs ∧ t.mem = s.mem) ∧
    ((∃ x ∈ s.ref.faults, x.lost = true) → ∃ t, exec (.lateFault ⟨h, .nothing⟩) s = .next t ∧ t.ref.repair = true ∧ t.standing = 0 ∧
      t.ref.recov = false ∧ t.ref.replayDue = false ∧ t.ref.replay = false ∧
      (∀ c ∈ s.group, (t.ctx c).st = .halted ∨ (t.ctx c).drain = .toHalted) ∧ t.mem = s.mem))

/-- A unit with a bench fails (R338). UNIT_SUBSTITUTION completes: for a tile or a sequencer that its checks declare failed, the lowest free
bench unit that passes its test takes the logical index, and the failed unit is marked out; a bench unit that fails its own test is marked
out and takes nothing; with none free the step is lost, reported under the mechanism that found the failure. REPAIR_CLEAR completes: REPAIR
is cleared once every context of the step group is in STEPWAIT, and refused as OFFSIDE before; PC_DIVCLR completes: it clears the divergence
registers at any time (R352, R368). -/
def Obligations.SubstitutionAndRepair : Prop :=
  (∀ (s : State) (u : UnitClass) (i : Fin 64) (why : UnitFail) (m : Byte) (cls n b0 k w : Nat), u ≠ .linkPort →
    s.classOf u = (cls, n, b0, k, w) → i.val < n → failCode u why = some m →
    (∀ b, s.freeBench u = some b → s.physUnit cls i < 68 → (∃ t, exec (.unitSubstitution u i ⟨why, true⟩) s = .next t ∧
        t.physUnit cls i = b ∧ t.marked w (s.physUnit cls i) = true ∧ (u = .sequencer → t.ref.replayDue = true) ∧ t.mem = s.mem ∧
        t.ctxs = s.ctxs) ∧
      (∃ t, exec (.unitSubstitution u i ⟨why, false⟩) s = .next t ∧ t.marked w b = true ∧ t.ref = s.ref ∧ t = { s with kick := t.kick })) ∧
    (s.freeBench u = none → ∀ ok, exec (.unitSubstitution u i ⟨why, ok⟩) s = .next
      (s.report ⟨m, none, BitVec.ofNat 16 (4096 * cls + s.physUnit cls i.val), BitVec.ofNat 16 i.val, 0, true⟩))) ∧
  (∀ s : State, HostReady s 0x0E010C →
    ((∀ c ∈ s.group, (s.ctx c).st = .stepwait) → ∃ t, exec .repairClear s = .next t ∧ WriteCode t 0x0E010C codeOk ∧
      t = { acked s with regs := t.regs, ref := { s.ref with repair := false } }) ∧
    ((∃ c ∈ s.group, (s.ctx c).st ≠ .stepwait) → ∃ t, exec .repairClear s = .next t ∧ WriteCode t 0x0E010C codeOffside ∧
      t = { acked s with regs := t.regs })) ∧
  (∀ s : State, HostReady s 0x0E0158 → ∃ t, exec .pcDivclr s = .next t ∧ WriteCode t 0x0E0158 codeOk ∧
    t = { acked s with regs := t.regs, ref := { s.ref with divValid := false, divUnit := 0, divHalf := 0, divStep := 0 } })

/-- A COPY that meets an idle memory unit and passes its checks, from a plain tensor of rank 2 to another of the same format and row
length, neither tracked, with no poisoned line (R87, R92, R113): every byte of the destination's valid rows is the source's byte of the
same row as it stood before, no other byte of memory changes, and the command has its result, OK. -/
def Obligations.CopyMovesRows : Prop :=
  ∀ (s : State) (c : Ctx) (f : Fields) (u : UCmd) (a b : Desc), Issues s c (.copy c f) → Journals s c → u = s.newCmd c (.copy c f) f →
    a = u.descA → b = u.descB → (∀ v ∈ s.ucmds, unitOf v.op = 12 → v.result ≠ none) → s.issueCode u = none → copyCheck s u = none →
    s.lostInput u = none → s.mp.poison = [] → s.mp.lostCh = [] → a.trk = false → b.trk = false → a.rank = 2 → b.rank = 2 →
    a.sblk = 0 → b.sblk = 0 → isElem a.fmt = true → a.fmt = b.fmt → a.ext 0 = b.ext 0 → b.vext ≤ a.vext → b.vext ≤ a.ext 1 →
    b.runBytes ≤ b.str 1 →
    ∃ t, exec (.copy c f) s = .next t ∧
      (∀ r < b.vext, ∀ j < b.runBytes, t.byte (b.base + r * b.str 1 + j) = s.byte (a.base + r * a.str 1 + j)) ∧
      (∀ x, (∀ r < b.vext, x < b.base + r * b.str 1 ∨ b.base + r * b.str 1 + b.runBytes ≤ x) → t.byte x = s.byte x) ∧
      (∃ v ∈ t.ucmds, v.c = c ∧ v.serial = u.serial ∧ ∃ r, v.result = some r ∧ r.code = codeOk) ∧
      (∀ d, d ≠ c.val → t.ctx d = s.ctx d) ∧ t.sync = s.sync

/-- With no command waiting a step is one FCLK of the block (the model's choice, log entry 5). On a block where nothing is at work it ends
the recovery state, drives FC_HOLD, takes HW_ACK and SPM_OUT back, and changes nothing else. -/
def Obligations.IdleStep : Prop :=
  ∀ s : State, s.pending = [] → s.ucmds = [] → s.queues = [] → s.flow = [] → s.vol.stuck = [] → s.ref.faults = [] →
    s.adm.stalled = false → s.scout.bins = [] → s.mp.rq = [] → s.mp.holdq = [] → s.mp.wait = [] → s.mp.maint = [] →
    ∃ t, step s = .next t ∧ t = { s with ref := { s.ref with recov := false }
                                         pins := { s.pins with fcHold := t.pins.fcHold, hwAck := false, spmOut := false } }
end

