-- ==== Sys2Proof/Laws/Table.lean ====
section
/-! SUPPORT. The laws of a sparse table: a read after a write, and the canonical form, which every write keeps. -/

namespace Sys2Proof.Machine

variable {α : Type}

/-! ### Strictly rising indices -/

theorem Tab.rising_weaken {lo hi : Option Nat} {t : Tab α} (h : Tab.rising hi t = true)
    (hlo : ∀ l, lo = some l → ∃ k, hi = some k ∧ l ≤ k) : Tab.rising lo t = true := by
  cases t with
  | nil => rfl
  | cons e t =>
    obtain ⟨i, a⟩ := e
    simp only [Tab.rising, Bool.and_eq_true] at h ⊢
    refine ⟨?_, h.2⟩
    cases lo with
    | none => rfl
    | some l =>
      obtain ⟨k, rfl, hk⟩ := hlo l rfl
      have := h.1
      simp only [decide_eq_true_eq] at this ⊢
      omega

theorem Tab.rising_tail {lo : Option Nat} {i : Nat} {a : α} {t : Tab α}
    (h : Tab.rising lo ((i, a) :: t) = true) : Tab.rising (some i) t = true := by
  simp only [Tab.rising, Bool.and_eq_true] at h
  exact h.2

/-! ### Reads after writes -/

theorem Tab.get_put_same (d : α) (t : Tab α) (k : Nat) (v : α) : Tab.get d (Tab.put t k v) k = v := by
  induction t with
  | nil => simp [Tab.put, Tab.get]
  | cons e t ih =>
    obtain ⟨i, a⟩ := e
    unfold Tab.put
    split
    · simp [Tab.get]
    · split
      · simp [Tab.get]
      · rename_i h _
        simp [Tab.get, h, ih]

theorem Tab.get_put_other (d : α) (t : Tab α) {k j : Nat} (v : α) (h : j ≠ k) :
    Tab.get d (Tab.put t k v) j = Tab.get d t j := by
  induction t with
  | nil => simp [Tab.put, Tab.get, h.symm]
  | cons e t ih =>
    obtain ⟨i, a⟩ := e
    unfold Tab.put
    split
    · rename_i hi
      have : ¬ i = j := by omega
      simp [Tab.get, h.symm, this]
    · split
      · simp [Tab.get, h.symm]
      · simp [Tab.get, ih]

theorem Tab.get_drop_other (d : α) (t : Tab α) {k j : Nat} (h : j ≠ k) :
    Tab.get d (Tab.drop t k) j = Tab.get d t j := by
  induction t with
  | nil => rfl
  | cons e t ih =>
    obtain ⟨i, a⟩ := e
    unfold Tab.drop
    split
    · rename_i hi
      have : ¬ i = j := by omega
      simp [Tab.get, this, ih]
    · simp [Tab.get, ih]

theorem Tab.get_drop_same (d : α) (t : Tab α) (k : Nat) : Tab.get d (Tab.drop t k) k = d := by
  induction t with
  | nil => rfl
  | cons e t ih =>
    obtain ⟨i, a⟩ := e
    unfold Tab.drop
    split
    · exact ih
    · rename_i hi
      simp only [Tab.get, if_neg hi, ih]

/-! ### The canonical form under removal and insertion -/

theorem Tab.rising_drop {lo : Option Nat} {t : Tab α} {k : Nat} (h : Tab.rising lo t = true) :
    Tab.rising lo (Tab.drop t k) = true := by
  induction t generalizing lo with
  | nil => rfl
  | cons e t ih =>
    obtain ⟨i, a⟩ := e
    have ht := Tab.rising_tail h
    unfold Tab.drop
    simp only [Tab.rising, Bool.and_eq_true] at h
    split
    · refine Tab.rising_weaken (ih ht) ?_
      intro l hl
      subst hl
      have := h.1
      simp only [decide_eq_true_eq] at this
      exact ⟨i, rfl, by omega⟩
    · simp only [Tab.rising, Bool.and_eq_true]
      exact ⟨h.1, ih ht⟩

theorem Tab.rising_put {lo : Option Nat} {t : Tab α} {k : Nat} {v : α} (h : Tab.rising lo t = true)
    (hk : ∀ l, lo = some l → l < k) : Tab.rising lo (Tab.put t k v) = true := by
  induction t generalizing lo with
  | nil =>
    simp only [Tab.put, Tab.rising, Bool.and_true]
    cases lo with
    | none => rfl
    | some l => simpa using hk l rfl
  | cons e t ih =>
    obtain ⟨i, a⟩ := e
    have ht := Tab.rising_tail h
    simp only [Tab.rising, Bool.and_eq_true] at h
    unfold Tab.put
    split
    · rename_i hi
      subst hi
      simp only [Tab.rising, Bool.and_eq_true]
      exact h
    · split
      · rename_i hi hlt
        simp only [Tab.rising, Bool.and_eq_true, decide_eq_true_eq]
        refine ⟨?_, hlt, ht⟩
        cases lo with
        | none => rfl
        | some l => simpa using hk l rfl
      · rename_i hi hlt
        simp only [Tab.rising, Bool.and_eq_true]
        refine ⟨h.1, ih ht ?_⟩
        intro l hl
        injection hl with hl
        omega

theorem Tab.all_drop {p : Nat × α → Bool} {t : Tab α} {k : Nat} (h : t.all p = true) :
    (Tab.drop t k).all p = true := by
  induction t with
  | nil => rfl
  | cons e t ih =>
    obtain ⟨i, a⟩ := e
    simp only [List.all_cons, Bool.and_eq_true] at h
    unfold Tab.drop
    split
    · exact ih h.2
    · simp only [List.all_cons, Bool.and_eq_true]
      exact ⟨h.1, ih h.2⟩

theorem Tab.all_put {p : Nat × α → Bool} {t : Tab α} {k : Nat} {v : α} (h : t.all p = true) (hv : p (k, v) = true) :
    (Tab.put t k v).all p = true := by
  induction t with
  | nil => simp [Tab.put, hv]
  | cons e t ih =>
    obtain ⟨i, a⟩ := e
    simp only [List.all_cons, Bool.and_eq_true] at h
    unfold Tab.put
    split
    · simp only [List.all_cons, Bool.and_eq_true]
      exact ⟨hv, h.2⟩
    · split
      · simp only [List.all_cons, Bool.and_eq_true]
        exact ⟨hv, h⟩
      · simp only [List.all_cons, Bool.and_eq_true]
        exact ⟨h.1, ih h.2⟩

section Write

variable [DecidableEq α]

/-- A write leaves every other index as it was. -/
@[simp] theorem Tab.get_set_other (d : α) (t : Tab α) {k j : Nat} (v : α) (h : j ≠ k) :
    Tab.get d (Tab.set d t k v) j = Tab.get d t j := by
  unfold Tab.set
  split
  · exact Tab.get_drop_other d t h
  · exact Tab.get_put_other d t v h

/-- A table reads as written. -/
@[simp] theorem Tab.get_set_same (d : α) (t : Tab α) (k : Nat) (v : α) :
    Tab.get d (Tab.set d t k v) k = v := by
  unfold Tab.set
  split
  · rename_i hv
    rw [Tab.get_drop_same d, hv]
  · exact Tab.get_put_same d t k v

/-- Every write keeps the canonical form. -/
@[simp] theorem Tab.wf_set {d : α} {t : Tab α} (h : Tab.wf d t = true) (k : Nat) (v : α) :
    Tab.wf d (Tab.set d t k v) = true := by
  simp only [Tab.wf, Bool.and_eq_true] at h ⊢
  unfold Tab.set
  split
  · exact ⟨Tab.rising_drop h.1, Tab.all_drop h.2⟩
  · rename_i hv
    exact ⟨Tab.rising_put h.1 (fun _ hl => by cases hl), Tab.all_put h.2 (by simpa using hv)⟩

@[simp] theorem Tab.wf_upd {d : α} {t : Tab α} (h : Tab.wf d t = true) (k : Nat) (f : α → α) :
    Tab.wf d (Tab.upd d t k f) = true := Tab.wf_set h _ _

end Write

/-! ### Byte stores -/

@[simp] theorem bytesSet_wf {m : Tab Byte} (h : Tab.wf 0#8 m = true) (a : Nat) (v : Byte) :
    Tab.wf 0#8 (bytesSet m a v) = true := Tab.wf_set h a v

@[simp] theorem bytesWrite_wf (bs : List Byte) {m : Tab Byte} (h : Tab.wf 0#8 m = true) (a : Nat) :
    Tab.wf 0#8 (bytesWrite m a bs) = true := by
  induction bs generalizing m a with
  | nil => exact h
  | cons b bs ih => exact ih (bytesSet_wf h a b) (a + 1)

@[simp] theorem storeLe_wf {m : Tab Byte} (h : Tab.wf 0#8 m = true) (a n v : Nat) :
    Tab.wf 0#8 (storeLe m a n v) = true := bytesWrite_wf _ h a

/-- Bytes outside the written range stay as they were. -/
theorem bytesWrite_get_outside (bs : List Byte) (m : Tab Byte) (a b : Nat) (h : b < a ∨ a + bs.length ≤ b) :
    bytesGet (bytesWrite m a bs) b = bytesGet m b := by
  induction bs generalizing m a with
  | nil => rfl
  | cons v bs ih =>
    have hb : b ≠ a := by
      simp only [List.length_cons] at h
      omega
    have := ih (bytesSet m a v) (a + 1) (by simp only [List.length_cons] at h; omega)
    rw [bytesWrite, this]
    exact Tab.get_set_other _ _ _ hb

/-- The bytes of the written range read as written. -/
theorem bytesWrite_get_inside (bs : List Byte) (m : Tab Byte) (a : Nat) {i : Nat} {v : Byte}
    (h : bs[i]? = some v) : bytesGet (bytesWrite m a bs) (a + i) = v := by
  induction bs generalizing m a i with
  | nil => simp at h
  | cons b bs ih =>
    cases i with
    | zero =>
      simp only [List.getElem?_cons_zero, Option.some.injEq] at h
      subst h
      show bytesGet (bytesWrite (bytesSet m a b) (a + 1) bs) a = b
      rw [bytesWrite_get_outside bs _ (a + 1) a (Or.inl (Nat.lt_succ_self a))]
      exact Tab.get_set_same 0#8 m a b
    | succ i =>
      have := ih (bytesSet m a b) (a + 1) (i := i) (by simpa using h)
      rw [bytesWrite]
      rw [show a + (i + 1) = a + 1 + i by omega]
      exact this

end Sys2Proof.Machine
end

