-- ==== Sys2Proof/Laws/State.lean ====
section
/-! SUPPORT. Reading a field of the state after an update: every field that a named update does not write is as it was, and a
table reads as written. Each lemma is true by unfolding, so that no later proof unfolds a record update. -/

namespace Sys2Proof.Machine

/-! ### setReg -/

@[simp] theorem State.setReg_pending (s : State) (off : Nat) (v : Word) : (s.setReg off v).pending = s.pending := rfl
@[simp] theorem State.setReg_gradeB (s : State) (off : Nat) (v : Word) : (s.setReg off v).gradeB = s.gradeB := rfl
@[simp] theorem State.setReg_lag (s : State) (off : Nat) (v : Word) : (s.setReg off v).lag = s.lag := rfl
@[simp] theorem State.setReg_staged (s : State) (off : Nat) (v : Word) : (s.setReg off v).staged = s.staged := rfl
@[simp] theorem State.setReg_capt (s : State) (off : Nat) (v : Word) : (s.setReg off v).capt = s.capt := rfl
@[simp] theorem State.setReg_ctxs (s : State) (off : Nat) (v : Word) : (s.setReg off v).ctxs = s.ctxs := rfl
@[simp] theorem State.setReg_icache (s : State) (off : Nat) (v : Word) : (s.setReg off v).icache = s.icache := rfl
@[simp] theorem State.setReg_lastIssue (s : State) (off : Nat) (v : Word) : (s.setReg off v).lastIssue = s.lastIssue := rfl
@[simp] theorem State.setReg_stood (s : State) (off : Nat) (v : Word) : (s.setReg off v).stood = s.stood := rfl
@[simp] theorem State.setReg_slow (s : State) (off : Nat) (v : Word) : (s.setReg off v).slow = s.slow := rfl
@[simp] theorem State.setReg_ps (s : State) (off : Nat) (v : Word) : (s.setReg off v).ps = s.ps := rfl
@[simp] theorem State.setReg_sync (s : State) (off : Nat) (v : Word) : (s.setReg off v).sync = s.sync := rfl
@[simp] theorem State.setReg_syncWr (s : State) (off : Nat) (v : Word) : (s.setReg off v).syncWr = s.syncWr := rfl
@[simp] theorem State.setReg_slots (s : State) (off : Nat) (v : Word) : (s.setReg off v).slots = s.slots := rfl
@[simp] theorem State.setReg_ucmds (s : State) (off : Nat) (v : Word) : (s.setReg off v).ucmds = s.ucmds := rfl
@[simp] theorem State.setReg_step (s : State) (off : Nat) (v : Word) : (s.setReg off v).step = s.step := rfl
@[simp] theorem State.setReg_spcnt (s : State) (off : Nat) (v : Word) : (s.setReg off v).spcnt = s.spcnt := rfl
@[simp] theorem State.setReg_seed (s : State) (off : Nat) (v : Word) : (s.setReg off v).seed = s.seed := rfl
@[simp] theorem State.setReg_seedNext (s : State) (off : Nat) (v : Word) : (s.setReg off v).seedNext = s.seedNext := rfl
@[simp] theorem State.setReg_standing (s : State) (off : Nat) (v : Word) : (s.setReg off v).standing = s.standing := rfl
@[simp] theorem State.setReg_boundary (s : State) (off : Nat) (v : Word) : (s.setReg off v).boundary = s.boundary := rfl
@[simp] theorem State.setReg_arm (s : State) (off : Nat) (v : Word) : (s.setReg off v).arm = s.arm := rfl
@[simp] theorem State.setReg_saving (s : State) (off : Nat) (v : Word) : (s.setReg off v).saving = s.saving := rfl
@[simp] theorem State.setReg_tbl (s : State) (off : Nat) (v : Word) : (s.setReg off v).tbl = s.tbl := rfl
@[simp] theorem State.setReg_adm (s : State) (off : Nat) (v : Word) : (s.setReg off v).adm = s.adm := rfl
@[simp] theorem State.setReg_scout (s : State) (off : Nat) (v : Word) : (s.setReg off v).scout = s.scout := rfl
@[simp] theorem State.setReg_hud (s : State) (off : Nat) (v : Word) : (s.setReg off v).hud = s.hud := rfl
@[simp] theorem State.setReg_queues (s : State) (off : Nat) (v : Word) : (s.setReg off v).queues = s.queues := rfl
@[simp] theorem State.setReg_flow (s : State) (off : Nat) (v : Word) : (s.setReg off v).flow = s.flow := rfl
@[simp] theorem State.setReg_pools (s : State) (off : Nat) (v : Word) : (s.setReg off v).pools = s.pools := rfl
@[simp] theorem State.setReg_vol (s : State) (off : Nat) (v : Word) : (s.setReg off v).vol = s.vol := rfl
@[simp] theorem State.setReg_reb (s : State) (off : Nat) (v : Word) : (s.setReg off v).reb = s.reb := rfl
@[simp] theorem State.setReg_mp (s : State) (off : Nat) (v : Word) : (s.setReg off v).mp = s.mp := rfl
@[simp] theorem State.setReg_mem (s : State) (off : Nat) (v : Word) : (s.setReg off v).mem = s.mem := rfl
@[simp] theorem State.setReg_ref (s : State) (off : Nat) (v : Word) : (s.setReg off v).ref = s.ref := rfl
@[simp] theorem State.setReg_kick (s : State) (off : Nat) (v : Word) : (s.setReg off v).kick = s.kick := rfl
@[simp] theorem State.setReg_obs (s : State) (off : Nat) (v : Word) : (s.setReg off v).obs = s.obs := rfl
@[simp] theorem State.setReg_pins (s : State) (off : Nat) (v : Word) : (s.setReg off v).pins = s.pins := rfl
@[simp] theorem State.setReg_free (s : State) (off : Nat) (v : Word) : (s.setReg off v).free = s.free := rfl

/-! ### setFld -/

@[simp] theorem State.setFld_pending (s : State) (off hi lo v : Nat) : (s.setFld off hi lo v).pending = s.pending := rfl
@[simp] theorem State.setFld_gradeB (s : State) (off hi lo v : Nat) : (s.setFld off hi lo v).gradeB = s.gradeB := rfl
@[simp] theorem State.setFld_lag (s : State) (off hi lo v : Nat) : (s.setFld off hi lo v).lag = s.lag := rfl
@[simp] theorem State.setFld_staged (s : State) (off hi lo v : Nat) : (s.setFld off hi lo v).staged = s.staged := rfl
@[simp] theorem State.setFld_capt (s : State) (off hi lo v : Nat) : (s.setFld off hi lo v).capt = s.capt := rfl
@[simp] theorem State.setFld_ctxs (s : State) (off hi lo v : Nat) : (s.setFld off hi lo v).ctxs = s.ctxs := rfl
@[simp] theorem State.setFld_icache (s : State) (off hi lo v : Nat) : (s.setFld off hi lo v).icache = s.icache := rfl
@[simp] theorem State.setFld_lastIssue (s : State) (off hi lo v : Nat) : (s.setFld off hi lo v).lastIssue = s.lastIssue := rfl
@[simp] theorem State.setFld_stood (s : State) (off hi lo v : Nat) : (s.setFld off hi lo v).stood = s.stood := rfl
@[simp] theorem State.setFld_slow (s : State) (off hi lo v : Nat) : (s.setFld off hi lo v).slow = s.slow := rfl
@[simp] theorem State.setFld_ps (s : State) (off hi lo v : Nat) : (s.setFld off hi lo v).ps = s.ps := rfl
@[simp] theorem State.setFld_sync (s : State) (off hi lo v : Nat) : (s.setFld off hi lo v).sync = s.sync := rfl
@[simp] theorem State.setFld_syncWr (s : State) (off hi lo v : Nat) : (s.setFld off hi lo v).syncWr = s.syncWr := rfl
@[simp] theorem State.setFld_slots (s : State) (off hi lo v : Nat) : (s.setFld off hi lo v).slots = s.slots := rfl
@[simp] theorem State.setFld_ucmds (s : State) (off hi lo v : Nat) : (s.setFld off hi lo v).ucmds = s.ucmds := rfl
@[simp] theorem State.setFld_step (s : State) (off hi lo v : Nat) : (s.setFld off hi lo v).step = s.step := rfl
@[simp] theorem State.setFld_spcnt (s : State) (off hi lo v : Nat) : (s.setFld off hi lo v).spcnt = s.spcnt := rfl
@[simp] theorem State.setFld_seed (s : State) (off hi lo v : Nat) : (s.setFld off hi lo v).seed = s.seed := rfl
@[simp] theorem State.setFld_seedNext (s : State) (off hi lo v : Nat) : (s.setFld off hi lo v).seedNext = s.seedNext := rfl
@[simp] theorem State.setFld_standing (s : State) (off hi lo v : Nat) : (s.setFld off hi lo v).standing = s.standing := rfl
@[simp] theorem State.setFld_boundary (s : State) (off hi lo v : Nat) : (s.setFld off hi lo v).boundary = s.boundary := rfl
@[simp] theorem State.setFld_arm (s : State) (off hi lo v : Nat) : (s.setFld off hi lo v).arm = s.arm := rfl
@[simp] theorem State.setFld_saving (s : State) (off hi lo v : Nat) : (s.setFld off hi lo v).saving = s.saving := rfl
@[simp] theorem State.setFld_tbl (s : State) (off hi lo v : Nat) : (s.setFld off hi lo v).tbl = s.tbl := rfl
@[simp] theorem State.setFld_adm (s : State) (off hi lo v : Nat) : (s.setFld off hi lo v).adm = s.adm := rfl
@[simp] theorem State.setFld_scout (s : State) (off hi lo v : Nat) : (s.setFld off hi lo v).scout = s.scout := rfl
@[simp] theorem State.setFld_hud (s : State) (off hi lo v : Nat) : (s.setFld off hi lo v).hud = s.hud := rfl
@[simp] theorem State.setFld_queues (s : State) (off hi lo v : Nat) : (s.setFld off hi lo v).queues = s.queues := rfl
@[simp] theorem State.setFld_flow (s : State) (off hi lo v : Nat) : (s.setFld off hi lo v).flow = s.flow := rfl
@[simp] theorem State.setFld_pools (s : State) (off hi lo v : Nat) : (s.setFld off hi lo v).pools = s.pools := rfl
@[simp] theorem State.setFld_vol (s : State) (off hi lo v : Nat) : (s.setFld off hi lo v).vol = s.vol := rfl
@[simp] theorem State.setFld_reb (s : State) (off hi lo v : Nat) : (s.setFld off hi lo v).reb = s.reb := rfl
@[simp] theorem State.setFld_mp (s : State) (off hi lo v : Nat) : (s.setFld off hi lo v).mp = s.mp := rfl
@[simp] theorem State.setFld_mem (s : State) (off hi lo v : Nat) : (s.setFld off hi lo v).mem = s.mem := rfl
@[simp] theorem State.setFld_ref (s : State) (off hi lo v : Nat) : (s.setFld off hi lo v).ref = s.ref := rfl
@[simp] theorem State.setFld_kick (s : State) (off hi lo v : Nat) : (s.setFld off hi lo v).kick = s.kick := rfl
@[simp] theorem State.setFld_obs (s : State) (off hi lo v : Nat) : (s.setFld off hi lo v).obs = s.obs := rfl
@[simp] theorem State.setFld_pins (s : State) (off hi lo v : Nat) : (s.setFld off hi lo v).pins = s.pins := rfl
@[simp] theorem State.setFld_free (s : State) (off hi lo v : Nat) : (s.setFld off hi lo v).free = s.free := rfl

/-! ### bump -/

@[simp] theorem State.bump_pending (s : State) (off n : Nat) : (s.bump off n).pending = s.pending := rfl
@[simp] theorem State.bump_gradeB (s : State) (off n : Nat) : (s.bump off n).gradeB = s.gradeB := rfl
@[simp] theorem State.bump_lag (s : State) (off n : Nat) : (s.bump off n).lag = s.lag := rfl
@[simp] theorem State.bump_staged (s : State) (off n : Nat) : (s.bump off n).staged = s.staged := rfl
@[simp] theorem State.bump_capt (s : State) (off n : Nat) : (s.bump off n).capt = s.capt := rfl
@[simp] theorem State.bump_ctxs (s : State) (off n : Nat) : (s.bump off n).ctxs = s.ctxs := rfl
@[simp] theorem State.bump_icache (s : State) (off n : Nat) : (s.bump off n).icache = s.icache := rfl
@[simp] theorem State.bump_lastIssue (s : State) (off n : Nat) : (s.bump off n).lastIssue = s.lastIssue := rfl
@[simp] theorem State.bump_stood (s : State) (off n : Nat) : (s.bump off n).stood = s.stood := rfl
@[simp] theorem State.bump_slow (s : State) (off n : Nat) : (s.bump off n).slow = s.slow := rfl
@[simp] theorem State.bump_ps (s : State) (off n : Nat) : (s.bump off n).ps = s.ps := rfl
@[simp] theorem State.bump_sync (s : State) (off n : Nat) : (s.bump off n).sync = s.sync := rfl
@[simp] theorem State.bump_syncWr (s : State) (off n : Nat) : (s.bump off n).syncWr = s.syncWr := rfl
@[simp] theorem State.bump_slots (s : State) (off n : Nat) : (s.bump off n).slots = s.slots := rfl
@[simp] theorem State.bump_ucmds (s : State) (off n : Nat) : (s.bump off n).ucmds = s.ucmds := rfl
@[simp] theorem State.bump_step (s : State) (off n : Nat) : (s.bump off n).step = s.step := rfl
@[simp] theorem State.bump_spcnt (s : State) (off n : Nat) : (s.bump off n).spcnt = s.spcnt := rfl
@[simp] theorem State.bump_seed (s : State) (off n : Nat) : (s.bump off n).seed = s.seed := rfl
@[simp] theorem State.bump_seedNext (s : State) (off n : Nat) : (s.bump off n).seedNext = s.seedNext := rfl
@[simp] theorem State.bump_standing (s : State) (off n : Nat) : (s.bump off n).standing = s.standing := rfl
@[simp] theorem State.bump_boundary (s : State) (off n : Nat) : (s.bump off n).boundary = s.boundary := rfl
@[simp] theorem State.bump_arm (s : State) (off n : Nat) : (s.bump off n).arm = s.arm := rfl
@[simp] theorem State.bump_saving (s : State) (off n : Nat) : (s.bump off n).saving = s.saving := rfl
@[simp] theorem State.bump_tbl (s : State) (off n : Nat) : (s.bump off n).tbl = s.tbl := rfl
@[simp] theorem State.bump_adm (s : State) (off n : Nat) : (s.bump off n).adm = s.adm := rfl
@[simp] theorem State.bump_scout (s : State) (off n : Nat) : (s.bump off n).scout = s.scout := rfl
@[simp] theorem State.bump_hud (s : State) (off n : Nat) : (s.bump off n).hud = s.hud := rfl
@[simp] theorem State.bump_queues (s : State) (off n : Nat) : (s.bump off n).queues = s.queues := rfl
@[simp] theorem State.bump_flow (s : State) (off n : Nat) : (s.bump off n).flow = s.flow := rfl
@[simp] theorem State.bump_pools (s : State) (off n : Nat) : (s.bump off n).pools = s.pools := rfl
@[simp] theorem State.bump_vol (s : State) (off n : Nat) : (s.bump off n).vol = s.vol := rfl
@[simp] theorem State.bump_reb (s : State) (off n : Nat) : (s.bump off n).reb = s.reb := rfl
@[simp] theorem State.bump_mp (s : State) (off n : Nat) : (s.bump off n).mp = s.mp := rfl
@[simp] theorem State.bump_mem (s : State) (off n : Nat) : (s.bump off n).mem = s.mem := rfl
@[simp] theorem State.bump_ref (s : State) (off n : Nat) : (s.bump off n).ref = s.ref := rfl
@[simp] theorem State.bump_kick (s : State) (off n : Nat) : (s.bump off n).kick = s.kick := rfl
@[simp] theorem State.bump_obs (s : State) (off n : Nat) : (s.bump off n).obs = s.obs := rfl
@[simp] theorem State.bump_pins (s : State) (off n : Nat) : (s.bump off n).pins = s.pins := rfl
@[simp] theorem State.bump_free (s : State) (off n : Nat) : (s.bump off n).free = s.free := rfl

/-! ### raiseFlag -/

@[simp] theorem State.raiseFlag_pending (s : State) (b n : Nat) : (s.raiseFlag b n).pending = s.pending := rfl
@[simp] theorem State.raiseFlag_gradeB (s : State) (b n : Nat) : (s.raiseFlag b n).gradeB = s.gradeB := rfl
@[simp] theorem State.raiseFlag_lag (s : State) (b n : Nat) : (s.raiseFlag b n).lag = s.lag := rfl
@[simp] theorem State.raiseFlag_staged (s : State) (b n : Nat) : (s.raiseFlag b n).staged = s.staged := rfl
@[simp] theorem State.raiseFlag_capt (s : State) (b n : Nat) : (s.raiseFlag b n).capt = s.capt := rfl
@[simp] theorem State.raiseFlag_ctxs (s : State) (b n : Nat) : (s.raiseFlag b n).ctxs = s.ctxs := rfl
@[simp] theorem State.raiseFlag_icache (s : State) (b n : Nat) : (s.raiseFlag b n).icache = s.icache := rfl
@[simp] theorem State.raiseFlag_lastIssue (s : State) (b n : Nat) : (s.raiseFlag b n).lastIssue = s.lastIssue := rfl
@[simp] theorem State.raiseFlag_stood (s : State) (b n : Nat) : (s.raiseFlag b n).stood = s.stood := rfl
@[simp] theorem State.raiseFlag_slow (s : State) (b n : Nat) : (s.raiseFlag b n).slow = s.slow := rfl
@[simp] theorem State.raiseFlag_ps (s : State) (b n : Nat) : (s.raiseFlag b n).ps = s.ps := rfl
@[simp] theorem State.raiseFlag_sync (s : State) (b n : Nat) : (s.raiseFlag b n).sync = s.sync := rfl
@[simp] theorem State.raiseFlag_syncWr (s : State) (b n : Nat) : (s.raiseFlag b n).syncWr = s.syncWr := rfl
@[simp] theorem State.raiseFlag_slots (s : State) (b n : Nat) : (s.raiseFlag b n).slots = s.slots := rfl
@[simp] theorem State.raiseFlag_ucmds (s : State) (b n : Nat) : (s.raiseFlag b n).ucmds = s.ucmds := rfl
@[simp] theorem State.raiseFlag_step (s : State) (b n : Nat) : (s.raiseFlag b n).step = s.step := rfl
@[simp] theorem State.raiseFlag_spcnt (s : State) (b n : Nat) : (s.raiseFlag b n).spcnt = s.spcnt := rfl
@[simp] theorem State.raiseFlag_seed (s : State) (b n : Nat) : (s.raiseFlag b n).seed = s.seed := rfl
@[simp] theorem State.raiseFlag_seedNext (s : State) (b n : Nat) : (s.raiseFlag b n).seedNext = s.seedNext := rfl
@[simp] theorem State.raiseFlag_standing (s : State) (b n : Nat) : (s.raiseFlag b n).standing = s.standing := rfl
@[simp] theorem State.raiseFlag_boundary (s : State) (b n : Nat) : (s.raiseFlag b n).boundary = s.boundary := rfl
@[simp] theorem State.raiseFlag_arm (s : State) (b n : Nat) : (s.raiseFlag b n).arm = s.arm := rfl
@[simp] theorem State.raiseFlag_saving (s : State) (b n : Nat) : (s.raiseFlag b n).saving = s.saving := rfl
@[simp] theorem State.raiseFlag_tbl (s : State) (b n : Nat) : (s.raiseFlag b n).tbl = s.tbl := rfl
@[simp] theorem State.raiseFlag_adm (s : State) (b n : Nat) : (s.raiseFlag b n).adm = s.adm := rfl
@[simp] theorem State.raiseFlag_scout (s : State) (b n : Nat) : (s.raiseFlag b n).scout = s.scout := rfl
@[simp] theorem State.raiseFlag_hud (s : State) (b n : Nat) : (s.raiseFlag b n).hud = s.hud := rfl
@[simp] theorem State.raiseFlag_queues (s : State) (b n : Nat) : (s.raiseFlag b n).queues = s.queues := rfl
@[simp] theorem State.raiseFlag_flow (s : State) (b n : Nat) : (s.raiseFlag b n).flow = s.flow := rfl
@[simp] theorem State.raiseFlag_pools (s : State) (b n : Nat) : (s.raiseFlag b n).pools = s.pools := rfl
@[simp] theorem State.raiseFlag_vol (s : State) (b n : Nat) : (s.raiseFlag b n).vol = s.vol := rfl
@[simp] theorem State.raiseFlag_reb (s : State) (b n : Nat) : (s.raiseFlag b n).reb = s.reb := rfl
@[simp] theorem State.raiseFlag_mp (s : State) (b n : Nat) : (s.raiseFlag b n).mp = s.mp := rfl
@[simp] theorem State.raiseFlag_mem (s : State) (b n : Nat) : (s.raiseFlag b n).mem = s.mem := rfl
@[simp] theorem State.raiseFlag_ref (s : State) (b n : Nat) : (s.raiseFlag b n).ref = s.ref := rfl
@[simp] theorem State.raiseFlag_kick (s : State) (b n : Nat) : (s.raiseFlag b n).kick = s.kick := rfl
@[simp] theorem State.raiseFlag_obs (s : State) (b n : Nat) : (s.raiseFlag b n).obs = s.obs := rfl
@[simp] theorem State.raiseFlag_pins (s : State) (b n : Nat) : (s.raiseFlag b n).pins = s.pins := rfl
@[simp] theorem State.raiseFlag_free (s : State) (b n : Nat) : (s.raiseFlag b n).free = s.free := rfl

/-! ### raiseInt -/

@[simp] theorem State.raiseInt_pending (s : State) (b : Nat) : (s.raiseInt b).pending = s.pending := rfl
@[simp] theorem State.raiseInt_gradeB (s : State) (b : Nat) : (s.raiseInt b).gradeB = s.gradeB := rfl
@[simp] theorem State.raiseInt_lag (s : State) (b : Nat) : (s.raiseInt b).lag = s.lag := rfl
@[simp] theorem State.raiseInt_staged (s : State) (b : Nat) : (s.raiseInt b).staged = s.staged := rfl
@[simp] theorem State.raiseInt_capt (s : State) (b : Nat) : (s.raiseInt b).capt = s.capt := rfl
@[simp] theorem State.raiseInt_ctxs (s : State) (b : Nat) : (s.raiseInt b).ctxs = s.ctxs := rfl
@[simp] theorem State.raiseInt_icache (s : State) (b : Nat) : (s.raiseInt b).icache = s.icache := rfl
@[simp] theorem State.raiseInt_lastIssue (s : State) (b : Nat) : (s.raiseInt b).lastIssue = s.lastIssue := rfl
@[simp] theorem State.raiseInt_stood (s : State) (b : Nat) : (s.raiseInt b).stood = s.stood := rfl
@[simp] theorem State.raiseInt_slow (s : State) (b : Nat) : (s.raiseInt b).slow = s.slow := rfl
@[simp] theorem State.raiseInt_ps (s : State) (b : Nat) : (s.raiseInt b).ps = s.ps := rfl
@[simp] theorem State.raiseInt_sync (s : State) (b : Nat) : (s.raiseInt b).sync = s.sync := rfl
@[simp] theorem State.raiseInt_syncWr (s : State) (b : Nat) : (s.raiseInt b).syncWr = s.syncWr := rfl
@[simp] theorem State.raiseInt_slots (s : State) (b : Nat) : (s.raiseInt b).slots = s.slots := rfl
@[simp] theorem State.raiseInt_ucmds (s : State) (b : Nat) : (s.raiseInt b).ucmds = s.ucmds := rfl
@[simp] theorem State.raiseInt_step (s : State) (b : Nat) : (s.raiseInt b).step = s.step := rfl
@[simp] theorem State.raiseInt_spcnt (s : State) (b : Nat) : (s.raiseInt b).spcnt = s.spcnt := rfl
@[simp] theorem State.raiseInt_seed (s : State) (b : Nat) : (s.raiseInt b).seed = s.seed := rfl
@[simp] theorem State.raiseInt_seedNext (s : State) (b : Nat) : (s.raiseInt b).seedNext = s.seedNext := rfl
@[simp] theorem State.raiseInt_standing (s : State) (b : Nat) : (s.raiseInt b).standing = s.standing := rfl
@[simp] theorem State.raiseInt_boundary (s : State) (b : Nat) : (s.raiseInt b).boundary = s.boundary := rfl
@[simp] theorem State.raiseInt_arm (s : State) (b : Nat) : (s.raiseInt b).arm = s.arm := rfl
@[simp] theorem State.raiseInt_saving (s : State) (b : Nat) : (s.raiseInt b).saving = s.saving := rfl
@[simp] theorem State.raiseInt_tbl (s : State) (b : Nat) : (s.raiseInt b).tbl = s.tbl := rfl
@[simp] theorem State.raiseInt_adm (s : State) (b : Nat) : (s.raiseInt b).adm = s.adm := rfl
@[simp] theorem State.raiseInt_scout (s : State) (b : Nat) : (s.raiseInt b).scout = s.scout := rfl
@[simp] theorem State.raiseInt_hud (s : State) (b : Nat) : (s.raiseInt b).hud = s.hud := rfl
@[simp] theorem State.raiseInt_queues (s : State) (b : Nat) : (s.raiseInt b).queues = s.queues := rfl
@[simp] theorem State.raiseInt_flow (s : State) (b : Nat) : (s.raiseInt b).flow = s.flow := rfl
@[simp] theorem State.raiseInt_pools (s : State) (b : Nat) : (s.raiseInt b).pools = s.pools := rfl
@[simp] theorem State.raiseInt_vol (s : State) (b : Nat) : (s.raiseInt b).vol = s.vol := rfl
@[simp] theorem State.raiseInt_reb (s : State) (b : Nat) : (s.raiseInt b).reb = s.reb := rfl
@[simp] theorem State.raiseInt_mp (s : State) (b : Nat) : (s.raiseInt b).mp = s.mp := rfl
@[simp] theorem State.raiseInt_mem (s : State) (b : Nat) : (s.raiseInt b).mem = s.mem := rfl
@[simp] theorem State.raiseInt_ref (s : State) (b : Nat) : (s.raiseInt b).ref = s.ref := rfl
@[simp] theorem State.raiseInt_kick (s : State) (b : Nat) : (s.raiseInt b).kick = s.kick := rfl
@[simp] theorem State.raiseInt_obs (s : State) (b : Nat) : (s.raiseInt b).obs = s.obs := rfl
@[simp] theorem State.raiseInt_pins (s : State) (b : Nat) : (s.raiseInt b).pins = s.pins := rfl
@[simp] theorem State.raiseInt_free (s : State) (b : Nat) : (s.raiseInt b).free = s.free := rfl

/-! ### setByte -/

@[simp] theorem State.setByte_pending (s : State) (a : Nat) (v : Byte) : (s.setByte a v).pending = s.pending := rfl
@[simp] theorem State.setByte_gradeB (s : State) (a : Nat) (v : Byte) : (s.setByte a v).gradeB = s.gradeB := rfl
@[simp] theorem State.setByte_regs (s : State) (a : Nat) (v : Byte) : (s.setByte a v).regs = s.regs := rfl
@[simp] theorem State.setByte_lag (s : State) (a : Nat) (v : Byte) : (s.setByte a v).lag = s.lag := rfl
@[simp] theorem State.setByte_staged (s : State) (a : Nat) (v : Byte) : (s.setByte a v).staged = s.staged := rfl
@[simp] theorem State.setByte_capt (s : State) (a : Nat) (v : Byte) : (s.setByte a v).capt = s.capt := rfl
@[simp] theorem State.setByte_ctxs (s : State) (a : Nat) (v : Byte) : (s.setByte a v).ctxs = s.ctxs := rfl
@[simp] theorem State.setByte_icache (s : State) (a : Nat) (v : Byte) : (s.setByte a v).icache = s.icache := rfl
@[simp] theorem State.setByte_lastIssue (s : State) (a : Nat) (v : Byte) : (s.setByte a v).lastIssue = s.lastIssue := rfl
@[simp] theorem State.setByte_stood (s : State) (a : Nat) (v : Byte) : (s.setByte a v).stood = s.stood := rfl
@[simp] theorem State.setByte_slow (s : State) (a : Nat) (v : Byte) : (s.setByte a v).slow = s.slow := rfl
@[simp] theorem State.setByte_ps (s : State) (a : Nat) (v : Byte) : (s.setByte a v).ps = s.ps := rfl
@[simp] theorem State.setByte_sync (s : State) (a : Nat) (v : Byte) : (s.setByte a v).sync = s.sync := rfl
@[simp] theorem State.setByte_syncWr (s : State) (a : Nat) (v : Byte) : (s.setByte a v).syncWr = s.syncWr := rfl
@[simp] theorem State.setByte_slots (s : State) (a : Nat) (v : Byte) : (s.setByte a v).slots = s.slots := rfl
@[simp] theorem State.setByte_ucmds (s : State) (a : Nat) (v : Byte) : (s.setByte a v).ucmds = s.ucmds := rfl
@[simp] theorem State.setByte_step (s : State) (a : Nat) (v : Byte) : (s.setByte a v).step = s.step := rfl
@[simp] theorem State.setByte_spcnt (s : State) (a : Nat) (v : Byte) : (s.setByte a v).spcnt = s.spcnt := rfl
@[simp] theorem State.setByte_seed (s : State) (a : Nat) (v : Byte) : (s.setByte a v).seed = s.seed := rfl
@[simp] theorem State.setByte_seedNext (s : State) (a : Nat) (v : Byte) : (s.setByte a v).seedNext = s.seedNext := rfl
@[simp] theorem State.setByte_standing (s : State) (a : Nat) (v : Byte) : (s.setByte a v).standing = s.standing := rfl
@[simp] theorem State.setByte_boundary (s : State) (a : Nat) (v : Byte) : (s.setByte a v).boundary = s.boundary := rfl
@[simp] theorem State.setByte_arm (s : State) (a : Nat) (v : Byte) : (s.setByte a v).arm = s.arm := rfl
@[simp] theorem State.setByte_saving (s : State) (a : Nat) (v : Byte) : (s.setByte a v).saving = s.saving := rfl
@[simp] theorem State.setByte_tbl (s : State) (a : Nat) (v : Byte) : (s.setByte a v).tbl = s.tbl := rfl
@[simp] theorem State.setByte_adm (s : State) (a : Nat) (v : Byte) : (s.setByte a v).adm = s.adm := rfl
@[simp] theorem State.setByte_scout (s : State) (a : Nat) (v : Byte) : (s.setByte a v).scout = s.scout := rfl
@[simp] theorem State.setByte_hud (s : State) (a : Nat) (v : Byte) : (s.setByte a v).hud = s.hud := rfl
@[simp] theorem State.setByte_queues (s : State) (a : Nat) (v : Byte) : (s.setByte a v).queues = s.queues := rfl
@[simp] theorem State.setByte_flow (s : State) (a : Nat) (v : Byte) : (s.setByte a v).flow = s.flow := rfl
@[simp] theorem State.setByte_pools (s : State) (a : Nat) (v : Byte) : (s.setByte a v).pools = s.pools := rfl
@[simp] theorem State.setByte_vol (s : State) (a : Nat) (v : Byte) : (s.setByte a v).vol = s.vol := rfl
@[simp] theorem State.setByte_reb (s : State) (a : Nat) (v : Byte) : (s.setByte a v).reb = s.reb := rfl
@[simp] theorem State.setByte_mp (s : State) (a : Nat) (v : Byte) : (s.setByte a v).mp = s.mp := rfl
@[simp] theorem State.setByte_ref (s : State) (a : Nat) (v : Byte) : (s.setByte a v).ref = s.ref := rfl
@[simp] theorem State.setByte_kick (s : State) (a : Nat) (v : Byte) : (s.setByte a v).kick = s.kick := rfl
@[simp] theorem State.setByte_obs (s : State) (a : Nat) (v : Byte) : (s.setByte a v).obs = s.obs := rfl
@[simp] theorem State.setByte_pins (s : State) (a : Nat) (v : Byte) : (s.setByte a v).pins = s.pins := rfl
@[simp] theorem State.setByte_free (s : State) (a : Nat) (v : Byte) : (s.setByte a v).free = s.free := rfl

/-! ### setBytes -/

@[simp] theorem State.setBytes_pending (s : State) (a : Nat) (bs : List Byte) : (s.setBytes a bs).pending = s.pending := rfl
@[simp] theorem State.setBytes_gradeB (s : State) (a : Nat) (bs : List Byte) : (s.setBytes a bs).gradeB = s.gradeB := rfl
@[simp] theorem State.setBytes_regs (s : State) (a : Nat) (bs : List Byte) : (s.setBytes a bs).regs = s.regs := rfl
@[simp] theorem State.setBytes_lag (s : State) (a : Nat) (bs : List Byte) : (s.setBytes a bs).lag = s.lag := rfl
@[simp] theorem State.setBytes_staged (s : State) (a : Nat) (bs : List Byte) : (s.setBytes a bs).staged = s.staged := rfl
@[simp] theorem State.setBytes_capt (s : State) (a : Nat) (bs : List Byte) : (s.setBytes a bs).capt = s.capt := rfl
@[simp] theorem State.setBytes_ctxs (s : State) (a : Nat) (bs : List Byte) : (s.setBytes a bs).ctxs = s.ctxs := rfl
@[simp] theorem State.setBytes_icache (s : State) (a : Nat) (bs : List Byte) : (s.setBytes a bs).icache = s.icache := rfl
@[simp] theorem State.setBytes_lastIssue (s : State) (a : Nat) (bs : List Byte) : (s.setBytes a bs).lastIssue = s.lastIssue := rfl
@[simp] theorem State.setBytes_stood (s : State) (a : Nat) (bs : List Byte) : (s.setBytes a bs).stood = s.stood := rfl
@[simp] theorem State.setBytes_slow (s : State) (a : Nat) (bs : List Byte) : (s.setBytes a bs).slow = s.slow := rfl
@[simp] theorem State.setBytes_ps (s : State) (a : Nat) (bs : List Byte) : (s.setBytes a bs).ps = s.ps := rfl
@[simp] theorem State.setBytes_sync (s : State) (a : Nat) (bs : List Byte) : (s.setBytes a bs).sync = s.sync := rfl
@[simp] theorem State.setBytes_syncWr (s : State) (a : Nat) (bs : List Byte) : (s.setBytes a bs).syncWr = s.syncWr := rfl
@[simp] theorem State.setBytes_slots (s : State) (a : Nat) (bs : List Byte) : (s.setBytes a bs).slots = s.slots := rfl
@[simp] theorem State.setBytes_ucmds (s : State) (a : Nat) (bs : List Byte) : (s.setBytes a bs).ucmds = s.ucmds := rfl
@[simp] theorem State.setBytes_step (s : State) (a : Nat) (bs : List Byte) : (s.setBytes a bs).step = s.step := rfl
@[simp] theorem State.setBytes_spcnt (s : State) (a : Nat) (bs : List Byte) : (s.setBytes a bs).spcnt = s.spcnt := rfl
@[simp] theorem State.setBytes_seed (s : State) (a : Nat) (bs : List Byte) : (s.setBytes a bs).seed = s.seed := rfl
@[simp] theorem State.setBytes_seedNext (s : State) (a : Nat) (bs : List Byte) : (s.setBytes a bs).seedNext = s.seedNext := rfl
@[simp] theorem State.setBytes_standing (s : State) (a : Nat) (bs : List Byte) : (s.setBytes a bs).standing = s.standing := rfl
@[simp] theorem State.setBytes_boundary (s : State) (a : Nat) (bs : List Byte) : (s.setBytes a bs).boundary = s.boundary := rfl
@[simp] theorem State.setBytes_arm (s : State) (a : Nat) (bs : List Byte) : (s.setBytes a bs).arm = s.arm := rfl
@[simp] theorem State.setBytes_saving (s : State) (a : Nat) (bs : List Byte) : (s.setBytes a bs).saving = s.saving := rfl
@[simp] theorem State.setBytes_tbl (s : State) (a : Nat) (bs : List Byte) : (s.setBytes a bs).tbl = s.tbl := rfl
@[simp] theorem State.setBytes_adm (s : State) (a : Nat) (bs : List Byte) : (s.setBytes a bs).adm = s.adm := rfl
@[simp] theorem State.setBytes_scout (s : State) (a : Nat) (bs : List Byte) : (s.setBytes a bs).scout = s.scout := rfl
@[simp] theorem State.setBytes_hud (s : State) (a : Nat) (bs : List Byte) : (s.setBytes a bs).hud = s.hud := rfl
@[simp] theorem State.setBytes_queues (s : State) (a : Nat) (bs : List Byte) : (s.setBytes a bs).queues = s.queues := rfl
@[simp] theorem State.setBytes_flow (s : State) (a : Nat) (bs : List Byte) : (s.setBytes a bs).flow = s.flow := rfl
@[simp] theorem State.setBytes_pools (s : State) (a : Nat) (bs : List Byte) : (s.setBytes a bs).pools = s.pools := rfl
@[simp] theorem State.setBytes_vol (s : State) (a : Nat) (bs : List Byte) : (s.setBytes a bs).vol = s.vol := rfl
@[simp] theorem State.setBytes_reb (s : State) (a : Nat) (bs : List Byte) : (s.setBytes a bs).reb = s.reb := rfl
@[simp] theorem State.setBytes_mp (s : State) (a : Nat) (bs : List Byte) : (s.setBytes a bs).mp = s.mp := rfl
@[simp] theorem State.setBytes_ref (s : State) (a : Nat) (bs : List Byte) : (s.setBytes a bs).ref = s.ref := rfl
@[simp] theorem State.setBytes_kick (s : State) (a : Nat) (bs : List Byte) : (s.setBytes a bs).kick = s.kick := rfl
@[simp] theorem State.setBytes_obs (s : State) (a : Nat) (bs : List Byte) : (s.setBytes a bs).obs = s.obs := rfl
@[simp] theorem State.setBytes_pins (s : State) (a : Nat) (bs : List Byte) : (s.setBytes a bs).pins = s.pins := rfl
@[simp] theorem State.setBytes_free (s : State) (a : Nat) (bs : List Byte) : (s.setBytes a bs).free = s.free := rfl

/-! ### setNum -/

@[simp] theorem State.setNum_pending (s : State) (a n v : Nat) : (s.setNum a n v).pending = s.pending := rfl
@[simp] theorem State.setNum_gradeB (s : State) (a n v : Nat) : (s.setNum a n v).gradeB = s.gradeB := rfl
@[simp] theorem State.setNum_regs (s : State) (a n v : Nat) : (s.setNum a n v).regs = s.regs := rfl
@[simp] theorem State.setNum_lag (s : State) (a n v : Nat) : (s.setNum a n v).lag = s.lag := rfl
@[simp] theorem State.setNum_staged (s : State) (a n v : Nat) : (s.setNum a n v).staged = s.staged := rfl
@[simp] theorem State.setNum_capt (s : State) (a n v : Nat) : (s.setNum a n v).capt = s.capt := rfl
@[simp] theorem State.setNum_ctxs (s : State) (a n v : Nat) : (s.setNum a n v).ctxs = s.ctxs := rfl
@[simp] theorem State.setNum_icache (s : State) (a n v : Nat) : (s.setNum a n v).icache = s.icache := rfl
@[simp] theorem State.setNum_lastIssue (s : State) (a n v : Nat) : (s.setNum a n v).lastIssue = s.lastIssue := rfl
@[simp] theorem State.setNum_stood (s : State) (a n v : Nat) : (s.setNum a n v).stood = s.stood := rfl
@[simp] theorem State.setNum_slow (s : State) (a n v : Nat) : (s.setNum a n v).slow = s.slow := rfl
@[simp] theorem State.setNum_ps (s : State) (a n v : Nat) : (s.setNum a n v).ps = s.ps := rfl
@[simp] theorem State.setNum_sync (s : State) (a n v : Nat) : (s.setNum a n v).sync = s.sync := rfl
@[simp] theorem State.setNum_syncWr (s : State) (a n v : Nat) : (s.setNum a n v).syncWr = s.syncWr := rfl
@[simp] theorem State.setNum_slots (s : State) (a n v : Nat) : (s.setNum a n v).slots = s.slots := rfl
@[simp] theorem State.setNum_ucmds (s : State) (a n v : Nat) : (s.setNum a n v).ucmds = s.ucmds := rfl
@[simp] theorem State.setNum_step (s : State) (a n v : Nat) : (s.setNum a n v).step = s.step := rfl
@[simp] theorem State.setNum_spcnt (s : State) (a n v : Nat) : (s.setNum a n v).spcnt = s.spcnt := rfl
@[simp] theorem State.setNum_seed (s : State) (a n v : Nat) : (s.setNum a n v).seed = s.seed := rfl
@[simp] theorem State.setNum_seedNext (s : State) (a n v : Nat) : (s.setNum a n v).seedNext = s.seedNext := rfl
@[simp] theorem State.setNum_standing (s : State) (a n v : Nat) : (s.setNum a n v).standing = s.standing := rfl
@[simp] theorem State.setNum_boundary (s : State) (a n v : Nat) : (s.setNum a n v).boundary = s.boundary := rfl
@[simp] theorem State.setNum_arm (s : State) (a n v : Nat) : (s.setNum a n v).arm = s.arm := rfl
@[simp] theorem State.setNum_saving (s : State) (a n v : Nat) : (s.setNum a n v).saving = s.saving := rfl
@[simp] theorem State.setNum_tbl (s : State) (a n v : Nat) : (s.setNum a n v).tbl = s.tbl := rfl
@[simp] theorem State.setNum_adm (s : State) (a n v : Nat) : (s.setNum a n v).adm = s.adm := rfl
@[simp] theorem State.setNum_scout (s : State) (a n v : Nat) : (s.setNum a n v).scout = s.scout := rfl
@[simp] theorem State.setNum_hud (s : State) (a n v : Nat) : (s.setNum a n v).hud = s.hud := rfl
@[simp] theorem State.setNum_queues (s : State) (a n v : Nat) : (s.setNum a n v).queues = s.queues := rfl
@[simp] theorem State.setNum_flow (s : State) (a n v : Nat) : (s.setNum a n v).flow = s.flow := rfl
@[simp] theorem State.setNum_pools (s : State) (a n v : Nat) : (s.setNum a n v).pools = s.pools := rfl
@[simp] theorem State.setNum_vol (s : State) (a n v : Nat) : (s.setNum a n v).vol = s.vol := rfl
@[simp] theorem State.setNum_reb (s : State) (a n v : Nat) : (s.setNum a n v).reb = s.reb := rfl
@[simp] theorem State.setNum_mp (s : State) (a n v : Nat) : (s.setNum a n v).mp = s.mp := rfl
@[simp] theorem State.setNum_ref (s : State) (a n v : Nat) : (s.setNum a n v).ref = s.ref := rfl
@[simp] theorem State.setNum_kick (s : State) (a n v : Nat) : (s.setNum a n v).kick = s.kick := rfl
@[simp] theorem State.setNum_obs (s : State) (a n v : Nat) : (s.setNum a n v).obs = s.obs := rfl
@[simp] theorem State.setNum_pins (s : State) (a n v : Nat) : (s.setNum a n v).pins = s.pins := rfl
@[simp] theorem State.setNum_free (s : State) (a n v : Nat) : (s.setNum a n v).free = s.free := rfl

/-! ### setCtx -/

@[simp] theorem State.setCtx_pending (s : State) (c : Nat) (x : Context) : (s.setCtx c x).pending = s.pending := rfl
@[simp] theorem State.setCtx_gradeB (s : State) (c : Nat) (x : Context) : (s.setCtx c x).gradeB = s.gradeB := rfl
@[simp] theorem State.setCtx_regs (s : State) (c : Nat) (x : Context) : (s.setCtx c x).regs = s.regs := rfl
@[simp] theorem State.setCtx_lag (s : State) (c : Nat) (x : Context) : (s.setCtx c x).lag = s.lag := rfl
@[simp] theorem State.setCtx_staged (s : State) (c : Nat) (x : Context) : (s.setCtx c x).staged = s.staged := rfl
@[simp] theorem State.setCtx_capt (s : State) (c : Nat) (x : Context) : (s.setCtx c x).capt = s.capt := rfl
@[simp] theorem State.setCtx_icache (s : State) (c : Nat) (x : Context) : (s.setCtx c x).icache = s.icache := rfl
@[simp] theorem State.setCtx_lastIssue (s : State) (c : Nat) (x : Context) : (s.setCtx c x).lastIssue = s.lastIssue := rfl
@[simp] theorem State.setCtx_stood (s : State) (c : Nat) (x : Context) : (s.setCtx c x).stood = s.stood := rfl
@[simp] theorem State.setCtx_slow (s : State) (c : Nat) (x : Context) : (s.setCtx c x).slow = s.slow := rfl
@[simp] theorem State.setCtx_ps (s : State) (c : Nat) (x : Context) : (s.setCtx c x).ps = s.ps := rfl
@[simp] theorem State.setCtx_sync (s : State) (c : Nat) (x : Context) : (s.setCtx c x).sync = s.sync := rfl
@[simp] theorem State.setCtx_syncWr (s : State) (c : Nat) (x : Context) : (s.setCtx c x).syncWr = s.syncWr := rfl
@[simp] theorem State.setCtx_slots (s : State) (c : Nat) (x : Context) : (s.setCtx c x).slots = s.slots := rfl
@[simp] theorem State.setCtx_ucmds (s : State) (c : Nat) (x : Context) : (s.setCtx c x).ucmds = s.ucmds := rfl
@[simp] theorem State.setCtx_step (s : State) (c : Nat) (x : Context) : (s.setCtx c x).step = s.step := rfl
@[simp] theorem State.setCtx_spcnt (s : State) (c : Nat) (x : Context) : (s.setCtx c x).spcnt = s.spcnt := rfl
@[simp] theorem State.setCtx_seed (s : State) (c : Nat) (x : Context) : (s.setCtx c x).seed = s.seed := rfl
@[simp] theorem State.setCtx_seedNext (s : State) (c : Nat) (x : Context) : (s.setCtx c x).seedNext = s.seedNext := rfl
@[simp] theorem State.setCtx_standing (s : State) (c : Nat) (x : Context) : (s.setCtx c x).standing = s.standing := rfl
@[simp] theorem State.setCtx_boundary (s : State) (c : Nat) (x : Context) : (s.setCtx c x).boundary = s.boundary := rfl
@[simp] theorem State.setCtx_arm (s : State) (c : Nat) (x : Context) : (s.setCtx c x).arm = s.arm := rfl
@[simp] theorem State.setCtx_saving (s : State) (c : Nat) (x : Context) : (s.setCtx c x).saving = s.saving := rfl
@[simp] theorem State.setCtx_tbl (s : State) (c : Nat) (x : Context) : (s.setCtx c x).tbl = s.tbl := rfl
@[simp] theorem State.setCtx_adm (s : State) (c : Nat) (x : Context) : (s.setCtx c x).adm = s.adm := rfl
@[simp] theorem State.setCtx_scout (s : State) (c : Nat) (x : Context) : (s.setCtx c x).scout = s.scout := rfl
@[simp] theorem State.setCtx_hud (s : State) (c : Nat) (x : Context) : (s.setCtx c x).hud = s.hud := rfl
@[simp] theorem State.setCtx_queues (s : State) (c : Nat) (x : Context) : (s.setCtx c x).queues = s.queues := rfl
@[simp] theorem State.setCtx_flow (s : State) (c : Nat) (x : Context) : (s.setCtx c x).flow = s.flow := rfl
@[simp] theorem State.setCtx_pools (s : State) (c : Nat) (x : Context) : (s.setCtx c x).pools = s.pools := rfl
@[simp] theorem State.setCtx_vol (s : State) (c : Nat) (x : Context) : (s.setCtx c x).vol = s.vol := rfl
@[simp] theorem State.setCtx_reb (s : State) (c : Nat) (x : Context) : (s.setCtx c x).reb = s.reb := rfl
@[simp] theorem State.setCtx_mp (s : State) (c : Nat) (x : Context) : (s.setCtx c x).mp = s.mp := rfl
@[simp] theorem State.setCtx_mem (s : State) (c : Nat) (x : Context) : (s.setCtx c x).mem = s.mem := rfl
@[simp] theorem State.setCtx_ref (s : State) (c : Nat) (x : Context) : (s.setCtx c x).ref = s.ref := rfl
@[simp] theorem State.setCtx_kick (s : State) (c : Nat) (x : Context) : (s.setCtx c x).kick = s.kick := rfl
@[simp] theorem State.setCtx_obs (s : State) (c : Nat) (x : Context) : (s.setCtx c x).obs = s.obs := rfl
@[simp] theorem State.setCtx_pins (s : State) (c : Nat) (x : Context) : (s.setCtx c x).pins = s.pins := rfl
@[simp] theorem State.setCtx_free (s : State) (c : Nat) (x : Context) : (s.setCtx c x).free = s.free := rfl

/-! ### setObj -/

@[simp] theorem State.setObj_pending (s : State) (n : Nat) (o : SyncObj) : (s.setObj n o).pending = s.pending := rfl
@[simp] theorem State.setObj_gradeB (s : State) (n : Nat) (o : SyncObj) : (s.setObj n o).gradeB = s.gradeB := rfl
@[simp] theorem State.setObj_regs (s : State) (n : Nat) (o : SyncObj) : (s.setObj n o).regs = s.regs := rfl
@[simp] theorem State.setObj_lag (s : State) (n : Nat) (o : SyncObj) : (s.setObj n o).lag = s.lag := rfl
@[simp] theorem State.setObj_staged (s : State) (n : Nat) (o : SyncObj) : (s.setObj n o).staged = s.staged := rfl
@[simp] theorem State.setObj_capt (s : State) (n : Nat) (o : SyncObj) : (s.setObj n o).capt = s.capt := rfl
@[simp] theorem State.setObj_ctxs (s : State) (n : Nat) (o : SyncObj) : (s.setObj n o).ctxs = s.ctxs := rfl
@[simp] theorem State.setObj_icache (s : State) (n : Nat) (o : SyncObj) : (s.setObj n o).icache = s.icache := rfl
@[simp] theorem State.setObj_lastIssue (s : State) (n : Nat) (o : SyncObj) : (s.setObj n o).lastIssue = s.lastIssue := rfl
@[simp] theorem State.setObj_stood (s : State) (n : Nat) (o : SyncObj) : (s.setObj n o).stood = s.stood := rfl
@[simp] theorem State.setObj_slow (s : State) (n : Nat) (o : SyncObj) : (s.setObj n o).slow = s.slow := rfl
@[simp] theorem State.setObj_ps (s : State) (n : Nat) (o : SyncObj) : (s.setObj n o).ps = s.ps := rfl
@[simp] theorem State.setObj_syncWr (s : State) (n : Nat) (o : SyncObj) : (s.setObj n o).syncWr = s.syncWr := rfl
@[simp] theorem State.setObj_slots (s : State) (n : Nat) (o : SyncObj) : (s.setObj n o).slots = s.slots := rfl
@[simp] theorem State.setObj_ucmds (s : State) (n : Nat) (o : SyncObj) : (s.setObj n o).ucmds = s.ucmds := rfl
@[simp] theorem State.setObj_step (s : State) (n : Nat) (o : SyncObj) : (s.setObj n o).step = s.step := rfl
@[simp] theorem State.setObj_spcnt (s : State) (n : Nat) (o : SyncObj) : (s.setObj n o).spcnt = s.spcnt := rfl
@[simp] theorem State.setObj_seed (s : State) (n : Nat) (o : SyncObj) : (s.setObj n o).seed = s.seed := rfl
@[simp] theorem State.setObj_seedNext (s : State) (n : Nat) (o : SyncObj) : (s.setObj n o).seedNext = s.seedNext := rfl
@[simp] theorem State.setObj_standing (s : State) (n : Nat) (o : SyncObj) : (s.setObj n o).standing = s.standing := rfl
@[simp] theorem State.setObj_boundary (s : State) (n : Nat) (o : SyncObj) : (s.setObj n o).boundary = s.boundary := rfl
@[simp] theorem State.setObj_arm (s : State) (n : Nat) (o : SyncObj) : (s.setObj n o).arm = s.arm := rfl
@[simp] theorem State.setObj_saving (s : State) (n : Nat) (o : SyncObj) : (s.setObj n o).saving = s.saving := rfl
@[simp] theorem State.setObj_tbl (s : State) (n : Nat) (o : SyncObj) : (s.setObj n o).tbl = s.tbl := rfl
@[simp] theorem State.setObj_adm (s : State) (n : Nat) (o : SyncObj) : (s.setObj n o).adm = s.adm := rfl
@[simp] theorem State.setObj_scout (s : State) (n : Nat) (o : SyncObj) : (s.setObj n o).scout = s.scout := rfl
@[simp] theorem State.setObj_hud (s : State) (n : Nat) (o : SyncObj) : (s.setObj n o).hud = s.hud := rfl
@[simp] theorem State.setObj_queues (s : State) (n : Nat) (o : SyncObj) : (s.setObj n o).queues = s.queues := rfl
@[simp] theorem State.setObj_flow (s : State) (n : Nat) (o : SyncObj) : (s.setObj n o).flow = s.flow := rfl
@[simp] theorem State.setObj_pools (s : State) (n : Nat) (o : SyncObj) : (s.setObj n o).pools = s.pools := rfl
@[simp] theorem State.setObj_vol (s : State) (n : Nat) (o : SyncObj) : (s.setObj n o).vol = s.vol := rfl
@[simp] theorem State.setObj_reb (s : State) (n : Nat) (o : SyncObj) : (s.setObj n o).reb = s.reb := rfl
@[simp] theorem State.setObj_mp (s : State) (n : Nat) (o : SyncObj) : (s.setObj n o).mp = s.mp := rfl
@[simp] theorem State.setObj_mem (s : State) (n : Nat) (o : SyncObj) : (s.setObj n o).mem = s.mem := rfl
@[simp] theorem State.setObj_ref (s : State) (n : Nat) (o : SyncObj) : (s.setObj n o).ref = s.ref := rfl
@[simp] theorem State.setObj_kick (s : State) (n : Nat) (o : SyncObj) : (s.setObj n o).kick = s.kick := rfl
@[simp] theorem State.setObj_obs (s : State) (n : Nat) (o : SyncObj) : (s.setObj n o).obs = s.obs := rfl
@[simp] theorem State.setObj_pins (s : State) (n : Nat) (o : SyncObj) : (s.setObj n o).pins = s.pins := rfl
@[simp] theorem State.setObj_free (s : State) (n : Nat) (o : SyncObj) : (s.setObj n o).free = s.free := rfl

/-! ### setSlot -/

@[simp] theorem State.setSlot_pending (s : State) (n : Nat) (d : Slot) : (s.setSlot n d).pending = s.pending := rfl
@[simp] theorem State.setSlot_gradeB (s : State) (n : Nat) (d : Slot) : (s.setSlot n d).gradeB = s.gradeB := rfl
@[simp] theorem State.setSlot_regs (s : State) (n : Nat) (d : Slot) : (s.setSlot n d).regs = s.regs := rfl
@[simp] theorem State.setSlot_lag (s : State) (n : Nat) (d : Slot) : (s.setSlot n d).lag = s.lag := rfl
@[simp] theorem State.setSlot_staged (s : State) (n : Nat) (d : Slot) : (s.setSlot n d).staged = s.staged := rfl
@[simp] theorem State.setSlot_capt (s : State) (n : Nat) (d : Slot) : (s.setSlot n d).capt = s.capt := rfl
@[simp] theorem State.setSlot_ctxs (s : State) (n : Nat) (d : Slot) : (s.setSlot n d).ctxs = s.ctxs := rfl
@[simp] theorem State.setSlot_icache (s : State) (n : Nat) (d : Slot) : (s.setSlot n d).icache = s.icache := rfl
@[simp] theorem State.setSlot_lastIssue (s : State) (n : Nat) (d : Slot) : (s.setSlot n d).lastIssue = s.lastIssue := rfl
@[simp] theorem State.setSlot_stood (s : State) (n : Nat) (d : Slot) : (s.setSlot n d).stood = s.stood := rfl
@[simp] theorem State.setSlot_slow (s : State) (n : Nat) (d : Slot) : (s.setSlot n d).slow = s.slow := rfl
@[simp] theorem State.setSlot_ps (s : State) (n : Nat) (d : Slot) : (s.setSlot n d).ps = s.ps := rfl
@[simp] theorem State.setSlot_sync (s : State) (n : Nat) (d : Slot) : (s.setSlot n d).sync = s.sync := rfl
@[simp] theorem State.setSlot_syncWr (s : State) (n : Nat) (d : Slot) : (s.setSlot n d).syncWr = s.syncWr := rfl
@[simp] theorem State.setSlot_ucmds (s : State) (n : Nat) (d : Slot) : (s.setSlot n d).ucmds = s.ucmds := rfl
@[simp] theorem State.setSlot_step (s : State) (n : Nat) (d : Slot) : (s.setSlot n d).step = s.step := rfl
@[simp] theorem State.setSlot_spcnt (s : State) (n : Nat) (d : Slot) : (s.setSlot n d).spcnt = s.spcnt := rfl
@[simp] theorem State.setSlot_seed (s : State) (n : Nat) (d : Slot) : (s.setSlot n d).seed = s.seed := rfl
@[simp] theorem State.setSlot_seedNext (s : State) (n : Nat) (d : Slot) : (s.setSlot n d).seedNext = s.seedNext := rfl
@[simp] theorem State.setSlot_standing (s : State) (n : Nat) (d : Slot) : (s.setSlot n d).standing = s.standing := rfl
@[simp] theorem State.setSlot_boundary (s : State) (n : Nat) (d : Slot) : (s.setSlot n d).boundary = s.boundary := rfl
@[simp] theorem State.setSlot_arm (s : State) (n : Nat) (d : Slot) : (s.setSlot n d).arm = s.arm := rfl
@[simp] theorem State.setSlot_saving (s : State) (n : Nat) (d : Slot) : (s.setSlot n d).saving = s.saving := rfl
@[simp] theorem State.setSlot_tbl (s : State) (n : Nat) (d : Slot) : (s.setSlot n d).tbl = s.tbl := rfl
@[simp] theorem State.setSlot_adm (s : State) (n : Nat) (d : Slot) : (s.setSlot n d).adm = s.adm := rfl
@[simp] theorem State.setSlot_scout (s : State) (n : Nat) (d : Slot) : (s.setSlot n d).scout = s.scout := rfl
@[simp] theorem State.setSlot_hud (s : State) (n : Nat) (d : Slot) : (s.setSlot n d).hud = s.hud := rfl
@[simp] theorem State.setSlot_queues (s : State) (n : Nat) (d : Slot) : (s.setSlot n d).queues = s.queues := rfl
@[simp] theorem State.setSlot_flow (s : State) (n : Nat) (d : Slot) : (s.setSlot n d).flow = s.flow := rfl
@[simp] theorem State.setSlot_pools (s : State) (n : Nat) (d : Slot) : (s.setSlot n d).pools = s.pools := rfl
@[simp] theorem State.setSlot_vol (s : State) (n : Nat) (d : Slot) : (s.setSlot n d).vol = s.vol := rfl
@[simp] theorem State.setSlot_reb (s : State) (n : Nat) (d : Slot) : (s.setSlot n d).reb = s.reb := rfl
@[simp] theorem State.setSlot_mp (s : State) (n : Nat) (d : Slot) : (s.setSlot n d).mp = s.mp := rfl
@[simp] theorem State.setSlot_mem (s : State) (n : Nat) (d : Slot) : (s.setSlot n d).mem = s.mem := rfl
@[simp] theorem State.setSlot_ref (s : State) (n : Nat) (d : Slot) : (s.setSlot n d).ref = s.ref := rfl
@[simp] theorem State.setSlot_kick (s : State) (n : Nat) (d : Slot) : (s.setSlot n d).kick = s.kick := rfl
@[simp] theorem State.setSlot_obs (s : State) (n : Nat) (d : Slot) : (s.setSlot n d).obs = s.obs := rfl
@[simp] theorem State.setSlot_pins (s : State) (n : Nat) (d : Slot) : (s.setSlot n d).pins = s.pins := rfl
@[simp] theorem State.setSlot_free (s : State) (n : Nat) (d : Slot) : (s.setSlot n d).free = s.free := rfl

/-! ### setPool -/

@[simp] theorem State.setPool_pending (s : State) (n : Nat) (p : Pool) : (s.setPool n p).pending = s.pending := rfl
@[simp] theorem State.setPool_gradeB (s : State) (n : Nat) (p : Pool) : (s.setPool n p).gradeB = s.gradeB := rfl
@[simp] theorem State.setPool_regs (s : State) (n : Nat) (p : Pool) : (s.setPool n p).regs = s.regs := rfl
@[simp] theorem State.setPool_lag (s : State) (n : Nat) (p : Pool) : (s.setPool n p).lag = s.lag := rfl
@[simp] theorem State.setPool_staged (s : State) (n : Nat) (p : Pool) : (s.setPool n p).staged = s.staged := rfl
@[simp] theorem State.setPool_capt (s : State) (n : Nat) (p : Pool) : (s.setPool n p).capt = s.capt := rfl
@[simp] theorem State.setPool_ctxs (s : State) (n : Nat) (p : Pool) : (s.setPool n p).ctxs = s.ctxs := rfl
@[simp] theorem State.setPool_icache (s : State) (n : Nat) (p : Pool) : (s.setPool n p).icache = s.icache := rfl
@[simp] theorem State.setPool_lastIssue (s : State) (n : Nat) (p : Pool) : (s.setPool n p).lastIssue = s.lastIssue := rfl
@[simp] theorem State.setPool_stood (s : State) (n : Nat) (p : Pool) : (s.setPool n p).stood = s.stood := rfl
@[simp] theorem State.setPool_slow (s : State) (n : Nat) (p : Pool) : (s.setPool n p).slow = s.slow := rfl
@[simp] theorem State.setPool_ps (s : State) (n : Nat) (p : Pool) : (s.setPool n p).ps = s.ps := rfl
@[simp] theorem State.setPool_sync (s : State) (n : Nat) (p : Pool) : (s.setPool n p).sync = s.sync := rfl
@[simp] theorem State.setPool_syncWr (s : State) (n : Nat) (p : Pool) : (s.setPool n p).syncWr = s.syncWr := rfl
@[simp] theorem State.setPool_slots (s : State) (n : Nat) (p : Pool) : (s.setPool n p).slots = s.slots := rfl
@[simp] theorem State.setPool_ucmds (s : State) (n : Nat) (p : Pool) : (s.setPool n p).ucmds = s.ucmds := rfl
@[simp] theorem State.setPool_step (s : State) (n : Nat) (p : Pool) : (s.setPool n p).step = s.step := rfl
@[simp] theorem State.setPool_spcnt (s : State) (n : Nat) (p : Pool) : (s.setPool n p).spcnt = s.spcnt := rfl
@[simp] theorem State.setPool_seed (s : State) (n : Nat) (p : Pool) : (s.setPool n p).seed = s.seed := rfl
@[simp] theorem State.setPool_seedNext (s : State) (n : Nat) (p : Pool) : (s.setPool n p).seedNext = s.seedNext := rfl
@[simp] theorem State.setPool_standing (s : State) (n : Nat) (p : Pool) : (s.setPool n p).standing = s.standing := rfl
@[simp] theorem State.setPool_boundary (s : State) (n : Nat) (p : Pool) : (s.setPool n p).boundary = s.boundary := rfl
@[simp] theorem State.setPool_arm (s : State) (n : Nat) (p : Pool) : (s.setPool n p).arm = s.arm := rfl
@[simp] theorem State.setPool_saving (s : State) (n : Nat) (p : Pool) : (s.setPool n p).saving = s.saving := rfl
@[simp] theorem State.setPool_tbl (s : State) (n : Nat) (p : Pool) : (s.setPool n p).tbl = s.tbl := rfl
@[simp] theorem State.setPool_adm (s : State) (n : Nat) (p : Pool) : (s.setPool n p).adm = s.adm := rfl
@[simp] theorem State.setPool_scout (s : State) (n : Nat) (p : Pool) : (s.setPool n p).scout = s.scout := rfl
@[simp] theorem State.setPool_hud (s : State) (n : Nat) (p : Pool) : (s.setPool n p).hud = s.hud := rfl
@[simp] theorem State.setPool_queues (s : State) (n : Nat) (p : Pool) : (s.setPool n p).queues = s.queues := rfl
@[simp] theorem State.setPool_flow (s : State) (n : Nat) (p : Pool) : (s.setPool n p).flow = s.flow := rfl
@[simp] theorem State.setPool_vol (s : State) (n : Nat) (p : Pool) : (s.setPool n p).vol = s.vol := rfl
@[simp] theorem State.setPool_reb (s : State) (n : Nat) (p : Pool) : (s.setPool n p).reb = s.reb := rfl
@[simp] theorem State.setPool_mp (s : State) (n : Nat) (p : Pool) : (s.setPool n p).mp = s.mp := rfl
@[simp] theorem State.setPool_mem (s : State) (n : Nat) (p : Pool) : (s.setPool n p).mem = s.mem := rfl
@[simp] theorem State.setPool_ref (s : State) (n : Nat) (p : Pool) : (s.setPool n p).ref = s.ref := rfl
@[simp] theorem State.setPool_kick (s : State) (n : Nat) (p : Pool) : (s.setPool n p).kick = s.kick := rfl
@[simp] theorem State.setPool_obs (s : State) (n : Nat) (p : Pool) : (s.setPool n p).obs = s.obs := rfl
@[simp] theorem State.setPool_pins (s : State) (n : Nat) (p : Pool) : (s.setPool n p).pins = s.pins := rfl
@[simp] theorem State.setPool_free (s : State) (n : Nat) (p : Pool) : (s.setPool n p).free = s.free := rfl

/-! ### setQueue -/

@[simp] theorem State.setQueue_pending (s : State) (q : Nat) (x : Queue) : (s.setQueue q x).pending = s.pending := rfl
@[simp] theorem State.setQueue_gradeB (s : State) (q : Nat) (x : Queue) : (s.setQueue q x).gradeB = s.gradeB := rfl
@[simp] theorem State.setQueue_regs (s : State) (q : Nat) (x : Queue) : (s.setQueue q x).regs = s.regs := rfl
@[simp] theorem State.setQueue_lag (s : State) (q : Nat) (x : Queue) : (s.setQueue q x).lag = s.lag := rfl
@[simp] theorem State.setQueue_staged (s : State) (q : Nat) (x : Queue) : (s.setQueue q x).staged = s.staged := rfl
@[simp] theorem State.setQueue_capt (s : State) (q : Nat) (x : Queue) : (s.setQueue q x).capt = s.capt := rfl
@[simp] theorem State.setQueue_ctxs (s : State) (q : Nat) (x : Queue) : (s.setQueue q x).ctxs = s.ctxs := rfl
@[simp] theorem State.setQueue_icache (s : State) (q : Nat) (x : Queue) : (s.setQueue q x).icache = s.icache := rfl
@[simp] theorem State.setQueue_lastIssue (s : State) (q : Nat) (x : Queue) : (s.setQueue q x).lastIssue = s.lastIssue := rfl
@[simp] theorem State.setQueue_stood (s : State) (q : Nat) (x : Queue) : (s.setQueue q x).stood = s.stood := rfl
@[simp] theorem State.setQueue_slow (s : State) (q : Nat) (x : Queue) : (s.setQueue q x).slow = s.slow := rfl
@[simp] theorem State.setQueue_ps (s : State) (q : Nat) (x : Queue) : (s.setQueue q x).ps = s.ps := rfl
@[simp] theorem State.setQueue_sync (s : State) (q : Nat) (x : Queue) : (s.setQueue q x).sync = s.sync := rfl
@[simp] theorem State.setQueue_syncWr (s : State) (q : Nat) (x : Queue) : (s.setQueue q x).syncWr = s.syncWr := rfl
@[simp] theorem State.setQueue_slots (s : State) (q : Nat) (x : Queue) : (s.setQueue q x).slots = s.slots := rfl
@[simp] theorem State.setQueue_ucmds (s : State) (q : Nat) (x : Queue) : (s.setQueue q x).ucmds = s.ucmds := rfl
@[simp] theorem State.setQueue_step (s : State) (q : Nat) (x : Queue) : (s.setQueue q x).step = s.step := rfl
@[simp] theorem State.setQueue_spcnt (s : State) (q : Nat) (x : Queue) : (s.setQueue q x).spcnt = s.spcnt := rfl
@[simp] theorem State.setQueue_seed (s : State) (q : Nat) (x : Queue) : (s.setQueue q x).seed = s.seed := rfl
@[simp] theorem State.setQueue_seedNext (s : State) (q : Nat) (x : Queue) : (s.setQueue q x).seedNext = s.seedNext := rfl
@[simp] theorem State.setQueue_standing (s : State) (q : Nat) (x : Queue) : (s.setQueue q x).standing = s.standing := rfl
@[simp] theorem State.setQueue_boundary (s : State) (q : Nat) (x : Queue) : (s.setQueue q x).boundary = s.boundary := rfl
@[simp] theorem State.setQueue_arm (s : State) (q : Nat) (x : Queue) : (s.setQueue q x).arm = s.arm := rfl
@[simp] theorem State.setQueue_saving (s : State) (q : Nat) (x : Queue) : (s.setQueue q x).saving = s.saving := rfl
@[simp] theorem State.setQueue_tbl (s : State) (q : Nat) (x : Queue) : (s.setQueue q x).tbl = s.tbl := rfl
@[simp] theorem State.setQueue_adm (s : State) (q : Nat) (x : Queue) : (s.setQueue q x).adm = s.adm := rfl
@[simp] theorem State.setQueue_scout (s : State) (q : Nat) (x : Queue) : (s.setQueue q x).scout = s.scout := rfl
@[simp] theorem State.setQueue_hud (s : State) (q : Nat) (x : Queue) : (s.setQueue q x).hud = s.hud := rfl
@[simp] theorem State.setQueue_flow (s : State) (q : Nat) (x : Queue) : (s.setQueue q x).flow = s.flow := rfl
@[simp] theorem State.setQueue_pools (s : State) (q : Nat) (x : Queue) : (s.setQueue q x).pools = s.pools := rfl
@[simp] theorem State.setQueue_vol (s : State) (q : Nat) (x : Queue) : (s.setQueue q x).vol = s.vol := rfl
@[simp] theorem State.setQueue_reb (s : State) (q : Nat) (x : Queue) : (s.setQueue q x).reb = s.reb := rfl
@[simp] theorem State.setQueue_mp (s : State) (q : Nat) (x : Queue) : (s.setQueue q x).mp = s.mp := rfl
@[simp] theorem State.setQueue_mem (s : State) (q : Nat) (x : Queue) : (s.setQueue q x).mem = s.mem := rfl
@[simp] theorem State.setQueue_ref (s : State) (q : Nat) (x : Queue) : (s.setQueue q x).ref = s.ref := rfl
@[simp] theorem State.setQueue_kick (s : State) (q : Nat) (x : Queue) : (s.setQueue q x).kick = s.kick := rfl
@[simp] theorem State.setQueue_obs (s : State) (q : Nat) (x : Queue) : (s.setQueue q x).obs = s.obs := rfl
@[simp] theorem State.setQueue_pins (s : State) (q : Nat) (x : Queue) : (s.setQueue q x).pins = s.pins := rfl
@[simp] theorem State.setQueue_free (s : State) (q : Nat) (x : Queue) : (s.setQueue q x).free = s.free := rfl

/-! ### setPort -/

@[simp] theorem State.setPort_pending (s : State) (l : Nat) (p : Port) : (s.setPort l p).pending = s.pending := rfl
@[simp] theorem State.setPort_gradeB (s : State) (l : Nat) (p : Port) : (s.setPort l p).gradeB = s.gradeB := rfl
@[simp] theorem State.setPort_regs (s : State) (l : Nat) (p : Port) : (s.setPort l p).regs = s.regs := rfl
@[simp] theorem State.setPort_lag (s : State) (l : Nat) (p : Port) : (s.setPort l p).lag = s.lag := rfl
@[simp] theorem State.setPort_staged (s : State) (l : Nat) (p : Port) : (s.setPort l p).staged = s.staged := rfl
@[simp] theorem State.setPort_capt (s : State) (l : Nat) (p : Port) : (s.setPort l p).capt = s.capt := rfl
@[simp] theorem State.setPort_ctxs (s : State) (l : Nat) (p : Port) : (s.setPort l p).ctxs = s.ctxs := rfl
@[simp] theorem State.setPort_icache (s : State) (l : Nat) (p : Port) : (s.setPort l p).icache = s.icache := rfl
@[simp] theorem State.setPort_lastIssue (s : State) (l : Nat) (p : Port) : (s.setPort l p).lastIssue = s.lastIssue := rfl
@[simp] theorem State.setPort_stood (s : State) (l : Nat) (p : Port) : (s.setPort l p).stood = s.stood := rfl
@[simp] theorem State.setPort_slow (s : State) (l : Nat) (p : Port) : (s.setPort l p).slow = s.slow := rfl
@[simp] theorem State.setPort_ps (s : State) (l : Nat) (p : Port) : (s.setPort l p).ps = s.ps := rfl
@[simp] theorem State.setPort_sync (s : State) (l : Nat) (p : Port) : (s.setPort l p).sync = s.sync := rfl
@[simp] theorem State.setPort_syncWr (s : State) (l : Nat) (p : Port) : (s.setPort l p).syncWr = s.syncWr := rfl
@[simp] theorem State.setPort_slots (s : State) (l : Nat) (p : Port) : (s.setPort l p).slots = s.slots := rfl
@[simp] theorem State.setPort_ucmds (s : State) (l : Nat) (p : Port) : (s.setPort l p).ucmds = s.ucmds := rfl
@[simp] theorem State.setPort_step (s : State) (l : Nat) (p : Port) : (s.setPort l p).step = s.step := rfl
@[simp] theorem State.setPort_spcnt (s : State) (l : Nat) (p : Port) : (s.setPort l p).spcnt = s.spcnt := rfl
@[simp] theorem State.setPort_seed (s : State) (l : Nat) (p : Port) : (s.setPort l p).seed = s.seed := rfl
@[simp] theorem State.setPort_seedNext (s : State) (l : Nat) (p : Port) : (s.setPort l p).seedNext = s.seedNext := rfl
@[simp] theorem State.setPort_standing (s : State) (l : Nat) (p : Port) : (s.setPort l p).standing = s.standing := rfl
@[simp] theorem State.setPort_boundary (s : State) (l : Nat) (p : Port) : (s.setPort l p).boundary = s.boundary := rfl
@[simp] theorem State.setPort_arm (s : State) (l : Nat) (p : Port) : (s.setPort l p).arm = s.arm := rfl
@[simp] theorem State.setPort_saving (s : State) (l : Nat) (p : Port) : (s.setPort l p).saving = s.saving := rfl
@[simp] theorem State.setPort_tbl (s : State) (l : Nat) (p : Port) : (s.setPort l p).tbl = s.tbl := rfl
@[simp] theorem State.setPort_adm (s : State) (l : Nat) (p : Port) : (s.setPort l p).adm = s.adm := rfl
@[simp] theorem State.setPort_scout (s : State) (l : Nat) (p : Port) : (s.setPort l p).scout = s.scout := rfl
@[simp] theorem State.setPort_hud (s : State) (l : Nat) (p : Port) : (s.setPort l p).hud = s.hud := rfl
@[simp] theorem State.setPort_queues (s : State) (l : Nat) (p : Port) : (s.setPort l p).queues = s.queues := rfl
@[simp] theorem State.setPort_flow (s : State) (l : Nat) (p : Port) : (s.setPort l p).flow = s.flow := rfl
@[simp] theorem State.setPort_pools (s : State) (l : Nat) (p : Port) : (s.setPort l p).pools = s.pools := rfl
@[simp] theorem State.setPort_reb (s : State) (l : Nat) (p : Port) : (s.setPort l p).reb = s.reb := rfl
@[simp] theorem State.setPort_mp (s : State) (l : Nat) (p : Port) : (s.setPort l p).mp = s.mp := rfl
@[simp] theorem State.setPort_mem (s : State) (l : Nat) (p : Port) : (s.setPort l p).mem = s.mem := rfl
@[simp] theorem State.setPort_ref (s : State) (l : Nat) (p : Port) : (s.setPort l p).ref = s.ref := rfl
@[simp] theorem State.setPort_kick (s : State) (l : Nat) (p : Port) : (s.setPort l p).kick = s.kick := rfl
@[simp] theorem State.setPort_obs (s : State) (l : Nat) (p : Port) : (s.setPort l p).obs = s.obs := rfl
@[simp] theorem State.setPort_pins (s : State) (l : Nat) (p : Port) : (s.setPort l p).pins = s.pins := rfl
@[simp] theorem State.setPort_free (s : State) (l : Nat) (p : Port) : (s.setPort l p).free = s.free := rfl

/-! ### report -/

@[simp] theorem State.report_pending (s : State) (r : FaultRep) : (s.report r).pending = s.pending := rfl
@[simp] theorem State.report_gradeB (s : State) (r : FaultRep) : (s.report r).gradeB = s.gradeB := rfl
@[simp] theorem State.report_regs (s : State) (r : FaultRep) : (s.report r).regs = s.regs := rfl
@[simp] theorem State.report_lag (s : State) (r : FaultRep) : (s.report r).lag = s.lag := rfl
@[simp] theorem State.report_staged (s : State) (r : FaultRep) : (s.report r).staged = s.staged := rfl
@[simp] theorem State.report_capt (s : State) (r : FaultRep) : (s.report r).capt = s.capt := rfl
@[simp] theorem State.report_ctxs (s : State) (r : FaultRep) : (s.report r).ctxs = s.ctxs := rfl
@[simp] theorem State.report_icache (s : State) (r : FaultRep) : (s.report r).icache = s.icache := rfl
@[simp] theorem State.report_lastIssue (s : State) (r : FaultRep) : (s.report r).lastIssue = s.lastIssue := rfl
@[simp] theorem State.report_stood (s : State) (r : FaultRep) : (s.report r).stood = s.stood := rfl
@[simp] theorem State.report_slow (s : State) (r : FaultRep) : (s.report r).slow = s.slow := rfl
@[simp] theorem State.report_ps (s : State) (r : FaultRep) : (s.report r).ps = s.ps := rfl
@[simp] theorem State.report_sync (s : State) (r : FaultRep) : (s.report r).sync = s.sync := rfl
@[simp] theorem State.report_syncWr (s : State) (r : FaultRep) : (s.report r).syncWr = s.syncWr := rfl
@[simp] theorem State.report_slots (s : State) (r : FaultRep) : (s.report r).slots = s.slots := rfl
@[simp] theorem State.report_ucmds (s : State) (r : FaultRep) : (s.report r).ucmds = s.ucmds := rfl
@[simp] theorem State.report_step (s : State) (r : FaultRep) : (s.report r).step = s.step := rfl
@[simp] theorem State.report_spcnt (s : State) (r : FaultRep) : (s.report r).spcnt = s.spcnt := rfl
@[simp] theorem State.report_seed (s : State) (r : FaultRep) : (s.report r).seed = s.seed := rfl
@[simp] theorem State.report_seedNext (s : State) (r : FaultRep) : (s.report r).seedNext = s.seedNext := rfl
@[simp] theorem State.report_standing (s : State) (r : FaultRep) : (s.report r).standing = s.standing := rfl
@[simp] theorem State.report_boundary (s : State) (r : FaultRep) : (s.report r).boundary = s.boundary := rfl
@[simp] theorem State.report_arm (s : State) (r : FaultRep) : (s.report r).arm = s.arm := rfl
@[simp] theorem State.report_saving (s : State) (r : FaultRep) : (s.report r).saving = s.saving := rfl
@[simp] theorem State.report_tbl (s : State) (r : FaultRep) : (s.report r).tbl = s.tbl := rfl
@[simp] theorem State.report_adm (s : State) (r : FaultRep) : (s.report r).adm = s.adm := rfl
@[simp] theorem State.report_scout (s : State) (r : FaultRep) : (s.report r).scout = s.scout := rfl
@[simp] theorem State.report_hud (s : State) (r : FaultRep) : (s.report r).hud = s.hud := rfl
@[simp] theorem State.report_queues (s : State) (r : FaultRep) : (s.report r).queues = s.queues := rfl
@[simp] theorem State.report_flow (s : State) (r : FaultRep) : (s.report r).flow = s.flow := rfl
@[simp] theorem State.report_pools (s : State) (r : FaultRep) : (s.report r).pools = s.pools := rfl
@[simp] theorem State.report_vol (s : State) (r : FaultRep) : (s.report r).vol = s.vol := rfl
@[simp] theorem State.report_reb (s : State) (r : FaultRep) : (s.report r).reb = s.reb := rfl
@[simp] theorem State.report_mp (s : State) (r : FaultRep) : (s.report r).mp = s.mp := rfl
@[simp] theorem State.report_mem (s : State) (r : FaultRep) : (s.report r).mem = s.mem := rfl
@[simp] theorem State.report_kick (s : State) (r : FaultRep) : (s.report r).kick = s.kick := rfl
@[simp] theorem State.report_obs (s : State) (r : FaultRep) : (s.report r).obs = s.obs := rfl
@[simp] theorem State.report_pins (s : State) (r : FaultRep) : (s.report r).pins = s.pins := rfl
@[simp] theorem State.report_free (s : State) (r : FaultRep) : (s.report r).free = s.free := rfl

/-! ### countRec -/

@[simp] theorem State.countRec_pending (s : State) (f h n : Nat) : (s.countRec f h n).pending = s.pending := rfl
@[simp] theorem State.countRec_gradeB (s : State) (f h n : Nat) : (s.countRec f h n).gradeB = s.gradeB := rfl
@[simp] theorem State.countRec_regs (s : State) (f h n : Nat) : (s.countRec f h n).regs = s.regs := rfl
@[simp] theorem State.countRec_lag (s : State) (f h n : Nat) : (s.countRec f h n).lag = s.lag := rfl
@[simp] theorem State.countRec_staged (s : State) (f h n : Nat) : (s.countRec f h n).staged = s.staged := rfl
@[simp] theorem State.countRec_capt (s : State) (f h n : Nat) : (s.countRec f h n).capt = s.capt := rfl
@[simp] theorem State.countRec_ctxs (s : State) (f h n : Nat) : (s.countRec f h n).ctxs = s.ctxs := rfl
@[simp] theorem State.countRec_icache (s : State) (f h n : Nat) : (s.countRec f h n).icache = s.icache := rfl
@[simp] theorem State.countRec_lastIssue (s : State) (f h n : Nat) : (s.countRec f h n).lastIssue = s.lastIssue := rfl
@[simp] theorem State.countRec_stood (s : State) (f h n : Nat) : (s.countRec f h n).stood = s.stood := rfl
@[simp] theorem State.countRec_slow (s : State) (f h n : Nat) : (s.countRec f h n).slow = s.slow := rfl
@[simp] theorem State.countRec_ps (s : State) (f h n : Nat) : (s.countRec f h n).ps = s.ps := rfl
@[simp] theorem State.countRec_sync (s : State) (f h n : Nat) : (s.countRec f h n).sync = s.sync := rfl
@[simp] theorem State.countRec_syncWr (s : State) (f h n : Nat) : (s.countRec f h n).syncWr = s.syncWr := rfl
@[simp] theorem State.countRec_slots (s : State) (f h n : Nat) : (s.countRec f h n).slots = s.slots := rfl
@[simp] theorem State.countRec_ucmds (s : State) (f h n : Nat) : (s.countRec f h n).ucmds = s.ucmds := rfl
@[simp] theorem State.countRec_step (s : State) (f h n : Nat) : (s.countRec f h n).step = s.step := rfl
@[simp] theorem State.countRec_spcnt (s : State) (f h n : Nat) : (s.countRec f h n).spcnt = s.spcnt := rfl
@[simp] theorem State.countRec_seed (s : State) (f h n : Nat) : (s.countRec f h n).seed = s.seed := rfl
@[simp] theorem State.countRec_seedNext (s : State) (f h n : Nat) : (s.countRec f h n).seedNext = s.seedNext := rfl
@[simp] theorem State.countRec_standing (s : State) (f h n : Nat) : (s.countRec f h n).standing = s.standing := rfl
@[simp] theorem State.countRec_boundary (s : State) (f h n : Nat) : (s.countRec f h n).boundary = s.boundary := rfl
@[simp] theorem State.countRec_arm (s : State) (f h n : Nat) : (s.countRec f h n).arm = s.arm := rfl
@[simp] theorem State.countRec_saving (s : State) (f h n : Nat) : (s.countRec f h n).saving = s.saving := rfl
@[simp] theorem State.countRec_tbl (s : State) (f h n : Nat) : (s.countRec f h n).tbl = s.tbl := rfl
@[simp] theorem State.countRec_scout (s : State) (f h n : Nat) : (s.countRec f h n).scout = s.scout := rfl
@[simp] theorem State.countRec_hud (s : State) (f h n : Nat) : (s.countRec f h n).hud = s.hud := rfl
@[simp] theorem State.countRec_queues (s : State) (f h n : Nat) : (s.countRec f h n).queues = s.queues := rfl
@[simp] theorem State.countRec_flow (s : State) (f h n : Nat) : (s.countRec f h n).flow = s.flow := rfl
@[simp] theorem State.countRec_pools (s : State) (f h n : Nat) : (s.countRec f h n).pools = s.pools := rfl
@[simp] theorem State.countRec_vol (s : State) (f h n : Nat) : (s.countRec f h n).vol = s.vol := rfl
@[simp] theorem State.countRec_reb (s : State) (f h n : Nat) : (s.countRec f h n).reb = s.reb := rfl
@[simp] theorem State.countRec_mp (s : State) (f h n : Nat) : (s.countRec f h n).mp = s.mp := rfl
@[simp] theorem State.countRec_mem (s : State) (f h n : Nat) : (s.countRec f h n).mem = s.mem := rfl
@[simp] theorem State.countRec_ref (s : State) (f h n : Nat) : (s.countRec f h n).ref = s.ref := rfl
@[simp] theorem State.countRec_kick (s : State) (f h n : Nat) : (s.countRec f h n).kick = s.kick := rfl
@[simp] theorem State.countRec_obs (s : State) (f h n : Nat) : (s.countRec f h n).obs = s.obs := rfl
@[simp] theorem State.countRec_pins (s : State) (f h n : Nat) : (s.countRec f h n).pins = s.pins := rfl
@[simp] theorem State.countRec_free (s : State) (f h n : Nat) : (s.countRec f h n).free = s.free := rfl

/-! ### putCmd -/

@[simp] theorem State.putCmd_pending (s : State) (u : UCmd) : (s.putCmd u).pending = s.pending := rfl
@[simp] theorem State.putCmd_gradeB (s : State) (u : UCmd) : (s.putCmd u).gradeB = s.gradeB := rfl
@[simp] theorem State.putCmd_regs (s : State) (u : UCmd) : (s.putCmd u).regs = s.regs := rfl
@[simp] theorem State.putCmd_lag (s : State) (u : UCmd) : (s.putCmd u).lag = s.lag := rfl
@[simp] theorem State.putCmd_staged (s : State) (u : UCmd) : (s.putCmd u).staged = s.staged := rfl
@[simp] theorem State.putCmd_capt (s : State) (u : UCmd) : (s.putCmd u).capt = s.capt := rfl
@[simp] theorem State.putCmd_ctxs (s : State) (u : UCmd) : (s.putCmd u).ctxs = s.ctxs := rfl
@[simp] theorem State.putCmd_icache (s : State) (u : UCmd) : (s.putCmd u).icache = s.icache := rfl
@[simp] theorem State.putCmd_lastIssue (s : State) (u : UCmd) : (s.putCmd u).lastIssue = s.lastIssue := rfl
@[simp] theorem State.putCmd_stood (s : State) (u : UCmd) : (s.putCmd u).stood = s.stood := rfl
@[simp] theorem State.putCmd_slow (s : State) (u : UCmd) : (s.putCmd u).slow = s.slow := rfl
@[simp] theorem State.putCmd_ps (s : State) (u : UCmd) : (s.putCmd u).ps = s.ps := rfl
@[simp] theorem State.putCmd_sync (s : State) (u : UCmd) : (s.putCmd u).sync = s.sync := rfl
@[simp] theorem State.putCmd_syncWr (s : State) (u : UCmd) : (s.putCmd u).syncWr = s.syncWr := rfl
@[simp] theorem State.putCmd_slots (s : State) (u : UCmd) : (s.putCmd u).slots = s.slots := rfl
@[simp] theorem State.putCmd_step (s : State) (u : UCmd) : (s.putCmd u).step = s.step := rfl
@[simp] theorem State.putCmd_spcnt (s : State) (u : UCmd) : (s.putCmd u).spcnt = s.spcnt := rfl
@[simp] theorem State.putCmd_seed (s : State) (u : UCmd) : (s.putCmd u).seed = s.seed := rfl
@[simp] theorem State.putCmd_seedNext (s : State) (u : UCmd) : (s.putCmd u).seedNext = s.seedNext := rfl
@[simp] theorem State.putCmd_standing (s : State) (u : UCmd) : (s.putCmd u).standing = s.standing := rfl
@[simp] theorem State.putCmd_boundary (s : State) (u : UCmd) : (s.putCmd u).boundary = s.boundary := rfl
@[simp] theorem State.putCmd_arm (s : State) (u : UCmd) : (s.putCmd u).arm = s.arm := rfl
@[simp] theorem State.putCmd_saving (s : State) (u : UCmd) : (s.putCmd u).saving = s.saving := rfl
@[simp] theorem State.putCmd_tbl (s : State) (u : UCmd) : (s.putCmd u).tbl = s.tbl := rfl
@[simp] theorem State.putCmd_adm (s : State) (u : UCmd) : (s.putCmd u).adm = s.adm := rfl
@[simp] theorem State.putCmd_scout (s : State) (u : UCmd) : (s.putCmd u).scout = s.scout := rfl
@[simp] theorem State.putCmd_hud (s : State) (u : UCmd) : (s.putCmd u).hud = s.hud := rfl
@[simp] theorem State.putCmd_queues (s : State) (u : UCmd) : (s.putCmd u).queues = s.queues := rfl
@[simp] theorem State.putCmd_flow (s : State) (u : UCmd) : (s.putCmd u).flow = s.flow := rfl
@[simp] theorem State.putCmd_pools (s : State) (u : UCmd) : (s.putCmd u).pools = s.pools := rfl
@[simp] theorem State.putCmd_vol (s : State) (u : UCmd) : (s.putCmd u).vol = s.vol := rfl
@[simp] theorem State.putCmd_reb (s : State) (u : UCmd) : (s.putCmd u).reb = s.reb := rfl
@[simp] theorem State.putCmd_mp (s : State) (u : UCmd) : (s.putCmd u).mp = s.mp := rfl
@[simp] theorem State.putCmd_mem (s : State) (u : UCmd) : (s.putCmd u).mem = s.mem := rfl
@[simp] theorem State.putCmd_ref (s : State) (u : UCmd) : (s.putCmd u).ref = s.ref := rfl
@[simp] theorem State.putCmd_kick (s : State) (u : UCmd) : (s.putCmd u).kick = s.kick := rfl
@[simp] theorem State.putCmd_obs (s : State) (u : UCmd) : (s.putCmd u).obs = s.obs := rfl
@[simp] theorem State.putCmd_pins (s : State) (u : UCmd) : (s.putCmd u).pins = s.pins := rfl
@[simp] theorem State.putCmd_free (s : State) (u : UCmd) : (s.putCmd u).free = s.free := rfl

/-! ### nextEntry -/

@[simp] theorem State.nextEntry_pending (s : State) (c : Nat) : (s.nextEntry c).pending = s.pending := rfl
@[simp] theorem State.nextEntry_gradeB (s : State) (c : Nat) : (s.nextEntry c).gradeB = s.gradeB := rfl
@[simp] theorem State.nextEntry_regs (s : State) (c : Nat) : (s.nextEntry c).regs = s.regs := rfl
@[simp] theorem State.nextEntry_lag (s : State) (c : Nat) : (s.nextEntry c).lag = s.lag := rfl
@[simp] theorem State.nextEntry_staged (s : State) (c : Nat) : (s.nextEntry c).staged = s.staged := rfl
@[simp] theorem State.nextEntry_capt (s : State) (c : Nat) : (s.nextEntry c).capt = s.capt := rfl
@[simp] theorem State.nextEntry_ctxs (s : State) (c : Nat) : (s.nextEntry c).ctxs = s.ctxs := rfl
@[simp] theorem State.nextEntry_icache (s : State) (c : Nat) : (s.nextEntry c).icache = s.icache := rfl
@[simp] theorem State.nextEntry_lastIssue (s : State) (c : Nat) : (s.nextEntry c).lastIssue = s.lastIssue := rfl
@[simp] theorem State.nextEntry_stood (s : State) (c : Nat) : (s.nextEntry c).stood = s.stood := rfl
@[simp] theorem State.nextEntry_slow (s : State) (c : Nat) : (s.nextEntry c).slow = s.slow := rfl
@[simp] theorem State.nextEntry_ps (s : State) (c : Nat) : (s.nextEntry c).ps = s.ps := rfl
@[simp] theorem State.nextEntry_sync (s : State) (c : Nat) : (s.nextEntry c).sync = s.sync := rfl
@[simp] theorem State.nextEntry_syncWr (s : State) (c : Nat) : (s.nextEntry c).syncWr = s.syncWr := rfl
@[simp] theorem State.nextEntry_slots (s : State) (c : Nat) : (s.nextEntry c).slots = s.slots := rfl
@[simp] theorem State.nextEntry_ucmds (s : State) (c : Nat) : (s.nextEntry c).ucmds = s.ucmds := rfl
@[simp] theorem State.nextEntry_step (s : State) (c : Nat) : (s.nextEntry c).step = s.step := rfl
@[simp] theorem State.nextEntry_spcnt (s : State) (c : Nat) : (s.nextEntry c).spcnt = s.spcnt := rfl
@[simp] theorem State.nextEntry_seed (s : State) (c : Nat) : (s.nextEntry c).seed = s.seed := rfl
@[simp] theorem State.nextEntry_seedNext (s : State) (c : Nat) : (s.nextEntry c).seedNext = s.seedNext := rfl
@[simp] theorem State.nextEntry_standing (s : State) (c : Nat) : (s.nextEntry c).standing = s.standing := rfl
@[simp] theorem State.nextEntry_boundary (s : State) (c : Nat) : (s.nextEntry c).boundary = s.boundary := rfl
@[simp] theorem State.nextEntry_arm (s : State) (c : Nat) : (s.nextEntry c).arm = s.arm := rfl
@[simp] theorem State.nextEntry_saving (s : State) (c : Nat) : (s.nextEntry c).saving = s.saving := rfl
@[simp] theorem State.nextEntry_tbl (s : State) (c : Nat) : (s.nextEntry c).tbl = s.tbl := rfl
@[simp] theorem State.nextEntry_adm (s : State) (c : Nat) : (s.nextEntry c).adm = s.adm := rfl
@[simp] theorem State.nextEntry_scout (s : State) (c : Nat) : (s.nextEntry c).scout = s.scout := rfl
@[simp] theorem State.nextEntry_hud (s : State) (c : Nat) : (s.nextEntry c).hud = s.hud := rfl
@[simp] theorem State.nextEntry_queues (s : State) (c : Nat) : (s.nextEntry c).queues = s.queues := rfl
@[simp] theorem State.nextEntry_flow (s : State) (c : Nat) : (s.nextEntry c).flow = s.flow := rfl
@[simp] theorem State.nextEntry_pools (s : State) (c : Nat) : (s.nextEntry c).pools = s.pools := rfl
@[simp] theorem State.nextEntry_vol (s : State) (c : Nat) : (s.nextEntry c).vol = s.vol := rfl
@[simp] theorem State.nextEntry_reb (s : State) (c : Nat) : (s.nextEntry c).reb = s.reb := rfl
@[simp] theorem State.nextEntry_mp (s : State) (c : Nat) : (s.nextEntry c).mp = s.mp := rfl
@[simp] theorem State.nextEntry_mem (s : State) (c : Nat) : (s.nextEntry c).mem = s.mem := rfl
@[simp] theorem State.nextEntry_kick (s : State) (c : Nat) : (s.nextEntry c).kick = s.kick := rfl
@[simp] theorem State.nextEntry_obs (s : State) (c : Nat) : (s.nextEntry c).obs = s.obs := rfl
@[simp] theorem State.nextEntry_pins (s : State) (c : Nat) : (s.nextEntry c).pins = s.pins := rfl
@[simp] theorem State.nextEntry_free (s : State) (c : Nat) : (s.nextEntry c).free = s.free := rfl

/-! ### closeEntry -/

@[simp] theorem State.closeEntry_pending (s : State) (c : Nat) (unit : Bool) (serial : BitVec 16) (r : UResult) : (s.closeEntry c unit serial r).pending = s.pending := rfl
@[simp] theorem State.closeEntry_gradeB (s : State) (c : Nat) (unit : Bool) (serial : BitVec 16) (r : UResult) : (s.closeEntry c unit serial r).gradeB = s.gradeB := rfl
@[simp] theorem State.closeEntry_regs (s : State) (c : Nat) (unit : Bool) (serial : BitVec 16) (r : UResult) : (s.closeEntry c unit serial r).regs = s.regs := rfl
@[simp] theorem State.closeEntry_lag (s : State) (c : Nat) (unit : Bool) (serial : BitVec 16) (r : UResult) : (s.closeEntry c unit serial r).lag = s.lag := rfl
@[simp] theorem State.closeEntry_staged (s : State) (c : Nat) (unit : Bool) (serial : BitVec 16) (r : UResult) : (s.closeEntry c unit serial r).staged = s.staged := rfl
@[simp] theorem State.closeEntry_capt (s : State) (c : Nat) (unit : Bool) (serial : BitVec 16) (r : UResult) : (s.closeEntry c unit serial r).capt = s.capt := rfl
@[simp] theorem State.closeEntry_ctxs (s : State) (c : Nat) (unit : Bool) (serial : BitVec 16) (r : UResult) : (s.closeEntry c unit serial r).ctxs = s.ctxs := rfl
@[simp] theorem State.closeEntry_icache (s : State) (c : Nat) (unit : Bool) (serial : BitVec 16) (r : UResult) : (s.closeEntry c unit serial r).icache = s.icache := rfl
@[simp] theorem State.closeEntry_lastIssue (s : State) (c : Nat) (unit : Bool) (serial : BitVec 16) (r : UResult) : (s.closeEntry c unit serial r).lastIssue = s.lastIssue := rfl
@[simp] theorem State.closeEntry_stood (s : State) (c : Nat) (unit : Bool) (serial : BitVec 16) (r : UResult) : (s.closeEntry c unit serial r).stood = s.stood := rfl
@[simp] theorem State.closeEntry_slow (s : State) (c : Nat) (unit : Bool) (serial : BitVec 16) (r : UResult) : (s.closeEntry c unit serial r).slow = s.slow := rfl
@[simp] theorem State.closeEntry_ps (s : State) (c : Nat) (unit : Bool) (serial : BitVec 16) (r : UResult) : (s.closeEntry c unit serial r).ps = s.ps := rfl
@[simp] theorem State.closeEntry_sync (s : State) (c : Nat) (unit : Bool) (serial : BitVec 16) (r : UResult) : (s.closeEntry c unit serial r).sync = s.sync := rfl
@[simp] theorem State.closeEntry_syncWr (s : State) (c : Nat) (unit : Bool) (serial : BitVec 16) (r : UResult) : (s.closeEntry c unit serial r).syncWr = s.syncWr := rfl
@[simp] theorem State.closeEntry_slots (s : State) (c : Nat) (unit : Bool) (serial : BitVec 16) (r : UResult) : (s.closeEntry c unit serial r).slots = s.slots := rfl
@[simp] theorem State.closeEntry_ucmds (s : State) (c : Nat) (unit : Bool) (serial : BitVec 16) (r : UResult) : (s.closeEntry c unit serial r).ucmds = s.ucmds := rfl
@[simp] theorem State.closeEntry_step (s : State) (c : Nat) (unit : Bool) (serial : BitVec 16) (r : UResult) : (s.closeEntry c unit serial r).step = s.step := rfl
@[simp] theorem State.closeEntry_spcnt (s : State) (c : Nat) (unit : Bool) (serial : BitVec 16) (r : UResult) : (s.closeEntry c unit serial r).spcnt = s.spcnt := rfl
@[simp] theorem State.closeEntry_seed (s : State) (c : Nat) (unit : Bool) (serial : BitVec 16) (r : UResult) : (s.closeEntry c unit serial r).seed = s.seed := rfl
@[simp] theorem State.closeEntry_seedNext (s : State) (c : Nat) (unit : Bool) (serial : BitVec 16) (r : UResult) : (s.closeEntry c unit serial r).seedNext = s.seedNext := rfl
@[simp] theorem State.closeEntry_standing (s : State) (c : Nat) (unit : Bool) (serial : BitVec 16) (r : UResult) : (s.closeEntry c unit serial r).standing = s.standing := rfl
@[simp] theorem State.closeEntry_boundary (s : State) (c : Nat) (unit : Bool) (serial : BitVec 16) (r : UResult) : (s.closeEntry c unit serial r).boundary = s.boundary := rfl
@[simp] theorem State.closeEntry_arm (s : State) (c : Nat) (unit : Bool) (serial : BitVec 16) (r : UResult) : (s.closeEntry c unit serial r).arm = s.arm := rfl
@[simp] theorem State.closeEntry_saving (s : State) (c : Nat) (unit : Bool) (serial : BitVec 16) (r : UResult) : (s.closeEntry c unit serial r).saving = s.saving := rfl
@[simp] theorem State.closeEntry_tbl (s : State) (c : Nat) (unit : Bool) (serial : BitVec 16) (r : UResult) : (s.closeEntry c unit serial r).tbl = s.tbl := rfl
@[simp] theorem State.closeEntry_adm (s : State) (c : Nat) (unit : Bool) (serial : BitVec 16) (r : UResult) : (s.closeEntry c unit serial r).adm = s.adm := rfl
@[simp] theorem State.closeEntry_scout (s : State) (c : Nat) (unit : Bool) (serial : BitVec 16) (r : UResult) : (s.closeEntry c unit serial r).scout = s.scout := rfl
@[simp] theorem State.closeEntry_hud (s : State) (c : Nat) (unit : Bool) (serial : BitVec 16) (r : UResult) : (s.closeEntry c unit serial r).hud = s.hud := rfl
@[simp] theorem State.closeEntry_queues (s : State) (c : Nat) (unit : Bool) (serial : BitVec 16) (r : UResult) : (s.closeEntry c unit serial r).queues = s.queues := rfl
@[simp] theorem State.closeEntry_flow (s : State) (c : Nat) (unit : Bool) (serial : BitVec 16) (r : UResult) : (s.closeEntry c unit serial r).flow = s.flow := rfl
@[simp] theorem State.closeEntry_pools (s : State) (c : Nat) (unit : Bool) (serial : BitVec 16) (r : UResult) : (s.closeEntry c unit serial r).pools = s.pools := rfl
@[simp] theorem State.closeEntry_vol (s : State) (c : Nat) (unit : Bool) (serial : BitVec 16) (r : UResult) : (s.closeEntry c unit serial r).vol = s.vol := rfl
@[simp] theorem State.closeEntry_reb (s : State) (c : Nat) (unit : Bool) (serial : BitVec 16) (r : UResult) : (s.closeEntry c unit serial r).reb = s.reb := rfl
@[simp] theorem State.closeEntry_mp (s : State) (c : Nat) (unit : Bool) (serial : BitVec 16) (r : UResult) : (s.closeEntry c unit serial r).mp = s.mp := rfl
@[simp] theorem State.closeEntry_mem (s : State) (c : Nat) (unit : Bool) (serial : BitVec 16) (r : UResult) : (s.closeEntry c unit serial r).mem = s.mem := rfl
@[simp] theorem State.closeEntry_kick (s : State) (c : Nat) (unit : Bool) (serial : BitVec 16) (r : UResult) : (s.closeEntry c unit serial r).kick = s.kick := rfl
@[simp] theorem State.closeEntry_obs (s : State) (c : Nat) (unit : Bool) (serial : BitVec 16) (r : UResult) : (s.closeEntry c unit serial r).obs = s.obs := rfl
@[simp] theorem State.closeEntry_pins (s : State) (c : Nat) (unit : Bool) (serial : BitVec 16) (r : UResult) : (s.closeEntry c unit serial r).pins = s.pins := rfl
@[simp] theorem State.closeEntry_free (s : State) (c : Nat) (unit : Bool) (serial : BitVec 16) (r : UResult) : (s.closeEntry c unit serial r).free = s.free := rfl

/-! ### halfEntry -/

@[simp] theorem State.halfEntry_pending (s : State) (c : Nat) (serial : BitVec 16) (h : Option Half) : (s.halfEntry c serial h).pending = s.pending := rfl
@[simp] theorem State.halfEntry_gradeB (s : State) (c : Nat) (serial : BitVec 16) (h : Option Half) : (s.halfEntry c serial h).gradeB = s.gradeB := rfl
@[simp] theorem State.halfEntry_regs (s : State) (c : Nat) (serial : BitVec 16) (h : Option Half) : (s.halfEntry c serial h).regs = s.regs := rfl
@[simp] theorem State.halfEntry_lag (s : State) (c : Nat) (serial : BitVec 16) (h : Option Half) : (s.halfEntry c serial h).lag = s.lag := rfl
@[simp] theorem State.halfEntry_staged (s : State) (c : Nat) (serial : BitVec 16) (h : Option Half) : (s.halfEntry c serial h).staged = s.staged := rfl
@[simp] theorem State.halfEntry_capt (s : State) (c : Nat) (serial : BitVec 16) (h : Option Half) : (s.halfEntry c serial h).capt = s.capt := rfl
@[simp] theorem State.halfEntry_ctxs (s : State) (c : Nat) (serial : BitVec 16) (h : Option Half) : (s.halfEntry c serial h).ctxs = s.ctxs := rfl
@[simp] theorem State.halfEntry_icache (s : State) (c : Nat) (serial : BitVec 16) (h : Option Half) : (s.halfEntry c serial h).icache = s.icache := rfl
@[simp] theorem State.halfEntry_lastIssue (s : State) (c : Nat) (serial : BitVec 16) (h : Option Half) : (s.halfEntry c serial h).lastIssue = s.lastIssue := rfl
@[simp] theorem State.halfEntry_stood (s : State) (c : Nat) (serial : BitVec 16) (h : Option Half) : (s.halfEntry c serial h).stood = s.stood := rfl
@[simp] theorem State.halfEntry_slow (s : State) (c : Nat) (serial : BitVec 16) (h : Option Half) : (s.halfEntry c serial h).slow = s.slow := rfl
@[simp] theorem State.halfEntry_ps (s : State) (c : Nat) (serial : BitVec 16) (h : Option Half) : (s.halfEntry c serial h).ps = s.ps := rfl
@[simp] theorem State.halfEntry_sync (s : State) (c : Nat) (serial : BitVec 16) (h : Option Half) : (s.halfEntry c serial h).sync = s.sync := rfl
@[simp] theorem State.halfEntry_syncWr (s : State) (c : Nat) (serial : BitVec 16) (h : Option Half) : (s.halfEntry c serial h).syncWr = s.syncWr := rfl
@[simp] theorem State.halfEntry_slots (s : State) (c : Nat) (serial : BitVec 16) (h : Option Half) : (s.halfEntry c serial h).slots = s.slots := rfl
@[simp] theorem State.halfEntry_ucmds (s : State) (c : Nat) (serial : BitVec 16) (h : Option Half) : (s.halfEntry c serial h).ucmds = s.ucmds := rfl
@[simp] theorem State.halfEntry_step (s : State) (c : Nat) (serial : BitVec 16) (h : Option Half) : (s.halfEntry c serial h).step = s.step := rfl
@[simp] theorem State.halfEntry_spcnt (s : State) (c : Nat) (serial : BitVec 16) (h : Option Half) : (s.halfEntry c serial h).spcnt = s.spcnt := rfl
@[simp] theorem State.halfEntry_seed (s : State) (c : Nat) (serial : BitVec 16) (h : Option Half) : (s.halfEntry c serial h).seed = s.seed := rfl
@[simp] theorem State.halfEntry_seedNext (s : State) (c : Nat) (serial : BitVec 16) (h : Option Half) : (s.halfEntry c serial h).seedNext = s.seedNext := rfl
@[simp] theorem State.halfEntry_standing (s : State) (c : Nat) (serial : BitVec 16) (h : Option Half) : (s.halfEntry c serial h).standing = s.standing := rfl
@[simp] theorem State.halfEntry_boundary (s : State) (c : Nat) (serial : BitVec 16) (h : Option Half) : (s.halfEntry c serial h).boundary = s.boundary := rfl
@[simp] theorem State.halfEntry_arm (s : State) (c : Nat) (serial : BitVec 16) (h : Option Half) : (s.halfEntry c serial h).arm = s.arm := rfl
@[simp] theorem State.halfEntry_saving (s : State) (c : Nat) (serial : BitVec 16) (h : Option Half) : (s.halfEntry c serial h).saving = s.saving := rfl
@[simp] theorem State.halfEntry_tbl (s : State) (c : Nat) (serial : BitVec 16) (h : Option Half) : (s.halfEntry c serial h).tbl = s.tbl := rfl
@[simp] theorem State.halfEntry_adm (s : State) (c : Nat) (serial : BitVec 16) (h : Option Half) : (s.halfEntry c serial h).adm = s.adm := rfl
@[simp] theorem State.halfEntry_scout (s : State) (c : Nat) (serial : BitVec 16) (h : Option Half) : (s.halfEntry c serial h).scout = s.scout := rfl
@[simp] theorem State.halfEntry_hud (s : State) (c : Nat) (serial : BitVec 16) (h : Option Half) : (s.halfEntry c serial h).hud = s.hud := rfl
@[simp] theorem State.halfEntry_queues (s : State) (c : Nat) (serial : BitVec 16) (h : Option Half) : (s.halfEntry c serial h).queues = s.queues := rfl
@[simp] theorem State.halfEntry_flow (s : State) (c : Nat) (serial : BitVec 16) (h : Option Half) : (s.halfEntry c serial h).flow = s.flow := rfl
@[simp] theorem State.halfEntry_pools (s : State) (c : Nat) (serial : BitVec 16) (h : Option Half) : (s.halfEntry c serial h).pools = s.pools := rfl
@[simp] theorem State.halfEntry_vol (s : State) (c : Nat) (serial : BitVec 16) (h : Option Half) : (s.halfEntry c serial h).vol = s.vol := rfl
@[simp] theorem State.halfEntry_reb (s : State) (c : Nat) (serial : BitVec 16) (h : Option Half) : (s.halfEntry c serial h).reb = s.reb := rfl
@[simp] theorem State.halfEntry_mp (s : State) (c : Nat) (serial : BitVec 16) (h : Option Half) : (s.halfEntry c serial h).mp = s.mp := rfl
@[simp] theorem State.halfEntry_mem (s : State) (c : Nat) (serial : BitVec 16) (h : Option Half) : (s.halfEntry c serial h).mem = s.mem := rfl
@[simp] theorem State.halfEntry_kick (s : State) (c : Nat) (serial : BitVec 16) (h : Option Half) : (s.halfEntry c serial h).kick = s.kick := rfl
@[simp] theorem State.halfEntry_obs (s : State) (c : Nat) (serial : BitVec 16) (h : Option Half) : (s.halfEntry c serial h).obs = s.obs := rfl
@[simp] theorem State.halfEntry_pins (s : State) (c : Nat) (serial : BitVec 16) (h : Option Half) : (s.halfEntry c serial h).pins = s.pins := rfl
@[simp] theorem State.halfEntry_free (s : State) (c : Nat) (serial : BitVec 16) (h : Option Half) : (s.halfEntry c serial h).free = s.free := rfl

/-! ### setStack -/

@[simp] theorem State.setStack_pending (s : State) (k : Nat) (x : Stack) : (s.setStack k x).pending = s.pending := rfl
@[simp] theorem State.setStack_gradeB (s : State) (k : Nat) (x : Stack) : (s.setStack k x).gradeB = s.gradeB := rfl
@[simp] theorem State.setStack_regs (s : State) (k : Nat) (x : Stack) : (s.setStack k x).regs = s.regs := rfl
@[simp] theorem State.setStack_lag (s : State) (k : Nat) (x : Stack) : (s.setStack k x).lag = s.lag := rfl
@[simp] theorem State.setStack_staged (s : State) (k : Nat) (x : Stack) : (s.setStack k x).staged = s.staged := rfl
@[simp] theorem State.setStack_capt (s : State) (k : Nat) (x : Stack) : (s.setStack k x).capt = s.capt := rfl
@[simp] theorem State.setStack_ctxs (s : State) (k : Nat) (x : Stack) : (s.setStack k x).ctxs = s.ctxs := rfl
@[simp] theorem State.setStack_icache (s : State) (k : Nat) (x : Stack) : (s.setStack k x).icache = s.icache := rfl
@[simp] theorem State.setStack_lastIssue (s : State) (k : Nat) (x : Stack) : (s.setStack k x).lastIssue = s.lastIssue := rfl
@[simp] theorem State.setStack_stood (s : State) (k : Nat) (x : Stack) : (s.setStack k x).stood = s.stood := rfl
@[simp] theorem State.setStack_slow (s : State) (k : Nat) (x : Stack) : (s.setStack k x).slow = s.slow := rfl
@[simp] theorem State.setStack_ps (s : State) (k : Nat) (x : Stack) : (s.setStack k x).ps = s.ps := rfl
@[simp] theorem State.setStack_sync (s : State) (k : Nat) (x : Stack) : (s.setStack k x).sync = s.sync := rfl
@[simp] theorem State.setStack_syncWr (s : State) (k : Nat) (x : Stack) : (s.setStack k x).syncWr = s.syncWr := rfl
@[simp] theorem State.setStack_slots (s : State) (k : Nat) (x : Stack) : (s.setStack k x).slots = s.slots := rfl
@[simp] theorem State.setStack_ucmds (s : State) (k : Nat) (x : Stack) : (s.setStack k x).ucmds = s.ucmds := rfl
@[simp] theorem State.setStack_step (s : State) (k : Nat) (x : Stack) : (s.setStack k x).step = s.step := rfl
@[simp] theorem State.setStack_spcnt (s : State) (k : Nat) (x : Stack) : (s.setStack k x).spcnt = s.spcnt := rfl
@[simp] theorem State.setStack_seed (s : State) (k : Nat) (x : Stack) : (s.setStack k x).seed = s.seed := rfl
@[simp] theorem State.setStack_seedNext (s : State) (k : Nat) (x : Stack) : (s.setStack k x).seedNext = s.seedNext := rfl
@[simp] theorem State.setStack_standing (s : State) (k : Nat) (x : Stack) : (s.setStack k x).standing = s.standing := rfl
@[simp] theorem State.setStack_boundary (s : State) (k : Nat) (x : Stack) : (s.setStack k x).boundary = s.boundary := rfl
@[simp] theorem State.setStack_arm (s : State) (k : Nat) (x : Stack) : (s.setStack k x).arm = s.arm := rfl
@[simp] theorem State.setStack_saving (s : State) (k : Nat) (x : Stack) : (s.setStack k x).saving = s.saving := rfl
@[simp] theorem State.setStack_tbl (s : State) (k : Nat) (x : Stack) : (s.setStack k x).tbl = s.tbl := rfl
@[simp] theorem State.setStack_adm (s : State) (k : Nat) (x : Stack) : (s.setStack k x).adm = s.adm := rfl
@[simp] theorem State.setStack_scout (s : State) (k : Nat) (x : Stack) : (s.setStack k x).scout = s.scout := rfl
@[simp] theorem State.setStack_hud (s : State) (k : Nat) (x : Stack) : (s.setStack k x).hud = s.hud := rfl
@[simp] theorem State.setStack_queues (s : State) (k : Nat) (x : Stack) : (s.setStack k x).queues = s.queues := rfl
@[simp] theorem State.setStack_flow (s : State) (k : Nat) (x : Stack) : (s.setStack k x).flow = s.flow := rfl
@[simp] theorem State.setStack_pools (s : State) (k : Nat) (x : Stack) : (s.setStack k x).pools = s.pools := rfl
@[simp] theorem State.setStack_vol (s : State) (k : Nat) (x : Stack) : (s.setStack k x).vol = s.vol := rfl
@[simp] theorem State.setStack_reb (s : State) (k : Nat) (x : Stack) : (s.setStack k x).reb = s.reb := rfl
@[simp] theorem State.setStack_mem (s : State) (k : Nat) (x : Stack) : (s.setStack k x).mem = s.mem := rfl
@[simp] theorem State.setStack_ref (s : State) (k : Nat) (x : Stack) : (s.setStack k x).ref = s.ref := rfl
@[simp] theorem State.setStack_kick (s : State) (k : Nat) (x : Stack) : (s.setStack k x).kick = s.kick := rfl
@[simp] theorem State.setStack_obs (s : State) (k : Nat) (x : Stack) : (s.setStack k x).obs = s.obs := rfl
@[simp] theorem State.setStack_pins (s : State) (k : Nat) (x : Stack) : (s.setStack k x).pins = s.pins := rfl
@[simp] theorem State.setStack_free (s : State) (k : Nat) (x : Stack) : (s.setStack k x).free = s.free := rfl

/-! ### setImg -/

@[simp] theorem State.setImg_pending (s : State) (w : Nat) (v : Word) : (s.setImg w v).pending = s.pending := rfl
@[simp] theorem State.setImg_gradeB (s : State) (w : Nat) (v : Word) : (s.setImg w v).gradeB = s.gradeB := rfl
@[simp] theorem State.setImg_regs (s : State) (w : Nat) (v : Word) : (s.setImg w v).regs = s.regs := rfl
@[simp] theorem State.setImg_lag (s : State) (w : Nat) (v : Word) : (s.setImg w v).lag = s.lag := rfl
@[simp] theorem State.setImg_staged (s : State) (w : Nat) (v : Word) : (s.setImg w v).staged = s.staged := rfl
@[simp] theorem State.setImg_capt (s : State) (w : Nat) (v : Word) : (s.setImg w v).capt = s.capt := rfl
@[simp] theorem State.setImg_ctxs (s : State) (w : Nat) (v : Word) : (s.setImg w v).ctxs = s.ctxs := rfl
@[simp] theorem State.setImg_icache (s : State) (w : Nat) (v : Word) : (s.setImg w v).icache = s.icache := rfl
@[simp] theorem State.setImg_lastIssue (s : State) (w : Nat) (v : Word) : (s.setImg w v).lastIssue = s.lastIssue := rfl
@[simp] theorem State.setImg_stood (s : State) (w : Nat) (v : Word) : (s.setImg w v).stood = s.stood := rfl
@[simp] theorem State.setImg_slow (s : State) (w : Nat) (v : Word) : (s.setImg w v).slow = s.slow := rfl
@[simp] theorem State.setImg_ps (s : State) (w : Nat) (v : Word) : (s.setImg w v).ps = s.ps := rfl
@[simp] theorem State.setImg_sync (s : State) (w : Nat) (v : Word) : (s.setImg w v).sync = s.sync := rfl
@[simp] theorem State.setImg_syncWr (s : State) (w : Nat) (v : Word) : (s.setImg w v).syncWr = s.syncWr := rfl
@[simp] theorem State.setImg_slots (s : State) (w : Nat) (v : Word) : (s.setImg w v).slots = s.slots := rfl
@[simp] theorem State.setImg_ucmds (s : State) (w : Nat) (v : Word) : (s.setImg w v).ucmds = s.ucmds := rfl
@[simp] theorem State.setImg_step (s : State) (w : Nat) (v : Word) : (s.setImg w v).step = s.step := rfl
@[simp] theorem State.setImg_spcnt (s : State) (w : Nat) (v : Word) : (s.setImg w v).spcnt = s.spcnt := rfl
@[simp] theorem State.setImg_seed (s : State) (w : Nat) (v : Word) : (s.setImg w v).seed = s.seed := rfl
@[simp] theorem State.setImg_seedNext (s : State) (w : Nat) (v : Word) : (s.setImg w v).seedNext = s.seedNext := rfl
@[simp] theorem State.setImg_standing (s : State) (w : Nat) (v : Word) : (s.setImg w v).standing = s.standing := rfl
@[simp] theorem State.setImg_boundary (s : State) (w : Nat) (v : Word) : (s.setImg w v).boundary = s.boundary := rfl
@[simp] theorem State.setImg_arm (s : State) (w : Nat) (v : Word) : (s.setImg w v).arm = s.arm := rfl
@[simp] theorem State.setImg_saving (s : State) (w : Nat) (v : Word) : (s.setImg w v).saving = s.saving := rfl
@[simp] theorem State.setImg_tbl (s : State) (w : Nat) (v : Word) : (s.setImg w v).tbl = s.tbl := rfl
@[simp] theorem State.setImg_adm (s : State) (w : Nat) (v : Word) : (s.setImg w v).adm = s.adm := rfl
@[simp] theorem State.setImg_scout (s : State) (w : Nat) (v : Word) : (s.setImg w v).scout = s.scout := rfl
@[simp] theorem State.setImg_hud (s : State) (w : Nat) (v : Word) : (s.setImg w v).hud = s.hud := rfl
@[simp] theorem State.setImg_queues (s : State) (w : Nat) (v : Word) : (s.setImg w v).queues = s.queues := rfl
@[simp] theorem State.setImg_flow (s : State) (w : Nat) (v : Word) : (s.setImg w v).flow = s.flow := rfl
@[simp] theorem State.setImg_pools (s : State) (w : Nat) (v : Word) : (s.setImg w v).pools = s.pools := rfl
@[simp] theorem State.setImg_vol (s : State) (w : Nat) (v : Word) : (s.setImg w v).vol = s.vol := rfl
@[simp] theorem State.setImg_reb (s : State) (w : Nat) (v : Word) : (s.setImg w v).reb = s.reb := rfl
@[simp] theorem State.setImg_mp (s : State) (w : Nat) (v : Word) : (s.setImg w v).mp = s.mp := rfl
@[simp] theorem State.setImg_mem (s : State) (w : Nat) (v : Word) : (s.setImg w v).mem = s.mem := rfl
@[simp] theorem State.setImg_ref (s : State) (w : Nat) (v : Word) : (s.setImg w v).ref = s.ref := rfl
@[simp] theorem State.setImg_obs (s : State) (w : Nat) (v : Word) : (s.setImg w v).obs = s.obs := rfl
@[simp] theorem State.setImg_pins (s : State) (w : Nat) (v : Word) : (s.setImg w v).pins = s.pins := rfl
@[simp] theorem State.setImg_free (s : State) (w : Nat) (v : Word) : (s.setImg w v).free = s.free := rfl

/-! ### setRslot -/

@[simp] theorem State.setRslot_pending (s : State) (n : Nat) (r : RSlot) : (s.setRslot n r).pending = s.pending := rfl
@[simp] theorem State.setRslot_gradeB (s : State) (n : Nat) (r : RSlot) : (s.setRslot n r).gradeB = s.gradeB := rfl
@[simp] theorem State.setRslot_regs (s : State) (n : Nat) (r : RSlot) : (s.setRslot n r).regs = s.regs := rfl
@[simp] theorem State.setRslot_lag (s : State) (n : Nat) (r : RSlot) : (s.setRslot n r).lag = s.lag := rfl
@[simp] theorem State.setRslot_staged (s : State) (n : Nat) (r : RSlot) : (s.setRslot n r).staged = s.staged := rfl
@[simp] theorem State.setRslot_capt (s : State) (n : Nat) (r : RSlot) : (s.setRslot n r).capt = s.capt := rfl
@[simp] theorem State.setRslot_ctxs (s : State) (n : Nat) (r : RSlot) : (s.setRslot n r).ctxs = s.ctxs := rfl
@[simp] theorem State.setRslot_icache (s : State) (n : Nat) (r : RSlot) : (s.setRslot n r).icache = s.icache := rfl
@[simp] theorem State.setRslot_lastIssue (s : State) (n : Nat) (r : RSlot) : (s.setRslot n r).lastIssue = s.lastIssue := rfl
@[simp] theorem State.setRslot_stood (s : State) (n : Nat) (r : RSlot) : (s.setRslot n r).stood = s.stood := rfl
@[simp] theorem State.setRslot_slow (s : State) (n : Nat) (r : RSlot) : (s.setRslot n r).slow = s.slow := rfl
@[simp] theorem State.setRslot_ps (s : State) (n : Nat) (r : RSlot) : (s.setRslot n r).ps = s.ps := rfl
@[simp] theorem State.setRslot_sync (s : State) (n : Nat) (r : RSlot) : (s.setRslot n r).sync = s.sync := rfl
@[simp] theorem State.setRslot_syncWr (s : State) (n : Nat) (r : RSlot) : (s.setRslot n r).syncWr = s.syncWr := rfl
@[simp] theorem State.setRslot_slots (s : State) (n : Nat) (r : RSlot) : (s.setRslot n r).slots = s.slots := rfl
@[simp] theorem State.setRslot_ucmds (s : State) (n : Nat) (r : RSlot) : (s.setRslot n r).ucmds = s.ucmds := rfl
@[simp] theorem State.setRslot_step (s : State) (n : Nat) (r : RSlot) : (s.setRslot n r).step = s.step := rfl
@[simp] theorem State.setRslot_spcnt (s : State) (n : Nat) (r : RSlot) : (s.setRslot n r).spcnt = s.spcnt := rfl
@[simp] theorem State.setRslot_seed (s : State) (n : Nat) (r : RSlot) : (s.setRslot n r).seed = s.seed := rfl
@[simp] theorem State.setRslot_seedNext (s : State) (n : Nat) (r : RSlot) : (s.setRslot n r).seedNext = s.seedNext := rfl
@[simp] theorem State.setRslot_standing (s : State) (n : Nat) (r : RSlot) : (s.setRslot n r).standing = s.standing := rfl
@[simp] theorem State.setRslot_boundary (s : State) (n : Nat) (r : RSlot) : (s.setRslot n r).boundary = s.boundary := rfl
@[simp] theorem State.setRslot_arm (s : State) (n : Nat) (r : RSlot) : (s.setRslot n r).arm = s.arm := rfl
@[simp] theorem State.setRslot_saving (s : State) (n : Nat) (r : RSlot) : (s.setRslot n r).saving = s.saving := rfl
@[simp] theorem State.setRslot_tbl (s : State) (n : Nat) (r : RSlot) : (s.setRslot n r).tbl = s.tbl := rfl
@[simp] theorem State.setRslot_adm (s : State) (n : Nat) (r : RSlot) : (s.setRslot n r).adm = s.adm := rfl
@[simp] theorem State.setRslot_scout (s : State) (n : Nat) (r : RSlot) : (s.setRslot n r).scout = s.scout := rfl
@[simp] theorem State.setRslot_hud (s : State) (n : Nat) (r : RSlot) : (s.setRslot n r).hud = s.hud := rfl
@[simp] theorem State.setRslot_queues (s : State) (n : Nat) (r : RSlot) : (s.setRslot n r).queues = s.queues := rfl
@[simp] theorem State.setRslot_flow (s : State) (n : Nat) (r : RSlot) : (s.setRslot n r).flow = s.flow := rfl
@[simp] theorem State.setRslot_pools (s : State) (n : Nat) (r : RSlot) : (s.setRslot n r).pools = s.pools := rfl
@[simp] theorem State.setRslot_vol (s : State) (n : Nat) (r : RSlot) : (s.setRslot n r).vol = s.vol := rfl
@[simp] theorem State.setRslot_mp (s : State) (n : Nat) (r : RSlot) : (s.setRslot n r).mp = s.mp := rfl
@[simp] theorem State.setRslot_mem (s : State) (n : Nat) (r : RSlot) : (s.setRslot n r).mem = s.mem := rfl
@[simp] theorem State.setRslot_ref (s : State) (n : Nat) (r : RSlot) : (s.setRslot n r).ref = s.ref := rfl
@[simp] theorem State.setRslot_kick (s : State) (n : Nat) (r : RSlot) : (s.setRslot n r).kick = s.kick := rfl
@[simp] theorem State.setRslot_obs (s : State) (n : Nat) (r : RSlot) : (s.setRslot n r).obs = s.obs := rfl
@[simp] theorem State.setRslot_pins (s : State) (n : Nat) (r : RSlot) : (s.setRslot n r).pins = s.pins := rfl
@[simp] theorem State.setRslot_free (s : State) (n : Nat) (r : RSlot) : (s.setRslot n r).free = s.free := rfl
/-! ### Reads after the update of the same table -/

@[simp] theorem State.setCtx_ctx_same (s : State) (c : Nat) (x : Context) : (s.setCtx c x).ctx c = x :=
  Tab.get_set_same _ _ _ _

@[simp] theorem State.setCtx_ctx_other (s : State) {c d : Nat} (x : Context) (h : d ≠ c) : (s.setCtx c x).ctx d = s.ctx d :=
  Tab.get_set_other _ _ _ h

@[simp] theorem State.setObj_obj_same (s : State) (n : Nat) (o : SyncObj) : (s.setObj n o).obj n = o :=
  Tab.get_set_same _ _ _ _

@[simp] theorem State.setObj_obj_other (s : State) {n m : Nat} (o : SyncObj) (h : m ≠ n) : (s.setObj n o).obj m = s.obj m :=
  Tab.get_set_other _ _ _ h

@[simp] theorem State.setSlot_slot_same (s : State) (n : Nat) (d : Slot) : (s.setSlot n d).slot n = d :=
  Tab.get_set_same _ _ _ _

@[simp] theorem State.setSlot_slot_other (s : State) {n m : Nat} (d : Slot) (h : m ≠ n) : (s.setSlot n d).slot m = s.slot m :=
  Tab.get_set_other _ _ _ h

@[simp] theorem State.setQueue_queue_same (s : State) (n : Nat) (q : Queue) : (s.setQueue n q).queue n = q :=
  Tab.get_set_same _ _ _ _

@[simp] theorem State.setQueue_queue_other (s : State) {n m : Nat} (q : Queue) (h : m ≠ n) :
    (s.setQueue n q).queue m = s.queue m := Tab.get_set_other _ _ _ h

@[simp] theorem State.setPool_pool_same (s : State) (n : Nat) (p : Pool) : (s.setPool n p).pool n = p :=
  Tab.get_set_same _ _ _ _

@[simp] theorem State.setPool_pool_other (s : State) {n m : Nat} (p : Pool) (h : m ≠ n) :
    (s.setPool n p).pool m = s.pool m := Tab.get_set_other _ _ _ h

@[simp] theorem State.setPort_port_same (s : State) (l : Nat) (p : Port) : (s.setPort l p).port l = p :=
  Tab.get_set_same _ _ _ _

@[simp] theorem State.setPort_port_other (s : State) {l k : Nat} (p : Port) (h : k ≠ l) :
    (s.setPort l p).port k = s.port k := Tab.get_set_other _ _ _ h

@[simp] theorem State.setReg_reg_same (s : State) (off : Nat) (v : Word) : (s.setReg off v).reg off = v := by
  unfold State.reg State.setReg
  simp only [Tab.get_set_same]
  split
  · rename_i h
    exact h.symm
  · rfl

@[simp] theorem State.setReg_reg_other (s : State) {off o : Nat} (v : Word) (h : o ≠ off) :
    (s.setReg off v).reg o = s.reg o := by
  unfold State.reg State.setReg
  simp only [Tab.get_set_other _ _ _ h]

theorem State.setByte_byte_same (s : State) (a : Nat) (v : Byte) : (s.setByte a v).byte a = v :=
  Tab.get_set_same _ _ _ _

theorem State.setByte_byte_other (s : State) {a b : Nat} (v : Byte) (h : b ≠ a) : (s.setByte a v).byte b = s.byte b :=
  Tab.get_set_other _ _ _ h

/-- A store of bytes leaves every byte outside its range. -/
theorem State.setBytes_byte_outside (s : State) (a : Nat) (bs : List Byte) {b : Nat} (h : b < a ∨ a + bs.length ≤ b) :
    (s.setBytes a bs).byte b = s.byte b := bytesWrite_get_outside bs s.mem a b h

/-- A store of bytes reads as written. -/
theorem State.setBytes_byte_inside (s : State) (a : Nat) (bs : List Byte) {i : Nat} {v : Byte} (h : bs[i]? = some v) :
    (s.setBytes a bs).byte (a + i) = v := bytesWrite_get_inside bs s.mem a h

/-! ### The canonical form of the stacks' contents -/

theorem State.setByte_wf (s : State) (a : Nat) (v : Byte) (h : Memory.wf s.mem = true) :
    Memory.wf (s.setByte a v).mem = true := Tab.wf_set h a v

theorem State.setBytes_wf (s : State) (a : Nat) (bs : List Byte) (h : Memory.wf s.mem = true) :
    Memory.wf (s.setBytes a bs).mem = true := bytesWrite_wf bs h a

theorem State.setNum_wf (s : State) (a n v : Nat) (h : Memory.wf s.mem = true) :
    Memory.wf (s.setNum a n v).mem = true := storeLe_wf h a n v

/-! ### Contexts -/

@[simp] theorem Context.xr_zero (x : Context) : x.xr 0 = 0#64 := rfl

@[simp] theorem Context.setX_zero (x : Context) (v : DWord) : x.setX 0 v = x := rfl

theorem Context.setX_xr_same (x : Context) {r : Reg} (v : DWord) (h : r ≠ 0) : (x.setX r v).xr r = v := by
  unfold Context.xr Context.setX
  simp only [if_neg h, Tab.get_set_same]

theorem Context.setX_xr_other (x : Context) {r q : Reg} (v : DWord) (h : q ≠ r) : (x.setX r v).xr q = x.xr q := by
  unfold Context.xr Context.setX
  split
  · rfl
  · split
    · rfl
    · exact Tab.get_set_other _ _ _ (fun hv => h (Fin.ext hv))

end Sys2Proof.Machine
end

