-- ==== Sys2Proof/Laws/Bits.lean ====
section
/-! SUPPORT. Bit fields: a field reads as it was put, bits outside it stay, and the same of a field of a register. -/

namespace Sys2Proof.Machine

theorem bitsOf_lt (v hi lo : Nat) : bitsOf v hi lo < 2 ^ (hi + 1 - lo) := Nat.mod_lt _ (Nat.two_pow_pos _)

theorem bitsOf_eq_div (v hi lo : Nat) : bitsOf v hi lo = v / 2 ^ lo % 2 ^ (hi + 1 - lo) := by
  unfold bitsOf
  rw [Nat.shiftRight_eq_div_pow]

/-- A number is its bits above a field, the field, and the bits below it. -/
theorem bits_split (v hi lo : Nat) :
    v = 2 ^ lo * (2 ^ (hi + 1 - lo) * (v / 2 ^ lo / 2 ^ (hi + 1 - lo)) + bitsOf v hi lo) + v % 2 ^ lo := by
  rw [bitsOf_eq_div, Nat.div_add_mod, Nat.div_add_mod]

/-- A field put in: the bits above and below stay. -/
theorem putBits_eq (v hi lo x : Nat) :
    putBits v hi lo x =
      2 ^ lo * (2 ^ (hi + 1 - lo) * (v / 2 ^ lo / 2 ^ (hi + 1 - lo)) + x % 2 ^ (hi + 1 - lo)) + v % 2 ^ lo := by
  unfold putBits
  have h := bits_split v hi lo
  generalize v / 2 ^ lo / 2 ^ (hi + 1 - lo) = u at h ⊢
  generalize bitsOf v hi lo = b at h ⊢
  generalize v % 2 ^ lo = r at h ⊢
  generalize x % 2 ^ (hi + 1 - lo) = y
  rw [h]
  rw [Nat.mul_add, Nat.mul_add, Nat.mul_comm b, Nat.mul_comm y]
  omega

/-- A field reads as it was put. -/
@[simp] theorem bitsOf_putBits_same (v hi lo x : Nat) :
    bitsOf (putBits v hi lo x) hi lo = x % 2 ^ (hi + 1 - lo) := by
  rw [bitsOf_eq_div, putBits_eq]
  rw [Nat.mul_add_div (Nat.two_pow_pos lo), Nat.div_eq_of_lt (Nat.mod_lt v (Nat.two_pow_pos lo)), Nat.add_zero,
    Nat.mul_add_mod, Nat.mod_mod]

/-- Bits of a number by position. -/
theorem testBit_bitsOf (v hi lo i : Nat) : (bitsOf v hi lo).testBit i = (decide (i < hi + 1 - lo) && v.testBit (lo + i)) := by
  unfold bitsOf
  rw [Nat.testBit_mod_two_pow, Nat.testBit_shiftRight]

/-- Bits of a number with a field put in. -/
theorem testBit_putBits (v hi lo x i : Nat) (h : lo ≤ hi + 1) :
    (putBits v hi lo x).testBit i = if lo ≤ i ∧ i ≤ hi then x.testBit (i - lo) else v.testBit i := by
  rw [putBits_eq]
  rw [Nat.testBit_two_pow_mul_add _ (Nat.mod_lt v (Nat.two_pow_pos lo))]
  rw [Nat.testBit_two_pow_mul_add _ (Nat.mod_lt x (Nat.two_pow_pos _))]
  by_cases h1 : i < lo
  · have h2 : ¬ (lo ≤ i ∧ i ≤ hi) := by omega
    rw [if_pos h1, if_neg h2, Nat.testBit_mod_two_pow]
    simp [h1]
  · rw [if_neg h1]
    by_cases h3 : i - lo < hi + 1 - lo
    · have h2 : lo ≤ i ∧ i ≤ hi := by omega
      rw [if_pos h3, if_pos h2, Nat.testBit_mod_two_pow]
      simp [h3]
    · have h2 : ¬ (lo ≤ i ∧ i ≤ hi) := by omega
      rw [if_neg h3, if_neg h2, Nat.testBit_div_two_pow, Nat.testBit_div_two_pow]
      congr 1
      omega

/-- A field put in below 2^32 stays below 2^32. -/
theorem putBits_lt (v hi lo x n : Nat) (hv : v < 2 ^ n) (hh : hi < n) (hl : lo ≤ hi + 1) : putBits v hi lo x < 2 ^ n := by
  apply Nat.lt_pow_two_of_testBit
  intro i hi'
  rw [testBit_putBits _ _ _ _ _ hl]
  have h2 : ¬ (lo ≤ i ∧ i ≤ hi) := by omega
  rw [if_neg h2]
  exact Nat.testBit_lt_two_pow (Nat.lt_of_lt_of_le hv (Nat.pow_le_pow_right (by decide) hi'))

/-- A field of a register reads as it was put. -/
theorem State.setFld_fld_same (s : State) (off hi lo v : Nat) (hh : hi < 32) (hl : lo ≤ hi) :
    (s.setFld off hi lo v).fld off hi lo = v % 2 ^ (hi + 1 - lo) := by
  unfold State.setFld State.fld
  rw [State.setReg_reg_same, BitVec.toNat_ofNat,
    Nat.mod_eq_of_lt (putBits_lt _ hi lo v 32 (BitVec.isLt _) hh (by omega)), bitsOf_putBits_same]

/-- A field of a register leaves the disjoint fields of the same register. -/
theorem State.setFld_fld_apart (s : State) (off hi lo v hi' lo' : Nat) (hh : hi < 32) (hl : lo ≤ hi)
    (h : hi' < lo ∨ hi < lo') : (s.setFld off hi lo v).fld off hi' lo' = s.fld off hi' lo' := by
  unfold State.setFld State.fld
  rw [State.setReg_reg_same, BitVec.toNat_ofNat,
    Nat.mod_eq_of_lt (putBits_lt _ hi lo v 32 (BitVec.isLt _) hh (by omega))]
  apply Nat.eq_of_testBit_eq
  intro i
  rw [testBit_bitsOf, testBit_bitsOf, testBit_putBits _ _ _ _ _ (by omega)]
  by_cases h1 : i < hi' + 1 - lo'
  · have h2 : ¬ (lo ≤ lo' + i ∧ lo' + i ≤ hi) := by omega
    rw [if_neg h2]
  · simp [h1]

/-- A field of a register leaves every other register. -/
@[simp] theorem State.setFld_reg_other (s : State) {off o : Nat} (hi lo v : Nat) (h : o ≠ off) :
    (s.setFld off hi lo v).reg o = s.reg o := State.setReg_reg_other _ _ h

@[simp] theorem State.setFld_fld_other (s : State) {off o : Nat} (hi lo v h' l' : Nat) (h : o ≠ off) :
    (s.setFld off hi lo v).fld o h' l' = s.fld o h' l' := by
  unfold State.fld
  rw [State.setFld_reg_other _ _ _ _ h]

@[simp] theorem State.bump_reg_same (s : State) (off n : Nat) :
    (s.bump off n).reg off = s.reg off + BitVec.ofNat 32 n := State.setReg_reg_same _ _ _

@[simp] theorem State.bump_reg_other (s : State) {off o : Nat} (n : Nat) (h : o ≠ off) :
    (s.bump off n).reg o = s.reg o := State.setReg_reg_other _ _ h

end Sys2Proof.Machine
end

