-- ==== Sys2Proof/Laws/PerInstr.lean ====
section
/-! SUPPORT. One law of every constructor of `Instr`, as syntax: the family `WordOf` says that an opcode and the fields that
an instruction spells are read back by the table of rows as a row with that very opcode, context and fields. -/

namespace Sys2Proof.Laws.WordOf

open Sys2Proof

/-- An instruction of a layer program has an opcode of seven bits that the table of rows lists, and whatever row its opcode and
fields spell has them again; a command that is no instruction has no opcode, and nothing is claimed of it. -/
def Statement (i : Instr) : Prop :=
  ∀ (op : Nat) (c : Ctx) (f : Fields), opcodeOf i = some (op, c, f) →
    op < 128 ∧ ∃ j, rowOf op c f = some j ∧ opcodeOf j = some (op, c, f)

/-- A command without an opcode meets the statement. -/
theorem of_none (i : Instr) (h : opcodeOf i = none) : Statement i := by
  intro op c f e
  rw [h] at e
  cases e

/-- An instruction whose row has its opcode meets the statement. -/
theorem of_some (i j : Instr) (n : Nat) (d : Ctx) (g : Fields) (h : opcodeOf i = some (n, d, g)) (hn : n < 128)
    (r : rowOf n d g = some j) (e : opcodeOf j = some (n, d, g)) : Statement i := by
  intro op c f k
  rw [h] at k
  cases k
  exact ⟨hn, j, r, e⟩

theorem nop (c : Ctx) (f : Fields) : Statement (.nop c f) := of_some _ _ 0x01 c f rfl (by decide) rfl rfl

theorem endProg (c : Ctx) (f : Fields) : Statement (.endProg c f) := of_some _ _ 0x02 c f rfl (by decide) rfl rfl

theorem li (c : Ctx) (f : Fields) : Statement (.li c f) := of_some _ _ 0x03 c f rfl (by decide) rfl rfl

theorem lui (c : Ctx) (f : Fields) : Statement (.lui c f) := of_some _ _ 0x04 c f rfl (by decide) rfl rfl

theorem add (c : Ctx) (f : Fields) : Statement (.add c f) := of_some _ _ 0x08 c f rfl (by decide) rfl rfl

theorem sub (c : Ctx) (f : Fields) : Statement (.sub c f) := of_some _ _ 0x09 c f rfl (by decide) rfl rfl

theorem and (c : Ctx) (f : Fields) : Statement (.and c f) := of_some _ _ 0x0A c f rfl (by decide) rfl rfl

theorem or (c : Ctx) (f : Fields) : Statement (.or c f) := of_some _ _ 0x0B c f rfl (by decide) rfl rfl

theorem xor (c : Ctx) (f : Fields) : Statement (.xor c f) := of_some _ _ 0x0C c f rfl (by decide) rfl rfl

theorem shl (c : Ctx) (f : Fields) : Statement (.shl c f) := of_some _ _ 0x0D c f rfl (by decide) rfl rfl

theorem shr (c : Ctx) (f : Fields) : Statement (.shr c f) := of_some _ _ 0x0E c f rfl (by decide) rfl rfl

theorem mul (c : Ctx) (f : Fields) : Statement (.mul c f) := of_some _ _ 0x0F c f rfl (by decide) rfl rfl

theorem min (c : Ctx) (f : Fields) : Statement (.min c f) := of_some _ _ 0x10 c f rfl (by decide) rfl rfl

theorem max (c : Ctx) (f : Fields) : Statement (.max c f) := of_some _ _ 0x11 c f rfl (by decide) rfl rfl

theorem beq (c : Ctx) (f : Fields) : Statement (.beq c f) := of_some _ _ 0x14 c f rfl (by decide) rfl rfl

theorem bne (c : Ctx) (f : Fields) : Statement (.bne c f) := of_some _ _ 0x15 c f rfl (by decide) rfl rfl

theorem blt (c : Ctx) (f : Fields) : Statement (.blt c f) := of_some _ _ 0x16 c f rfl (by decide) rfl rfl

theorem bge (c : Ctx) (f : Fields) : Statement (.bge c f) := of_some _ _ 0x17 c f rfl (by decide) rfl rfl

theorem bltu (c : Ctx) (f : Fields) : Statement (.bltu c f) := of_some _ _ 0x18 c f rfl (by decide) rfl rfl

theorem loop (c : Ctx) (f : Fields) : Statement (.loop c f) := of_some _ _ 0x1A c f rfl (by decide) rfl rfl

theorem loopv (c : Ctx) (f : Fields) : Statement (.loopv c f) := of_some _ _ 0x1B c f rfl (by decide) rfl rfl

theorem stat (c : Ctx) (f : Fields) : Statement (.stat c f) := of_some _ _ 0x1C c f rfl (by decide) rfl rfl

theorem sysr (c : Ctx) (f : Fields) : Statement (.sysr c f) := of_some _ _ 0x1D c f rfl (by decide) rfl rfl

theorem signal (c : Ctx) (f : Fields) : Statement (.signal c f) := of_some _ _ 0x20 c f rfl (by decide) rfl rfl

theorem wait (c : Ctx) (f : Fields) : Statement (.wait c f) := of_some _ _ 0x21 c f rfl (by decide) rfl rfl

theorem remoteSignal (c : Ctx) (f : Fields) : Statement (.remoteSignal c f) := of_some _ _ 0x22 c f rfl (by decide) rfl rfl

theorem csset (c : Ctx) (f : Fields) : Statement (.csset c f) := of_some _ _ 0x23 c f rfl (by decide) rfl rfl

theorem descLoad (c : Ctx) (f : Fields) : Statement (.descLoad c f) := by
  intro op d g h
  cases h
  refine ⟨by decide, _, rfl, ?_⟩
  repeat' split
  all_goals rfl

theorem descClone (c : Ctx) (f : Fields) : Statement (.descClone c f) := by
  intro op d g h
  cases h
  refine ⟨by decide, _, rfl, ?_⟩
  repeat' split
  all_goals rfl

theorem descInval (c : Ctx) (f : Fields) : Statement (.descInval c f) := by
  intro op d g h
  cases h
  refine ⟨by decide, _, rfl, ?_⟩
  repeat' split
  all_goals rfl

theorem fit (c : Ctx) (f : Fields) : Statement (.fit c f) := of_some _ _ 0x31 c f rfl (by decide) rfl rfl

theorem norm (c : Ctx) (f : Fields) : Statement (.norm c f) := of_some _ _ 0x40 c f rfl (by decide) rfl rfl

theorem pos (c : Ctx) (f : Fields) : Statement (.pos c f) := of_some _ _ 0x41 c f rfl (by decide) rfl rfl

theorem score (c : Ctx) (f : Fields) : Statement (.score c f) := of_some _ _ 0x42 c f rfl (by decide) rfl rfl

theorem smax (c : Ctx) (f : Fields) : Statement (.smax c f) := of_some _ _ 0x43 c f rfl (by decide) rfl rfl

theorem topk (c : Ctx) (f : Fields) : Statement (.topk c f) := of_some _ _ 0x44 c f rfl (by decide) rfl rfl

theorem admitRows (c : Ctx) (f : Fields) : Statement (.admitRows c f) := of_some _ _ 0x45 c f rfl (by decide) rfl rfl

theorem admissionStallEnd : Statement (.admissionStallEnd) := of_none _ rfl

theorem scout (c : Ctx) (f : Fields) : Statement (.scout c f) := of_some _ _ 0x46 c f rfl (by decide) rfl rfl

theorem huddle (c : Ctx) (f : Fields) : Statement (.huddle c f) := of_some _ _ 0x47 c f rfl (by decide) rfl rfl

theorem pack (c : Ctx) (f : Fields) : Statement (.pack c f) := of_some _ _ 0x48 c f rfl (by decide) rfl rfl

theorem keep (c : Ctx) (f : Fields) : Statement (.keep c f) := of_some _ _ 0x49 c f rfl (by decide) rfl rfl

theorem volley (c : Ctx) (f : Fields) : Statement (.volley c f) := of_some _ _ 0x4A c f rfl (by decide) rfl rfl

theorem recvIn (c : Ctx) (f : Fields) : Statement (.recvIn c f) := by
  intro op d g h
  cases h
  refine ⟨by decide, _, rfl, ?_⟩
  repeat' split
  all_goals rfl

theorem recvNet (c : Ctx) (f : Fields) : Statement (.recvNet c f) := by
  intro op d g h
  cases h
  refine ⟨by decide, _, rfl, ?_⟩
  repeat' split
  all_goals rfl

theorem reboundCombine (c : Ctx) (f : Fields) : Statement (.reboundCombine c f) := by
  intro op d g h
  cases h
  refine ⟨by decide, _, rfl, ?_⟩
  repeat' split
  all_goals rfl

theorem reboundRet (c : Ctx) (f : Fields) : Statement (.reboundRet c f) := by
  intro op d g h
  cases h
  refine ⟨by decide, _, rfl, ?_⟩
  repeat' split
  all_goals rfl

theorem fuse (c : Ctx) (f : Fields) : Statement (.fuse c f) := of_some _ _ 0x58 c f rfl (by decide) rfl rfl

theorem micro (c : Ctx) (f : Fields) : Statement (.micro c f) := of_some _ _ 0x59 c f rfl (by decide) rfl rfl

theorem copy (c : Ctx) (f : Fields) : Statement (.copy c f) := of_some _ _ 0x60 c f rfl (by decide) rfl rfl

theorem xpose (c : Ctx) (f : Fields) : Statement (.xpose c f) := of_some _ _ 0x61 c f rfl (by decide) rfl rfl

theorem gather (c : Ctx) (f : Fields) : Statement (.gather c f) := of_some _ _ 0x62 c f rfl (by decide) rfl rfl

theorem scatter (c : Ctx) (f : Fields) : Statement (.scatter c f) := of_some _ _ 0x63 c f rfl (by decide) rfl rfl

theorem scatterAdd (c : Ctx) (f : Fields) : Statement (.scatterAdd c f) := of_some _ _ 0x64 c f rfl (by decide) rfl rfl

theorem stepInsn (c : Ctx) (f : Fields) : Statement (.stepInsn c f) := of_some _ _ 0x70 c f rfl (by decide) rfl rfl

theorem saveInsn (c : Ctx) (f : Fields) : Statement (.saveInsn c f) := of_some _ _ 0x71 c f rfl (by decide) rfl rfl

theorem restoreInsn (c : Ctx) (f : Fields) : Statement (.restoreInsn c f) := of_some _ _ 0x72 c f rfl (by decide) rfl rfl

theorem qctlFlush (c : Ctx) (f : Fields) : Statement (.qctlFlush c f) := by
  intro op d g h
  cases h
  refine ⟨by decide, _, rfl, ?_⟩
  repeat' split
  all_goals rfl

theorem qctlDroprest (c : Ctx) (f : Fields) : Statement (.qctlDroprest c f) := by
  intro op d g h
  cases h
  refine ⟨by decide, _, rfl, ?_⟩
  repeat' split
  all_goals rfl

theorem qctlCount (c : Ctx) (f : Fields) : Statement (.qctlCount c f) := by
  intro op d g h
  cases h
  refine ⟨by decide, _, rfl, ?_⟩
  repeat' split
  all_goals rfl

theorem epoch (c : Ctx) (f : Fields) : Statement (.epoch c f) := of_some _ _ 0x79 c f rfl (by decide) rfl rfl

theorem cnt (c : Ctx) (f : Fields) : Statement (.cnt c f) := of_some _ _ 0x7A c f rfl (by decide) rfl rfl

theorem seed (c : Ctx) (f : Fields) : Statement (.seed c f) := of_some _ _ 0x7B c f rfl (by decide) rfl rfl

theorem unitCommandCompletion (c : Ctx) (serial : BitVec 16) : Statement (.unitCommandCompletion c serial) := of_none _ rfl

theorem icacheMissFill (c : Ctx) : Statement (.icacheMissFill c) := of_none _ rfl

theorem syncWaiterRelease (obj : Fin 32768) : Statement (.syncWaiterRelease obj) := of_none _ rfl

theorem waitTimeout (c : Ctx) : Statement (.waitTimeout c) := of_none _ rfl

theorem stepBoundary : Statement (.stepBoundary) := of_none _ rfl

theorem saveImageWritten : Statement (.saveImageWritten) := of_none _ rfl

theorem ctxStart (c : Ctx) (clr : Bool) : Statement (.ctxStart c clr) := of_none _ rfl

theorem ctxHalt (c : Ctx) (clr : Bool) : Statement (.ctxHalt c clr) := of_none _ rfl

theorem ctxResume (c : Ctx) (clr : Bool) : Statement (.ctxResume c clr) := of_none _ rfl

theorem ctxSkip (c : Ctx) (clr : Bool) : Statement (.ctxSkip c clr) := of_none _ rfl

theorem ctxClrerr (c : Ctx) : Statement (.ctxClrerr c) := of_none _ rfl

theorem ctxFree (c : Ctx) (clr : Bool) : Statement (.ctxFree c clr) := of_none _ rfl

theorem psLockWrite (hi : Bool) (v : Word) : Statement (.psLockWrite hi v) := of_none _ rfl

theorem programStoreWrite (w : Fin 1048576) (v : Word) : Statement (.programStoreWrite w v) := of_none _ rfl

theorem gldGo (v : Word) : Statement (.gldGo v) := of_none _ rfl

theorem gateLoadComplete : Statement (.gateLoadComplete) := of_none _ rfl

theorem rldGo (v : Word) : Statement (.rldGo v) := of_none _ rfl

theorem replicaLoadComplete : Statement (.replicaLoadComplete) := of_none _ rfl

theorem epochRelease (t : Fin 4) : Statement (.epochRelease t) := of_none _ rfl

theorem tregEnable (n : Fin 256) : Statement (.tregEnable n) := of_none _ rfl

theorem poolEnable (n : Fin 8) (v : Word) : Statement (.poolEnable n v) := of_none _ rfl

theorem poolRingBuilt (n : Fin 8) : Statement (.poolRingBuilt n) := of_none _ rfl

theorem poolQuotaWrite (n : Fin 8) (r : Fin 256) (v : Word) : Statement (.poolQuotaWrite n r v) := of_none _ rfl

theorem poolAllocate (n : Fin 8) (r : Fin 256) : Statement (.poolAllocate n r) := of_none _ rfl

theorem poolFree (n : Fin 8) (r : Fin 256) (addr : BitVec 48) : Statement (.poolFree n r addr) := of_none _ rfl

theorem poolCacheRefill (n : Fin 8) : Statement (.poolCacheRefill n) := of_none _ rfl

theorem ingestGroupEnable (p : Fin 32) (v : Word) : Statement (.ingestGroupEnable p v) := of_none _ rfl

theorem egressGroupEnable (p : Fin 32) (v : Word) : Statement (.egressGroupEnable p v) := of_none _ rfl

theorem queCfgFlush (q : Fin 4096) : Statement (.queCfgFlush q) := of_none _ rfl

theorem histRdWrite (v : Word) : Statement (.histRdWrite v) := of_none _ rfl

theorem obhRdWrite (v : Word) : Statement (.obhRdWrite v) := of_none _ rfl

theorem mbSignal : Statement (.mbSignal) := of_none _ rfl

theorem mbAlloc : Statement (.mbAlloc) := of_none _ rfl

theorem mbFree : Statement (.mbFree) := of_none _ rfl

theorem mbPing : Statement (.mbPing) := of_none _ rfl

theorem whistleGrant (n : Byte) : Statement (.whistleGrant n) := of_none _ rfl

theorem whistleClear : Statement (.whistleClear) := of_none _ rfl

theorem rebCancel (batch : BitVec 14) : Statement (.rebCancel batch) := of_none _ rfl

theorem volInstclr : Statement (.volInstclr) := of_none _ rfl

theorem portOutWrite (l : Fin 64) (out : Bool) : Statement (.portOutWrite l out) := of_none _ rfl

theorem kctlRelease : Statement (.kctlRelease) := of_none _ rfl

theorem hostWarmReset : Statement (.hostWarmReset) := of_none _ rfl

theorem kctlForget : Statement (.kctlForget) := of_none _ rfl

theorem refImgWrite (w : Fin 2048) (v : Word) : Statement (.refImgWrite w v) := of_none _ rfl

theorem memResume : Statement (.memResume) := of_none _ rfl

theorem maintMarginT (stack : BitVec 5) (pc : BitVec 6) : Statement (.maintMarginT stack pc) := of_none _ rfl

theorem maintMarginV (stack : BitVec 5) (pc : BitVec 6) : Statement (.maintMarginV stack pc) := of_none _ rfl

theorem maintRowq (stack : BitVec 5) (pc : BitVec 6) : Statement (.maintRowq stack pc) := of_none _ rfl

theorem maintRemap (stack : BitVec 5) (pc : BitVec 6) : Statement (.maintRemap stack pc) := of_none _ rfl

theorem maintCread (stack : BitVec 5) (pc : BitVec 6) : Statement (.maintCread stack pc) := of_none _ rfl

theorem maintCwrite (stack : BitVec 5) (pc : BitVec 6) : Statement (.maintCwrite stack pc) := of_none _ rfl

theorem maintTakeover (stack : BitVec 5) (pc : BitVec 6) : Statement (.maintTakeover stack pc) := of_none _ rfl

theorem maintResult (v : Word) : Statement (.maintResult v) := of_none _ rfl

theorem repairClear : Statement (.repairClear) := of_none _ rfl

theorem pcDivclr : Statement (.pcDivclr) := of_none _ rfl

theorem mwinStart : Statement (.mwinStart) := of_none _ rfl

theorem mwinStop : Statement (.mwinStop) := of_none _ rfl

theorem obsSelWrite (p : Fin 16) (v : Word) : Statement (.obsSelWrite p v) := of_none _ rfl

theorem pagedWindowWrite (w : Fin 2097152) (v : Word) : Statement (.pagedWindowWrite w v) := of_none _ rfl

theorem flagClear (mask : Word) : Statement (.flagClear mask) := of_none _ rfl

theorem intPendClear (mask : Word) : Statement (.intPendClear mask) := of_none _ rfl

theorem lowWordRead (off : BitVec 24) : Statement (.lowWordRead off) := of_none _ rfl

theorem registerWrite (off : BitVec 24) (v : Word) : Statement (.registerWrite off v) := of_none _ rfl

theorem liveAdopt (u : Fin 15) : Statement (.liveAdopt u) := of_none _ rfl

theorem powerOnReset : Statement (.powerOnReset) := of_none _ rfl

theorem warmReset : Statement (.warmReset) := of_none _ rfl

theorem resetRelease (power warm : Bool) : Statement (.resetRelease power warm) := of_none _ rfl

theorem lockLoss : Statement (.lockLoss) := of_none _ rfl

theorem kickoffK0 (i : K0In) : Statement (.kickoffK0 i) := of_none _ rfl

theorem kickoffK1 (i : K1In) : Statement (.kickoffK1 i) := of_none _ rfl

theorem kickoffK2 (fails : List KFail) : Statement (.kickoffK2 fails) := of_none _ rfl

theorem kickoffK3 (fails : List KFail) : Statement (.kickoffK3 fails) := of_none _ rfl

theorem kickoffK4 (i : K4In) : Statement (.kickoffK4 i) := of_none _ rfl

theorem kickoffK5 (i : K5In) : Statement (.kickoffK5 i) := of_none _ rfl

theorem kickoffK6 (fails : List KFail) : Statement (.kickoffK6 fails) := of_none _ rfl

theorem kickoffK7 (fails : List KFail) : Statement (.kickoffK7 fails) := of_none _ rfl

theorem kickoffK8 : Statement (.kickoffK8) := of_none _ rfl

theorem nvsCommandDone (rdata : Word) : Statement (.nvsCommandDone rdata) := of_none _ rfl

theorem nvsTimeout : Statement (.nvsTimeout) := of_none _ rfl

theorem spmMarker (early : BitVec 7) : Statement (.spmMarker early) := of_none _ rfl

theorem spmMarkerTimeout : Statement (.spmMarkerTimeout) := of_none _ rfl

theorem superperiodBoundary : Statement (.superperiodBoundary) := of_none _ rfl

theorem obsUpdatePeriod (samples : List (List Bool)) : Statement (.obsUpdatePeriod samples) := of_none _ rfl

theorem ingestPacket (p : Fin 32) (ports : List (Bool × List QWord)) : Statement (.ingestPacket p ports) := of_none _ rfl

theorem queueSpillFill (q : Fin 4096) : Statement (.queueSpillFill q) := of_none _ rfl

theorem egressWords (p : Fin 32) (hold : Bool) : Statement (.egressWords p hold) := of_none _ rfl

theorem memRequestIssue (r : MemReq) : Statement (.memRequestIssue r) := of_none _ rfl

theorem memResponse (m : Fin 40) (tag : Byte) (status : BitVec 2) : Statement (.memResponse m tag status) := of_none _ rfl

theorem retrainStart (ch : Fin 640) : Statement (.retrainStart ch) := of_none _ rfl

theorem retrainDone (ch : Fin 640) : Statement (.retrainDone ch) := of_none _ rfl

theorem retrainWindowExpiry (ch : Fin 640) : Statement (.retrainWindowExpiry ch) := of_none _ rfl

theorem channelFailed (ch : Fin 640) : Statement (.channelFailed ch) := of_none _ rfl

theorem spareReady (stack : Fin 20) : Statement (.spareReady stack) := of_none _ rfl

theorem sendListBuild : Statement (.sendListBuild) := of_none _ rfl

theorem eohSend (h : Half) : Statement (.eohSend h) := of_none _ rfl

theorem frameSend (l : Fin 64) : Statement (.frameSend l) := of_none _ rfl

theorem controlBlockReceive (l : Fin 64) (bytes : List Byte) : Statement (.controlBlockReceive l bytes) := of_none _ rfl

theorem frameReceive (l : Fin 64) (bytes : List Byte) : Statement (.frameReceive l bytes) := of_none _ rfl

theorem copySegment : Statement (.copySegment) := of_none _ rfl

theorem answerSegment : Statement (.answerSegment) := of_none _ rfl

theorem signalPacket : Statement (.signalPacket) := of_none _ rfl

theorem sigack : Statement (.sigack) := of_none _ rfl

theorem eohPacket : Statement (.eohPacket) := of_none _ rfl

theorem discardPacket : Statement (.discardPacket) := of_none _ rfl

theorem faultnPacket : Statement (.faultnPacket) := of_none _ rfl

theorem pstatePacket : Statement (.pstatePacket) := of_none _ rfl

theorem digestPacket : Statement (.digestPacket) := of_none _ rfl

theorem ackTimeout (l : Fin 64) (seq : BitVec 24) : Statement (.ackTimeout l seq) := of_none _ rfl

theorem partialTimeout (origin : Fin 8192) (pid : Word) : Statement (.partialTimeout origin pid) := of_none _ rfl

theorem conservationTimeout (h : Half) (origin : Fin 8192) : Statement (.conservationTimeout h origin) := of_none _ rfl

theorem dupFilterExpiry (origin : Fin 8192) (pid : Word) : Statement (.dupFilterExpiry origin pid) := of_none _ rfl

theorem signalResendTimeout (seq : BitVec 16) : Statement (.signalResendTimeout seq) := of_none _ rfl

theorem remoteSignalTimeout (c : Ctx) : Statement (.remoteSignalTimeout c) := of_none _ rfl

theorem laneFail (l : Fin 64) (lane : Fin 18) : Statement (.laneFail l lane) := of_none _ rfl

theorem portRetrainDone (l : Fin 64) : Statement (.portRetrainDone l) := of_none _ rfl

theorem portSubstitution (l : Fin 64) : Statement (.portSubstitution l) := of_none _ rfl

theorem pcPartnerTimeout (step : DWord) (unit : Fin 8) (h : Half) : Statement (.pcPartnerTimeout step unit h) := of_none _ rfl

theorem resultEmission (h : Half) : Statement (.resultEmission h) := of_none _ rfl

theorem scoutBinReady (e : Fin 4096) : Statement (.scoutBinReady e) := of_none _ rfl

theorem stagingLoadComplete (e : Fin 4096) : Statement (.stagingLoadComplete e) := of_none _ rfl

theorem auditReport : Statement (.auditReport) := of_none _ rfl

theorem watchdogExpiry (t : WdTarget) (testOk : Bool) : Statement (.watchdogExpiry t testOk) := of_none _ rfl

theorem earlyFaultRecovery (h : FoundIn) : Statement (.earlyFaultRecovery h) := of_none _ rfl

theorem replay : Statement (.replay) := of_none _ rfl

theorem lateFault (h : FoundIn) : Statement (.lateFault h) := of_none _ rfl

theorem unitSubstitution (u : UnitClass) (i : Fin 64) (test : BenchTest) : Statement (.unitSubstitution u i test) := of_none _ rfl

theorem undefinedInstruction (c : Ctx) : Statement (.undefinedInstruction c) := of_none _ rfl

theorem unlockedRegionFetch (c : Ctx) : Statement (.unlockedRegionFetch c) := of_none _ rfl

theorem pllLockTimeout (altOk : Bool) : Statement (.pllLockTimeout altOk) := of_none _ rfl

theorem linkPartnerTimeout (l : Fin 64) : Statement (.linkPartnerTimeout l) := of_none _ rfl

end Sys2Proof.Laws.WordOf
end

