-- ==== Sys2Proof/Laws/Sequencer.lean ====
section
/-! SUPPORT. What the shared operations of the sequencer do: the issue, the end of a local instruction, a trap. Later proofs
cite these lemmas and do not unfold the operations. -/

namespace Sys2Proof.Machine

/-! ### Issue -/

/-- An instruction that nothing holds back can issue. -/
theorem Issues_canIssue {s : State} {c : Ctx} {i : Instr} (h : Safety.Issues s c i) {op : Nat} {d : Ctx} {f : Fields}
    (ho : opcodeOf i = some (op, d, f)) : s.canIssue c i = true := by
  have h1 : ((readsOf op f).all fun r => !s.regBusy c r) = true := by
    simpa [List.all_eq_true] using h.operands op d f ho
  have h2 : (decide (op ≠ 0x1C) || !s.remoteOpen c) = true := by
    by_cases e : op = 0x1C
    · rw [h.local_ d f (e ▸ ho)]
      simp
    · simp [e]
  have h3 : s.ready c i = true := by
    simp only [State.ready, State.fetchable, h.running, h.staying, h.untrapped, h.present, h.inStore, h.locked, h.cached,
      h.word, ho, h.room, h1, h2, decide_true, Bool.and_self, Bool.not_false]
  simp only [State.canIssue, h3, h.turn, Bool.and_self]

@[simp] theorem State.noteIssue_ctx (s : State) (c : Ctx) (d : Nat) : (s.noteIssue c).ctx d = s.ctx d := rfl

@[simp] theorem State.noteIssue_reg_other (s : State) (c : Ctx) {o : Nat} (h : o ≠ Safety.issueCount c) :
    (s.noteIssue c).reg o = s.reg o := State.setReg_reg_other _ _ h

theorem State.noteIssue_reg_same (s : State) (c : Ctx) :
    (s.noteIssue c).reg (Safety.issueCount c) = s.reg (Safety.issueCount c) + 1 := State.setReg_reg_same _ _ _

@[simp] theorem State.noteIssue_journal (s : State) (c : Ctx) (d : Nat) : (s.noteIssue c).journal d = s.journal d := rfl

@[simp] theorem State.noteIssue_trapOn (s : State) (c : Ctx) (d : Nat) (k : Byte) :
    (s.noteIssue c).trapOn d k = s.trapOn d k := by
  have h : (s.noteIssue c).regNow (ctxBase d + 0x38) = s.regNow (ctxBase d + 0x38) := by
    have hn : ctxBase d + 0x38 ≠ Safety.issueCount c := by
      unfold ctxBase Safety.issueCount
      omega
    unfold State.regNow
    rw [State.noteIssue_reg_other s c hn]
    rfl
  unfold State.trapOn
  rw [h]

/-- A control instruction that issues takes its effect on the state with the issue noted. -/
theorem State.control_next (s : State) (c : Ctx) (i : Instr) (body : State → State) (h : s.canIssue c i = true) :
    s.control c i body = body (s.noteIssue c) := by
  unfold State.control
  rw [if_pos h]

/-! ### The end of a local instruction -/

theorem State.setCtx_setCtx (s : State) (c : Nat) (x y : Context) :
    ((s.setCtx c x).setCtx c y).ctx c = y ∧ ∀ d, d ≠ c → ((s.setCtx c x).setCtx c y).ctx d = s.ctx d := by
  refine ⟨State.setCtx_ctx_same _ _ _, fun d hd => ?_⟩
  rw [State.setCtx_ctx_other _ _ hd, State.setCtx_ctx_other _ _ hd]

/-- OK never traps. -/
@[simp] theorem State.trapOn_ok (s : State) (c : Nat) : s.trapOn c codeOk = false := by
  unfold State.trapOn
  simp

/-- FAULT never traps. -/
@[simp] theorem State.trapOn_fault (s : State) (c : Nat) : s.trapOn c codeFault = false := by
  unfold State.trapOn
  simp

/-- A local instruction that does not trap: its code is recorded and the context goes on behind it; nothing else changes. -/
theorem State.retire_goes_on (s : State) (c : Nat) (k : Byte) (h : s.trapOn c k = false) :
    (s.retire c k).ctx c = ((s.ctx c).record k (s.ctx c).pc).after (s.ctx c).pc ∧
    (∀ d, d ≠ c → (s.retire c k).ctx d = s.ctx d) ∧
    s.retire c k = { s with ctxs := (s.retire c k).ctxs } := by
  unfold State.retire
  simp only [h, Bool.false_eq_true, if_false, State.setCtx_ctx_same]
  exact ⟨trivial, fun d hd => by rw [State.setCtx_ctx_other _ _ hd, State.setCtx_ctx_other _ _ hd], rfl⟩

/-- A trap: the context is TRAPPED at the program counter, its registers, loops and codes as they were, and the trap interrupt
is pending; nothing else changes. -/
theorem State.trap_does (s : State) (c pc : Nat) (p : Bool) :
    (s.trap c pc p).ctx c = { s.ctx c with st := .trapped, pc := pc, precise := p, drain := .no, trapDue := false, wait := .nothing } ∧
    (∀ d, d ≠ c → (s.trap c pc p).ctx d = s.ctx d) ∧ (s.trap c pc p).fld 0x2800 2 2 = 1 ∧
    (∀ o, o ≠ 0x2800 → (s.trap c pc p).reg o = s.reg o) ∧
    s.trap c pc p = { s with ctxs := (s.trap c pc p).ctxs, regs := (s.trap c pc p).regs } := by
  refine ⟨?_, fun d hd => ?_, ?_, fun o ho => ?_, rfl⟩
  · exact State.setCtx_ctx_same s c { s.ctx c with
      st := .trapped, pc := pc, precise := p, drain := .no, trapDue := false, wait := .nothing }
  · exact State.setCtx_ctx_other s { s.ctx c with
      st := .trapped, pc := pc, precise := p, drain := .no, trapDue := false, wait := .nothing } hd
  · exact State.setFld_fld_same _ 0x2800 2 2 1 (by decide) (by decide)
  · exact State.setReg_reg_other _ _ ho

/-- A local instruction that traps: its code is recorded, and the context holds the instruction. -/
theorem State.retire_traps (s : State) (c : Nat) (k : Byte) (h : s.trapOn c k = true) :
    (s.retire c k).ctx c = { (s.ctx c).record k (s.ctx c).pc with
      st := .trapped, pc := (s.ctx c).pc, precise := true, drain := .no, trapDue := false, wait := .nothing } ∧
    (∀ d, d ≠ c → (s.retire c k).ctx d = s.ctx d) ∧ (s.retire c k).fld 0x2800 2 2 = 1 ∧
    (∀ o, o ≠ 0x2800 → (s.retire c k).reg o = s.reg o) ∧
    s.retire c k = { s with ctxs := (s.retire c k).ctxs, regs := (s.retire c k).regs } := by
  have e : s.retire c k = (s.setCtx c ((s.ctx c).record k (s.ctx c).pc)).trap c (s.ctx c).pc true := by
    unfold State.retire
    simp only [h, if_true]
  rw [e]
  obtain ⟨h1, h2, h3, h4, h5⟩ := State.trap_does (s.setCtx c ((s.ctx c).record k (s.ctx c).pc)) c (s.ctx c).pc true
  refine ⟨by rw [h1, State.setCtx_ctx_same], fun d hd => by rw [h2 d hd, State.setCtx_ctx_other _ _ hd], h3, fun o ho => ?_, ?_⟩
  · rw [h4 o ho]
    rfl
  · rw [h5]
    rfl

/-- Writing a register changes neither the program counter nor the state of a context. -/
@[simp] theorem Context.setX_pc (x : Context) (r : Reg) (v : DWord) : (x.setX r v).pc = x.pc := by
  unfold Context.setX
  split <;> rfl

/-- A local instruction that ends with OK and writes a register. -/
theorem State.retireX_does (s : State) (c : Nat) (r : Reg) (v : DWord) :
    (s.retireX c r v).ctx c = (((s.ctx c).setX r v).record codeOk (s.ctx c).pc).after (s.ctx c).pc ∧
    (∀ d, d ≠ c → (s.retireX c r v).ctx d = s.ctx d) ∧
    s.retireX c r v = { s with ctxs := (s.retireX c r v).ctxs } := by
  unfold State.retireX
  obtain ⟨h1, h2, h3⟩ := State.retire_goes_on (s.setCtx c ((s.ctx c).setX r v)) c codeOk (State.trapOn_ok _ _)
  refine ⟨?_, fun d hd => by rw [h2 d hd, State.setCtx_ctx_other _ _ hd], ?_⟩
  · rw [h1, State.setCtx_ctx_same, Context.setX_pc]
  · rw [h3]
    rfl

/-- The code of a record, and what a record leaves. -/
theorem Context.record_does (x : Context) (k : Byte) (pc : Nat) :
    (x.record k pc).last = k ∧ (x.record k pc).pc = x.pc ∧ (x.record k pc).st = x.st ∧ (x.record k pc).loops = x.loops ∧
    (x.record k pc).x = x.x ∧ (k = codeOk → (x.record k pc).first = x.first) := by
  unfold Context.record
  split
  · rename_i h
    exact ⟨rfl, rfl, rfl, rfl, rfl, fun hk => absurd hk h.1⟩
  · exact ⟨rfl, rfl, rfl, rfl, rfl, fun _ => rfl⟩

/-! ### The journal (R356) -/

/-- An entry of a journal with room: only the journal of the context and its position change. -/
theorem State.addEntry_does (s : State) (c : Nat) (e : JEnt) (h : (s.journal c).length < 1024) :
    (s.addEntry c e).journal c = s.journal c ++ [e] ∧ (∀ d, d ≠ c → (s.addEntry c e).journal d = s.journal d) ∧
    s.addEntry c e = { s with ref := { s.ref with journal := (s.addEntry c e).ref.journal, jpos := (s.addEntry c e).ref.jpos } } := by
  unfold State.addEntry
  rw [if_neg (by omega)]
  refine ⟨?_, fun d hd => ?_, rfl⟩
  · exact Tab.get_set_same _ _ _ _
  · exact Tab.get_set_other _ _ _ hd

/-- A local instruction outside the control class, outside a replay and with room in the journal: its effect on the state with
the issue noted, and one entry more in the journal of its context. -/
theorem State.localOp_next (s : State) (c : Ctx) (i : Instr) (f : Fields) (idx : List Nat) (w : Bool) (body : State → State)
    (h : s.canIssue c i = true) (hj : Safety.Journals s c)
    (hb : (body (s.noteIssue c)).ref = s.ref) :
    ∃ t, s.localOp c i f idx w body = t ∧
      (∀ d, d ≠ c.val → t.journal d = s.journal d) ∧
      t = { body (s.noteIssue c) with ref := { s.ref with journal := t.ref.journal, jpos := t.ref.jpos } } := by
  refine ⟨_, rfl, ?_⟩
  have hr : (s.noteIssue c).replayEntry c = none := by
    unfold State.replayEntry
    have : (s.noteIssue c).ref.replay = false := hj.1
    rw [this]
    rfl
  have ha : s.awaitsRemote c i = false := by
    unfold State.awaitsRemote State.replayEntry
    rw [hj.1]
    rfl
  have hlen : ((body (s.noteIssue c)).journal c).length < 1024 := by
    unfold State.journal
    rw [hb]
    exact hj.2
  unfold State.localOp
  rw [if_pos (by simp [h, ha])]
  unfold State.journalled
  rw [hr]
  simp only []
  obtain ⟨_, h2, h3⟩ := State.addEntry_does (body (s.noteIssue c)) c
    ⟨i, idx, if isRemote i then (s.noteIssue c).vol.sigSeq else ((s.noteIssue c).ctx c).serial, none, false,
      if ((body (s.noteIssue c)).ctx c).wait ≠ .nothing ∨ ((body (s.noteIssue c)).ctx c).drain ≠ .no ∨
          (body (s.noteIssue c)).vol.sigSeq ≠ (s.noteIssue c).vol.sigSeq then none
      else some ⟨((body (s.noteIssue c)).ctx c).last, if w then ((body (s.noteIssue c)).ctx c).xr f.dst else 0⟩⟩ hlen
  refine ⟨fun d hd => ?_, ?_⟩
  · refine (h2 d hd).trans ?_
    unfold State.journal
    rw [hb]
  · refine h3.trans ?_
    rw [hb]

/-! ### Flags and sync objects (R50, R366, R380) -/

/-- A status flag is raised: its bit is set and its counter advances; every other register stays, and so do the other flags. -/
theorem State.raiseFlag_does (s : State) (b n : Nat) (hb : b < 32) :
    (s.raiseFlag b n).fld 0x2000 b b = 1 ∧ (s.raiseFlag b n).reg (0x2100 + 4 * b) = s.reg (0x2100 + 4 * b) + BitVec.ofNat 32 n ∧
    (∀ k, k ≠ b → (s.raiseFlag b n).fld 0x2000 k k = s.fld 0x2000 k k) ∧
    (∀ o, o ≠ 0x2000 → o ≠ 0x2100 + 4 * b → (s.raiseFlag b n).reg o = s.reg o) ∧
    s.raiseFlag b n = { s with regs := (s.raiseFlag b n).regs } := by
  have hne : (0x2000 : Nat) ≠ 0x2100 + 4 * b := by omega
  have hfld : ∀ k, (s.raiseFlag b n).fld 0x2000 k k = (s.setFld 0x2000 b b 1).fld 0x2000 k k := by
    intro k
    unfold State.raiseFlag State.fld
    rw [State.bump_reg_other _ _ hne]
  refine ⟨?_, ?_, fun k hk => ?_, fun o ho hp => ?_, rfl⟩
  · rw [hfld, State.setFld_fld_same _ _ _ _ _ hb (Nat.le_refl b)]
    have : b + 1 - b = 1 := by omega
    rw [this]
    rfl
  · unfold State.raiseFlag
    rw [State.bump_reg_same, State.setFld_reg_other _ _ _ _ hne.symm]
  · rw [hfld, State.setFld_fld_apart _ _ _ _ _ _ _ hb (Nat.le_refl b) (by omega)]
  · unfold State.raiseFlag
    rw [State.bump_reg_other _ _ hp, State.setFld_reg_other _ _ _ _ ho]

/-- A signal within 32 bits adds its amount, and nothing else changes. -/
theorem State.signal_adds (s : State) (n a : Nat) (h : (s.obj n).cnt.toNat + a < 2 ^ 32) :
    ((s.signal n a).obj n).cnt.toNat = (s.obj n).cnt.toNat + a ∧ ((s.signal n a).obj n).thr = (s.obj n).thr ∧
    (∀ m, m ≠ n → (s.signal n a).obj m = s.obj m) ∧ s.signal n a = { s with sync := (s.signal n a).sync } := by
  unfold State.signal
  simp only [if_pos (show (s.obj n).cnt.toNat + a ≤ 0xFFFFFFFF by omega)]
  refine ⟨?_, ?_, fun m hm => State.setObj_obj_other _ _ hm, rfl⟩
  · rw [State.setObj_obj_same, BitVec.toNat_ofNat, Nat.mod_eq_of_lt h]
  · rw [State.setObj_obj_same]

/-- A signal beyond 32 bits saturates the count and raises the sync-saturation flag. -/
theorem State.signal_saturates (s : State) (n a : Nat) (h : 2 ^ 32 ≤ (s.obj n).cnt.toNat + a) :
    (s.signal n a).obj n = ⟨0xFFFFFFFF#32, (s.obj n).thr⟩ ∧ (∀ m, m ≠ n → (s.signal n a).obj m = s.obj m) ∧
    (s.signal n a).fld 0x2000 0 0 = 1 ∧ (s.signal n a).reg 0x2100 = s.reg 0x2100 + 1 ∧
    (∀ o, o ≠ 0x2000 → o ≠ 0x2100 → (s.signal n a).reg o = s.reg o) ∧
    s.signal n a = { s with sync := (s.signal n a).sync, regs := (s.signal n a).regs } := by
  have e : ∀ x : SyncObj, x = ⟨0xFFFFFFFF#32, (s.obj n).thr⟩ → s.signal n a = (s.setObj n x).raiseFlag 0 1 := by
    intro x hx
    subst hx
    unfold State.signal
    simp only [if_neg (show ¬ (s.obj n).cnt.toNat + a ≤ 0xFFFFFFFF by omega)]
  obtain ⟨x, hx⟩ : ∃ x : SyncObj, x = ⟨0xFFFFFFFF#32, (s.obj n).thr⟩ := ⟨_, rfl⟩
  rw [e x hx, ← hx]
  obtain ⟨h1, h2, _, h4, h5⟩ := State.raiseFlag_does (s.setObj n x) 0 1 (by omega)
  have hs := State.raiseFlag_sync (s.setObj n x) 0 1
  refine ⟨?_, fun m hm => ?_, h1, h2, h4, ?_⟩
  · unfold State.obj
    rw [hs]
    exact State.setObj_obj_same s n x
  · unfold State.obj
    rw [hs]
    exact State.setObj_obj_other s x hm
  · rw [hs]
    exact h5

/-- The object of an S form, and its amount (R39). -/
theorem sObj_eq (x : Context) (f : Fields) : sObj x f = (f.imm.toNat % 32768 + (x.xr f.srcA).toNat) % 32768 := by
  unfold sObj
  rw [bitsOf_eq_div]
  norm_num

theorem sAmount_eq (f : Fields) : sAmount f = f.imm.toNat / 32768 := by
  unfold sAmount
  have := f.imm.isLt
  rw [bitsOf_eq_div]
  norm_num
  omega

end Sys2Proof.Machine
end

