-- ==== Sys2Proof/Tests/Slice0.lean ====
section
/-! SUPPORT. Tests of the model: a well-formedness smoke test, words written out from the manual's encodings, single steps
with results taken from the manual, and for every statement with hypotheses a state and operands that meet them. -/

set_option Elab.async false

namespace Sys2Proof.Tests

open Sys2Proof Sys2Proof.Machine Sys2Proof.Safety

/-! ### Helpers -/

/-- The block in service, every context free. -/
def live : State := { State.reset with kick := { State.reset.kick with st := 2, step := 8, power := false, note := 1, aligned := true } }

/-- The block in service with one context running. -/
def busy : State := { live with ctxs := [(0, { Context.reset with st := .running })] }

/-- A running context at the start of the store. -/
def run1 : Context := { Context.reset with st := .running }

/-- A running context with a value in x1 and another in x2. -/
def run2 (a b : DWord) : Context := { run1 with x := [(1, a), (2, b)] }

/-- A running context inside two loops that end on the same instruction. -/
def run3 : Context := { run1 with pc := 16, loops := [⟨0, 1, 8, 2, 3⟩, ⟨0, 2, 0, 3, 4⟩] }

/-- Context 0 as given, with one instruction word at its program counter, in a locked region whose line is cached. -/
def prog (x : Context) (w : DWord) : State :=
  { live with regs := [(0x1040, some 1)], ps := [(x.pc / 4, w.extractLsb' 0 32), (x.pc / 4 + 1, w.extractLsb' 32 32)]
              icache := [(icSet 0 x.pc, [x.pc / 64])], ctxs := [(0, x)] }

/-- The same for an instruction of context 0. -/
def at0 (x : Context) (i : Instr) : State := prog x (encodeWord i)

/-- The state that an outcome answers; reset, where it answers none. -/
def out : Host.Outcome State Fault Refusal → State
  | .next t => t
  | _ => State.reset

/-- An outcome answers a state. -/
def isNext : Host.Outcome State Fault Refusal → Bool
  | .next _ => true
  | _ => false

theorem next_out {o : Host.Outcome State Fault Refusal} (h : isNext o = true) : o = .next (out o) := by
  cases o <;> first | rfl | cases h

/-- The conditions of `Issues`, as a check. -/
def issuesOk (s : State) (c : Ctx) (i : Instr) : Bool :=
  decide ((s.ctx c).st = .running) && decide ((s.ctx c).drain = .no) && !(s.ctx c).trapDue && decide (c.val < 4 * s.nSeq) &&
  decide ((s.ctx c).pc < psBytes) && s.locked ((s.ctx c).pc / 0x10000) && s.icHeld c (s.ctx c).pc &&
  decide (decodeWord c (s.psWord (s.ctx c).pc) = some i) && decide (s.outstanding c < 16) && s.turn c &&
  (match opcodeOf i with
   | some (op, _, f) => (readsOf op f).all (fun r => !s.regBusy c r) && (decide (op ≠ 0x1C) || !s.remoteOpen c)
   | none => true)

theorem issues_of {s : State} {c : Ctx} {i : Instr} (h : issuesOk s c i = true) : Issues s c i := by
  simp only [issuesOk, Bool.and_eq_true, decide_eq_true_eq, Bool.not_eq_true'] at h
  obtain ⟨⟨⟨⟨⟨⟨⟨⟨⟨⟨h1, h2⟩, h3⟩, h4⟩, h5⟩, h6⟩, h7⟩, h8⟩, h9⟩, h10⟩, h11⟩ := h
  refine ⟨h1, h2, h3, h4, h5, h6, h7, h8, h9, ?_, ?_, h10⟩
  · intro op d f e r hr
    rw [e] at h11
    simp only [Bool.and_eq_true, List.all_eq_true, Bool.not_eq_true'] at h11
    exact h11.1 r hr
  · intro d f e
    rw [e] at h11
    simp only [Bool.and_eq_true, Bool.or_eq_true, Bool.not_eq_true', decide_eq_true_eq] at h11
    rcases h11.2 with h | h
    · exact absurd rfl h
    · exact h

/-- The condition of `HostReady`, as a check. -/
def ready (s : State) (off : Nat) : Bool := s.served && (!s.preService || refereeOffset off || observeOffset off)

theorem ready_of {s : State} {off : Nat} (h : ready s off = true) : HostReady s off := by
  simp only [ready, Bool.and_eq_true, Bool.or_eq_true, Bool.not_eq_true'] at h
  exact ⟨h.1, by tauto⟩

/-- The condition of `Journals`, as a check. -/
def journalsOk (s : State) (c : Ctx) : Bool := !s.ref.replay && decide ((s.journal c).length < 1024)

theorem journals_of {s : State} {c : Ctx} (h : journalsOk s c = true) : Journals s c := by
  simp only [journalsOk, Bool.and_eq_true, decide_eq_true_eq, Bool.not_eq_true'] at h
  exact h

/-- A descriptor of a plain tensor of rank 2: format, rows of `n` elements, `m` rows, byte stride (R105). -/
def desc2 (base fmt n m str : Nat) : Line :=
  BitVec.ofNat 512 (base + fmt * 2 ^ 48 + 2 * 2 ^ 53 + n * 2 ^ 88 + m * 2 ^ 108 + str * 2 ^ 208 + m * 2 ^ 388)

/-! ### Well-formedness: an ill-formed term for each check -/

theorem test_wf_ok : (Instr.add 0 ⟨3, 1, 2, 0, 5⟩).wf = true := by decide +kernel
theorem test_wf_flag : (Instr.add 0 ⟨3, 1, 2, 1, 5⟩).wf = false := by decide +kernel
theorem test_wf_flag_ord : (Instr.norm 0 ⟨0, 0, 0, 0b010000#6, 0⟩).wf = false ∧ (Instr.admitRows 0 ⟨0, 0, 0, 0b010000#6, 0⟩).wf = true := by decide +kernel
theorem test_wf_sub : (Instr.descClone 0 ⟨0, 0, 0, 0, 0x02000000⟩).wf = false ∧ (Instr.descInval 0 ⟨0, 0, 0, 0, 0x02000000⟩).wf = true := by decide +kernel
/-- A request of one whole line for `n` sectors from sector `k`. -/
def req (op : MemOp) (k n : Fin 4) (data : List Byte) (en : List Bool) : MemReq := ⟨0, op, .fp32, k, n, false, none, 0, data, en⟩

theorem test_wf_memory_line : (Instr.memRequestIssue (req .read 2 2 [] [])).wf = false ∧
    (Instr.memRequestIssue (req .read 2 1 [] [])).wf = true := by decide +kernel
theorem test_wf_memory_read_data : (Instr.memRequestIssue (req .read 0 0 [1] [])).wf = false := by decide +kernel
theorem test_wf_memory_write_data : (Instr.memRequestIssue (req .write 0 0 [1] [true])).wf = false ∧
    (Instr.memRequestIssue (req .write 0 0 (List.replicate 64 1) [true])).wf = false := by decide +kernel
theorem test_wf_k4 : (Instr.kickoffK4 ⟨[], [], [], []⟩).wf = false := by decide +kernel
theorem test_wf_k5 : (Instr.kickoffK5 ⟨[(68, 0)], [], 0⟩).wf = false := by decide +kernel
theorem test_wf_obs : (Instr.obsUpdatePeriod [[true]]).wf = false := by decide +kernel
theorem test_wf_control_block : (Instr.controlBlockReceive 0 []).wf = false := by decide +kernel
theorem test_wf_frame_short : (Instr.frameReceive 0 (List.replicate 60 0)).wf = false := by decide +kernel
theorem test_wf_frame_cells : (Instr.frameReceive 0 (List.replicate 65 0)).wf = false := by decide +kernel
theorem test_wf_frame_long : (Instr.frameReceive 0 (List.replicate 2112 0)).wf = false := by decide +kernel
theorem test_wf_read_offset : (Instr.lowWordRead 0x001065).wf = false := by decide +kernel

/-! ### Instruction words, written out from R36, R39 and R64 -/

/-- Opcode, dst, srcA, srcB, flags and immediate of R36, at their places. -/
theorem test_word_add : decodeWord 0 0b00001000_000011_000001_000010_000000_00000000000000000000000000000101#64 =
    some (.add 0 ⟨3, 1, 2, 0, 5⟩) := by decide +kernel
theorem test_word_blt : decodeWord 0 0b00010110_000000_000100_000101_000000_11111111111111111111111111111110#64 =
    some (.blt 0 ⟨0, 4, 5, 0, -2⟩) := by decide +kernel
/-- L form: trip count in [15:0], body length in [31:16]. -/
theorem test_word_loop : decodeWord 0 0b00011010_000010_000000_000000_000000_0000000000000010_0000000000000011#64 =
    some (.loop 0 ⟨2, 0, 0, 0, 0x00020003⟩) := by decide +kernel
/-- S form: object in [14:0], amount in [31:15]; CONSUME is flag [32]. -/
theorem test_word_signal : decodeWord 2 0b00100000_000000_000000_000000_000000_00000000000000001_000000000000101#64 =
    some (.signal 2 ⟨0, 0, 0, 0, 0x00008005⟩) := by decide +kernel
theorem test_word_wait : decodeWord 2 0b00100001_000000_000000_000011_000001_00000000000000000_000000000000101#64 =
    some (.wait 2 ⟨0, 0, 3, 1, 5⟩) := by decide +kernel
/-- D form: sub-operation in [31:24], destination in [23:12], first descriptor in [11:0]. -/
theorem test_word_desc_clone : decodeWord 0 0b00110000_000000_000000_000000_000000_00000001_000000000100_000000000011#64 =
    some (.descClone 0 ⟨0, 0, 0, 0, 0x01004003⟩) := by decide +kernel
/-- A route command with WT. -/
theorem test_word_norm : decodeWord 5 0b01000000_000000_000000_000000_000001_00000000_000000001001_000000000111#64 =
    some (.norm 5 ⟨0, 0, 0, 1, 0x00009007⟩) := by decide +kernel
/-- SG with completion-sync slot 2 in flags [35:33]. -/
theorem test_word_fuse : decodeWord 0 0b01011000_000000_000000_000000_001010_00000000_000000000010_000000000001#64 =
    some (.fuse 0 ⟨0, 0, 0, 0b001010#6, 0x00002001⟩) := by decide +kernel
theorem test_word_scatter_add_ord : decodeWord 0 0b01100100_000000_000000_000000_010000_00000000_000000000010_000000000001#64 =
    some (.scatterAdd 0 ⟨0, 0, 0, 0b010000#6, 0x00002001⟩) := by decide +kernel
theorem test_word_step : decodeWord 0 0b01110000_000000_000000_000000_000000_00000000000000000000000000000000#64 =
    some (.stepInsn 0 ⟨0, 0, 0, 0, 0⟩) := by decide +kernel
theorem test_word_qctl_count : decodeWord 0 0b01111000_000111_000000_000000_000000_00000010_000000000011_000000000000#64 =
    some (.qctlCount 0 ⟨7, 0, 0, 0, 0x02003000⟩) := by decide +kernel
theorem test_word_rebound_ret : decodeWord 0 0b01001100_000000_000000_000000_000000_00000001_000001100100_000000000111#64 =
    some (.reboundRet 0 ⟨0, 0, 0, 0, 0x01064007⟩) := by decide +kernel
/-- R37: register 32, and a flag that ADD does not define. -/
theorem test_word_refused : decodeWord 0 0x0880000000000000#64 = none ∧ decodeWord 0 0x0800000100000000#64 = none ∧
    decodeWord 0 0#64 = none := by decide +kernel
/-- No row of the table has bits. -/
theorem test_no_table_word : decodeTableWord 64 0x080C108000000005 = none ∧ live.withFetchWord 64 0x080C108000000005 = live := by decide +kernel

/-! ### Single steps: expected values computed by hand from the rule that each comment names -/

/-- Context 0 after its instruction. -/
def after0 (x : Context) (i : Instr) : Context := (out (exec i (at0 x i))).ctx 0

-- R65, operand B and wrapping.
theorem test_add_wraps : (after0 (run2 (-1) 0) (.add 0 ⟨3, 1, 2, 0, 5⟩)).xr 3 = 4 := by decide +kernel
theorem test_sub_wraps : (after0 (run2 3 5) (.sub 0 ⟨1, 1, 2, 0, 0⟩)).xr 1 = -2 := by decide +kernel
theorem test_li_extends : (after0 run1 (.li 0 ⟨3, 0, 0, 0, -2⟩)).xr 3 = 0xFFFFFFFFFFFFFFFE := by decide +kernel
theorem test_lui_keeps_low : (after0 (run2 0x1111111122222222 0) (.lui 0 ⟨1, 0, 0, 0, 0x80000000⟩)).xr 1 = 0x8000000022222222 := by decide +kernel
theorem test_and : (after0 (run2 0xF0F0 0x0FF0) (.and 0 ⟨3, 1, 2, 0, 0⟩)).xr 3 = 0x00F0 := by decide +kernel
theorem test_or_sign : (after0 (run2 1 0) (.or 0 ⟨3, 1, 0, 0, 0x80000000⟩)).xr 3 = 0xFFFFFFFF80000001 := by decide +kernel
theorem test_xor : (after0 (run2 0xF0F0 0x0FF0) (.xor 0 ⟨3, 1, 2, 0, 0⟩)).xr 3 = 0xFF00 := by decide +kernel
theorem test_shl_mod_64 : (after0 (run2 3 64) (.shl 0 ⟨3, 1, 2, 0, 1⟩)).xr 3 = 6 := by decide +kernel
theorem test_shr_logical : (after0 (run2 (-1) 60) (.shr 0 ⟨3, 1, 2, 0, 0⟩)).xr 3 = 15 := by decide +kernel
theorem test_mul_low : (after0 (run2 0x8000000000000001 2) (.mul 0 ⟨3, 1, 2, 0, 0⟩)).xr 3 = 2 := by decide +kernel
theorem test_min_signed : (after0 (run2 (-1) 1) (.min 0 ⟨3, 1, 2, 0, 0⟩)).xr 3 = -1 := by decide +kernel
theorem test_max_signed : (after0 (run2 (-1) 1) (.max 0 ⟨3, 1, 2, 0, 0⟩)).xr 3 = 1 := by decide +kernel
theorem test_x0_discards : (after0 (run2 1 2) (.add 0 ⟨0, 1, 2, 0, 0⟩)).xr 0 = 0 := by decide +kernel
-- R45, R65: targets and the precise trap outside the store.
theorem test_blt_back : (after0 { run2 (-1) 0 with pc := 16 } (.blt 0 ⟨0, 1, 2, 0, -2⟩)).pc = 0 := by decide +kernel
theorem test_bltu_not_taken : (after0 (run2 (-1) 0) (.bltu 0 ⟨0, 1, 2, 0, 5⟩)).pc = 8 := by decide +kernel
theorem test_bge_equal : (after0 (run2 4 4) (.bge 0 ⟨0, 1, 2, 0, 3⟩)).pc = 24 := by decide +kernel
theorem test_bne_equal : (after0 (run2 4 4) (.bne 0 ⟨0, 1, 2, 0, 3⟩)).pc = 8 := by decide +kernel
theorem test_beq_outside : (after0 run1 (.beq 0 ⟨0, 1, 2, 0, -1⟩)).st = .trapped ∧ (after0 run1 (.beq 0 ⟨0, 1, 2, 0, -1⟩)).first = codeOffside := by decide +kernel
-- R46.
theorem test_loop_pushes : (after0 run1 (.loop 0 ⟨2, 0, 0, 0, 0x00020003⟩)).loops = [⟨0, 3, 8, 2, 2⟩] := by decide +kernel
theorem test_loop_skips : (after0 run1 (.loop 0 ⟨2, 0, 0, 0, 0x00020000⟩)).pc = 24 := by decide +kernel
theorem test_loopv_bounds : (after0 (run2 0x100000000 0) (.loopv 0 ⟨2, 1, 0, 0, 0x00020000⟩)).last = codeBounds := by decide +kernel
theorem test_loop_end_outward : (after0 run3 (.nop 0 ⟨0, 0, 0, 0, 0⟩)).pc = 0 ∧ (after0 run3 (.nop 0 ⟨0, 0, 0, 0, 0⟩)).loops = [⟨1, 2, 0, 3, 4⟩] ∧
    (after0 run3 (.nop 0 ⟨0, 0, 0, 0, 0⟩)).xr 4 = 1 := by decide +kernel
theorem test_end_frees : (after0 run1 (.endProg 0 ⟨0, 0, 0, 0, 0⟩)).st = .free := by decide +kernel
-- R66.
theorem test_stat : (after0 { run1 with last := 8, first := 3 } (.stat 0 ⟨5, 0, 0, 0, 0⟩)).xr 5 = 0x0308 := by decide +kernel
theorem test_sysr_bounds : (after0 run1 (.sysr 0 ⟨5, 0, 0, 0, 8⟩)).last = codeBounds := by decide +kernel
-- R50, R51, R67.
theorem test_signal_saturates : (out (exec (.signal 0 ⟨0, 0, 0, 0, 0x00010005⟩)
    { at0 run1 (.signal 0 ⟨0, 0, 0, 0, 0x00010005⟩) with sync := [(5, ⟨-1, 0⟩)] })).obj 5 = ⟨-1, 0⟩ ∧
    (out (exec (.signal 0 ⟨0, 0, 0, 0, 0x00010005⟩)
      { at0 run1 (.signal 0 ⟨0, 0, 0, 0, 0x00010005⟩) with sync := [(5, ⟨-1, 0⟩)] })).fld 0x2000 0 0 = 1 := by decide +kernel
theorem test_wait_threshold : (out (exec (.wait 0 ⟨0, 0, 1, 1, 5⟩) (at0 (run2 7 0) (.wait 0 ⟨0, 0, 1, 1, 5⟩)))).obj 5 = ⟨0, 7⟩ ∧
    (after0 (run2 7 0) (.wait 0 ⟨0, 0, 1, 1, 5⟩)).wait = .object 5 true := by decide +kernel
theorem test_release_consumes : (out (exec (.syncWaiterRelease 5) { live with
    sync := [(5, ⟨9, 7⟩)], ctxs := [(0, { run1 with st := .waiting, wait := .object 5 true })] })).obj 5 = ⟨2, 7⟩ := by decide +kernel
theorem test_csset : Tab.get 0 (after0 run1 (.csset 0 ⟨0, 0, 0, 3, 9⟩)).cs 3 = 9 := by decide +kernel
theorem test_remote_signal_bounds : (after0 (run2 5 0) (.remoteSignal 0 ⟨0, 1, 0, 0, 0⟩)).last = codeBounds := by decide +kernel
-- R68: a reserved sub-operation.
theorem test_desc_format : (after0 run1 (.descLoad 0 ⟨0, 0, 0, 0, 0x03000000⟩)).last = codeFormat := by decide +kernel
theorem test_clone_offside : (after0 run1 (.descClone 0 ⟨0, 0, 0, 0, 0x01001000⟩)).last = codeOffside := by decide +kernel
-- R48: a unit command that names an invalid slot.
theorem test_norm_offside : (out (exec (.norm 0 ⟨0, 0, 0, 0, 0⟩) (at0 run1 (.norm 0 ⟨0, 0, 0, 0, 0⟩)))).ucmds.map (fun u => u.result) =
    [some ⟨codeOffside, 0⟩] := by decide +kernel
-- R53, R54.
theorem test_step : (after0 run1 (.stepInsn 0 ⟨0, 0, 0, 0, 0⟩)).st = .stepwait := by decide +kernel
theorem test_boundary_releases : (out (exec .stepBoundary { live with standing := 1, ctxs := [(0, { run1 with st := .stepwait })] })).standing = 0 ∧
    ((out (exec .stepBoundary { live with standing := 1, ctxs := [(0, { run1 with st := .stepwait })] })).ctx 0).st = .running := by decide +kernel
theorem test_boundary_waits : (out (exec .stepBoundary { live with ctxs := [(0, { run1 with st := .stepwait })] })).boundary = true := by decide +kernel
-- R88: an address that is not 4 KiB aligned.
theorem test_save_align : ((out (exec (.saveInsn 0 ⟨0, 1, 0, 0, 0⟩) { at0 (run2 64 0) (.saveInsn 0 ⟨0, 1, 0, 0, 0⟩) with
    mp := { MemPort.reset with nlines := 5859375 } })).ctx 0).last = codeAlign := by decide +kernel
theorem test_seed : (out (exec (.seed 0 ⟨0, 1, 0, 0, 0⟩) (at0 (run2 64 0) (.seed 0 ⟨0, 1, 0, 0, 0⟩)))).seedNext = some 64 := by decide +kernel
theorem test_cnt_bounds : (after0 run1 (.cnt 0 ⟨1, 0, 0, 0, 0x46⟩)).last = codeBounds := by decide +kernel
theorem test_droprest_offside : (after0 run1 (.qctlDroprest 0 ⟨0, 0, 0, 0, 0x01000000⟩)).last = codeOffside := by decide +kernel
theorem test_qctl_format : (after0 run1 (.qctlCount 0 ⟨0, 0, 0, 0, 0x03000000⟩)).last = codeFormat := by decide +kernel
theorem test_epoch_first : (after0 run1 (.epoch 0 ⟨1, 0, 0, 0, 2⟩)).xr 1 = 0 ∧ (after0 run1 (.epoch 0 ⟨1, 0, 0, 0, 2⟩)).last = codeOk := by decide +kernel
-- R34, R59.
theorem test_start : (let t := out (exec (.ctxStart 0 false) { live with regs := [(0x010008, some 64), (0x010010, some 7), (0x010014, some 1)] });
    (t.ctx 0).st = .running ∧ (t.ctx 0).pc = 64 ∧ (t.ctx 0).xr 1 = 0x100000007) := by decide +kernel
theorem test_start_offside : (out (exec (.ctxStart 0 false) busy)).reg 0x3020 = 0x01010000 := by decide +kernel
theorem test_skip : ((out (exec (.ctxSkip 0 false) { live with ctxs := [(0, { run1 with st := .trapped, pc := 40 })] })).ctx 0).pc = 48 := by decide +kernel
-- R43, R54, R376, R378.
theorem test_store_locked : (out (exec (.programStoreWrite 3 5) { live with regs := [(0x1040, some 1)] })).ps = [] := by decide +kernel
theorem test_ping : (out (exec .mbPing live)).reg 0x3014 = 0x4D424F4B := by decide +kernel
theorem test_grant_refused : (out (exec (.whistleGrant 255) { live with standing := 1 })).standing = 1 := by decide +kernel
theorem test_grant_releases : (out (exec (.whistleGrant 3) { live with boundary := true, ctxs := [(0, { run1 with st := .stepwait })] })).standing = 2 := by decide +kernel
-- R235, worked example: pool 3, 4096 buffers of 64 KiB from 0x2000000000.
def pool3 : State := { live with regs := [(0x0A00C4, some 0x20), (0x0A00D0, some 4096), (0x0A00D4, some 0x80000001)] }
theorem test_free_align : pool3.bufBytes 3 = 65536 ∧ pool3.freeCode 3 0x002000018000 = codeAlign := by decide +kernel
theorem test_free_bounds : pool3.freeCode 3 0x002010000000 = codeBounds := by decide +kernel
-- R294, the line map: line 640 lies in group 1, whose rotation is 0x9E37 · 640 / 65536 = 395.
theorem test_line_map : lineChan 0 = 0 ∧ lineChan 639 = 639 ∧ lineChan 640 = 395 ∧ lineChan 885 = 0 := by decide +kernel
-- R296, R301: an ADD of FP32 1.0 to 2.0 is 3.0, R297 enables.
def mem1 : State := { live with mp := { MemPort.reset with nlines := 4, rdCredit := [(0, 4096)], wrCredit := [(0, 4096)] }
                                mem := [(2, 0x80#8), (3, 0x3F#8)] }
theorem test_add_fp32 : (out (exec (.memRequestIssue (req .add 0 0 ([0, 0, 0, 0x40] ++ List.replicate 60 0) (List.replicate 4 true ++ List.replicate 60 false))) mem1)).num 0 4 =
    0x40400000 := by decide +kernel
/-- An outcome is the fault of an address beyond the stacks. -/
def beyond : Host.Outcome State Fault Refusal → Bool
  | .fault .beyondStacks => true
  | _ => false
theorem test_beyond_stacks : beyond (exec (.memRequestIssue (req .read 0 0 [] [])) live) = true := by decide +kernel
-- R11, R369.
theorem test_write_unaligned : (out (exec (.registerWrite 0x001041 0) live)).reg 0x3020 = 0x04001041 := by decide +kernel
theorem test_spcnt_capture : (let t := out (exec (.lowWordRead 0x001064) { live with spcnt := 0x100000002 });
    t.pins.rdata = 2 ∧ t.read 0x001068 = 1) := by decide +kernel
-- R383, R384.
theorem test_gate_page_refused : (out (exec (.pagedWindowWrite 0 5) { live with regs := [(0x1100, some 1)] })).reg 0x3020 = 0x01800000 := by decide +kernel
-- R391.
theorem test_window_counts : (let t := out (exec .superperiodBoundary { live with obs := ⟨true, 0, 0, [(0, 4)]⟩ });
    Tab.get 0 t.obs.cnt 0 = 5 ∧ t.spcnt = 1) := by decide +kernel
-- R389: three edges in STICKY, PARITY and SAMPLE on pins 0 to 2, region 0 signal 0.
def pins3 : State := { live with regs := [(0x0F0000, some 1), (0x0F0100, some 0x10000), (0x0F0104, some 0x20000)] }
theorem test_pins : (out (exec (.obsUpdatePeriod (List.replicate 3 [true, true, true, false])) pins3)).obs.pins = 3#16 := by decide +kernel
-- R333: RELEASE outside test hold.
theorem test_release_offside : (out (exec .kctlRelease live)).reg 0x3020 = 0x010E000C := by decide +kernel
-- R322, R325.
theorem test_release_starts_k0 : (out (exec (.resetRelease true false) State.reset)).kick.st = 1 := by decide +kernel
theorem test_k8_serves : (out (exec .kickoffK8 { State.reset with kick := { live.kick with st := 1, step := 8 } })).kick.st = 2 := by decide +kernel
-- R319: a marker on time, and one that is late.
theorem test_marker : (out (exec (.spmMarker 0) { live with regs := [(0x106C, some 1)], kick := { live.kick with aligned := true } })).reg 0x1070 = 0 ∧
    (out (exec (.spmMarker 1) { live with regs := [(0x106C, some 1)], kick := { live.kick with aligned := true } })).reg 0x1070 = 1 := by decide +kernel
-- R43 and R37 at fetch.
theorem test_fetch_offside : ((out (exec (.unlockedRegionFetch 0) busy)).ctx 0).last = codeOffside := by decide +kernel
theorem test_fetch_format : ((out (exec (.undefinedInstruction 0) (prog run1 0))).ctx 0).last = codeFormat := by decide +kernel
-- R44.
theorem test_fill : (out (exec (.icacheMissFill 0) { busy with regs := [(0x1040, some 1)] })).icHeld 0 0 = true := by decide +kernel

/-! ### Hypotheses that are met: one or more states and operands for each statement -/

/-- All fields zero. -/
def f0 : Fields := ⟨0, 0, 0, 0, 0⟩

/-- A command of context 0 that has not been taken up. -/
def cmd0 : UCmd := live.newCmd 0 (.norm 0 f0) f0

theorem wit_StepRunsTheFrontCommand : ({ live with pending := [.pcDivclr] } : State).pending = .pcDivclr :: [] := rfl

theorem wit_StepKeepsMemoryCanonical : Memory.wf mem1.mem = true ∧
    step { mem1 with pending := [.pcDivclr] } = .next (out (step { mem1 with pending := [.pcDivclr] })) :=
  ⟨by decide +kernel, next_out (by decide +kernel)⟩

theorem wit_CommandsKeepQueueAndGrade : exec .pcDivclr { live with pending := [.mbPing], gradeB := true } =
    .next (out (exec .pcDivclr { live with pending := [.mbPing], gradeB := true })) := next_out (by decide +kernel)

theorem wit_DecodeAndEncodeAgree : (Instr.qctlCount 127 ⟨31, 31, 31, 0, 0xFFFFFFFF⟩).wf = true ∧
    opcodeOf (Instr.qctlCount 127 ⟨31, 31, 31, 0, 0xFFFFFFFF⟩) = some (0x78, 127, ⟨31, 31, 31, 0, 0xFFFFFFFF⟩) ∧
    decodeWord 0 0x080C108000000005#64 = some (.add 0 ⟨3, 1, 2, 0, 5⟩) := by decide +kernel

theorem wit_WordsOfTheManual : 32 ≤ ((0x0880000000000000#64).extractLsb' 50 6).toNat ∧ 32 ≤ ((0x0802000000000000#64).extractLsb' 44 6).toNat ∧
    32 ≤ ((0x0800080000000000#64).extractLsb' 38 6).toNat ∧
    ((0x0800000100000000#64).extractLsb' 32 6) &&& ~~~flagMask ((0x0800000100000000#64).extractLsb' 56 8).toNat ≠ 0#6 ∧
    ((0x1F00000000000000#64).extractLsb' 56 8).toNat ∈ [0x00, 0x1F, 0xFF] := by decide +kernel

theorem wit_ArithmeticResults : ∀ i ∈ [Instr.li 0 ⟨3, 1, 2, 0, 5⟩, .lui 0 ⟨3, 1, 2, 0, 5⟩, .add 0 ⟨3, 1, 2, 0, 5⟩, .sub 0 ⟨3, 1, 2, 0, 5⟩,
      .and 0 ⟨3, 1, 2, 0, 5⟩, .or 0 ⟨3, 1, 2, 0, 5⟩, .xor 0 ⟨3, 1, 2, 0, 5⟩, .shl 0 ⟨3, 1, 2, 0, 5⟩, .shr 0 ⟨3, 1, 2, 0, 5⟩,
      .mul 0 ⟨3, 1, 2, 0, 5⟩, .min 0 ⟨3, 1, 2, 0, 5⟩, .max 0 ⟨0, 1, 2, 0, 5⟩],
    Issues (at0 (run2 7 9) i) 0 i ∧ (arithValue ((at0 (run2 7 9) i).ctx 0) i).isSome = true := by
  have h : ∀ i ∈ [Instr.li 0 ⟨3, 1, 2, 0, 5⟩, .lui 0 ⟨3, 1, 2, 0, 5⟩, .add 0 ⟨3, 1, 2, 0, 5⟩, .sub 0 ⟨3, 1, 2, 0, 5⟩,
      .and 0 ⟨3, 1, 2, 0, 5⟩, .or 0 ⟨3, 1, 2, 0, 5⟩, .xor 0 ⟨3, 1, 2, 0, 5⟩, .shl 0 ⟨3, 1, 2, 0, 5⟩, .shr 0 ⟨3, 1, 2, 0, 5⟩,
      .mul 0 ⟨3, 1, 2, 0, 5⟩, .min 0 ⟨3, 1, 2, 0, 5⟩, .max 0 ⟨0, 1, 2, 0, 5⟩],
    issuesOk (at0 (run2 7 9) i) 0 i = true ∧ (arithValue ((at0 (run2 7 9) i).ctx 0) i).isSome = true := by decide +kernel
  exact fun i hi => ⟨issues_of (h i hi).1, (h i hi).2⟩

theorem wit_ContextRecords : (1 : Reg) ≠ 0 ∧ (2 : Reg) ≠ 1 ∧ (codeFormat ≠ codeOk ∧ run1.first = 0) ∧
    (codeOk = codeOk ∨ run1.first ≠ 0) ∧ ({ run1 with first := 8 } : Context).first ≠ 0 := by decide +kernel

/-- Taken to the first and to the last instruction of the store, and not taken. -/
theorem wit_Branches_inside : Issues (at0 { run2 4 4 with pc := 8 } (.beq 0 ⟨0, 1, 2, 0, -1⟩)) 0 (.beq 0 ⟨0, 1, 2, 0, -1⟩) ∧
    branchTaken ((at0 { run2 4 4 with pc := 8 } (.beq 0 ⟨0, 1, 2, 0, -1⟩)).ctx 0) (.beq 0 ⟨0, 1, 2, 0, -1⟩) = some (0, ⟨0, 1, 2, 0, -1⟩, true) ∧
    0 ≤ (((at0 { run2 4 4 with pc := 8 } (.beq 0 ⟨0, 1, 2, 0, -1⟩)).ctx 0).pc : Int) + 8 * (-1#32).toInt ∧
    Issues (at0 (run2 4 5) (.blt 0 ⟨0, 1, 2, 0, 0x7FFFF⟩)) 0 (.blt 0 ⟨0, 1, 2, 0, 0x7FFFF⟩) ∧
    branchTaken ((at0 (run2 4 5) (.blt 0 ⟨0, 1, 2, 0, 0x7FFFF⟩)).ctx 0) (.blt 0 ⟨0, 1, 2, 0, 0x7FFFF⟩) = some (0, ⟨0, 1, 2, 0, 0x7FFFF⟩, true) ∧
    (0 : Int) + 8 * (0x7FFFF#32).toInt < 0x400000 ∧
    Issues (at0 (run2 4 5) (.bge 0 ⟨0, 1, 2, 0, 0⟩)) 0 (.bge 0 ⟨0, 1, 2, 0, 0⟩) ∧
    branchTaken ((at0 (run2 4 5) (.bge 0 ⟨0, 1, 2, 0, 0⟩)).ctx 0) (.bge 0 ⟨0, 1, 2, 0, 0⟩) = some (0, ⟨0, 1, 2, 0, 0⟩, false) :=
  ⟨issues_of (by decide +kernel), by decide +kernel, by decide +kernel, issues_of (by decide +kernel), by decide +kernel,
    by decide +kernel, issues_of (by decide +kernel), by decide +kernel⟩

/-- Just below and just beyond the store. -/
theorem wit_Branches_outside : Issues (at0 (run2 4 4) (.beq 0 ⟨0, 1, 2, 0, -1⟩)) 0 (.beq 0 ⟨0, 1, 2, 0, -1⟩) ∧
    (0 : Int) + 8 * (-1#32).toInt < 0 ∧ Issues (at0 (run2 4 5) (.bne 0 ⟨0, 1, 2, 0, 0x80000⟩)) 0 (.bne 0 ⟨0, 1, 2, 0, 0x80000⟩) ∧
    0x400000 ≤ (0 : Int) + 8 * (0x80000#32).toInt :=
  ⟨issues_of (by decide +kernel), by decide +kernel, issues_of (by decide +kernel), by decide +kernel⟩

/-- A REMOTE.SIGNAL of context 0 to another chip is not acknowledged yet. -/
def remoting (s : State) : State := { s with vol := { s.vol with sigs := [⟨7, 0, 0, 1, 28672, 1⟩] } }

/-- Selectors of SYSR: the eight of R66, and two others. -/
def sysrs : List Instr := [0, 1, 2, 3, 4, 5, 6, 7, 8, 255].map fun k => .sysr 0 ⟨1, 0, 0, 0, BitVec.ofNat 32 k⟩

theorem wit_NopEndStatAndSysr : Issues (at0 run1 (.nop 0 f0)) 0 (.nop 0 f0) ∧ Issues (at0 run1 (.endProg 0 f0)) 0 (.endProg 0 f0) ∧
    (at0 run1 (.endProg 0 f0)).outstanding 0 = 0 ∧
    Issues { at0 run1 (.endProg 0 f0) with ucmds := [cmd0] } 0 (.endProg 0 f0) ∧
    ({ at0 run1 (.endProg 0 f0) with ucmds := [cmd0] } : State).outstanding 0 ≠ 0 ∧
    ((at0 run1 (.endProg 0 f0)).remoteOpen 0 = false ∧ Issues (remoting (at0 run1 (.endProg 0 f0))) 0 (.endProg 0 f0) ∧
      (remoting (at0 run1 (.endProg 0 f0))).remoteOpen 0 = true) ∧
    Journals (at0 run1 (.stat 0 f0)) 0 ∧ Issues (at0 run1 (.stat 0 f0)) 0 (.stat 0 f0) ∧
    (∀ i ∈ sysrs, Journals (at0 run1 i) 0 ∧ Issues (at0 run1 i) 0 i) ∧
    (at0 run1 (.sysr 0 ⟨1, 0, 0, 0, 8⟩)).trapOn 0 codeBounds = false := by
  have h : ∀ i ∈ sysrs, journalsOk (at0 run1 i) 0 = true ∧ issuesOk (at0 run1 i) 0 i = true := by decide +kernel
  exact ⟨issues_of (by decide +kernel), issues_of (by decide +kernel), by decide +kernel, issues_of (by decide +kernel), by decide +kernel,
    ⟨by decide +kernel, issues_of (by decide +kernel), by decide +kernel⟩,
    journals_of (by decide +kernel), issues_of (by decide +kernel), fun i hi => ⟨journals_of (h i hi).1, issues_of (h i hi).2⟩,
    by decide +kernel⟩

/-- A context with three loops, and one with four. -/
def loops3 : Context := { run2 0xFFFFFFFF 0x100000000 with pc := 8, loops := List.replicate 3 ⟨0, 2, 0, 100, 5⟩ }
def loops4 : Context := { run2 5 0 with pc := 8, loops := List.replicate 4 ⟨0, 2, 0, 100, 5⟩ }

/-- LOOP with 0 and 1 passes, LOOPV at 2^32 - 1, at the third loop. -/
theorem wit_LoopInstructions : (∀ i ∈ [Instr.loop 0 ⟨3, 0, 0, 0, 0x00010000⟩, .loop 0 ⟨3, 0, 0, 0, 0xFFFF0001⟩, .loopv 0 ⟨3, 1, 0, 0, 0x00010000⟩],
      Issues (at0 loops3 i) 0 i ∧ ((at0 loops3 i).ctx 0).loops.length < 4) ∧
    (((at0 loops3 (.loopv 0 ⟨3, 1, 0, 0, 0x00010000⟩)).ctx 0).xr 1).toNat < 2 ^ 32 := by
  have h : ∀ i ∈ [Instr.loop 0 ⟨3, 0, 0, 0, 0x00010000⟩, .loop 0 ⟨3, 0, 0, 0, 0xFFFF0001⟩, .loopv 0 ⟨3, 1, 0, 0, 0x00010000⟩],
    issuesOk (at0 loops3 i) 0 i = true ∧ ((at0 loops3 i).ctx 0).loops.length < 4 := by decide +kernel
  exact ⟨fun i hi => ⟨issues_of (h i hi).1, (h i hi).2⟩, by decide +kernel⟩

/-- A fourth loop stands (OFFSIDE); no body; LOOPV at 2^32 (BOUNDS). -/
theorem wit_LoopInstructions_refused : Issues (at0 loops4 (.loop 0 ⟨3, 0, 0, 0, 0x00010001⟩)) 0 (.loop 0 ⟨3, 0, 0, 0, 0x00010001⟩) ∧
    4 ≤ ((at0 loops4 (.loop 0 ⟨3, 0, 0, 0, 0x00010001⟩)).ctx 0).loops.length ∧
    (at0 loops4 (.loop 0 ⟨3, 0, 0, 0, 0x00010001⟩)).trapOn 0 codeOffside = false ∧
    Issues (at0 loops3 (.loop 0 ⟨3, 0, 0, 0, 1⟩)) 0 (.loop 0 ⟨3, 0, 0, 0, 1⟩) ∧
    (at0 loops3 (.loop 0 ⟨3, 0, 0, 0, 1⟩)).trapOn 0 codeBounds = false ∧
    Issues (at0 loops3 (.loopv 0 ⟨3, 2, 0, 0, 0x00010000⟩)) 0 (.loopv 0 ⟨3, 2, 0, 0, 0x00010000⟩) ∧
    2 ^ 32 ≤ (((at0 loops3 (.loopv 0 ⟨3, 2, 0, 0, 0x00010000⟩)).ctx 0).xr 2).toNat :=
  ⟨issues_of (by decide +kernel), by decide +kernel, by decide +kernel, issues_of (by decide +kernel), by decide +kernel,
    issues_of (by decide +kernel), by decide +kernel⟩

/-- No loop; a loop with a pass left; a loop on its last pass; a branch out of a loop. -/
theorem wit_LoopInstructions_end : (∀ l, run1.loops.head? = some l → 0 + 8 ≠ l.first + 8 * l.body) ∧
    (16 + 8 = 8 + 8 * 2 ∧ 1 ≤ 0 + 1) ∧ (0 + 1 < 2 ∧ 16 + 8 = 0 + 8 * 3) ∧
    Issues (at0 run3 (.bne 0 ⟨0, 1, 0, 0, 0⟩)) 0 (.bne 0 ⟨0, 1, 0, 0, 0⟩) ∧
    Issues (at0 run3 (.beq 0 ⟨0, 1, 0, 0, -2⟩)) 0 (.beq 0 ⟨0, 1, 0, 0, -2⟩) ∧
    branchTaken ((at0 run3 (.beq 0 ⟨0, 1, 0, 0, -2⟩)).ctx 0) (.beq 0 ⟨0, 1, 0, 0, -2⟩) = some (0, ⟨0, 1, 0, 0, -2⟩, true) :=
  ⟨by decide +kernel, by decide +kernel, by decide +kernel, issues_of (by decide +kernel), issues_of (by decide +kernel), by decide +kernel⟩

theorem wit_LocalTraps : ({ busy with regs := [(0x010038, some 0x100)] } : State).trapOn 0 codeFormat = true ∧
    busy.trapOn 0 codeFormat = false ∧ (1 : Nat) ≠ 0 := by decide +kernel

/-- A sum of exactly 2^32 - 1, and of 2^32; a WAIT with and without a threshold write. -/
theorem wit_SyncInstructions : Journals { at0 run1 (.signal 0 ⟨0, 0, 0, 0, 5⟩) with sync := [(5, ⟨-1, 0⟩)] } 0 ∧
    Issues { at0 run1 (.signal 0 ⟨0, 0, 0, 0, 5⟩) with sync := [(5, ⟨-1, 0⟩)] } 0 (.signal 0 ⟨0, 0, 0, 0, 5⟩) ∧
    (({ at0 run1 (.signal 0 ⟨0, 0, 0, 0, 5⟩) with sync := [(5, ⟨-1, 0⟩)] } : State).obj 5).cnt.toNat + 0 < 2 ^ 32 ∧
    Issues { at0 run1 (.signal 0 ⟨0, 0, 0, 0, 0x8005⟩) with sync := [(5, ⟨-1, 0⟩)] } 0 (.signal 0 ⟨0, 0, 0, 0, 0x8005⟩) ∧
    2 ^ 32 ≤ (({ at0 run1 (.signal 0 ⟨0, 0, 0, 0, 0x8005⟩) with sync := [(5, ⟨-1, 0⟩)] } : State).obj 5).cnt.toNat + 1 ∧
    Issues (at0 run1 (.wait 0 ⟨0, 0, 1, 1, 5⟩)) 0 (.wait 0 ⟨0, 0, 1, 1, 5⟩) ∧ (⟨0, 0, 1, 1, 5⟩ : Fields).srcB ≠ 0 ∧
    Issues (at0 run1 (.wait 0 ⟨0, 0, 0, 0, 5⟩)) 0 (.wait 0 ⟨0, 0, 0, 0, 5⟩) ∧
    Issues (at0 run1 (.csset 0 ⟨0, 0, 0, 3, 5⟩)) 0 (.csset 0 ⟨0, 0, 0, 3, 5⟩) :=
  ⟨journals_of (by decide +kernel), issues_of (by decide +kernel), by decide +kernel, issues_of (by decide +kernel), by decide +kernel,
    issues_of (by decide +kernel), by decide +kernel, issues_of (by decide +kernel), issues_of (by decide +kernel)⟩

/-- The last chip of the system, and the first beyond it. -/
theorem wit_RemoteSignalSends : Journals (at0 run1 (.remoteSignal 0 f0)) 0 ∧ Issues (at0 run1 (.remoteSignal 0 f0)) 0 (.remoteSignal 0 f0) ∧
    0 < (at0 run1 (.remoteSignal 0 f0)).sysSize ∧ (at0 run1 (.remoteSignal 0 f0)).sysSize ≤ 1 ∧
    Issues (at0 (run2 1 0) (.remoteSignal 0 ⟨0, 1, 0, 0, 0⟩)) 0 (.remoteSignal 0 ⟨0, 1, 0, 0, 0⟩) ∧
    (at0 (run2 1 0) (.remoteSignal 0 ⟨0, 1, 0, 0, 0⟩)).trapOn 0 codeBounds = false :=
  ⟨journals_of (by decide +kernel), issues_of (by decide +kernel), by decide +kernel, by decide +kernel, issues_of (by decide +kernel), by decide +kernel⟩

/-- A REMOTE.SIGNAL to chip 1 of a system of two, with no port in service, and with port 63. -/
def remote1 (ps : Tab Port) : State :=
  let s := at0 (run2 1 0) (.remoteSignal 0 ⟨0, 1, 0, 0, 0⟩)
  { s with regs := s.regs ++ [(0x0B0000, some 2)], vol := { s.vol with ports := ps } }

theorem wit_RemoteSignalSends_places : (∀ ps ∈ [[], [(63, { Port.reset with st := 2 })]], Journals (remote1 ps) 0 ∧
      Issues (remote1 ps) 0 (.remoteSignal 0 ⟨0, 1, 0, 0, 0⟩)) ∧
    ((at0 run1 (.remoteSignal 0 f0)).chip = 0 ∧ (at0 run1 (.remoteSignal 0 f0)).loopFull 1 = false) ∧
    (1 < (remote1 []).sysSize ∧ 1 ≠ (remote1 []).chip ∧ (remote1 []).eligible ((remote1 []).signalFrame ⟨0, 0, 0, 1, 0, 0⟩) = []) ∧
    ((remote1 [(63, { Port.reset with st := 2 })]).shortest ((remote1 [(63, { Port.reset with st := 2 })]).eligible
        ((remote1 [(63, { Port.reset with st := 2 })]).signalFrame ⟨0, 0, 0, 1, 0, 0⟩)) = some 63 ∧
      ((remote1 [(63, { Port.reset with st := 2 })]).port 63).queued < 1024) := by
  have h : ∀ ps ∈ [[], [(63, { Port.reset with st := 2 })]], journalsOk (remote1 ps) 0 = true ∧
    issuesOk (remote1 ps) 0 (.remoteSignal 0 ⟨0, 1, 0, 0, 0⟩) = true := by decide +kernel
  exact ⟨fun ps hp => ⟨journals_of (h ps hp).1, issues_of (h ps hp).2⟩, by decide +kernel, by decide +kernel, by decide +kernel⟩

/-- The block with one tensor region of 64 KiB from address 0, and a valid descriptor of it in slot 3. -/
def tensors (s : State) : State :=
  { s with regs := (0x1040, some 1) :: [(0x0D8008, some 16), (0x0D800C, some 1)], mp := { MemPort.reset with nlines := 1 }
           slots := [(3, ⟨desc2 0 0x01 4 2 16, true⟩), (4, ⟨desc2 4096 0x01 4 2 16, true⟩)] }

/-- Image 1023 of region 0 in the program store. -/
def image (s : State) (l : Line) : State :=
  { s with ps := s.ps ++ (List.range 16).map fun k => (16368 + k, l.extractLsb' (32 * k) 32) }

theorem wit_Descriptors : Journals (tensors (at0 run1 (.descClone 0 ⟨0, 0, 0, 0, 0x01FFF003⟩))) 0 ∧
    Issues (tensors (at0 run1 (.descClone 0 ⟨0, 0, 0, 0, 0x01FFF003⟩))) 0 (.descClone 0 ⟨0, 0, 0, 0, 0x01FFF003⟩) ∧
    ((tensors (at0 run1 (.descClone 0 ⟨0, 0, 0, 0, 0x01FFF003⟩))).slot 3).valid = true ∧
    (tensors live).validate (desc2 0 0x01 4 2 16) = codeOk ∧
    Issues (image (tensors (at0 run1 (.descLoad 0 ⟨0, 0, 0, 0, 0x000053FF⟩))) (desc2 0 0x01 4 2 16)) 0 (.descLoad 0 ⟨0, 0, 0, 0, 0x000053FF⟩) ∧
    (image (tensors (at0 run1 (.descLoad 0 ⟨0, 0, 0, 0, 0x000053FF⟩))) (desc2 0 0x01 4 2 16)).image 0 1023 = desc2 0 0x01 4 2 16 :=
  ⟨journals_of (by decide +kernel), issues_of (by decide +kernel), by decide +kernel, by decide +kernel, issues_of (by decide +kernel), by decide +kernel⟩

/-- A reserved sub-operation, image 1024, contents that do not validate, an invalid source, INVAL. -/
theorem wit_Descriptors_refused :
    (∀ i ∈ [Instr.descLoad 0 ⟨0, 0, 0, 0, 0x03000000⟩, .descLoad 0 ⟨0, 0, 0, 0, 0x00000400⟩, .descLoad 0 ⟨0, 0, 0, 0, 0x000003FF⟩,
      .descLoad 0 ⟨0, 0, 0, 0, 0x05000000⟩, .descLoad 0 ⟨0, 0, 0, 0, 0x04000400⟩,
      .descClone 0 ⟨0, 0, 0, 0, 0x01000000⟩, .descInval 0 ⟨0, 0, 0, 0, 0x02000000⟩], Issues (at0 run1 i) 0 i) ∧
    (at0 run1 (.descLoad 0 f0)).trapOn 0 codeFormat = false ∧ (at0 run1 (.descLoad 0 f0)).trapOn 0 codeBounds = false ∧
    (at0 run1 (.descLoad 0 f0)).trapOn 0 codeOffside = false ∧ live.validate (live.image 0 1023) ≠ codeOk ∧ (live.slot 0).valid = false := by
  have h : ∀ i ∈ [Instr.descLoad 0 ⟨0, 0, 0, 0, 0x03000000⟩, .descLoad 0 ⟨0, 0, 0, 0, 0x00000400⟩, .descLoad 0 ⟨0, 0, 0, 0, 0x000003FF⟩,
      .descLoad 0 ⟨0, 0, 0, 0, 0x05000000⟩, .descLoad 0 ⟨0, 0, 0, 0, 0x04000400⟩,
      .descClone 0 ⟨0, 0, 0, 0, 0x01000000⟩, .descInval 0 ⟨0, 0, 0, 0, 0x02000000⟩], issuesOk (at0 run1 i) 0 i = true := by decide +kernel
  exact ⟨fun i hi => issues_of (h i hi), by decide +kernel, by decide +kernel, by decide +kernel, by decide +kernel, by decide +kernel⟩

/-- What a manifest says is free; whatever it says, one of the clauses has its hypotheses met. -/
theorem wit_FitChecks (m : Manifest) : Journals (at0 run1 (.fit 0 f0)) 0 ∧ Issues (at0 run1 (.fit 0 f0)) 0 (.fit 0 f0) ∧
    Issues (at0 run1 (.fit 0 ⟨1, 0, 0, 1, 0⟩)) 0 (.fit 0 ⟨1, 0, 0, 1, 0⟩) ∧
    ∃ k, (at0 run1 (.fit 0 f0)).trapOn 0 k = false ∧ (k = codeUnsup ∧ fitUnsup m = true ∨ f0.flags.getLsbD 0 = false ∧ fitUnsup m = false ∧
      k = (if (at0 run1 (.fit 0 f0)).fitMask m / 4 = 0 then codeOk else codeFit)) := by
  refine ⟨journals_of (by decide +kernel), issues_of (by decide +kernel), issues_of (by decide +kernel), ?_⟩
  cases h : fitUnsup m with
  | true => exact ⟨codeUnsup, by decide +kernel, .inl ⟨rfl, rfl⟩⟩
  | false =>
    refine ⟨_, ?_, .inr ⟨by decide +kernel, rfl, rfl⟩⟩
    split
    · decide +kernel
    · decide +kernel

/-- A context waiting for object 5 whose count stands at, and one below, its threshold; with a limit. -/
def waiter (n : Word) (k : Bool) : State :=
  { live with sync := [(5, ⟨n, 7⟩)], ctxs := [(0, { run1 with st := .waiting, wait := .object 5 k })], regs := [(0x1048, some 9)] }

theorem wit_FetchAndWaitEvents : ((prog run1 0).atIssue 0 = true ∧ (prog run1 0).fetchable 0 = true ∧ (prog run1 0).icHeld 0 0 = true ∧
      decodeWord 0 ((prog run1 0).psWord 0) = none) ∧
    (busy.atIssue 0 = true ∧ busy.fetchable 0 = false) ∧
    (({ prog run1 0 with icache := [] } : State).atIssue 0 = true ∧ ({ prog run1 0 with icache := [] } : State).icHeld 0 0 = false) ∧
    (((waiter 7 true).ctx 0).st = .waiting ∧ ((waiter 7 true).ctx 0).wait = .object 5 true ∧ ((waiter 7 true).ctx 0).trapDue = false ∧
      ((waiter 7 true).obj 5).thr ≤ ((waiter 7 true).obj 5).cnt ∧ ¬ ((waiter 6 true).obj 5).thr ≤ ((waiter 6 true).obj 5).cnt) ∧
    (waiter 7 false).regNow 0x1048 ≠ 0 ∧ (waiter 7 false).trapOn 0 codeTimeout = false := by decide +kernel

theorem wit_FetchAndWaitEvents_alone : ∀ d, d < 128 → d ≠ 0 → ∀ b, ((waiter 7 true).ctx d).wait ≠ .object 5 b := by decide +kernel

theorem wit_StepSeedAndCnt : (∀ i ∈ [Instr.stepInsn 0 f0, .seed 0 ⟨0, 1, 0, 0, 0⟩, .cnt 0 ⟨1, 0, 0, 0, 0⟩, .cnt 0 ⟨1, 0, 0, 0, 0x13⟩, .cnt 0 ⟨1, 0, 0, 0, 0x46⟩],
      Journals (at0 run1 i) 0 ∧ Issues (at0 run1 i) 0 i) ∧ (at0 run1 (.stepInsn 0 f0)).outstanding 0 = 0 ∧
    Issues { at0 run1 (.stepInsn 0 f0) with ucmds := [cmd0] } 0 (.stepInsn 0 f0) ∧
    ({ at0 run1 (.stepInsn 0 f0) with ucmds := [cmd0] } : State).outstanding 0 ≠ 0 ∧
    ((at0 run1 (.stepInsn 0 f0)).remoteOpen 0 = false ∧ Issues (remoting (at0 run1 (.stepInsn 0 f0))) 0 (.stepInsn 0 f0) ∧
      (remoting (at0 run1 (.stepInsn 0 f0))).remoteOpen 0 = true) ∧ (at0 run1 (.cnt 0 f0)).trapOn 0 codeBounds = false := by
  have h : ∀ i ∈ [Instr.stepInsn 0 f0, .seed 0 ⟨0, 1, 0, 0, 0⟩, .cnt 0 ⟨1, 0, 0, 0, 0⟩, .cnt 0 ⟨1, 0, 0, 0, 0x13⟩, .cnt 0 ⟨1, 0, 0, 0, 0x46⟩],
      journalsOk (at0 run1 i) 0 = true ∧ issuesOk (at0 run1 i) 0 i = true := by decide +kernel
  exact ⟨fun i hi => ⟨journals_of (h i hi).1, issues_of (h i hi).2⟩, by decide +kernel, issues_of (by decide +kernel), by decide +kernel,
    ⟨by decide +kernel, issues_of (by decide +kernel), by decide +kernel⟩, by decide +kernel⟩

/-- The image that ends where the stacks end. -/
def stacks7 (s : State) : State := { s with mp := { MemPort.reset with nlines := 7 } }

theorem wit_SaveAndRestoreArm : Journals (stacks7 (at0 (run2 20480 0) (.saveInsn 0 ⟨0, 1, 0, 0, 0⟩))) 0 ∧
    Issues (stacks7 (at0 (run2 20480 0) (.saveInsn 0 ⟨0, 1, 0, 0, 0⟩))) 0 (.saveInsn 0 ⟨0, 1, 0, 0, 0⟩) ∧
    ((stacks7 live).arm = none ∧ (stacks7 live).saving = none ∧ 20480 % 4096 = 0 ∧ 20480 + saveBytes ≤ (stacks7 live).stackBytes) ∧
    Issues (stacks7 (at0 (run2 20480 0) (.restoreInsn 0 ⟨0, 1, 0, 0, 0⟩))) 0 (.restoreInsn 0 ⟨0, 1, 0, 0, 0⟩) ∧
    Issues { at0 run1 (.saveInsn 0 f0) with arm := some ⟨true, 1, 0, 0⟩ } 0 (.saveInsn 0 f0) ∧
    ({ at0 run1 (.saveInsn 0 f0) with arm := some ⟨true, 1, 0, 0⟩ } : State).trapOn 0 codeOffside = false :=
  ⟨journals_of (by decide +kernel), issues_of (by decide +kernel), by decide +kernel, issues_of (by decide +kernel), issues_of (by decide +kernel), by decide +kernel⟩

theorem wit_QueueControl : (∀ i ∈ [Instr.qctlFlush 0 ⟨0, 0, 0, 0, 0x00FFF000⟩, .qctlCount 0 ⟨1, 0, 0, 0, 0x02FFF000⟩, .qctlCount 0 ⟨1, 0, 0, 0, 0x03000000⟩,
      .qctlDroprest 0 ⟨0, 0, 0, 0, 0x01000000⟩], Journals (at0 run1 i) 0 ∧ Issues (at0 run1 i) 0 i) ∧
    (at0 run1 (.qctlFlush 0 f0)).trapOn 0 codeFormat = false ∧ (at0 run1 (.qctlFlush 0 f0)).trapOn 0 codeOffside = false ∧
    (at0 run1 (.qctlFlush 0 f0)).engine ∈ [0, 2, 5] ∧
    Issues { at0 run1 (.qctlDroprest 0 ⟨0, 0, 0, 0, 0x01000000⟩) with ref := { Referee.reset with recov := true } } 0 (.qctlDroprest 0 ⟨0, 0, 0, 0, 0x01000000⟩) ∧
    ({ live with ref := { Referee.reset with recov := true } } : State).engine ∈ [1, 3, 4] := by
  have h : ∀ i ∈ [Instr.qctlFlush 0 ⟨0, 0, 0, 0, 0x00FFF000⟩, .qctlCount 0 ⟨1, 0, 0, 0, 0x02FFF000⟩, .qctlCount 0 ⟨1, 0, 0, 0, 0x03000000⟩,
      .qctlDroprest 0 ⟨0, 0, 0, 0, 0x01000000⟩], journalsOk (at0 run1 i) 0 = true ∧ issuesOk (at0 run1 i) 0 i = true := by decide +kernel
  exact ⟨fun i hi => ⟨journals_of (h i hi).1, issues_of (h i hi).2⟩, by decide +kernel, by decide +kernel, by decide +kernel, issues_of (by decide +kernel), by decide +kernel⟩

/-- A table with a held earlier bank, and one with an active epoch and none held. -/
def tables (o : Bool) : State := { live with tbl := { Tables.reset with sfu := ⟨some 0xFF, 1, o, false⟩, bias := ⟨some 0xFF, 1, o, false⟩ } }

/-- A valid gate-table entry 0 and a valid replica-table entry 0 in one tensor region. -/
def loaders : State :=
  { live with regs := [(0x061004, some 0x00010000), (0x061008, some 0x00020001), (0x06100C, some 1), (0x07100C, some 1), (0x0D8008, some 16), (0x0D800C, some 1)]
              mem := [(1, 1), (4, 1)], mp := { MemPort.reset with nlines := 1 } }

/-- The gate and the replica table loaded since their last switch, or not; an ADMIT at work. -/
def loaded (s : State) (f : Bool) : State :=
  { s with tbl := { s.tbl with gateLd := { Loader.reset with fresh := f }, repLd := { Loader.reset with fresh := f } } }
def admitting (s : State) : State := { s with ucmds := [{ cmd0 with op := .admitRows 0 f0, started := true }] }

/-- EPOCH on each table. -/
def epochs : List Instr := [0, 1, 2, 3].map fun k => .epoch 0 ⟨1, 0, 0, 0, BitVec.ofNat 32 k⟩

theorem wit_TablesAndEpochs_switch : (∀ i ∈ epochs, Journals (loaded (at0 run1 i) true) 0 ∧ Issues (loaded (at0 run1 i) true) 0 i ∧
      Issues { at0 run1 i with tbl := (tables true).tbl } 0 i ∧ Issues (admitting (loaded (at0 run1 i) true)) 0 i) ∧
    ((live.banked 2).oldHeld = false ∧ ((tables false).banked 3).oldHeld = false ∧ ((tables true).banked 2).oldHeld = true) ∧
    ((loaded live true).admitting = false ∧ (loaded live true).tbl.repLd.fresh = true ∧
      (loaded live true).capSum (loaded live true).tbl.rep.shadow * (loaded live true).sysSize ≤ (loaded live true).fld 0x070048 31 0 ∧
      (loaded live true).tbl.gateLd.fresh = true) ∧
    ((admitting live).admitting = true ∧ (loaded live false).tbl.repLd.fresh = false ∧ (loaded live false).tbl.gateLd.fresh = false) ∧
    ({ at0 run1 (.epoch 0 ⟨1, 0, 0, 0, 2⟩) with tbl := (tables true).tbl } : State).trapOn 0 codeEpoch = false ∧
    (at0 run1 (.epoch 0 ⟨1, 0, 0, 0, 0⟩)).trapOn 0 codeOffside = false := by
  have h : ∀ i ∈ epochs, journalsOk (loaded (at0 run1 i) true) 0 = true ∧ issuesOk (loaded (at0 run1 i) true) 0 i = true ∧
      issuesOk { at0 run1 i with tbl := (tables true).tbl } 0 i = true ∧ issuesOk (admitting (loaded (at0 run1 i) true)) 0 i = true := by decide +kernel
  exact ⟨fun i hi => ⟨journals_of (h i hi).1, issues_of (h i hi).2.1, issues_of (h i hi).2.2.1, issues_of (h i hi).2.2.2⟩, by decide +kernel,
    by decide +kernel, by decide +kernel, by decide +kernel, by decide +kernel⟩

/-- A replica bank whose capacities sum to more than the receive limit, which is 0. -/
def overfull : State :=
  { loaded live true with tbl := { (loaded live true).tbl with repMem := [(0x4102, 1)] }, regs := [(0x0B0000, some 1)] }

theorem wit_TablesAndEpochs_limit : overfull.fld 0x070048 31 0 < overfull.capSum overfull.tbl.rep.shadow * overfull.sysSize := by decide +kernel

theorem wit_TablesAndEpochs_loaders : HostReady loaders 0x060004 ∧ HostReady loaders 0x070004 ∧
    (loaders.tbl.gateLd.busy = false ∧ loaders.gateCause 0 = 0) ∧
    (loaders.tbl.repLd.busy = false ∧ loaders.headerLost 0 = none ∧ loaders.repCause 0 = 0) ∧
    (live.tbl.gateLd.busy = false ∧ live.gateCause 255 ≠ 0) ∧ ((tables true).banked 3).oldHeld = true ∧ (tables true).oldInFlight 3 = false :=
  ⟨ready_of (by decide +kernel), ready_of (by decide +kernel), by decide +kernel, by decide +kernel, by decide +kernel, by decide +kernel, by decide +kernel⟩

/-- An image of one expert and one element. -/
def image0 : GateMeta := { GateMeta.none with e := 1, d := 1 }

/-- Both loaders at work on an image of one expert and one element at address 0, whose line is poisoned or not; both signal object 5. -/
def loading (p : Bool) : State :=
  let l : Loader := { Loader.reset with busy := true, fresh := true, gate := image0 }
  { live with tbl := { Tables.reset with gateLd := l, repLd := l }
              mp := { MemPort.reset with nlines := 1, poison := if p then [(0, true)] else [] }
              regs := [(0x060008, some 0x8005), (0x070008, some 0x8005)] }

theorem wit_TablesAndEpochs_finish : ((loading false).tbl.gateLd.busy = true ∧ (loading false).gateSpaceFree = true ∧
      (loading false).tbl.gateLd.deferred = false ∧ (loading false).tbl.repLd.busy = true ∧ (loading false).tbl.rep.oldHeld = false ∧
      (loading false).tbl.repLd.deferred = false) ∧
    ((loading false).tbl.gateLd.gate = image0 ∧ (loading false).tbl.repLd.gate = image0 ∧ (loading false).lostIn image0.base image0.bytes = none ∧
      (loading true).lostIn image0.base image0.bytes = some 0 ∧ (loading false).lostIn image0.base (0x4100 + 4 * image0.e) = none ∧
      (loading true).lostIn image0.base (0x4100 + 4 * image0.e) = some 0) ∧
    ((loading false).fldNow 0x060008 15 15 = 1 ∧ (loading false).fldNow 0x060008 14 0 = 5 ∧ (loading false).fldNow 0x070008 15 15 = 1 ∧
      ((loading false).obj 5).cnt ≠ 0xFFFFFFFF#32 ∧ live.fldNow 0x060008 15 15 ≠ 1 ∧ live.fldNow 0x070008 15 15 ≠ 1) := by decide +kernel

/-- A COPY between two valid slots; a NORM of slots that are not valid; a check that fails. -/
theorem wit_UnitCommands : opcodeOf (.copy 0 ⟨0, 0, 0, 1, 0x00004003⟩) = some (0x60, 0, ⟨0, 0, 0, 1, 0x00004003⟩) ∧
    Issues (tensors (at0 run1 (.copy 0 ⟨0, 0, 0, 1, 0x00004003⟩))) 0 (.copy 0 ⟨0, 0, 0, 1, 0x00004003⟩) ∧
    Journals (tensors (at0 run1 (.copy 0 ⟨0, 0, 0, 1, 0x00004003⟩))) 0 ∧
    (tensors (at0 run1 (.copy 0 ⟨0, 0, 0, 1, 0x00004003⟩))).issueCode
      ((tensors (at0 run1 (.copy 0 ⟨0, 0, 0, 1, 0x00004003⟩))).newCmd 0 (.copy 0 ⟨0, 0, 0, 1, 0x00004003⟩) ⟨0, 0, 0, 1, 0x00004003⟩) = none ∧
    Issues (at0 run1 (.norm 0 f0)) 0 (.norm 0 f0) ∧ ((at0 run1 (.norm 0 f0)).slot (cmd0.slotA)).valid = false ∧
    (cmd0.result = none ∧ cmd0.started = false ∧ (fun (_ : State) (_ : UCmd) => some codeFormat) live cmd0 = some codeFormat) :=
  ⟨by decide +kernel, issues_of (by decide +kernel), journals_of (by decide +kernel), by decide +kernel, issues_of (by decide +kernel),
    by decide +kernel, by decide +kernel, by decide +kernel, rfl⟩

/-- A finished command with SG, whose context waits for it; it has produced two rows. -/
def finished (k : Byte) (w : WaitOn) : State :=
  { live with ucmds := [{ cmd0 with op := .norm 0 ⟨1, 0, 0, 0b000011#6, 0⟩, result := some ⟨k, 5⟩, out := some 2 }]
              ctxs := [(0, { run1 with st := if w = .nothing then .running else .waiting, wait := w, serial := 1 })] }

theorem wit_UnitCommandsComplete : (∀ k ∈ [codeOk, codeFormat, codeFault], ∀ w ∈ [WaitOn.nothing, .command 1],
      ((finished k w).cmd 0 1 = (finished k w).ucmds.head?) ∧ ((finished k w).ucmds.head?.bind (·.result)) = some ⟨k, 5⟩ ∧
      (finished k w).ref.replay = false ∧ (finished k w).trapOn 0 k = false ∧ ((finished k w).ctx 0).drain = .no ∧ ((finished k w).ctx 0).trapDue = false ∧
      ((finished k w).ctx 0).wait = w) ∧ ((finished codeOk .nothing).obj 0).cnt ≠ 0xFFFFFFFF#32 ∧
    ((finished codeOk .nothing).ucmds.all fun u => u.setsVext && decide (u.out = some 2) && !u.rew.contains u.destSlot) = true ∧
    ∀ (c : Ctx) (f : Fields), (Instr.norm 0 ⟨1, 0, 0, 0b000011#6, 0⟩) ≠ .admitRows c f ∧ (Instr.norm 0 ⟨1, 0, 0, 0b000011#6, 0⟩) ≠ .reboundCombine c f :=
  ⟨by decide +kernel, by decide +kernel, by decide +kernel, fun _ _ => ⟨nofun, nofun⟩⟩

/-- A step group of one context in STEPWAIT, with `n` whistles. -/
def stepping (n : Nat) : State := { live with standing := n, ctxs := [(0, { run1 with st := .stepwait })] }

theorem wit_StepBoundary : (∀ n ∈ [0, 1], (stepping n).allStepwait = true ∧ (stepping n).boundary = false ∧ (stepping n).saving = none ∧
      (stepping n).arm = none ∧ (stepping n).ref.replayDue = false ∧ (stepping n).ref.recov = false ∧ (stepping n).standing = n) ∧
    ((∀ e ∈ (stepping 0).ref.compares, e.mine = true) ∧ 0 ∈ (stepping 1).group ∧ ((stepping 1).ctx 0).trapDue = false) ∧
    (({ stepping 0 with arm := some ⟨false, 0, 0, 0⟩ } : State).allStepwait = true ∧ (stepping 0).queues = [] ∧ (stepping 0).ref.repair = false) ∧
    (∀ n ∈ [0, 1], ({ stepping n with saving := some ⟨false, 0, 0, 0⟩ } : State).saving = some ⟨false, 0, 0, 0⟩ ∧
      (({ stepping n with saving := some ⟨false, 0, 0, 0⟩ } : State).ctx 0).st = .stepwait) := by decide +kernel

/-- The window before K1 has ended, and between K1 and K8. -/
def kicking : State := { live with kick := { live.kick with st := 1, step := 2 } }

theorem wit_FlagAndInterruptClear : State.reset.served = false ∧ (kicking.served = true ∧ kicking.preService = true) ∧
    HostReady live 0x2000 ∧ HostReady live 0x2800 :=
  ⟨by decide +kernel, by decide +kernel, ready_of (by decide +kernel), ready_of (by decide +kernel)⟩

theorem wit_ContextStarts : HostReady live (ctxBase 127) ∧ (127 : Ctx).val < 4 * live.nSeq ∧ (live.ctx 127).st = .free :=
  ⟨ready_of (by decide +kernel), by decide +kernel, by decide +kernel⟩

/-- Context 127 in each state. -/
def withState (k : CtxState) : State := { live with ctxs := [(127, { run1 with st := k })] }

theorem wit_ContextControl : (∀ k ∈ [CtxState.trapped, .halted, .running, .stepwait, .waiting, .free], HostReady (withState k) (ctxBase 127) ∧
      ((withState k).ctx 127).st = k) ∧ (127 : Ctx).val < 4 * live.nSeq ∧ (withState .running).outstanding 127 = 0 ∧
    (withState .running).remoteOpen 127 = false ∧ (remoting busy).remoteOpen 0 = true ∧ HostReady (remoting busy) (ctxBase 0) ∧
    ((remoting busy).ctx 0).st = .running := by
  have h : ∀ k ∈ [CtxState.trapped, .halted, .running, .stepwait, .waiting, .free], ready (withState k) (ctxBase 127) = true ∧
      ((withState k).ctx 127).st = k := by decide +kernel
  exact ⟨fun k hk => ⟨ready_of (h k hk).1, (h k hk).2⟩, by decide +kernel, by decide +kernel, by decide +kernel, by decide +kernel,
    ready_of (by decide +kernel), by decide +kernel⟩

/-- The last region locked, with and without a context there. -/
def lock63 (x : Tab Context) : State := { live with regs := [(0x1044, some 0x80000000)], ctxs := x }

theorem wit_ProgramStoreAndLocks : HostReady live (0x100000 + 4 * 1048575) ∧ live.locked (1048575 / 16384) = false ∧
    (lock63 []).locked (1048575 / 16384) = true ∧ HostReady (lock63 []) 0x1044 ∧ HostReady live 0x1040 ∧
    (∃ e ∈ (lock63 [(0, { run1 with pc := 0x3FFFF8 })]).ctxs, e.2.st ≠ .free ∧ ∃ i < 32, ((lock63 []).reg 0x1044).getLsbD i = true ∧
      (0#32).getLsbD i = false ∧ e.2.pc / 0x10000 = i + 32) ∧
    (∀ e ∈ (lock63 []).ctxs, e.2.st ≠ .free → ∀ i < 32, ((lock63 []).reg 0x1044).getLsbD i = true → (0#32).getLsbD i = false →
      e.2.pc / 0x10000 ≠ i + 32) ∧
    ({ busy with ctxs := [(0, { run1 with pc := 0x400000 })] } : State).atIssue 0 = true ∧ busy.atIssue 0 = true ∧ busy.locked 0 = false :=
  ⟨ready_of (by decide +kernel), by decide +kernel, by decide +kernel, ready_of (by decide +kernel), ready_of (by decide +kernel),
    ⟨_, .head _, by decide +kernel, 31, by decide, by decide +kernel, by decide +kernel, by decide +kernel⟩, by decide +kernel, by decide +kernel, by decide +kernel, by decide +kernel⟩

/-- Pool 3 of R235's example, ready, with the mailbox arguments of ALLOC and FREE by requester 16, who has a quota of 1. -/
def mailbox (p : Pool) (arg0 arg1 : Word) : State :=
  { pool3 with pools := [(3, { p with ready := true })]
               regs := pool3.regs ++ [(0x3004, some arg0), (0x3008, some arg1), (0x300C, some 0x20), (0x0A120C, some 1)] }

/-- Requester 16 holds buffer 4095. -/
def holder : Pool := { Pool.reset with fresh := 4096, bitmap := [(4095, true)], held := [(16, 1)] }

theorem wit_Mailbox : HostReady live 0x3000 ∧ (live.syncWr = [] ∧ (live.obj (live.fld 0x3004 14 0)).cnt.toNat + (live.reg 0x3008).toNat < 2 ^ 32) ∧
    HostReady (mailbox Pool.reset 0x1003 0) 0x3000 ∧ (mailbox Pool.reset 0x1003 0).fld 0x3004 2 0 = 3 ∧
    (mailbox Pool.reset 0x1003 0).fld 0x3004 15 8 = 16 ∧ (mailbox Pool.reset 0x1003 0).poolEn 3 = true ∧
    ((mailbox Pool.reset 0x1003 0).pool 3).ready = true ∧ (mailbox Pool.reset 0x1003 0).poolClass 3 = 0 ∧
    (mailbox Pool.reset 0x1003 0).underQuota 3 16 1 = true ∧
    ((((mailbox Pool.reset 0x1003 0).pool 3).next ((mailbox Pool.reset 0x1003 0).poolCount 3)).map (·.1) = some 0) ∧
    (0 < Tab.get 0 ((mailbox holder 0x1003 0x0FFF0000).pool 3).held 16 ∧ 4095 < (mailbox holder 0x1003 0x0FFF0000).poolCount 3 ∧
      Tab.get false ((mailbox holder 0x1003 0x0FFF0000).pool 3).bitmap 4095 = true ∧
      ((mailbox holder 0x1003 0x0FFF0000).reg 0x3008).toNat + 2 ^ 32 * (mailbox holder 0x1003 0x0FFF0000).fld 0x300C 15 0 =
        (mailbox holder 0x1003 0x0FFF0000).poolBase 3 + 4095 * (mailbox holder 0x1003 0x0FFF0000).bufBytes 3 ∧
      ((mailbox holder 0x1003 0x0FFF0000).pool 3).waiting = []) :=
  ⟨ready_of (by decide +kernel), by decide +kernel, ready_of (by decide +kernel), by decide +kernel, by decide +kernel, by decide +kernel, by decide +kernel,
    by decide +kernel, by decide +kernel, by decide +kernel, by decide +kernel⟩

/-- A pool that is not enabled; requester 15; the quota reached; no buffer free; nothing held; a pointer outside the area,
off a buffer's start, and of a buffer that is not allocated. -/
theorem wit_Mailbox_refused : (live.poolEn 0 = false) ∧ (mailbox Pool.reset 0x0F03 0).fld 0x3004 15 8 = 15 ∧
    (mailbox holder 0x1003 0).underQuota 3 16 1 = false ∧ ((mailbox holder 0x1103 0).pool 3).next 4096 = none ∧
    Tab.get 0 ((mailbox Pool.reset 0x1003 0).pool 3).held 16 = 0 ∧
    (0 < Tab.get 0 ((mailbox holder 0x1003 0x10000000).pool 3).held 16 ∧ (mailbox holder 0x1003 0x10000000).freeCode 3 0x2010000000 = codeBounds) ∧
    (mailbox holder 0x1003 1).freeCode 3 0x2000000001 = codeAlign ∧ (mailbox holder 0x1003 0).freeCode 3 0x2000000000 = codeOffside ∧
    (0x2010000000 - 1 < 0x2000000000 + 4096 * 65536 ∧ (0x2010000000 - 1 - 0x2000000000) % 65536 ≠ 0) := by decide +kernel

theorem wit_Whistles : HostReady live 0x3030 ∧ (live.boundary = false ∧ live.standing + (255 : Byte).toNat ≤ 255) ∧
    ((1 : Byte) ≠ 0 ∧ 255 < ({ live with standing := 255 } : State).standing + (1 : Byte).toNat) ∧
    (({ live with boundary := true } : State).boundary = true ∧ ({ live with boundary := true } : State).standing = 0) :=
  ⟨ready_of (by decide +kernel), by decide +kernel, by decide +kernel, by decide +kernel⟩

/-- Region 255 written, the size of the stacks, not enabled. -/
def region255 (z : Word) : State := { live with regs := [(0x0D8FF8, some z)], mp := { MemPort.reset with nlines := 1 } }

theorem wit_PoolsAndRegions_regions : HostReady (region255 40) (0x0D800C + 0x10 * 255) ∧ (region255 40).reg (0x0D800C + 0x10 * 255) ≠ 1 ∧
    (region255 40).region 255 = (0, 163840, false) ∧
    ((region255 40).idle = true ∧ 0 + 163840 ≤ (region255 40).stackBytes ∧ (region255 40).meetsRegion 255 0 163840 = false ∧
      (region255 40).meetsPool 8 0 163840 = false) ∧
    ((region255 41).region 255 = (0, 167936, false) ∧ (region255 41).stackBytes < 0 + 167936) ∧ (region255 0).region 255 = (0, 0, false) ∧
    busy.idle = false ∧
    (HostReady loaders (0x0D8008#24).toNat ∧ (loaders.region 0).2.2 = true ∧ ((loaders.reg 0x0D8008 ^^^ 17#32) &&& 0x0FFFFFFF#32) ≠ 0) :=
  ⟨ready_of (by decide +kernel), by decide +kernel, by decide +kernel, by decide +kernel, by decide +kernel, by decide +kernel, by decide +kernel,
    ready_of (by decide +kernel), by decide +kernel, by decide +kernel⟩

/-- Pool 0 with one buffer of 4 KiB at address 0 and its ring above it. -/
def pool0 (en : Bool) (cls : Word) : State :=
  { live with regs := [(0x0A0008, some 4096), (0x0A0010, some 1), (0x0A0014, some ((if en then 0x80000000 else 0) + 4 * cls))]
              mp := { MemPort.reset with nlines := 1 } }

theorem wit_PoolsAndRegions_pools : HostReady (pool0 false 0) 0x0A1000 ∧ (pool0 false 0).idle = true ∧ (pool0 false 0).quota 0 0 ≠ 1 ∧
    (pool0 false 0).poolEn 0 = false ∧ HostReady (pool0 true 0) (0x0A1000 + 4 * (8 * 255 + 0)) ∧
    ((pool0 true 0).poolEn 0 = true ∧ (pool0 true 0).poolClass 0 = 0 ∧ (pool0 true 0).quota 0 255 ≠ 2 ∧
      (pool0 true 0).poolCount 0 - (pool0 true 0).quarCount 0 < ((pool0 true 0).setReg (0x0A1000 + 4 * (8 * 255 + 0)) 2).quotaSum 0) ∧
    HostReady (pool0 false 0) (poolReg 0 0x14) ∧ ((pool0 false 0).reg (poolReg 0 0x14)).getLsbD 31 = false ∧
    ((pool0 false 0).setReg (poolReg 0 0x14) 0x80000000).poolBad 0 = false ∧
    ((pool0 false 0).setReg (poolReg 0 0x14) 0x80000000).poolBase 0 % ((pool0 false 0).setReg (poolReg 0 0x14) 0x80000000).bufBytes 0 = 0 ∧
    (live.setReg (poolReg 0 0x14) 0x80000000).poolBad 0 = true ∧
    ((pool0 true 0).poolEn 0 = true ∧ ((pool0 true 0).pool 0).ready = false ∧ (pool0 true 0).poolClass 0 ≠ 2 ∧ (pool0 true 2).poolClass 0 = 2) ∧
    (((pool0 true 0).pool 0).waiting = [] ∧ (pool0 true 2).ansBytes = 0 ∧
      ({ pool0 true 2 with regs := (pool0 true 2).regs ++ [(0x0C0000, some 16)] } : State).ansBytes ≠ 0 ∧
      Tab.get false ((pool0 true 2).pool 0).quar 0 = false) :=
  ⟨ready_of (by decide +kernel), by decide +kernel, by decide +kernel, by decide +kernel, ready_of (by decide +kernel), by decide +kernel,
    ready_of (by decide +kernel), by decide +kernel, by decide +kernel, by decide +kernel, by decide +kernel, by decide +kernel, by decide +kernel⟩

theorem wit_BuffersComeAndGo : ((mailbox Pool.reset 0 0).poolEn 3 = true ∧ ((mailbox Pool.reset 0 0).pool 3).ready = true ∧
      (mailbox Pool.reset 0 0).poolClass 3 = 0 ∧ (mailbox Pool.reset 0 0).underQuota 3 16 1 = true ∧
      (((mailbox Pool.reset 0 0).pool 3).next ((mailbox Pool.reset 0 0).poolCount 3)).isSome = true) ∧
    ((mailbox Pool.reset 0 0).pool 3).waiting = [] ∧
    (((mailbox holder 0 0).pool 3).waiting = [] ∧ (mailbox holder 0 0).freeCode 3 (0x200FFF0000#48).toNat = codeOk ∧
      (mailbox holder 0 0).freeCode 3 (0x200FFE0000#48).toNat ≠ codeOk) ∧ ((mailbox Pool.reset 0 0).pool 3).cached ≤ 64 := by decide +kernel

/-- Queue 4095 of a class. -/
def queue1 (k : QClass) (q : Queue) : State := { live with queues := [(4095, { q with cls := k })] }

theorem wit_PortGroupsEnable : HostReady (queue1 .dispatch .reset) (0x090000 + 4 * 24) ∧ (queue1 .dispatch .reset).idle = true ∧
    ((0x3FFF#32 ||| 0x80000000#32) &&& 0x80007FFF#32 = 0x80003FFF#32 ∧ (0x80003FFF#32).toNat % 4096 = 4095 ∧ 2 ^ ((0x80003FFF#32).toNat / 4096 % 4) = 8) ∧
    ((queue1 .dispatch .reset).reg (0x090000 + 4 * 24)).getLsbD 31 = false ∧
    (queue1 .dispatch .reset).ingBad 24 4095 8 false = false ∧ (queue1 .unit .reset).ingBad 24 4095 8 false = true ∧
    (queue1 .dispatch .reset).ingBad 25 4095 8 false = true ∧ HostReady (queue1 .unit .reset) (0x090100 + 4 * 24) ∧
    (queue1 .unit .reset).egrBad 24 4095 8 = false ∧ (queue1 .dispatch .reset).egrBad 24 4095 8 = true :=
  ⟨ready_of (by decide +kernel), by decide +kernel, by decide +kernel, by decide +kernel, by decide +kernel, by decide +kernel,
    by decide +kernel, ready_of (by decide +kernel), by decide +kernel, by decide +kernel⟩

/-- A request of the last line, for its last sector, and of the line beyond it. -/
def reqAt (l : BitVec 40) (op : MemOp) : MemReq :=
  { req op 3 0 (if op = .read then [] else List.replicate 64 1) (if op = .read then [] else List.replicate 64 true) with line := l }

/-- Credit at every port. -/
def credit : State :=
  { live with mp := { MemPort.reset with nlines := 1, rdCredit := (List.range 40).map (·, 64), wrCredit := (List.range 40).map (·, 64) } }

theorem wit_MemoryTraffic : (∀ op ∈ [MemOp.read, .write, .add], (reqAt 639 op).ok = true ∧ lineChan (reqAt 639 op).line.toNat = 639 ∧
      portOfChan 639 = 39 ∧ (reqAt 639 op).line.toNat < credit.mp.nlines * 640 ∧ credit.ordered = false ∧ 639 ∉ credit.mp.dead ∧
      credit.holds 639 = false ∧ credit.unitBusy 639 639 = false ∧ credit.mp.wait = [] ∧ credit.mp.rq = [] ∧ credit.mp.holdq = [] ∧
      credit.hasCredit 39 (reqAt 639 op) = true ∧ credit.freeTag 39 = some 0 ∧
      ({ credit with mp := { credit.mp with rdCredit := [], wrCredit := [] } } : State).hasCredit 39 (reqAt 639 op) = false) ∧
    ((reqAt 640 .read).ok = true ∧ credit.mp.nlines * 640 ≤ (reqAt 640 .read).line.toNat) ∧ credit.lineLost 639 = false ∧
    ({ credit with mp := { credit.mp with poison := [(639, true)] } } : State).lineLost 639 = true := by decide +kernel

/-- Requests that wait at the port or in the hold queue of channel 639, and one of either class. -/
def queued (q h : List (Nat × MemReq)) : State := { credit with mp := { credit.mp with rq := q, holdq := h } }

theorem wit_MemoryTraffic_order : (queued [(639, reqAt 639 .read)] []).nextReq 39 = some (false, 639, reqAt 639 .read) ∧
    (queued [] [(639, reqAt 639 .read)]).nextReq 39 = some (true, 639, reqAt 639 .read) ∧
    (queued [(639, reqAt 639 .read), (639, { reqAt 639 .read with recv := true })] []).nextReq 39 =
      some (false, 639, { reqAt 639 .read with recv := true }) := by decide +kernel

/-- A request in flight on port 39. -/
def flying (op : MemOp) : State := { credit with mp := { credit.mp with flights := [⟨39, 7, 639, reqAt 639 op⟩] } }

theorem wit_MemoryTraffic_response : (∀ op ∈ [MemOp.read, .write, .add], (flying op).mp.flights.find? (fun f => decide (f.port = (39 : Fin 40).val) && decide (f.tag = 7)) =
      some ⟨39, 7, 639, reqAt 639 op⟩) ∧ (flying .read).lineLost 639 = false ∧ (flying .read).mp.lostPending = false ∧
    ({ flying .add with mp := { (flying .add).mp with lostPending := true } } : State).mp.lostPending = true ∧
    ((flying .write).mp.flights.all fun f => decide (f.req.op = .write)) = true ∧
    ((flying .read).mp.rq = [] ∧ (flying .read).mp.holdq = [] ∧ (flying .read).mp.wait = [] ∧ (flying .read).mp.maint = []) := by decide +kernel

/-- Channel 639 under retraining. -/
def retraining (q : List (Nat × MemReq)) : State := { credit with mp := { credit.mp with retraining := [639], holdq := q } }

set_option maxRecDepth 8000 in
theorem wit_RetrainingHolds : (credit.kick.st ≠ 0 ∧ 639 ∉ credit.mp.retraining ∧ 639 ∉ credit.mp.dead) ∧
    ((reqAt 639 .read).ok = true ∧ lineChan (reqAt 639 .read).line.toNat = 639 ∧ (retraining []).holds 639 = true ∧ (retraining []).mp.wait = [] ∧
      (retraining []).heldBytes 639 + reqHold (reqAt 639 .read) ≤ 49152) ∧
    (49152 < (retraining (List.replicate 3100 (639, reqAt 639 .read))).heldBytes 639 + reqHold (reqAt 639 .read)) ∧
    ({ credit with mp := { credit.mp with wait := [reqAt 639 .read] } } : State).mp.wait ≠ [] ∧
    ((retraining [(639, reqAt 639 .write)]).mp.retraining = [639] ∧ (retraining [(639, reqAt 639 .write)]).onSpare 639 = false ∧
      (retraining [(639, reqAt 639 .write)]).inMaint 639 = false ∧ (retraining [(639, reqAt 639 .write)]).mp.rq = [] ∧
      (retraining [(639, reqAt 639 .write)]).mp.wait = [] ∧ (retraining [(639, reqAt 639 .write)]).unitBusy 639 639 = false ∧
      (retraining [(639, reqAt 639 .write)]).hasCredit 39 (reqAt 639 .write) = true ∧ (retraining [(639, reqAt 639 .write)]).freeTag 39 = some 0) ∧
    639 ∈ (retraining []).mp.retraining := by decide +kernel

/-- Stack 19 in a state, its spare out of use or not. -/
def stack19 (st : Nat) (no : Bool) : State := { credit with mp := { credit.mp with stk := [(19, ⟨st, 3, false, no⟩)] } }

theorem wit_TakeoverAndResume : ((639 : Fin 640).val ∉ (stack19 1 false).mp.dead ∧ ((stack19 1 false).stack (639 / 32)).st = 1 ∧
      ((stack19 1 false).stack (639 / 32)).noSpare = false) ∧ ((stack19 1 true).stack 19).noSpare = true ∧
    2 ≤ ((stack19 2 false).stack 19).st ∧ ((stack19 2 false).stack 19).spareReady = false ∧ (stack19 2 false).mp.wait = [] ∧ HostReady live 0x0D001C :=
  ⟨by decide +kernel, by decide +kernel, by decide +kernel, by decide +kernel, by decide +kernel, ready_of (by decide +kernel)⟩

/-- A maintenance command of the host, or of the Referee, in progress. -/
def maintaining (host : Bool) (op : Byte) (keep : Bool) : State :=
  { live with mp := { MemPort.reset with maint := [⟨host, 19, 31, op, 0, 0, keep, none⟩] } }

theorem wit_MaintenanceCommands : HostReady live 0x0D2000 ∧ (∀ m ∈ live.mp.maint, m.host = false) ∧
    ((32 : BitVec 6).toNat ≤ 32 ∧ (19 : BitVec 5).toNat ≤ 19 ∧ 32 < (33 : BitVec 6).toNat ∧ 19 < (20 : BitVec 5).toNat) ∧
    (HostReady { live with kick := { live.kick with st := 4 } } 0x0D2000 ∧ ({ live with kick := { live.kick with st := 4 } } : State).engine = 3) ∧
    (∃ m ∈ (maintaining true 0x10 false).mp.maint, m.host = true) ∧ (live.engine ≠ 1 ∧ live.engine ≠ 3) ∧
    (∀ op ∈ [0x01#8, 0x02, 0x10, 0x20, 0x21], (maintaining true op false).mp.maint = [⟨true, 19, 31, op, 0, 0, false, none⟩] ∧
      (maintaining true op false).mp.holdq = [] ∧ (maintaining true op false).mp.rq = [] ∧ (maintaining true op false).mp.wait = []) ∧
    (∀ k ∈ [true, false], (maintaining false 0x11 k).mp.maint = [⟨false, 19, 31, 0x11, 0, 0, k, none⟩] ∧ (maintaining false 0x11 k).chanOf 19 31 = some 639) ∧
    ((1025#32).getLsbD 10 = true ∧ (1#32).getLsbD 10 = false ∧ (1#32).getLsbD 0 = true ∧ (0#32).getLsbD 0 = false) :=
  ⟨ready_of (by decide +kernel), by decide +kernel, by decide +kernel, ⟨ready_of (by decide +kernel), by decide +kernel⟩,
    ⟨_, .head _, rfl⟩, by decide +kernel, by decide +kernel, by decide +kernel, by decide +kernel⟩

theorem wit_ObservationPort : HostReady live (0x0F0100 + 4 * 15) ∧ ((0x30000#32).toNat / 65536 % 4 = 3 ∧ (0x23F3F#32).toNat / 65536 % 4 ≠ 3) ∧
    live.fldNow 0x0F0000 0 0 = 0 ∧ pins3.fldNow 0x0F0000 0 0 = 1 ∧ pins3.fldNow 0x0F013C 17 16 = 0 ∧ pins3.fldNow 0x0F0100 17 16 = 1 ∧
    pins3.fldNow 0x0F0104 17 16 = 2 :=
  ⟨ready_of (by decide +kernel), by decide +kernel, by decide +kernel, by decide +kernel, by decide +kernel, by decide +kernel, by decide +kernel⟩

theorem wit_SuperperiodBoundary : live.served = true ∧ State.reset.served = false ∧
    (∀ a ∈ [0, 1, 2], ∀ r ∈ [true, false], ({ live with obs := ⟨r, a, 0, []⟩ } : State).served = true ∧ ({ live with obs := ⟨r, a, 0, []⟩ } : State).obs.arm = a ∧
      ({ live with obs := ⟨r, a, 0, []⟩ } : State).obs.run = r) ∧ HostReady live 0x0F0200 :=
  ⟨by decide +kernel, by decide +kernel, by decide +kernel, ready_of (by decide +kernel)⟩

/-- A static field written on a busy and on an idle block; the three offsets of captured words. -/
theorem wit_HostAccesses : HostReady live (0xFFFFFF#24).toNat ∧ (0xFFFFFF#24).toNat % 4 ≠ 0 ∧ HostReady busy (0x00106C#24).toNat ∧
    (0x00106C % 4 = 0 ∧ 0x00106C < 0x10000 ∧ 0x00106C ∉ [0x1040, 0x1044, 0x2000, 0x2800, 0x3000, 0x3020, 0x3024, 0x3030]) ∧
    ((busy.reg 0x106C ^^^ 1#32) &&& maskOf (fieldsAt 0x106C) .rw ≠ 0 ∧ busy.idle = false) ∧
    (HostReady live (0x00106C#24).toNat ∧ live.idle = true) ∧
    ((live.reg 0x1048 ^^^ 1#32) &&& maskOf (fieldsAt 0x1048) .rw = 0 ∧ maskOf (fieldsAt 0x1048) .rwl ≠ 0) ∧ live.served = true :=
  ⟨ready_of (by decide +kernel), by decide +kernel, ready_of (by decide +kernel), by decide +kernel, by decide +kernel,
    ⟨ready_of (by decide +kernel), by decide +kernel⟩, by decide +kernel, by decide +kernel⟩

/-- The last group to adopt; a ring of 4096 slots whose writer is half way round. -/
def rings : State := { live with regs := [(0x070018, some 0x18), (0x07001C, some 4096), (0x0E0110, some 0x18), (0x0E011C, some 4096)] }

theorem wit_LiveRegisters : (14 : Fin 15) = 14 ∧ (1 : Fin 15) ≠ 14 ∧ (1 : Fin 15).val = 1 ∧
    (bitOf (({ live with regs := [(0x1080, some 0x7FFD)] } : State).reg 0x1080).toNat 1 = false ∧
      ∀ k < 15, k ≠ 1 → bitOf (({ live with regs := [(0x1080, some 0x7FFD)] } : State).reg 0x1080).toNat k = true) ∧
    HostReady rings 0x070020 ∧ HostReady rings 0x0E0120 ∧
    (ringSlots (rings.fld 0x070018 4 1) = 4096 ∧ 4096 < (4096 + 8192 - (8191#32).toNat % 8192) % 8192 ∧
      (4096 + 8192 - (0#32).toNat % 8192) % 8192 ≤ 4096) :=
  ⟨rfl, by decide +kernel, rfl, by decide +kernel, ready_of (by decide +kernel), ready_of (by decide +kernel), by decide +kernel⟩

/-- The paged window on a target. -/
def page (v : Word) : State := { live with regs := [(0x1100, some v)] }

theorem wit_PagedWindow : HostReady (page 0x301) (0x800000 + 4 * 2097151) ∧
    ((page 0x301).target = some (.gate 0) ∧ (page 0x301).pageByte 2097151 < 33554432) ∧
    (HostReady (page 0x05) (0x800000 + 4 * 0) ∧ (page 0x05).target = some (.scout 0) ∧ (page 0x05).pageByte 0 < (Target.scout 0).size ∧ (page 0x05).bankShut 2 0 = false) ∧
    ((page 0x08).target = some (.bias 1) ∧ (page 0x08).pageByte 4095 < (Target.bias 1).size ∧ (page 0x08).bankShut 3 1 = false ∧
      ({ page 0x08 with tbl := (tables false).tbl } : State).bankShut 3 1 = true) ∧
    ((page 0x09).target = some (.replica 0) ∧ (page 0x09).pageByte 0 < (Target.replica 0).size ∧ (page 0x09).bankShut 0 0 = false) ∧
    (((tables false).banked 2).active.isSome = true ∧ (1 : Fin 2) = ((tables false).banked 2).bank) ∧
    (HostReady (page 0x0C) (0x800000 + 32 * 4095) ∧ (page 0x0C).regNow 0x1100 = 0x0C#32 ∧ ((page 0x0C).queue 4095).atEnd = true) ∧
    (({ queue1 .unit { Queue.reset with atEnd := false, resync := true } with regs := [(0x1100, some 0x0C)] } : State).queue 4095).resync = true :=
  ⟨ready_of (by decide +kernel), by decide +kernel, ⟨ready_of (by decide +kernel), by decide +kernel⟩, by decide +kernel, by decide +kernel,
    by decide +kernel, ⟨ready_of (by decide +kernel), by decide +kernel⟩, by decide +kernel⟩

theorem wit_Resets : (live.kick.nvsq = [] ∧ live.kick.st ≠ 0 ∧ State.reset.kick.st = 0 ∧ live.served = true ∧ State.reset.served = false) ∧
    (2 ≤ live.kick.st ∧ kicking.kick.st < 2) ∧
    ((({ State.reset with kick := { Kickoff.reset with warm := true } } : State).kick.power && !true) = false ∧ (true && !false) = true) := by decide +kernel

/-- Kickoff before step `n`, its image sound. -/
def before (n : Nat) : State :=
  { State.reset with kick := { Kickoff.reset with st := 1, step := n, power := false, readImage := false, img := [(0, 0x4C4B4450), (1, 1)] } }

/-- Line counts and margins of twenty sound stacks. -/
def k4 : K4In := ⟨List.replicate 20 5859375, List.replicate 20 255, List.replicate 20 255, []⟩

theorem wit_KickoffPasses : (∀ n ∈ [0, 1, 2, 3, 4, 5, 6, 7, 8], (before n).kick.st = 1 ∧ (before n).kick.nvsq = [] ∧ (before n).kick.tried = [] ∧
      (before n).kick.note = 0 ∧ (before n).kick.step = n ∧ (before n).kick.readImage = false ∧ (before n).imgOk = true) ∧
    (∀ w, w < 128 → 16 ≤ w → (before 0).img w = 0) ∧ ((before 0).kick.marks = [] ∧ (before 0).kick.lostStk = [] ∧ (before 0).kick.lockMiss = none) ∧
    ((before 5).follows = false ∧ ({ before 5 with regs := [(0x106C, some 1)] } : State).follows = true ∧
      ({ before 5 with regs := [(0x106C, some 1)] } : State).fld 0x0B0014 5 0 < (before 5).nLink) ∧ (154687500 ≤ 157812500 ∧ (7812#32).toNat ≤ 7812) ∧
    (k4.lines = List.replicate 20 5859375 ∧ k4.fails = [] ∧ (∀ k < 20, (before 4).marginLow k4 k = false) ∧ (before 4).quarList.length < 256) ∧
    ∀ l, l < (before 5).nLink → ((before 5).port l).st = 0 := by decide +kernel

/-- Kickoff in step `n` after its first entry, with one policy word and a follower's setting. -/
def failing (n : Nat) (policy : Word) : State :=
  { before n with kick := { (before n).kick with note := 1, img := [(0, 0x4C4B4450), (1, 1), (128, policy)] }, regs := [(0x106C, some 1)] }

/-- The policy of the failing step: the first action while it repeats fewer times than the limit, the second after. -/
def action (s : State) (cause : Byte) (n : Nat) (item : BitVec 16) : Nat :=
  if s.repeats n cause item < (s.policyFor n cause).2.2 then (s.policyFor n cause).1 else (s.policyFor n cause).2.1

theorem wit_KickoffFailures : (∀ n ∈ [0, 1, 5], (failing n 0).kick.st = 1 ∧ (failing n 0).kick.nvsq = [] ∧ (failing n 0).kick.tried = [] ∧
      (failing n 0).kick.note = 1 ∧ (failing n 0).kick.step = n ∧ (failing n 0).kick.readImage = false ∧ (failing n 0).kick.lockMiss = none) ∧ (failing 1 0).follows = true ∧
    (action (failing 1 0x80022111) 0x11 1 0 = 2 ∧ action (failing 1 0) 0x11 1 0 ≠ 2) ∧
    (action (failing 0 0) 0x03 0 0 = 2 ∧ action (failing 0 0x80033030) 0x03 0 0 ≠ 2) ∧
    (action (failing 5 0) 0x53 5 0x403F = 1 ∧ action (failing 5 0x80033535) 0x53 5 0x403F ≠ 1) ∧ (63 < (failing 5 0).nLink ∧ ((failing 5 0).port 63).st = 0) := by
  decide +kernel

/-- The engine in a kickoff state, with a word on its way to the store. -/
def engineAt (k : Nat) : State := { live with kick := { live.kick with st := k, persist := true, nvsq := [(5, 7)], aligned := true }, regs := [(0x106C, some 0x9F)] }

theorem wit_StoreAndKickoffRegisters : ((engineAt 2).kick.nvsq = (5, 7) :: [] ∧ (engineAt 2).kick.st ≠ 1 ∧ (engineAt 2).reading = false) ∧
    (({ before 0 with kick := { (before 0).kick with readImage := true } } : State).reading = true ∧ live.reading = false ∧ live.kick.nvsq = []) ∧
    (HostReady (engineAt 4) 0x0E000C ∧ (engineAt 4).kick.st = 4 ∧ HostReady kicking 0x0E000C ∧ kicking.kick.st = 1 ∧ live.newestLog = none) ∧
    (HostReady (engineAt 2) (0x0E8000 + 4 * 2047) ∧ (128 ≤ 255 ∧ 255 < 256) ∧ (16 ≤ 127 ∧ 127 < 128 ∧ (engineAt 4).kick.st = 4) ∧ (engineAt 2).kick.persist = true) ∧
    ¬ ((128 ≤ 256 ∧ 256 < 256) ∨ (16 ≤ 256 ∧ 256 < 128 ∧ live.kick.st = 4)) ∧
    ((engineAt 2).follows = true ∧ (engineAt 2).kick.aligned = true ∧ (79#7).toNat = Min.min 79 ((engineAt 2).fld 0x106C 7 1) ∧
      (80#7).toNat ≠ Min.min 79 ((engineAt 2).fld 0x106C 7 1)) :=
  ⟨by decide +kernel, by decide +kernel, ⟨ready_of (by decide +kernel), by decide +kernel, ready_of (by decide +kernel), by decide +kernel, by decide +kernel⟩,
    ⟨ready_of (by decide +kernel), by decide +kernel, by decide +kernel, by decide +kernel⟩, by decide +kernel, by decide +kernel⟩

/-- Ingest and egress port 31 lead groups of their own with queue 4095. -/
def ported (k : QClass) (q : Queue) : State :=
  { queue1 k q with regs := [(0x09007C, some 0x80000FFF), (0x09017C, some 0x80000FFF)] }

/-- A dispatch word that ends its packet. -/
def word1 : QWord := ⟨5, 1, true⟩

theorem wit_PortsAndSpill : ((ported .dispatch { Queue.reset with head := List.replicate 15 word1 }).ing 31 = (true, 4095, 1, false) ∧
      (ported .dispatch { Queue.reset with head := List.replicate 15 word1 }).ingLeader 31 = some 31 ∧ word1.kind ≠ 0 ∧ word1.last = true ∧
      (∀ q, q = (ported .dispatch { Queue.reset with head := List.replicate 15 word1 }).queue 4095 → q.atEnd = true ∧ q.resync = false ∧ q.cut = false ∧
        q.mid = [] ∧ q.head.length + q.tail.length < 16)) ∧ (live.ingLeader 31 = none ∧ (live.egr 31).1 = false) ∧
    ((ported .unit .reset).egr 31 = (true, 4095, 1) ∧ (ported .unit .reset).flow = [] ∧
      ∀ q, q = (ported .unit .reset).queue 4095 → q.mid = [] ∧ q.tail = [] ∧ q.cuts = [] ∧ q.blks = []) ∧
    (((queue1 .unit { Queue.reset with mid := [(0, 16)], head := [word1] }).queue 4095).mid = (0, 16) :: [] ∧
      ((queue1 .unit { Queue.reset with mid := [(0, 16)], head := [word1] }).queue 4095).head.length ≤ 1) ∧
    (∀ n ∈ [1, 0], ({ live with adm := { live.adm with stalled := true }, reb := { Rebound.reset with aslots := n, used := 0 } } : State).adm.stalled = true) ∧
    (0 < 1 ∧ ∀ u ∈ live.ucmds, unitOf u.op ≠ 3) ∧ (0 : Nat) ≤ 0 := by
  refine ⟨⟨by decide +kernel, by decide +kernel, by decide +kernel, by decide +kernel, ?_⟩, by decide +kernel, ⟨by decide +kernel, by decide +kernel, ?_⟩,
    by decide +kernel, by decide +kernel, by decide +kernel, by decide +kernel⟩
  all_goals
    intro q hq
    subst hq
    decide +kernel

/-- Port 63 in service, with room for `n` cells at its partner. -/
def linked (p : Port) (n : Word) : State := { live with vol := { Volley.reset with ports := [(63, { p with st := 2, lanes := 16, lmap := List.range 16, granted := n })] } }

/-- A COPY, an ANSWER and an inline frame. -/
def frame (k : Nat) (b : Nat) : Frame := ⟨0, 0, k, 0, 0, 0, 9, b, List.replicate 32 0, if k ≤ 2 then List.replicate b 1 else []⟩

/-- The same with port 63 the pair-compare port. -/
def paired (p : Port) (n : Word) (ds : List Digest) : State :=
  { linked p n with regs := [(0x0B0014, some 0x8000003F)], vol := { (linked p n).vol with digests := ds } }

theorem wit_FramesLeave : (State.reset.port 63).up = false ∧
    (((linked { Port.reset with cell := 640 } 0).port 63).up = true ∧ 640 ≤ ((linked { Port.reset with cell := 640 } 0).port 63).cell ∧
      ((linked .reset 0).port 63).txq = [] ∧ ((linked .reset 0).port 63).retry = [] ∧ (linked .reset 0).pcPort 63 = false) ∧
    (∀ ds ∈ [[], [⟨0, 1, 0, 0, 0⟩]], ((paired { Port.reset with cell := 0 } 64 ds).port 63).up = true ∧ (paired { Port.reset with cell := 0 } 64 ds).pcPort 63 = true ∧
      ((paired { Port.reset with cell := 0 } 64 ds).port 63).cell < 640 ∧ ((paired { Port.reset with cell := 0 } 64 ds).port 63).txq = [] ∧ ((paired { Port.reset with cell := 0 } 64 ds).port 63).retry = [] ∧
      1 ≤ ((paired { Port.reset with cell := 0 } 64 ds).port 63).credit ∧ ((paired { Port.reset with cell := 0 } 64 ds).port 63).retryBytes + 64 ≤ 262144 ∧ (paired { Port.reset with cell := 0 } 64 ds).vol.digests = ds) ∧
    (∀ s ∈ [linked { Port.reset with retry := [⟨0, 1, true, frame 3 32⟩], cell := 0 } 1, paired { Port.reset with retry := [⟨0, 1, true, frame 3 32⟩], cell := 638 } 1 []],
      (s.port 63).retry.find? (·.resend) = some ⟨0, 1, true, frame 3 32⟩ ∧ (frame 3 32).cells ≤ (s.port 63).credit ∧ (s.port 63).cell < 640 ∧
        s.slotFree 63 (frame 3 32).cells = true) ∧
    (((linked { Port.reset with txq := [frame 1 8, frame 2 8, frame 3 32] } 2).port 63).pick (fun f => decide (3 ≤ f.kind)) = some (frame 3 32) ∧
      ((linked { Port.reset with txq := [frame 1 8, frame 2 8] } 2).port 63).pick (fun f => decide (3 ≤ f.kind)) = none ∧
      ((linked { Port.reset with txq := [frame 1 8, frame 2 8] } 2).port 63).pick (fun f => decide (f.kind = 2)) = some (frame 2 8) ∧
      ((linked { Port.reset with txq := [frame 1 8] } 2).port 63).pick (fun f => decide (f.kind = 2)) = none ∧
      ((linked { Port.reset with txq := [frame 1 8] } 2).port 63).pick (fun f => decide (f.kind = 1)) = some (frame 1 8) ∧
      (linked { Port.reset with txq := [frame 1 8] } 2).slotFree 63 (frame 1 8).cells = true ∧
      ((linked { Port.reset with txq := [frame 1 8], cell := 0 } 2).port 63).cell < 640) ∧
    (∀ n ∈ [3, 4], ((linked { Port.reset with retry := [⟨7, n, false, frame 3 32⟩] } 0).port 63).retry.find? (fun r => decide (r.seq = 7)) =
      some ⟨7, n, false, frame 3 32⟩) := by decide +kernel

/-- A good SIGNAL frame; a COPY whose last byte is changed; a frame for another chip; a SIGNAL of a kind that is not defined. -/
def good (k : Nat) (q : Nat) : List Byte := (frame k 32).wire q
def spoiled : List Byte := ((frame 1 32).wire 5).take 127 ++ [0xFF]

theorem wit_FramesArrive : ((linked .reset 0).port 63).up = true ∧ (64 ≤ (good 3 0).length ∧ (good 3 0).length % 64 = 0) ∧
    crc32 ((List.replicate 64 (0#8)).take 60) ≠ fieldLe (List.replicate 64 (0#8)) 60 4 ∧
    (crc32 ((good 3 0).take 60) = fieldLe (good 3 0) 60 4 ∧ headerValid (good 3 0) = true ∧ (frameOf (good 3 0)).1.dest = live.chip ∧
      (frameOf (good 3 0)).1.tagBad = false ∧ (linked .reset 0).seenSegment (frameOf (good 3 0)).1 = false ∧ (good 3 0).length = 64) ∧
    (crc32 (spoiled.take 60) = fieldLe spoiled 60 4 ∧ 64 < spoiled.length ∧
      crc32 ((spoiled.drop 64).take (spoiled.length - 68)) ≠ fieldLe spoiled (spoiled.length - 4) 4) ∧
    (crc32 ((good 15 0).take 60) = fieldLe (good 15 0) 60 4 ∧ headerValid (good 15 0) = false) ∧
    (headerValid (good 1 0) = true ∧ (frameOf (good 1 0)).1.tagBad = false ∧
      ({ linked .reset 0 with vol := { (linked .reset 0).vol with dups := [(0, 9)] } } : State).seenSegment (frameOf (good 1 0)).1 = true) ∧
    (((frameOf (good 3 0x7FFFFF)).2 - 0#24).toNat < 2 ^ 23 ∧ 2 ^ 23 ≤ ((frameOf (good 3 0x800000)).2 - 0#24).toNat) ∧
    (((linked .reset 0).port 63).had 0 = false ∧ ((linked .reset 0).port 63).had 0x800000 = true ∧
      ((linked { Port.reset with missing := [0x800000] } 0).port 63).had 0x800000 = false) := by decide +kernel

/-- A control block as port 63 sends it; the same with another marker; a short one; one whose CRC is spoiled. -/
def block : List Byte := (linked .reset 0).controlBlock 63

theorem wit_FramesArrive_control : (block.length = 160 ∧ block.take 8 = ctlMarker ∧ crc32 (block.take 152) = fieldLe block 152 4 ∧
      ∀ i < 8, bitOf (fieldLe block (13 + 4 * i) 4) 31 = false) ∧ (block.take 159).length ≠ 160 ∧
    (0#8 :: block.drop 1).take 8 ≠ ctlMarker ∧ crc32 ((block.take 100 ++ [1] ++ block.drop 101).take 152) ≠ fieldLe (block.take 100 ++ [1] ++ block.drop 101) 152 4 := by
  decide +kernel

/-- Port 63 in a state with some bad lanes. -/
def lanes (st : Nat) (bad : List Nat) : State := { live with vol := { Volley.reset with ports := [(63, { Port.reset with st := st, lanes := 16, lmap := List.range 16, bad := bad })] } }

/-- The same with every bench port marked out. -/
def benchless (bad : List Nat) : State := { lanes 4 bad with kick := { live.kick with marks := [(8, 0xF)] } }

theorem wit_PortsRetrain : (63 < (lanes 2 []).nLink ∧ 15 ∉ ((lanes 2 []).port 63).bad ∧ ((lanes 2 []).port 63).up = true ∧ 15 ∈ ((lanes 2 []).port 63).lmap ∧
      17 ∉ ((lanes 2 []).port 63).lmap ∧ ((lanes 4 []).port 63).up = false) ∧
    (((lanes 2 []).port 63).st ≠ 4 ∧ ((lanes 4 [0, 17]).port 63).st = 4 ∧ 16 ≤ ((lanes 4 [0, 17]).port 63).good.length) ∧
    (((benchless [0, 1, 17]).port 63).st = 4 ∧ ((benchless [0, 1, 17]).port 63).good.length < 16 ∧ 8 ≤ ((benchless (List.range 10)).port 63).good.length ∧
      (benchless [0, 1, 17]).benchPorts = [] ∧ ((benchless (List.range 11)).port 63).good.length < 8) ∧
    ((lanes 4 [0, 1, 17]).benchPorts = 0 :: [1, 2, 3] ∧ ((lanes 4 [0, 1, 17]).port 63).good.length < 16 ∧ (lanes 4 [0, 1, 17]).physOf 63 < 68) ∧
    (HostReady live (0x0B101C + 0x40 * 63) ∧ ({ live with gradeB := true } : State).nLink ≤ 63) := by
  refine ⟨by decide +kernel, by decide +kernel, by decide +kernel, by decide +kernel, ready_of (by decide +kernel), by decide +kernel⟩

/-- A frame that waits to be processed. -/
def waiting (f : Frame) : State := { live with vol := { Volley.reset with rx := [(none, f)] } }

/-- An inline frame of a kind and an instance with its first bytes. -/
def inl (k : Nat) (inst : Byte) (bs : List Byte) : Frame := ⟨0, 0, k, 0, inst, 0, 0, 32, bs ++ List.replicate (32 - bs.length) 0, []⟩

/-- A COPY packet of two segments, of which one has arrived, for a pool-less receive. -/
def partial1 (n : Nat) : State :=
  { live with vol := { Volley.reset with rx := [(none, ⟨0, 0, 1, 0, 0, 1, 9, 1980 + n, List.replicate 32 0, List.replicate n 1⟩)]
                                         parts := [⟨0, 9, 1, 0, 0, 1980 + n, [0], 0, 0⟩] } }

theorem wit_CopiesAndNotices_copies : (∀ x ∈ (waiting (inl 3 0 [])).vol.rx, x.2.kind ≠ 1) ∧
    ((((partial1 8).takeRx 1).map (·.1)).isSome = true ∧ (((partial1 8).takeRx 1).bind fun x => x.2.partOf x.1).isSome = true ∧
      3 ≤ ((partial1 8).queue ((partial1 8).rxQueue 0)).room ∧ 3 ≤ ((partial1 8).queue ((partial1 8).earlyQueue 0)).room ∧
      (partial1 8).poolOf 1 = none) ∧ ([0].length + 1 < segments 3961 ∧ segments 1988 ≤ [0].length + 1) ∧
    (0 = (partial1 8).openInst 0 ∧ ((partial1 8).arrival 0 0).taken = false) := by decide +kernel

theorem wit_CopiesAndNotices_notices : (∀ i ∈ [(0 : Byte).toNat, 1, 2], ((waiting (inl 5 (BitVec.ofNat 8 i) [])).takeRx 5).map (·.1) = some (inl 5 (BitVec.ofNat 8 i) [])) ∧
    (live.openInst 0 = 0 ∧ (live.arrival 0 0).taken = false ∧ (2 : Byte) ≠ live.openInst 0 + 1) ∧
    (((waiting (inl 6 0 [0, 0, 1])).takeRx 6).map (·.1) = some (inl 6 0 [0, 0, 1])) ∧
    (∀ b ∈ [(0 : Nat), 1], (({ live with vol := { Volley.reset with arrivals := [(0, ⟨true, BitVec.ofNat 14 b, 0, 1, true, 2⟩)] } } : State).arrival 0 0) =
      ⟨true, BitVec.ofNat 14 b, 0, 1, true, 2⟩) ∧
    ((partial1 8).vol.parts.find? (fun p => decide (p.origin = (0 : Fin 8192).val) && decide (p.pid = 9)) = some ⟨0, 9, 1, 0, 0, 1988, [0], 0, 0⟩) ∧
    (1 < 2 ∧ 2 ≤ 2) := by decide +kernel

/-- A signal of this chip on its way. -/
def signalling : State := { busy with vol := { Volley.reset with sigs := [⟨7, 0, 0, 0, 28672, 1⟩], rx := [(none, inl 4 0 [0, 0, 0, 0, 7, 0])] } }

theorem wit_InlinePackets : (∀ n ∈ [28672, 28671], ((waiting (inl 3 0 (natLe 4 (n + 32768)))).takeRx 3).map (·.1) = some (inl 3 0 (natLe 4 (n + 32768))) ∧
      fieldLe (inl 3 0 (natLe 4 (n + 32768))).inline_ 0 4 % 32768 = n) ∧ (SigWin.reset.take 0).1 = 0 ∧ (((SigWin.reset.take 0).2).take 0).1 ≠ 0 ∧
    ((signalling.takeRx 4).isSome = true ∧ signalling.ref.replay = false ∧ (signalling.ctx 0).drain ≠ .toFree ∧
      signalling.vol.sigs.find? (fun g => decide (g.seq = BitVec.ofNat 16 (fieldLe (inl 4 0 [0, 0, 0, 0, 7, 0]).inline_ 4 2)) && decide (g.dest = 0)) =
        some ⟨7, 0, 0, 0, 28672, 1⟩ ∧ signalling.vol.sigs.find? (fun g => decide (g.c = 0)) = some ⟨7, 0, 0, 0, 28672, 1⟩ ∧ 0 = signalling.chip) ∧
    (((waiting (inl 7 0 [0, 0, 0])).takeRx 7).isSome = true ∧ 0 = (live.batch 0).toNat ∧ 0 = (live.gen 0).toNat ∧ ((waiting (inl 7 0 [0, 0, 1])).takeRx 7).isSome = true) ∧
    ((waiting (inl 8 0 [1])).takeRx 8).isSome = true ∧
    (((waiting (inl 9 0 [])).takeRx 9).isSome = true ∧ bitOf (fieldLe (inl 9 0 []).inline_ 9 1) 1 = false ∧ live.ref.compares.length < 128 ∧
      (∀ e ∈ live.ref.compares, e.mine = false) ∧ bitOf (fieldLe (inl 9 0 [0, 0, 0, 0, 0, 0, 0, 0, 0, 2]).inline_ 9 1) 1 = true) ∧
    (live.loopFull 1 = false ∧ ({ signalling with vol := { signalling.vol with sigs := [⟨7, 0, 0, 0, 28672, 1⟩] } } : State).vol.sigs.find?
      (fun g => decide (g.seq = 7)) = some ⟨7, 0, 0, 0, 28672, 1⟩) ∧
    ({ live with ref := { Referee.reset with compares := [⟨true, ⟨5, 7, 1, 0, 0⟩⟩] } } : State).ref.compares.find?
      (fun e => decide (e.d.step = 5) && decide (e.d.unit = (7 : Fin 8).val) && decide (e.d.half = 1)) = some ⟨true, ⟨5, 7, 1, 0, 0⟩⟩ := by decide +kernel

/-- A posted VOLLEY of one packet, whose word is of a kind. -/
def posted (k : BitVec 3) : State :=
  { queue1 .unit { Queue.reset with head := [⟨0, k, true⟩], kind := k, pkt := 1 } with vol := { Volley.reset with jobs := [⟨4095, 0, 1, [], 0, []⟩] } }

theorem wit_SendLists : (∀ k ∈ [(6 : Nat), 1], (posted (BitVec.ofNat 3 k)).vol.jobs.find? (fun j => decide (j.sent.length < j.total)) = some ⟨4095, 0, 1, [], 0, []⟩ ∧
      (posted (BitVec.ofNat 3 k)).peekPacket 4095 = some [⟨0, BitVec.ofNat 3 k, true⟩]) ∧ (0 < live.sysSize ∧ live.mp.poison = [] ∧ live.mp.lostCh = [] ∧ live.loopFull 1 = false) ∧
    ((({ live with hud := { live.hud with bankB := { HudBank.reset with open_ := true } } } : State).hbank 1).open_ = true ∧
      (({ live with hud := { live.hud with bankB := { HudBank.reset with open_ := true } } } : State).hbank 1).unsent = 0 ∧ live.chip < live.sysSize ∧
      (live.hbank 1).open_ = false) ∧ HostReady live 0x0B002C ∧ live.idle = true ∧ HostReady busy 0x0B002C ∧ busy.idle = false :=
  ⟨by decide +kernel, by decide +kernel, by decide +kernel, ready_of (by decide +kernel), by decide +kernel, ready_of (by decide +kernel), by decide +kernel⟩

/-- An ANSWER of one choice for slot 0, which is open and awaits it; `n` bytes in all. -/
def answer (n : Nat) : Frame := ⟨0, 0, 2, 0, 0, 0, 9, n, List.replicate 32 0, List.replicate (Min.min n 1980) 0⟩

/-- Slot 0 as given, with an answer waiting. -/
def answering (r : RSlot) (n : Nat) : State :=
  { live with vol := { Volley.reset with rx := [(none, answer n)] }, reb := { Rebound.reset with slots := [(0, r)] } }

/-- An open slot of half A that awaits choice 0, with its sum open. -/
def open0 : RSlot := { RSlot.reset with st := .open_, known := true, adm := 1, acc := some [] }

theorem wit_AnswersAndResults_segments : (∀ n ∈ [64, 4000], ((answering open0 n).takeRx 2).map (·.1) = some (answer n)) ∧
    ((answer 64).tag.slot = 0 ∧ (answer 64).tag.choice = 0 ∧ (answer 64).tag.half % 2 = 0 ∧ (answer 64).tag.batch = 0 ∧ (answer 64).tag.gen = 0) ∧
    (((answering RSlot.reset 64).rslot 0).st = .free ∧ (((answering RSlot.reset 64).takeRx 2).map fun x => (x.2.answerPart x.1).1.buf) = some 0) ∧
    (((answering open0 64).rslot 0).st = .open_ ∧ ((answering open0 64).rslot 0).known = true ∧ ((answering open0 64).rslot 0).adm.getLsbD 0 = true ∧
      ((answering open0 64).rslot 0).seen.getLsbD 0 = false ∧ ((answering open0 64).rslot 0).answerOf 0 = none) ∧
    ((keepSegment open0 (answer 4000).tag (answer 4000)).segs.length < segments (keepSegment open0 (answer 4000).tag (answer 4000)).len ∧ 0 + 1 < segments 4000) ∧
    (segments (keepSegment open0 (answer 64).tag (answer 64)).len ≤ (keepSegment open0 (answer 64).tag (answer 64)).segs.length ∧ open0.acc = some [] ∧
      (answering open0 64).orderedAdds 0 = false ∧ (answering open0 64).combineOf 0 = none) ∧ (live.takeRx 2).isNone = true := by decide +kernel

/-- A COMBINE of half A whose only token had every choice dropped. -/
def combining : State :=
  { live with ucmds := [{ live.newCmd 0 (.reboundCombine 0 f0) f0 with started := true, half := some 0, dA := desc2 0 0x04 4 1 16 }]
              reb := { Rebound.reset with slots := [(0, { RSlot.reset with st := .open_, known := true })], rowMap := [(0, 1)], taken := [1, 0] } }

theorem wit_AnswersAndResults_emission : live.combineOf 0 = none ∧ (combining.combineOf 0).isSome = true ∧
    (combining.reb.eptr.getD 0 0 = 0 ∧ combining.reb.eptr.length = 2 ∧ combining.reb.emitted.length = 2 ∧ 0 < combining.takenOf 0 ∧ combining.rowOpen 0 0 = some 0 ∧
      (combining.rslot 0).known = true ∧ (combining.rslot 0).adm = 0 ∧ (combining.rslot 0).resAddr = none ∧ combining.ref.emitted.getD 0 0 ≤ 0 ∧ combining.flow = []) ∧
    (HostReady combining 0x0C0020 ∧ Tab.rising none combining.reb.slots = true ∧ (combining.rslot 0).st = .open_ ∧ (combining.rslot 0).batch = 0 ∧
      (combining.rslot 1).st ≠ .open_) :=
  ⟨by decide +kernel, by decide +kernel, by decide +kernel, ready_of (by decide +kernel), by decide +kernel⟩

/-- A SCOUT at work with two bins; expert 5 has a predictor where its entry is valid. -/
def scouting (v : Bool) : State :=
  { live with ucmds := [{ live.newCmd 0 (.scout 0 f0) f0 with started := true, stage := 1, queue := 4095, covC := 64 }]
              scout := { State.reset.scout with bins := [⟨5, [0], true, 0⟩, ⟨6, [1], true, 0⟩] }
              tbl := { Tables.reset with scoutMem := if v then [(0x153, 0x80)] else [] } }

/-- The command of `scouting`. -/
def scoutOf (v : Bool) : UCmd := (scouting v).scoutCmd.getD cmd0

theorem wit_ScoutEvents_bins : (scouting false).scoutCmd = some (scoutOf false) ∧
    (scouting false).scout.bins = ⟨5, [0], true, 0⟩ :: [⟨6, [1], true, 0⟩] ∧
    ((5 : Fin 4096).val ≠ 6 ∧ (scouting true).binWaits (scoutOf true) ⟨5, [0], true, 0⟩ = true ∧
      (scouting false).binWaits (scoutOf false) ⟨5, [0], true, 0⟩ = false ∧ (scouting false).flowing 4095 = false ∧ (scoutOf false).queue = 4095 ∧
      (scoutOf false).chainA = false ∧ (scoutOf false).chainC = false ∧ (scoutOf false).descA.vext ≤ (scoutOf false).n1 ∧
      ∀ x ∈ ([⟨6, [1], true, 0⟩] : List Bin), x.ready = true) ∧ live.scoutCmd.isNone = true ∧
    ((scouting true).scoutCmd = some (scoutOf true) ∧ (scouting true).hasPredictor (scoutOf true) 5 = true ∧
      (scouting true).stagedRows 5 (scoutOf true).epoch = none ∧ (scouting true).lostInput (scoutOf true) = none) := by decide +kernel

/-- A packet of one word of a kind in the audit queue. -/
def auditing (k : BitVec 3) (l : List Audit) : State :=
  { queue1 .ret { Queue.reset with head := [⟨0, k, true⟩], kind := k, pkt := 1 } with
    regs := [(0x08002C, some 0x8FFF)], scout := { State.reset.scout with audits := l } }

theorem wit_ScoutEvents_audits : (∀ k ∈ [(3 : BitVec 3), 1], (auditing k []).fld 0x08002C 11 0 = 4095 ∧ (auditing k []).fld 0x08002C 15 15 = 1 ∧
      ((auditing k []).queue 4095).cls = .ret ∧ (auditing k []).peekPacket 4095 = some [⟨0, k, true⟩] ∧ ((auditing k []).queue 4095).mid = [] ∧
      ((auditing k []).queue 4095).tail = [] ∧ ((auditing k []).queue 4095).blks = []) ∧
    (auditing 3 [⟨0, 0, 0, [false]⟩]).scout.audits.find? (fun a => decide (a.num = 0) && decide (a.nb = 0) && decide (a.tag.toNat = 0)) = some ⟨0, 0, 0, [false]⟩ := by
  decide +kernel

/-- One early report of half B, with `n` discards of it in the step so far. -/
def faulty (n : Nat) (lost gone : Bool) : State :=
  { live with ref := { Referee.reset with faults := [⟨0x07, some 1, 0, 0xFFFF, 0, lost⟩], discards := [0, n] }, vol := { Volley.reset with eohLeft := [false, gone] } }

theorem wit_FaultRecovery : ((({ live with ucmds := [{ cmd0 with started := true }] } : State).cmd 0 1).isSome = true ∧ busy.atIssue 0 = true ∧
      busy.freeBench .sequencer ≠ none ∧ ({ busy with kick := { live.kick with marks := [(5, 0x3)] } } : State).freeBench .sequencer = none ∧ live.atIssue 0 = false) ∧
    (∀ n ∈ [2, 3], (∀ x ∈ (faulty n false false).ref.faults, x.half ≠ none ∨ x.lost = true) ∧ (faulty n false false).repsOf 1 = [⟨0x07, some 1, 0, 0xFFFF, 0, false⟩] ∧
      (faulty n false false).eohGone 1 = false ∧ (faulty n false false).ref.replay = false ∧ (faulty n false false).ref.replayDue = false ∧
      (faulty n false false).ref.discards.getD 1 0 = n ∧ (faulty n false false).hud.resv = [] ∧ (faulty n false false).vol.resv = [] ∧
      (faulty n false false).vol.jobs = [] ∧ (faulty n false false).queues = []) ∧ (Queue.reset.mid = [] ∧ Queue.reset.blks = []) ∧ live.ref.faults = [] ∧
    (live.ref.replayDue = false ∧ ({ live with ref := { Referee.reset with heldFor := [1] } } : State).ref.heldFor ≠ [] ∧ (engineAt 2).kick.nvsq ≠ [] ∧ busy.kick.nvsq = []) ∧
    (({ busy with ref := { Referee.reset with replayDue := true, check := [(0, some run1)] } } : State).ref.replayDue = true ∧
      ({ busy with ref := { Referee.reset with replayDue := true, check := [(0, some run1)] } } : State).ref.heldFor = [] ∧ 0 ∈ busy.group ∧
      Tab.get none ({ busy with ref := { Referee.reset with replayDue := true, check := [(0, some run1)] } } : State).ref.check 0 = some run1) ∧
    ((∀ x ∈ (faulty 0 false true).ref.faults, x.lost = false) ∧ (faulty 0 false true).repsOf 1 ≠ [] ∧ (faulty 0 false true).eohGone 1 = true) ∧
    ((faulty 0 true false).ref.faults.any fun x => x.lost) = true := by decide +kernel

/-- Every bench score tile marked out. -/
def tileless : State := { live with kick := { live.kick with marks := [(2, 0xF)] } }

theorem wit_SubstitutionAndRepair : (live.classOf .scoreTile = (1, 64, 64, 4, 0) ∧ (63 : Fin 64).val < 64 ∧ live.freeBench .scoreTile = some 64 ∧
      live.physUnit 1 63 < 68 ∧ failCode .scoreTile .residue = some 0x03 ∧ failCode .sequencer .signature = some 0x07) ∧ tileless.freeBench .scoreTile = none ∧
    (HostReady (stepping 0) 0x0E010C ∧ (∀ c ∈ (stepping 0).group, ((stepping 0).ctx c).st = .stepwait) ∧ HostReady busy 0x0E010C ∧
      (∃ c ∈ busy.group, (busy.ctx c).st ≠ .stepwait)) ∧ HostReady live 0x0E0158 :=
  ⟨by decide +kernel, by decide +kernel, ⟨ready_of (by decide +kernel), by decide +kernel, ready_of (by decide +kernel), by decide +kernel⟩, ready_of (by decide +kernel)⟩

/-- The state of `wit_UnitCommands` with its COPY of two rows of four bytes. -/
def copying : State := tensors (at0 run1 (.copy 0 ⟨0, 0, 0, 0, 0x00004003⟩))

theorem wit_CopyMovesRows : Issues copying 0 (.copy 0 ⟨0, 0, 0, 0, 0x00004003⟩) ∧ Journals copying 0 ∧
    (∀ u, u = copying.newCmd 0 (.copy 0 ⟨0, 0, 0, 0, 0x00004003⟩) ⟨0, 0, 0, 0, 0x00004003⟩ → copying.issueCode u = none ∧ copyCheck copying u = none ∧
      copying.lostInput u = none ∧ u.descA.trk = false ∧ u.descB.trk = false ∧ u.descA.rank = 2 ∧ u.descB.rank = 2 ∧ u.descA.sblk = 0 ∧ u.descB.sblk = 0 ∧
      isElem u.descA.fmt = true ∧ u.descA.fmt = u.descB.fmt ∧ u.descA.ext 0 = u.descB.ext 0 ∧ u.descB.vext ≤ u.descA.vext ∧
      u.descB.vext ≤ u.descA.ext 1 ∧ u.descB.runBytes ≤ u.descB.str 1) ∧ copying.mp.poison = [] ∧ copying.mp.lostCh = [] ∧
    (∀ v ∈ copying.ucmds, unitOf v.op = 12 → v.result ≠ none) := by
  refine ⟨issues_of (by decide +kernel), journals_of (by decide +kernel), ?_, by decide +kernel, by decide +kernel, by decide +kernel⟩
  intro u hu
  subst hu
  decide +kernel

theorem wit_IdleStep : live.pending = [] ∧ live.ucmds = [] ∧ live.queues = [] ∧ live.flow = [] ∧ live.vol.stuck = [] ∧ live.ref.faults = [] ∧
    live.adm.stalled = false ∧ live.scout.bins = [] ∧ live.mp.rq = [] ∧ live.mp.holdq = [] ∧ live.mp.wait = [] ∧ live.mp.maint = [] := by
  decide +kernel

end Sys2Proof.Tests
end

section
/-! PROOF. Instruction words (R36 to R38, R64): packing and extracting fields, rows and opcodes, and with them decode and
encode. -/

namespace Sys2Proof

/-! ### Fields of a word (R36) -/

/-- Six bits hold a register number. -/
theorem toNat_ofNat_reg (r : Reg) : (BitVec.ofNat 6 r.val).toNat = r.val := by
  rw [BitVec.toNat_ofNat]
  omega

/-- A register number is read back from its field. -/
@[simp] theorem regField_ofNat (r : Reg) : regField (BitVec.ofNat 6 r.val) = some r := by
  simp only [regField, toNat_ofNat_reg, r.isLt, dite_true]

/-- A field of six bits that names a register holds its number. -/
theorem ofNat_of_regField {v : BitVec 6} {r : Reg} (h : regField v = some r) : BitVec.ofNat 6 r.val = v := by
  unfold regField at h
  split at h
  · cases h
    exact BitVec.eq_of_toNat_eq (Nat.mod_eq_of_lt v.isLt)
  · cases h

/-- What a field of the upper part of an appended word reads, the whole word reads further up. -/
theorem extract_above {n m : Nat} {x : BitVec n} {y : BitVec m} {start len : Nat} {z : BitVec len}
    (hx : x.extractLsb' (start - m) len = z) (h : m ≤ start := by decide) : (x ++ y).extractLsb' start len = z :=
  (BitVec.extractLsb'_append_eq_of_le h).trans hx

@[simp] theorem packWord_imm (op : Nat) (f : Fields) : (packWord op f).extractLsb' 0 32 = f.imm :=
  BitVec.extractLsb'_append_eq_right

@[simp] theorem packWord_flags (op : Nat) (f : Fields) : (packWord op f).extractLsb' 32 6 = f.flags :=
  extract_above BitVec.extractLsb'_append_eq_right

@[simp] theorem packWord_srcB (op : Nat) (f : Fields) : (packWord op f).extractLsb' 38 6 = BitVec.ofNat 6 f.srcB.val :=
  extract_above (extract_above BitVec.extractLsb'_append_eq_right)

@[simp] theorem packWord_srcA (op : Nat) (f : Fields) : (packWord op f).extractLsb' 44 6 = BitVec.ofNat 6 f.srcA.val :=
  extract_above (extract_above (extract_above BitVec.extractLsb'_append_eq_right))

@[simp] theorem packWord_dst (op : Nat) (f : Fields) : (packWord op f).extractLsb' 50 6 = BitVec.ofNat 6 f.dst.val :=
  extract_above (extract_above (extract_above (extract_above BitVec.extractLsb'_append_eq_right)))

@[simp] theorem packWord_opcode (op : Nat) (f : Fields) : (packWord op f).extractLsb' 56 8 = BitVec.ofNat 8 op :=
  extract_above (extract_above (extract_above (extract_above BitVec.extractLsb'_append_eq_left)))

theorem fieldsOf_packWord (op : Nat) (f : Fields) : fieldsOf (packWord op f) = some f := by
  simp only [fieldsOf, packWord_dst, packWord_srcA, packWord_srcB, packWord_flags, packWord_imm, regField_ofNat]

/-- The six fields of a word, put together again, are the word. -/
theorem extracts_append (w : DWord) :
    w.extractLsb' 56 8 ++ w.extractLsb' 50 6 ++ w.extractLsb' 44 6 ++ w.extractLsb' 38 6 ++ w.extractLsb' 32 6
      ++ w.extractLsb' 0 32 = w := by
  iterate 5 rw [BitVec.extractLsb'_append_extractLsb'_eq_extractLsb' (by decide)]
  exact BitVec.extractLsb'_eq_self

/-- A word whose register fields name registers is packed from its opcode and its fields. -/
theorem packWord_of_fieldsOf {w : DWord} {f : Fields} (h : fieldsOf w = some f) :
    packWord (w.extractLsb' 56 8).toNat f = w := by
  unfold fieldsOf at h
  split at h
  · rename_i d a b hd ha hb
    cases h
    simp only [packWord, BitVec.ofNat_toNat, BitVec.setWidth_eq, ofNat_of_regField hd, ofNat_of_regField ha, ofNat_of_regField hb]
    exact extracts_append w
  · cases h

/-! ### Rows and opcodes (R64) -/

/-- The row that an opcode and fields spell has that opcode, that context and those fields. -/
theorem opcodeOf_of_rowOf {op : Nat} {c : Ctx} {f : Fields} {i : Instr} (h : rowOf op c f = some i) :
    opcodeOf i = some (op, c, f) := by
  unfold rowOf at h
  split at h
  all_goals
    cases h
  all_goals
    repeat' split
  all_goals rfl

/-- Every opcode has seven bits. -/
theorem opcodeOf_lt {i : Instr} {op : Nat} {c : Ctx} {f : Fields} (h : opcodeOf i = some (op, c, f)) : op < 128 := by
  unfold opcodeOf at h
  split at h
  all_goals
    cases h
  all_goals decide

/-- An instruction of a layer program brings no data from outside. -/
theorem eventOk_of_opcodeOf {i : Instr} {op : Nat} {c : Ctx} {f : Fields} (h : opcodeOf i = some (op, c, f)) :
    i.eventOk = true := by
  unfold Instr.eventOk
  split
  case h_9 => rfl
  all_goals cases h

/-! ### Decode and encode -/

theorem encodeWord_of_opcodeOf {i : Instr} {op : Nat} {c : Ctx} {f : Fields} (h : opcodeOf i = some (op, c, f)) :
    encodeWord i = packWord op f := by
  unfold encodeWord
  rw [h]

/-- A packed word decodes to the row that its opcode and fields spell, if the opcode defines its flags. -/
theorem decodeWord_packWord {op : Nat} (c : Ctx) {f : Fields} (hop : op < 256) (hf : f.flags &&& ~~~flagMask op = 0#6) :
    decodeWord c (packWord op f) = rowOf op c f := by
  have h8 : ((packWord op f).extractLsb' 56 8).toNat = op := by
    rw [packWord_opcode, BitVec.toNat_ofNat]
    exact Nat.mod_eq_of_lt hop
  unfold decodeWord
  simp only [h8, fieldsOf_packWord, hf, if_true]

/-- What a word that decodes is made of. -/
theorem decodeWord_eq_some {c : Ctx} {w : DWord} {i : Instr} (h : decodeWord c w = some i) :
    ∃ f, fieldsOf w = some f ∧ f.flags &&& ~~~flagMask (w.extractLsb' 56 8).toNat = 0#6 ∧
      rowOf (w.extractLsb' 56 8).toNat c f = some i := by
  unfold decodeWord at h
  cases hw : fieldsOf w with
  | none => simp [hw] at h
  | some f =>
    simp only [hw, Option.ite_none_right_eq_some] at h
    exact ⟨f, rfl, h⟩

/-- A well-formed instruction decodes from its own word. -/
theorem decodeWord_encodeWord {i : Instr} {op : Nat} {c : Ctx} {f : Fields} (hwf : i.wf = true)
    (h : opcodeOf i = some (op, c, f)) : decodeWord c (encodeWord i) = some i := by
  simp only [Instr.wf, Instr.wordOk, h, Bool.and_eq_true, decide_eq_true_eq] at hwf
  obtain ⟨⟨hflags, hrow⟩, -⟩ := hwf
  rw [encodeWord_of_opcodeOf h, decodeWord_packWord c (Nat.lt_trans (opcodeOf_lt h) (by decide)) hflags, hrow]

/-- A word that decodes is the word of its instruction, which is well formed. -/
theorem encodeWord_decodeWord {c : Ctx} {w : DWord} {i : Instr} (h : decodeWord c w = some i) :
    encodeWord i = w ∧ i.wf = true := by
  obtain ⟨f, hfields, hflags, hrow⟩ := decodeWord_eq_some h
  have hop := opcodeOf_of_rowOf hrow
  refine ⟨?_, ?_⟩
  · rw [encodeWord_of_opcodeOf hop, packWord_of_fieldsOf hfields]
  · simp only [Instr.wf, Instr.wordOk, hop, hflags, hrow, eventOk_of_opcodeOf hop, decide_true, Bool.and_self]

/-- Settles O6: both directions go through the packed word, whose six extracts are its opcode and fields (R36). -/
theorem decodeAndEncodeAgree : Obligations.DecodeAndEncodeAgree := by
  refine ⟨fun i op c f hwf h => decodeWord_encodeWord hwf h, fun c w i h => encodeWord_decodeWord h, ?_⟩
  intro i op c f w h hw
  have hop := opcodeOf_lt h
  rw [hw, encodeWord_of_opcodeOf h, packWord_opcode, packWord_dst, packWord_srcA, packWord_srcB, toNat_ofNat_reg,
    toNat_ofNat_reg, toNat_ofNat_reg, BitVec.toNat_ofNat]
  exact ⟨Nat.mod_eq_of_lt (by omega), rfl, rfl, rfl, packWord_flags op f, packWord_imm op f⟩

end Sys2Proof
end

section
/-! PROOF. Branches, loop entry and loop ends (R45, R46, R65): what each does once its instruction issues. -/

namespace Sys2Proof.Machine

open Safety

/-! ### The end of a loop's body (R46) -/

/-- Where no loop's body ends, the context goes on behind the instruction with its loops as they were. -/
theorem Context.after_of_not_end {x : Context} {pc : Nat} (h : ∀ l, x.loops.head? = some l → pc + 8 ≠ l.first + 8 * l.body) :
    x.after pc = { x with pc := pc + 8 } := by
  have he : loopEnd pc x.loops = (x.loops, none) := by
    cases hl : x.loops with
    | nil => rfl
    | cons l ls =>
      have hne := h l (by simp [hl])
      simp [loopEnd, hne]
  simp only [Context.after, he]

/-- At the end of its body, a loop with a pass left starts it. -/
theorem Context.after_of_pass {x : Context} {pc : Nat} {l : Loop} {ls : List Loop} (hl : x.loops = l :: ls)
    (he : pc + 8 = l.first + 8 * l.body) (hp : l.iter + 1 < l.trip) :
    x.after pc = { (x.setX l.dst (BitVec.ofNat 64 (l.iter + 1))) with
                   pc := l.first, loops := { l with iter := l.iter + 1 } :: ls } := by
  simp only [Context.after, hl, loopEnd, if_pos he, if_pos hp]

/-- Writing a register and replacing the loops commute. -/
theorem Context.setX_loops_comm (x : Context) (ls : List Loop) (r : Reg) (v : DWord) :
    ({ x with loops := ls } : Context).setX r v = { x.setX r v with loops := ls } := by
  unfold Context.setX
  split <;> rfl

/-- At the end of its body, a loop that has finished is popped, and the loops around it are tested in its place. -/
theorem Context.after_of_finished {x : Context} {pc : Nat} {l : Loop} {ls : List Loop} (hl : x.loops = l :: ls)
    (he : pc + 8 = l.first + 8 * l.body) (hp : l.trip ≤ l.iter + 1) :
    x.after pc = ({ x with loops := ls } : Context).after pc := by
  have hend : loopEnd pc x.loops = loopEnd pc ls := by
    rw [hl, loopEnd, if_pos he, if_neg (by omega)]
  simp only [Context.after, hend]
  split <;> simp [Context.setX_loops_comm]

/-! ### Instructions of the control class -/

/-- The issue count of a context's sequencer advances with the issue. -/
theorem noteIssue_controlFrame (s : State) (c : Ctx) : ControlFrame c s (s.noteIssue c) :=
  ⟨rfl, fun d _ => State.noteIssue_ctx s c d, fun _ ho => State.noteIssue_reg_other s c ho, State.noteIssue_reg_same s c⟩

/-- A change to the issuing context alone stays within the frame. -/
theorem controlFrame_of_ctxs {c : Ctx} {s t u : State} (h : ControlFrame c s t) (hu : u = { t with ctxs := u.ctxs })
    (hd : ∀ d, d ≠ c.val → u.ctx d = t.ctx d) : ControlFrame c s u := by
  obtain ⟨ht, hctx, hreg, hcount⟩ := h
  have hr (o : Nat) : u.reg o = t.reg o := by rw [hu]; rfl
  refine ⟨?_, fun d hne => (hd d hne).trans (hctx d hne), fun o ho => (hr o).trans (hreg o ho), (hr _).trans hcount⟩
  rw [hu, ht]

/-- A control instruction that ends with a code that does not trap. -/
theorem retire_controlFrame {s : State} {c : Ctx} {k : Byte} (hk : s.trapOn c k = false) :
    ControlFrame c s ((s.noteIssue c).retire c k) ∧
      ((s.noteIssue c).retire c k).ctx c = ((s.ctx c).record k (s.ctx c).pc).after (s.ctx c).pc := by
  obtain ⟨hctx, hother, heq⟩ := State.retire_goes_on (s.noteIssue c) c k (by rwa [State.noteIssue_trapOn])
  exact ⟨controlFrame_of_ctxs (noteIssue_controlFrame s c) heq hother, hctx⟩

/-- A control instruction that replaces its context. -/
theorem setCtx_controlFrame (s : State) (c : Ctx) (y : Context) :
    ControlFrame c s ((s.noteIssue c).setCtx c y) ∧ ((s.noteIssue c).setCtx c y).ctx c = y :=
  ⟨controlFrame_of_ctxs (noteIssue_controlFrame s c) rfl fun _ hd => State.setCtx_ctx_other _ _ hd, State.setCtx_ctx_same _ _ _⟩

/-! ### Branches (R45, R65) -/

/-- The integer that `signed` reads is the one that `BitVec` reads. -/
theorem signed_toNat (v : DWord) : signed v.toNat = v.toInt := by
  have hv := v.isLt
  unfold signed
  rw [BitVec.toInt_eq_toNat_cond]
  split <;> split <;> omega

/-- A branch that issues, on the condition that its row tests. -/
theorem State.branchIf_issued {s : State} {c : Ctx} {i : Instr} {f : Fields} (take : Context → Bool) (h : s.canIssue c i = true) :
    s.branchIf c i f take = if take (s.ctx c) then (s.noteIssue c).branch c (((s.ctx c).pc : Int) + 8 * f.imm.toInt)
      else (s.noteIssue c).retire c codeOk := by
  unfold State.branchIf
  rw [State.control_next _ _ _ _ h, State.noteIssue_ctx]

/-- A branch that issues: taken, it goes to its target; otherwise it ends with OK. -/
theorem exec_branch {s : State} {i : Instr} {c : Ctx} {f : Fields} {b : Bool}
    (hb : branchTaken (s.ctx c) i = some (c, f, b)) (hi : Issues s c i) :
    exec i s = .next (if b then (s.noteIssue c).branch c (((s.ctx c).pc : Int) + 8 * f.imm.toInt)
      else (s.noteIssue c).retire c codeOk) := by
  unfold branchTaken at hb
  split at hb
  case h_6 => cases hb
  all_goals
    cases hb
    refine congrArg Host.Outcome.next ((State.branchIf_issued _ (Issues_canIssue hi rfl)).trans ?_)
    simp only [← BitVec.toNat_inj, ne_eq, signed_toNat, BitVec.slt, BitVec.ult, ← decide_not, not_lt]

/-- A branch to a target in the store: it is the program counter, and the loops whose body it leaves are popped. -/
theorem State.branch_inStore {s : State} {c : Nat} {n : Int} (h0 : 0 ≤ n) (h1 : n < 0x400000) :
    ((s.branch c n).ctx c).pc = n.toNat ∧ ((s.branch c n).ctx c).loops = ((s.ctx c).loops.dropWhile fun l =>
      decide (n.toNat < l.first) || decide (l.first + 8 * l.body ≤ n.toNat)) := by
  have hin : ¬ (n < 0 ∨ (psBytes : Int) ≤ n) := by
    unfold psBytes
    omega
  obtain ⟨-, -, -, hloops, -⟩ := Context.record_does (s.ctx c) codeOk (s.ctx c).pc
  unfold State.branch
  simp only [if_neg hin, State.setCtx_ctx_same, hloops, and_self]

/-- A taken branch with its target in the store. -/
theorem exec_branch_taken {s : State} {i : Instr} {c : Ctx} {f : Fields} {n : Int}
    (hb : branchTaken (s.ctx c) i = some (c, f, true)) (hi : Issues s c i)
    (hn : n = ((s.ctx c).pc : Int) + 8 * f.imm.toInt) (h0 : 0 ≤ n) (h1 : n < 0x400000) :
    ∃ t, exec i s = .next t ∧ (t.ctx c).pc = n.toNat ∧ (t.ctx c).loops = ((s.ctx c).loops.dropWhile fun l =>
      decide (n.toNat < l.first) || decide (l.first + 8 * l.body ≤ n.toNat)) := by
  refine ⟨_, exec_branch hb hi, ?_⟩
  rw [if_pos rfl, ← hn]
  exact State.branch_inStore h0 h1

/-! ### Entry to a loop (R46) -/

/-- The trip count of LOOP, and the body length of both loop instructions (R39). -/
theorem bitsOf_low_half (v : Nat) : bitsOf v 15 0 = v % 65536 := by
  rw [bitsOf_eq_div]
  norm_num

theorem bitsOf_high_half (v : Word) : bitsOf v.toNat 31 16 = v.toNat / 65536 := by
  have := v.isLt
  rw [bitsOf_eq_div]
  norm_num
  omega

/-- The checks of the entry to a loop, and the code of the lowest one that applies (R16). -/
theorem lowest_loop_checks (full empty bad : Bool) :
    lowest [(full, codeOffside), (empty, codeBounds), (bad, codeBounds)] =
      if full then some codeOffside else if empty || bad then some codeBounds else none := by
  revert full empty bad
  decide

/-- An entry to a loop that a check refuses ends with the code of the check. -/
theorem State.enterLoop_refused {s : State} {c : Ctx} {f : Fields} {trip : Nat} {bad : Bool} {k : Byte}
    (h : (k = codeOffside ∧ 4 ≤ (s.ctx c).loops.length) ∨
      (k = codeBounds ∧ (s.ctx c).loops.length < 4 ∧ (f.imm.toNat / 65536 = 0 ∨ bad = true))) :
    s.enterLoop c f trip bad = s.retire c k := by
  unfold State.enterLoop
  simp only [lowest_loop_checks, bitsOf_high_half]
  rcases h with ⟨rfl, hfull⟩ | ⟨rfl, hroom, hbad⟩
  · simp [hfull]
  · rcases hbad with hbad | hbad <;> simp [hbad, Nat.not_le.2 hroom]

/-- The context after a loop instruction that every check lets pass: with passes to make it has the loop pushed and enters the
body; otherwise it goes on as after the last instruction of the body. -/
def Context.entered (x : Context) (f : Fields) (trip : Nat) : Context :=
  if trip = 0 then (x.record codeOk x.pc).after (x.pc + 8 * (f.imm.toNat / 65536))
  else { ((x.record codeOk x.pc).setX f.dst 0) with
    pc := x.pc + 8, loops := ⟨0, trip, x.pc + 8, f.imm.toNat / 65536, f.dst⟩ :: x.loops }

/-- An entry to a loop with room on the stack and a body. -/
theorem State.enterLoop_enters {s : State} {c : Ctx} {f : Fields} (trip : Nat) (hroom : (s.ctx c).loops.length < 4)
    (hbody : f.imm.toNat / 65536 ≠ 0) : s.enterLoop c f trip false = s.setCtx c ((s.ctx c).entered f trip) := by
  unfold State.enterLoop Context.entered
  simp only [lowest_loop_checks, bitsOf_high_half, Nat.not_le.2 hroom, hbody, decide_false, Bool.or_self, Bool.false_eq_true,
    if_false]
  split <;> rfl

/-- A loop instruction that issues enters its loop: LOOP with the trip count imm[15:0], LOOPV with xA[31:0]. -/
theorem exec_loop {s : State} {c : Ctx} {f : Fields} (hi : Issues s c (.loop c f)) :
    exec (.loop c f) s = .next ((s.noteIssue c).enterLoop c f (f.imm.toNat % 65536) false) := by
  show Host.Outcome.next (s.control c (.loop c f) _) = _
  rw [State.control_next _ _ _ _ (Issues_canIssue hi rfl), bitsOf_low_half]

theorem exec_loopv {s : State} {c : Ctx} {f : Fields} (hi : Issues s c (.loopv c f)) :
    exec (.loopv c f) s = .next ((s.noteIssue c).enterLoop c f (((s.ctx c).xr f.srcA).toNat % 2 ^ 32)
      (decide (2 ^ 32 ≤ ((s.ctx c).xr f.srcA).toNat))) := by
  show Host.Outcome.next (s.control c (.loopv c f) _) = _
  rw [State.control_next _ _ _ _ (Issues_canIssue hi rfl), State.noteIssue_ctx]

/-- A loop instruction whose checks all pass. -/
theorem exec_loop_enters {s : State} {c : Ctx} {f : Fields} {i : Instr} {n : Nat}
    (hn : (i = .loop c f ∧ n = f.imm.toNat % 65536) ∨ (i = .loopv c f ∧ n = ((s.ctx c).xr f.srcA).toNat ∧ n < 2 ^ 32))
    (hi : Issues s c i) : exec i s = .next ((s.noteIssue c).enterLoop c f n false) := by
  rcases hn with ⟨rfl, rfl⟩ | ⟨rfl, rfl, hlt⟩
  · exact exec_loop hi
  · rw [exec_loopv hi, Nat.mod_eq_of_lt hlt, decide_eq_false (Nat.not_le.2 hlt)]

/-- A loop instruction that a check refuses. -/
theorem exec_loop_refused {s : State} {c : Ctx} {f : Fields} {i : Instr} {k : Byte} (hrow : i = .loop c f ∨ i = .loopv c f)
    (hi : Issues s c i)
    (hk : (k = codeOffside ∧ 4 ≤ (s.ctx c).loops.length) ∨ (k = codeBounds ∧ (s.ctx c).loops.length < 4 ∧
      (f.imm.toNat / 65536 = 0 ∨ (i = .loopv c f ∧ 2 ^ 32 ≤ ((s.ctx c).xr f.srcA).toNat)))) :
    exec i s = .next ((s.noteIssue c).retire c k) := by
  rcases hrow with rfl | rfl
  · rw [exec_loop hi, State.enterLoop_refused (k := k) (by simpa using hk)]
  · rw [exec_loopv hi, State.enterLoop_refused (k := k) (by simpa using hk)]

/-- Settles O12: branches pop by `State.branch_inStore`, entries go by the checks of `State.enterLoop`, and what follows an
instruction is `Context.after`, which takes the loops from the innermost outward (R46). -/
theorem loopInstructions : Obligations.LoopInstructions := by
  refine ⟨fun s i c f n hb hi hn h0 h1 => exec_branch_taken hb hi hn h0 h1, ⟨?_, ?_⟩, ?_, ?_, ?_⟩
  · intro s c f i n hn hi hroom hbody
    obtain ⟨hframe, hctx⟩ := setCtx_controlFrame s c ((s.ctx c).entered f n)
    exact ⟨_, (exec_loop_enters hn hi).trans (congrArg _ (State.enterLoop_enters n hroom hbody)), hframe,
      fun h => hctx.trans (if_neg h), fun h => hctx.trans (if_pos h)⟩
  · intro s c f i k hrow hi hk htrap
    exact ⟨_, exec_loop_refused hrow hi hk, retire_controlFrame htrap⟩
  · exact fun x pc h => Context.after_of_not_end h
  · exact fun x pc l ls hl he hp => Context.after_of_pass hl he hp
  · exact fun x pc l ls hl he hp => Context.after_of_finished hl he hp

end Sys2Proof.Machine
end

section
/-! PROOF. Host writes that the window answers (R323, R370), and CTX_START (R34, R59). -/

namespace Sys2Proof.Machine

open Safety

/-! ### Host writes (R370) -/

/-- The write status after a host write: the offset and the code stand in it, and beside it only the count of refused writes
changes. -/
theorem State.wstat_does (s : State) (off : Nat) (k : Byte) :
    WriteCode (s.wstat off k) off k ∧
    (∀ o, o ≠ 0x3020 → (k = codeOk ∨ o ≠ 0x3024) → (s.wstat off k).reg o = s.reg o) ∧
    s.wstat off k = { acked s with regs := (s.wstat off k).regs } := by
  unfold State.wstat WriteCode
  dsimp only
  split
  · exact ⟨State.setReg_reg_same _ _ _, fun o ho _ => State.setReg_reg_other _ _ ho, rfl⟩
  · next hk =>
    refine ⟨?_, fun o ho h => ?_, rfl⟩
    · rw [State.bump_reg_other _ _ (by decide), State.setReg_reg_same]
    · rw [State.bump_reg_other _ _ (h.resolve_left hk), State.setReg_reg_other _ _ ho]
      rfl

@[simp] theorem State.wstat_ctx (s : State) (off : Nat) (k : Byte) (d : Nat) : (s.wstat off k).ctx d = s.ctx d := by
  obtain ⟨-, -, h⟩ := State.wstat_does s off k
  rw [h]
  rfl

/-- A host write that the window answers has its effect, and its code enters the write status. -/
theorem State.hostWrite_ready {s : State} {off : Nat} (h : HostReady s off) (body : State → Byte × State) :
    s.hostWrite off body = (body s).2.wstat off (body s).1 := by
  obtain ⟨hserved, hopen⟩ := h
  have hpass : (s.preService && !refereeOffset off && !observeOffset off) = false := by
    rcases hopen with h | h | h <;> simp [h]
  unfold State.hostWrite
  simp only [hserved, hpass, Bool.not_true, Bool.false_eq_true, if_false]

/-- A host write that is refused and changes nothing beside the write status. -/
theorem State.hostWrite_refused {s : State} {off : Nat} {k : Byte} {body : State → Byte × State} (h : HostReady s off)
    (hb : body s = (k, s)) (hk : off ≠ 0x3020 ∧ off ≠ 0x3024) :
    WriteCode (s.hostWrite off body) off k ∧ s.hostWrite off body = { acked s with regs := (s.hostWrite off body).regs } ∧
      (s.hostWrite off body).reg off = s.reg off := by
  obtain ⟨hcode, hreg, heq⟩ := State.wstat_does s off k
  rw [State.hostWrite_ready h, hb]
  exact ⟨hcode, heq, hreg off hk.1 (.inr hk.2)⟩

/-! ### The start of a context (R34, R59) -/

/-- Values put at the indices 1 to `n` read back; other indices read zero. -/
theorem Tab.get_foldl_set_range (v : Nat → DWord) (n r : Nat) :
    Tab.get 0#64 ((List.range n).foldl (fun t a => Tab.set 0#64 t (a + 1) (v a)) []) r =
      if 1 ≤ r ∧ r ≤ n then v (r - 1) else 0 := by
  induction n with
  | zero =>
    rw [if_neg (by omega)]
    rfl
  | succ n ih =>
    rw [List.range_succ, List.foldl_append, List.foldl_cons, List.foldl_nil]
    by_cases hr : r = n + 1
    · subst hr
      rw [Tab.get_set_same, if_pos (by omega), Nat.add_sub_cancel]
    · rw [Tab.get_set_other _ _ _ hr, ih]
      exact if_congr (by omega) rfl rfl

/-- The registers of a context that starts: the arguments in x1 to x4, and zero in the others. -/
theorem State.startOf_xr (s : State) (c : Nat) (r : Reg) :
    (s.startOf c).xr r = if 1 ≤ r.val ∧ r.val ≤ 4 then s.reg (ctxBase c + 0x0C + 8 * r.val) ++ s.reg (ctxBase c + 8 + 8 * r.val)
      else 0 := by
  by_cases hr : r = 0
  · subst hr
    rfl
  · have hpos : 1 ≤ r.val := Nat.one_le_iff_ne_zero.2 fun h => hr (Fin.ext h)
    unfold Context.xr State.startOf
    rw [if_neg hr, Tab.get_foldl_set_range]
    refine if_congr Iff.rfl ?_ rfl
    rw [show ctxBase c + 0x14 + 8 * (r.val - 1) = ctxBase c + 0x0C + 8 * r.val by omega,
      show ctxBase c + 0x10 + 8 * (r.val - 1) = ctxBase c + 8 + 8 * r.val by omega]

/-- A context that starts, and what stays. -/
theorem State.startCtx_does (s : State) (c : Nat) :
    (s.startCtx c).ctx c = s.startOf c ∧ (∀ d, d ≠ c → (s.startCtx c).ctx d = s.ctx d) ∧
    s.startCtx c = { s with ctxs := (s.startCtx c).ctxs, ref := (s.startCtx c).ref } :=
  ⟨State.setCtx_ctx_same s c (s.startOf c), fun _ hd => State.setCtx_ctx_other s (s.startOf c) hd, rfl⟩

/-- The state that an entry of `SEQ_CTX_CTRL` acts on: CLRERR, written beside it, acts first (R59). -/
def State.cleared (s : State) (c : Nat) (clr : Bool) : State := if clr then s.clrErr c else s

theorem State.cleared_does (s : State) (c : Nat) (clr : Bool) :
    (∀ d, d ≠ c → (s.cleared c clr).ctx d = s.ctx d) ∧ (∀ o, (s.cleared c clr).reg o = s.reg o) ∧
    s.cleared c clr = { s with ctxs := (s.cleared c clr).ctxs } := by
  cases clr with
  | true => exact ⟨fun d hd => State.setCtx_ctx_other s { s.ctx c with first := 0, firstPc := 0 } hd, fun _ => rfl, rfl⟩
  | false => exact ⟨fun _ _ => rfl, fun _ => rfl, rfl⟩

/-- START of a FREE context of a sequencer that exists. -/
theorem State.ctrlWrite_start {s : State} {c : Nat} (clr : Bool) (hc : c < 4 * s.nSeq) (hfree : (s.ctx c).st = .free) :
    s.ctrlWrite c (BitVec.ofNat 32 (2 ^ 0 + 16 * b2n clr)) = (codeOk, (s.cleared c clr).startCtx c) := by
  have hacts : ([0, 1, 2, 3, 5].filter fun i => (BitVec.ofNat 32 (2 ^ 0 + 16 * b2n clr)).getLsbD i) = [0] := by
    revert clr
    decide
  have hclr : (BitVec.ofNat 32 (2 ^ 0 + 16 * b2n clr)).getLsbD 4 = clr := by
    revert clr
    decide
  have hseq : ¬ s.nSeq ≤ c / 4 := by omega
  unfold State.ctrlWrite
  simp only [hacts, hclr, hseq, hfree]
  rfl

theorem exec_ctxStart {s : State} {c : Ctx} (clr : Bool) (hready : HostReady s (ctxBase c)) (hc : c.val < 4 * s.nSeq)
    (hfree : (s.ctx c).st = .free) :
    exec (.ctxStart c clr) s = .next (((s.cleared c clr).startCtx c).wstat (ctxBase c) codeOk) := by
  show Host.Outcome.next (s.ctrlBit c 0 clr) = _
  unfold State.ctrlBit
  rw [State.hostWrite_ready hready, State.ctrlWrite_start clr hc hfree]

/-- Settles O27: START is an answered host write whose context is `State.startOf` of the state that CLRERR left. -/
theorem contextStarts : Obligations.ContextStarts := by
  refine ⟨fun x v => ⟨Context.xr_zero x, Context.setX_zero x v⟩, fun s c clr hready hc hfree => ?_⟩
  obtain ⟨hclrCtx, hclrReg, hclr⟩ := State.cleared_does s c clr
  obtain ⟨hctx, hother, hstart⟩ := State.startCtx_does (s.cleared c clr) c
  obtain ⟨hcode, hreg, hwstat⟩ := State.wstat_does ((s.cleared c clr).startCtx c) (ctxBase c) codeOk
  have hstarted := (State.wstat_ctx ((s.cleared c clr).startCtx c) (ctxBase c) codeOk c).trans hctx
  refine ⟨_, exec_ctxStart clr hready hc hfree, hcode, ?_⟩
  rw [hstarted]
  refine ⟨rfl, ?_, rfl, fun _ => rfl, rfl, rfl, fun r => ?_, fun d hd => ?_, fun o ho => ?_, ?_⟩
  · rw [State.startOf, State.fld, State.fld, hclrReg, Nat.mul_comm]
  · rw [State.startOf_xr, hclrReg, hclrReg]
  · rw [State.wstat_ctx, hother d hd, hclrCtx d hd]
  · exact (hreg o ho (.inl rfl)).trans (hclrReg o)
  · rw [hwstat, hstart, hclr]
    rfl

end Sys2Proof.Machine
end

section
/-! PROOF. The program store and its locks (R43): the locks as bits of their registers, the fetch from an unlocked region, host
writes of words and of locks. -/

namespace Sys2Proof.Machine

open Safety

/-! ### Locks as bits of their registers -/

theorem State.locked_low (s : State) {r : Nat} (h : r < 32) : s.locked r = (s.reg 0x1040).getLsbD r := by
  unfold State.locked
  rw [if_pos h]
  rfl

theorem State.locked_high (s : State) {r : Nat} (h : 32 ≤ r) (h' : r < 64) : s.locked r = (s.reg 0x1044).getLsbD (r - 32) := by
  unfold State.locked
  rw [if_neg (by omega), if_pos h']
  rfl

/-! ### The fetch from an unlocked region -/

/-- A context that is TRAPPED issues nothing. -/
theorem State.canIssue_of_trapped {s : State} {c : Ctx} (h : (s.ctx c).st = .trapped) (i : Instr) : s.canIssue c i = false := by
  unfold State.canIssue State.ready
  simp [h]

/-- A trap whatever the setting of TRAPEN: the code is recorded, and the context holds its instruction. -/
theorem State.trapAlways_does (s : State) (c : Ctx) (k : Byte) :
    (s.trapAlways c k).ctx c = { (s.ctx c).record k (s.ctx c).pc with
      st := .trapped, pc := (s.ctx c).pc, precise := true, drain := .no, trapDue := false, wait := .nothing } ∧
    (s.trapAlways c k).mem = s.mem := by
  obtain ⟨hctx, -⟩ := State.trap_does (s.setCtx c ((s.ctx c).record k (s.ctx c).pc)) c (s.ctx c).pc true
  exact ⟨hctx.trans (by rw [State.setCtx_ctx_same]), rfl⟩

/-- No instruction is fetched from beyond the store or from an unlocked region. -/
theorem State.fetchable_eq_false {s : State} {pc : Nat} (h : 0x400000 ≤ pc ∨ s.locked (pc / 0x10000) = false) :
    s.fetchable pc = false := by
  unfold State.fetchable psBytes
  rcases h with h | h
  · simp [Nat.not_lt.2 h]
  · simp [h]

theorem exec_unlockedRegionFetch {s : State} {c : Ctx} (hissue : s.atIssue c = true) (hfetch : s.fetchable (s.ctx c).pc = false) :
    exec (.unlockedRegionFetch c) s = .next (s.trapAlways c codeOffside) := by
  show Host.Outcome.next (if s.atIssue c && !s.fetchable (s.ctx c).pc then s.trapAlways c codeOffside else s) = _
  rw [hissue, hfetch]
  rfl

/-! ### Words of the store -/

theorem exec_programStoreWrite {s : State} {w : Fin 1048576} (v : Word) (h : HostReady s (0x100000 + 4 * w.val)) :
    exec (.programStoreWrite w v) s = .next (if s.locked (w.val / 16384)
      then s.wstat (0x100000 + 4 * w.val) codeOffside
      else ({ s with ps := Tab.set 0#32 s.ps w v } : State).wstat (0x100000 + 4 * w.val) codeOk) := by
  show Host.Outcome.next (s.hostWrite (0x100000 + 4 * w.val) _) = _
  rw [State.hostWrite_ready h]
  unfold State.psWrite
  split <;> rfl

/-! ### Writes of the lock registers -/

/-- The regions `lo` to `lo` + 31 whose bits a word sets. -/
def regionsOf (lo : Nat) (v : Word) : List Nat := ((List.range 32).filter fun i => v.getLsbD i).map (· + lo)

theorem mem_regionsOf {lo k : Nat} {v : Word} : k ∈ regionsOf lo v ↔ ∃ i < 32, v.getLsbD i = true ∧ k = i + lo := by
  simp only [regionsOf, List.mem_map, List.mem_filter, List.mem_range]
  constructor
  · rintro ⟨i, ⟨hi, hv⟩, rfl⟩
    exact ⟨i, hi, hv, rfl⟩
  · rintro ⟨i, hi, hv, rfl⟩
    exact ⟨i, ⟨hi, hv⟩, rfl⟩

/-- The regions that a write takes from one word to another. -/
theorem mem_regionsOf_diff {lo k : Nat} {v w : Word} :
    k ∈ regionsOf lo (v &&& ~~~w) ↔ ∃ i < 32, v.getLsbD i = true ∧ w.getLsbD i = false ∧ k = i + lo := by
  rw [mem_regionsOf]
  refine exists_congr fun i => and_congr_right fun hi => ?_
  simp [hi, and_assoc]

/-- A context that is not FREE holds its program counter in a region that the write would unlock. -/
def State.lockNeeded (s : State) (off lo : Nat) (v : Word) : Prop :=
  ∃ e ∈ s.ctxs, e.2.st ≠ .free ∧ ∃ i < 32, (s.reg off).getLsbD i = true ∧ v.getLsbD i = false ∧ e.2.pc / 0x10000 = i + lo

theorem State.lockNeeded_iff (s : State) (off lo : Nat) (v : Word) :
    (s.ctxs.any fun c => decide (c.2.st ≠ .free) && (regionsOf lo (s.reg off &&& ~~~v)).contains (c.2.pc / 0x10000)) = true ↔
      s.lockNeeded off lo v := by
  simp only [List.any_eq_true, Bool.and_eq_true, decide_eq_true_eq, List.contains_iff_mem, mem_regionsOf_diff, State.lockNeeded]

/-- A write that would clear a lock still needed is refused. -/
theorem State.lockWrite_refused {s : State} {off lo : Nat} {v : Word} (h : s.lockNeeded off lo v) :
    s.lockWrite off lo v = (codeOffside, s) := if_pos ((s.lockNeeded_iff off lo v).2 h)

/-- What a state keeps for fetching: the store, the contexts, the instruction caches and the lock registers. -/
def SameStore (s t : State) : Prop :=
  t.ps = s.ps ∧ t.ctxs = s.ctxs ∧ t.icache = s.icache ∧ t.reg 0x1040 = s.reg 0x1040 ∧ t.reg 0x1044 = s.reg 0x1044

theorem SameStore.refl (s : State) : SameStore s s := ⟨rfl, rfl, rfl, rfl, rfl⟩

theorem SameStore.trans {s t u : State} (h : SameStore s t) (h' : SameStore t u) : SameStore s u := by
  obtain ⟨a1, a2, a3, a4, a5⟩ := h
  obtain ⟨b1, b2, b3, b4, b5⟩ := h'
  exact ⟨b1.trans a1, b2.trans a2, b3.trans a3, b4.trans a4, b5.trans a5⟩

/-- An operation that keeps the store keeps it over a list. -/
theorem SameStore.foldl {α : Type} {f : State → α → State} (hf : ∀ s a, SameStore s (f s a)) (l : List α) (s : State) :
    SameStore s (l.foldl f s) := by
  induction l generalizing s with
  | nil => exact .refl s
  | cons a l ih => exact (hf s a).trans (ih (f s a))

theorem sameStore_setReg (s : State) {o : Nat} (v : Word) (h : o ≠ 0x1040 ∧ o ≠ 0x1044) : SameStore s (s.setReg o v) :=
  ⟨rfl, rfl, rfl, State.setReg_reg_other _ _ h.1.symm, State.setReg_reg_other _ _ h.2.symm⟩

theorem sameStore_raiseFlag (s : State) (b n : Nat) : SameStore s (s.raiseFlag b n) :=
  (sameStore_setReg s _ (by omega)).trans (sameStore_setReg _ _ (by omega))

theorem sameStore_setFld (s : State) {o : Nat} (hi lo v : Nat) (h : o ≠ 0x1040 ∧ o ≠ 0x1044) : SameStore s (s.setFld o hi lo v) :=
  sameStore_setReg s _ h

theorem SameStore.ite {s t u : State} {p : Prop} [Decidable p] (ht : SameStore s t) (hu : SameStore s u) :
    SameStore s (if p then t else u) := by
  split
  · exact ht
  · exact hu

/-- A queue that adopts its watermarks changes itself and the queue-configuration flag (R220). -/
theorem sameStore_adoptMarks (s : State) (q : Nat) : SameStore s (s.adoptMarks q) := by
  have flag (p : Prop) [Decidable p] (t : State) : SameStore t (if p then t.raiseFlag 11 1 else t) :=
    .ite (sameStore_raiseFlag t 11 1) (.refl t)
  have hqueue (x : Queue) : SameStore s (s.setQueue q x) := .refl s
  unfold State.adoptMarks
  exact (hqueue _).trans ((flag _ _).trans (flag _ _))

theorem sameStore_adoptSync (s : State) : SameStore s s.adoptSync := by
  have hsync (t : State) (l : List (Nat × Bool × Word)) : SameStore t { t with syncWr := l } := .refl t
  unfold State.adoptSync
  refine (SameStore.foldl ?_ s.syncWr s).trans (hsync _ [])
  exact fun t _ => .refl t

theorem sameStore_setAdopt (s : State) (u : Nat) : SameStore s (s.setAdopt u) := by
  unfold State.setAdopt
  exact (sameStore_setFld s u u 1 (by decide)).trans (.ite (sameStore_setFld _ 31 31 1 (by decide)) (.refl _))

/-- The note of a live write makes sync objects and queues adopt, and writes the registers of adoption (R364). -/
theorem sameStore_noteLive (s : State) (g : Nat) : SameStore s (s.noteLive g) := by
  have hsync : SameStore s (if g = 1 then s else s.adoptSync) := .ite (.refl s) (sameStore_adoptSync s)
  have hqueues (t : State) : SameStore t (if g = 8 then t else t.adoptQueues) :=
    .ite (.refl t) (SameStore.foldl sameStore_adoptMarks _ t)
  have hcount (t : State) : SameStore t (t.bump 0x1084 1) := sameStore_setReg t _ (by decide)
  have hlag (t : State) (l : Tab (Option Word)) : SameStore t { t with lag := l } := .refl t
  have hbits (t : State) (v : Word) : SameStore t (t.setReg 0x1080 v) := sameStore_setReg t v (by decide)
  unfold State.noteLive
  exact hsync.trans ((hqueues _).trans ((hcount _).trans ((hlag _ _).trans ((hbits _ _).trans
    (.ite (sameStore_setAdopt _ 13) (.refl _))))))

/-- A live write to a register that the general control reads takes effect at once (R365). -/
theorem State.liveWrite_of_owner {s : State} {off : Nat} (v : Word) (h : ownerOf off = 13) :
    s.liveWrite off v = (s.setReg off v).noteLive 13 := by
  unfold State.liveWrite
  simp only [h, if_true]

/-- No instruction cache keeps a line of a region that it drops. -/
theorem State.icDrop_drops {s : State} {rs : List Nat} {e : Nat × List Nat} (he : e ∈ (s.icDrop rs).icache) {k : Nat}
    (hk : k ∈ e.2) : k / 1024 ∉ rs := by
  simp only [State.icDrop, List.mem_filterMap, Option.ite_none_left_eq_some] at he
  obtain ⟨e', -, -, heq⟩ := he
  cases heq
  simpa using (List.mem_filter.1 hk).2

@[simp] theorem State.icDrop_reg (s : State) (rs : List Nat) (o : Nat) : (s.icDrop rs).reg o = s.reg o := rfl
@[simp] theorem State.icDrop_ps (s : State) (rs : List Nat) : (s.icDrop rs).ps = s.ps := rfl
@[simp] theorem State.icDrop_ctxs (s : State) (rs : List Nat) : (s.icDrop rs).ctxs = s.ctxs := rfl

/-- The digests of the regions in a list are formed (R343). -/
def State.regionDigests (s : State) (rs : List Nat) : State :=
  { s with ref := { s.ref with regDig := rs.foldl (fun d r => Tab.set 0#64 d r (bdig (s.regionBytes r))) s.ref.regDig } }

theorem sameStore_ref (s : State) (r : Referee) : SameStore s { s with ref := r } := .refl s

theorem sameStore_regionDigests (s : State) (rs : List Nat) : SameStore s (s.regionDigests rs) := sameStore_ref s _

theorem sameStore_newProgramDigest (s : State) : SameStore s s.newProgramDigest := sameStore_ref s _

/-- The effect of a write of a lock register that no context stands against. -/
def State.locksSet (s : State) (off lo : Nat) (v : Word) : State :=
  let rs := regionsOf lo (v &&& ~~~s.reg off)
  let t := ((s.liveWrite off v).icDrop rs).regionDigests rs
  if v = s.reg off then t else t.newProgramDigest

theorem State.lockWrite_accepted {s : State} {off lo : Nat} {v : Word} (h : ¬ s.lockNeeded off lo v) :
    s.lockWrite off lo v = (codeOk, s.locksSet off lo v) := if_neg (mt (s.lockNeeded_iff off lo v).1 h)

/-- Locks that are set: the register takes the value, and the lines of the regions that it locks leave the caches. -/
theorem State.locksSet_does (s : State) {off : Nat} (lo : Nat) (v : Word) (hoff : off = 0x1040 ∨ off = 0x1044) :
    (s.locksSet off lo v).reg off = v ∧ (s.locksSet off lo v).ps = s.ps ∧ (s.locksSet off lo v).ctxs = s.ctxs ∧
    (s.locksSet off lo v).icache = (s.icDrop (regionsOf lo (v &&& ~~~s.reg off))).icache := by
  have howner : ownerOf off = 13 := by rcases hoff with rfl | rfl <;> rfl
  have hdigest (t : State) : SameStore t (if v = s.reg off then t else t.newProgramDigest) :=
    .ite (.refl t) (sameStore_newProgramDigest t)
  have hset : SameStore (((s.setReg off v).noteLive 13).icDrop (regionsOf lo (v &&& ~~~s.reg off))) (s.locksSet off lo v) := by
    unfold State.locksSet
    rw [State.liveWrite_of_owner v howner]
    exact (sameStore_regionDigests _ _).trans (hdigest _)
  obtain ⟨hps, hctxs, hicache, hlow, hhigh⟩ := sameStore_noteLive (s.setReg off v) 13
  obtain ⟨hps', hctxs', hicache', hlow', hhigh'⟩ := hset
  refine ⟨?_, ?_, ?_, ?_⟩
  · rcases hoff with rfl | rfl
    · rw [hlow', State.icDrop_reg, hlow, State.setReg_reg_same]
    · rw [hhigh', State.icDrop_reg, hhigh, State.setReg_reg_same]
  · rw [hps', State.icDrop_ps, hps, State.setReg_ps]
  · rw [hctxs', State.icDrop_ctxs, hctxs, State.setReg_ctxs]
  · rw [hicache', State.icDrop, State.icDrop, hicache, State.setReg_icache]

theorem exec_psLockWrite {s : State} {hi : Bool} {off lo : Nat} (v : Word)
    (hrow : hi = true ∧ off = 0x1044 ∧ lo = 32 ∨ hi = false ∧ off = 0x1040 ∧ lo = 0) :
    exec (.psLockWrite hi v) s = .next (s.hostWrite off fun t => t.lockWrite off lo v) := by
  rcases hrow with ⟨rfl, rfl, rfl⟩ | ⟨rfl, rfl, rfl⟩ <;> rfl

/-! ### The four parts of the statement -/

/-- A context at its issue outside the locked regions traps with OFFSIDE and issues nothing. -/
theorem unlockedRegionFetch_traps {s : State} {c : Ctx} (hissue : s.atIssue c = true)
    (hpc : 0x400000 ≤ (s.ctx c).pc ∨ s.locked ((s.ctx c).pc / 0x10000) = false) :
    ∃ t, exec (.unlockedRegionFetch c) s = .next t ∧ (t.ctx c).st = .trapped ∧ (t.ctx c).precise = true ∧
      (t.ctx c).pc = (s.ctx c).pc ∧ (t.ctx c).last = codeOffside ∧ (∀ i, t.canIssue c i = false) ∧ t.mem = s.mem := by
  obtain ⟨hctx, hmem⟩ := State.trapAlways_does s c codeOffside
  have hst : ((s.trapAlways c codeOffside).ctx c).st = .trapped := by rw [hctx]
  refine ⟨_, exec_unlockedRegionFetch hissue (State.fetchable_eq_false hpc), hst, ?_, ?_, ?_, State.canIssue_of_trapped hst, hmem⟩
  all_goals rw [hctx]
  exact (Context.record_does _ _ _).1

/-- A host write of a word in an unlocked region. -/
theorem programStoreWrite_unlocked {s : State} {w : Fin 1048576} (v : Word) (hready : HostReady s (0x100000 + 4 * w.val))
    (h : s.locked (w.val / 16384) = false) : ∃ t, exec (.programStoreWrite w v) s = .next t ∧
      WriteCode t (0x100000 + 4 * w.val) codeOk ∧ Tab.get 0 t.ps w = v ∧
      (∀ k, k ≠ w.val → Tab.get 0 t.ps k = Tab.get 0 s.ps k) ∧ t = { acked s with ps := t.ps, regs := t.regs } := by
  have hexec := exec_programStoreWrite v hready
  rw [if_neg (by simp [h])] at hexec
  obtain ⟨hcode, -, heq⟩ := State.wstat_does { s with ps := Tab.set 0#32 s.ps w v } (0x100000 + 4 * w.val) codeOk
  refine ⟨_, hexec, hcode, ?_, fun k hk => ?_, ?_⟩
  · rw [heq]
    exact Tab.get_set_same _ _ _ _
  · rw [heq]
    exact Tab.get_set_other _ _ _ hk
  · rw [heq]
    rfl

/-- A host write of a word in a locked region. -/
theorem programStoreWrite_locked {s : State} {w : Fin 1048576} (v : Word) (hready : HostReady s (0x100000 + 4 * w.val))
    (h : s.locked (w.val / 16384) = true) : ∃ t, exec (.programStoreWrite w v) s = .next t ∧
      WriteCode t (0x100000 + 4 * w.val) codeOffside ∧ t = { acked s with regs := t.regs } := by
  have hexec := exec_programStoreWrite v hready
  rw [if_pos h] at hexec
  obtain ⟨hcode, -, heq⟩ := State.wstat_does s (0x100000 + 4 * w.val) codeOffside
  exact ⟨_, hexec, hcode, heq⟩

/-- A write that would clear a lock still needed is refused, and the register keeps its value. -/
theorem psLockWrite_refused {s : State} {hi : Bool} {v : Word} {off lo : Nat}
    (hrow : hi = true ∧ off = 0x1044 ∧ lo = 32 ∨ hi = false ∧ off = 0x1040 ∧ lo = 0) (hready : HostReady s off)
    (h : s.lockNeeded off lo v) : ∃ t, exec (.psLockWrite hi v) s = .next t ∧ WriteCode t off codeOffside ∧
      t = { acked s with regs := t.regs } ∧ t.reg off = s.reg off :=
  ⟨_, exec_psLockWrite v hrow, State.hostWrite_refused hready (State.lockWrite_refused h) (by omega)⟩

/-- Any other write of a lock register acts, and the caches lose the lines of the regions that it locks. -/
theorem psLockWrite_accepted {s : State} {hi : Bool} {v : Word} {off lo : Nat}
    (hrow : hi = true ∧ off = 0x1044 ∧ lo = 32 ∨ hi = false ∧ off = 0x1040 ∧ lo = 0) (hready : HostReady s off)
    (h : ¬ s.lockNeeded off lo v) : ∃ t, exec (.psLockWrite hi v) s = .next t ∧ WriteCode t off codeOk ∧ t.reg off = v ∧
      t.ps = s.ps ∧ t.ctxs = s.ctxs ∧ (∀ i < 32, (s.reg off).getLsbD i = false → v.getLsbD i = true →
        ∀ e ∈ t.icache, ∀ k ∈ e.2, k / 1024 ≠ i + lo) := by
  obtain ⟨hreg, hps, hctxs, hicache⟩ := s.locksSet_does (off := off) lo v (by omega)
  obtain ⟨hcode, hother, heq⟩ := State.wstat_does (s.locksSet off lo v) off codeOk
  refine ⟨_, exec_psLockWrite v hrow, ?_⟩
  rw [State.hostWrite_ready hready, State.lockWrite_accepted h]
  refine ⟨hcode, (hother off (by omega) (.inl rfl)).trans hreg, ?_, ?_, fun i hi hold hnew e he k hk hregion => ?_⟩
  · rw [heq]
    exact hps
  · rw [heq]
    exact hctxs
  · rw [heq] at he
    exact State.icDrop_drops (hicache ▸ he) hk (mem_regionsOf_diff.2 ⟨i, hi, hnew, hold, hregion⟩)

/-- Settles O29: host writes of words and of locks are answered host writes whose bodies are judged by `State.locked` and
`State.lockNeeded`; an accepted lock write is `State.locksSet`, which keeps the store and drops the cached lines (R43). -/
theorem programStoreAndLocks : Obligations.ProgramStoreAndLocks := by
  refine ⟨fun s r => ⟨s.locked_low, s.locked_high⟩, fun s c hissue hpc => unlockedRegionFetch_traps hissue hpc,
    fun s w v hready => ⟨programStoreWrite_unlocked v hready, programStoreWrite_locked v hready⟩,
    fun s hi v off lo hrow hready => ⟨psLockWrite_refused hrow hready, fun h => psLockWrite_accepted hrow hready ?_⟩⟩
  rintro ⟨e, he, hst, i, hi, hold, hnew, hregion⟩
  exact h e he hst i hi hold hnew hregion

end Sys2Proof.Machine
end

section
/-! PROOF. The mailbox (R375 to R377): what the write of its command leaves of the state, the codes that ALLOC and FREE end with, and
a buffer that is taken or given back, with its bit of the allocation bitmap (R232, R234, R235). -/

namespace Sys2Proof.Machine

open Safety

/-! ### What the note of a live write leaves (R364) -/

/-- A live write up to the mailbox's command register has been noted: the sync objects, the queues and the registers up to there may
have changed, and the sync objects only if writes of them waited to be adopted. -/
structure Noted (s t : State) : Prop where
  frame : t = { s with sync := t.sync, syncWr := t.syncWr, queues := t.queues, lag := t.lag, regs := t.regs }
  reg : ∀ o, 0x3000 < o → t.reg o = s.reg o
  sync : s.syncWr = [] → t.sync = s.sync ∧ t.syncWr = []

theorem Noted.refl (s : State) : Noted s s := ⟨rfl, fun _ _ => rfl, fun h => ⟨rfl, h⟩⟩

theorem Noted.trans {s t u : State} (h : Noted s t) (h' : Noted t u) : Noted s u := by
  obtain ⟨heq, hreg, hsync⟩ := h
  obtain ⟨heq', hreg', hsync'⟩ := h'
  refine ⟨heq'.trans (congrArg (fun x : State =>
    { x with sync := u.sync, syncWr := u.syncWr, queues := u.queues, lag := u.lag, regs := u.regs }) heq),
    fun o ho => (hreg' o ho).trans (hreg o ho), fun hnone => ?_⟩
  obtain ⟨hsame, hnone'⟩ := hsync hnone
  obtain ⟨hsame', hnone''⟩ := hsync' hnone'
  exact ⟨hsame'.trans hsame, hnone''⟩

theorem Noted.foldl {α : Type} {f : State → α → State} (hf : ∀ s a, Noted s (f s a)) (l : List α) (s : State) :
    Noted s (l.foldl f s) := by
  induction l generalizing s with
  | nil => exact .refl s
  | cons a l ih => exact (hf s a).trans (ih (f s a))

theorem Noted.ite {s t u : State} {p : Prop} [Decidable p] (ht : Noted s t) (hu : Noted s u) : Noted s (if p then t else u) := by
  split
  · exact ht
  · exact hu

theorem noted_setReg (s : State) {o : Nat} (v : Word) (h : o ≤ 0x3000) : Noted s (s.setReg o v) :=
  ⟨rfl, fun o' ho' => State.setReg_reg_other s v (by omega), fun hnone => ⟨rfl, hnone⟩⟩

theorem noted_raiseFlag (s : State) {b : Nat} (n : Nat) (h : b < 32) : Noted s (s.raiseFlag b n) :=
  (noted_setReg s _ (by omega)).trans (noted_setReg _ _ (by omega))

theorem noted_adoptMarks (s : State) (q : Nat) : Noted s (s.adoptMarks q) := by
  have flag (p : Prop) [Decidable p] (t : State) : Noted t (if p then t.raiseFlag 11 1 else t) :=
    .ite (noted_raiseFlag t 1 (by decide)) (.refl t)
  have hqueue (x : Queue) : Noted s (s.setQueue q x) := ⟨rfl, fun _ _ => rfl, fun h => ⟨rfl, h⟩⟩
  unfold State.adoptMarks
  exact (hqueue _).trans ((flag _ _).trans (flag _ _))

/-- The writes of sync objects that waited change the sync objects alone. -/
theorem State.adoptSync_eq (s : State) : s.adoptSync = { s with sync := s.adoptSync.sync, syncWr := [] } := by
  unfold State.adoptSync
  generalize hf : (fun (t : State) (x : Nat × Bool × Word) =>
    t.setObj x.1 (if x.2.1 then { t.obj x.1 with thr := x.2.2 } else { t.obj x.1 with cnt := x.2.2 })) = f
  have hstep (t : State) (x : Nat × Bool × Word) : f t x = { t with sync := (f t x).sync } := by
    subst hf
    rfl
  have hfold (l : List (Nat × Bool × Word)) (t : State) : l.foldl f t = { t with sync := (l.foldl f t).sync } := by
    induction l generalizing t with
    | nil => rfl
    | cons x l ih => exact (ih (f t x)).trans (congrArg (fun y : State => { y with sync := (l.foldl f (f t x)).sync }) (hstep t x))
  exact congrArg (fun t : State => { t with syncWr := [] }) (hfold s.syncWr s)

theorem noted_adoptSync (s : State) : Noted s s.adoptSync := by
  have heq := s.adoptSync_eq
  refine ⟨?_, fun o _ => ?_, fun hnone => ⟨?_, ?_⟩⟩
  · rw [heq]
  · rw [heq]
    rfl
  · unfold State.adoptSync
    rw [hnone]
    rfl
  · rw [heq]

theorem noted_noteLive (s : State) (g : Nat) : Noted s (s.noteLive g) := by
  have hsync : Noted s (if g = 1 then s else s.adoptSync) := .ite (.refl s) (noted_adoptSync s)
  have hqueues (t : State) : Noted t (if g = 8 then t else t.adoptQueues) :=
    .ite (.refl t) (Noted.foldl noted_adoptMarks _ t)
  have hcount (t : State) : Noted t (t.bump 0x1084 1) := noted_setReg t _ (by decide)
  have hlag (t : State) (l : Tab (Option Word)) : Noted t { t with lag := l } := ⟨rfl, fun _ _ => rfl, fun h => ⟨rfl, h⟩⟩
  have hbits (t : State) (v : Word) : Noted t (t.setReg 0x1080 v) := noted_setReg t v (by decide)
  have hadopt (t : State) : Noted t (t.setAdopt 13) := by
    unfold State.setAdopt
    exact (hbits t _).trans (.ite (hbits _ _) (.refl _))
  unfold State.noteLive
  exact hsync.trans ((hqueues _).trans ((hcount _).trans ((hlag _ _).trans ((hbits _ _).trans (.ite (hadopt _) (.refl _))))))

/-! ### Pools through a noted write -/

section

variable {s t : State} (h : Noted s t)

include h

theorem Noted.fld {o : Nat} (ho : 0x3000 < o) (hi lo : Nat) : t.fld o hi lo = s.fld o hi lo := by
  unfold State.fld
  rw [h.reg o ho]

theorem Noted.fld_poolReg (n k hi lo : Nat) : t.fld (poolReg n k) hi lo = s.fld (poolReg n k) hi lo :=
  h.fld (by unfold poolReg; omega) hi lo

theorem Noted.pools : t.pools = s.pools := by rw [h.frame]

theorem Noted.mem : t.mem = s.mem := by rw [h.frame]

theorem Noted.ctxs : t.ctxs = s.ctxs := by rw [h.frame]

theorem Noted.byte (a : Nat) : t.byte a = s.byte a := congrArg (Tab.get 0#8 · a) h.mem

theorem Noted.pool (n : Nat) : t.pool n = s.pool n := congrArg (Tab.get Pool.reset · n) h.pools

theorem Noted.poolCount (n : Nat) : t.poolCount n = s.poolCount n := h.fld_poolReg n 0x10 23 0

theorem Noted.poolBase (n : Nat) : t.poolBase n = s.poolBase n := by
  simp only [State.poolBase, h.fld_poolReg]

theorem Noted.poolRing (n : Nat) : t.poolRing n = s.poolRing n := by
  simp only [State.poolRing, h.fld_poolReg]

theorem Noted.bufBytes (n : Nat) : t.bufBytes n = s.bufBytes n := by
  simp only [State.bufBytes, h.fld_poolReg]

theorem Noted.underQuota (n r k : Nat) : t.underQuota n r k = s.underQuota n r k := by
  unfold State.underQuota State.quota
  rw [h.pool, h.fld (by omega)]

theorem Noted.freeCode (n a : Nat) : t.freeCode n a = s.freeCode n a := by
  simp only [State.freeCode, h.pool, h.poolCount, h.poolBase, h.bufBytes]

theorem Noted.mbPool : t.mbPool = s.mbPool := h.fld (o := 0x3004) (by decide) 2 0

theorem Noted.mbReq : t.mbReq = s.mbReq := h.fld (o := 0x3004) (by decide) 15 8

end

/-! ### A mailbox command (R375) -/

/-- The state that a mailbox operation acts on: the command register has taken its live value. -/
def State.mailed (s : State) (op : Nat) : State := s.liveWrite 0x3000 (word op)

theorem noted_mailed (s : State) (op : Nat) : Noted s (s.mailed op) := by
  unfold State.mailed
  rw [State.liveWrite_of_owner _ (by decide)]
  exact (noted_setReg s _ (by decide)).trans (noted_noteLive _ 13)

/-- How a mailbox operation `op` that ended with code `k` in state `u` leaves the window: its code beside its number in the status, the
mailbox interrupt pending, and the write itself accepted. -/
structure MailboxEnds (op : Nat) (k : Byte) (u t : State) : Prop where
  code : WriteCode t 0x3000 codeOk
  status : t.reg 0x301C = BitVec.ofNat 32 (k.toNat + op * 65536)
  interrupt : t.fld 0x2800 6 6 = 1
  reg : ∀ o, o ≠ 0x301C → o ≠ 0x2800 → o ≠ 0x3020 → t.reg o = u.reg o
  frame : t = { acked u with regs := t.regs }

section

variable {op : Nat} {k : Byte} {u t : State} (h : MailboxEnds op k u t)

include h

theorem MailboxEnds.ctxs : t.ctxs = u.ctxs := by
  rw [h.frame]
  rfl

theorem MailboxEnds.mem : t.mem = u.mem := by
  rw [h.frame]
  rfl

theorem MailboxEnds.pools : t.pools = u.pools := by
  rw [h.frame]
  rfl

theorem MailboxEnds.obj (n : Nat) : t.obj n = u.obj n := by
  rw [h.frame]
  rfl

theorem MailboxEnds.pool (n : Nat) : t.pool n = u.pool n := congrArg (fun p => Tab.get Pool.reset p n) h.pools

end

/-- A command word with GO spells its operation. -/
theorem word_go {op : Nat} (h : op < 256) :
    bitsOf (word (op + 2 ^ 31)).toNat 7 0 = op ∧ (word (op + 2 ^ 31)).getLsbD 31 = true := by
  constructor
  · rw [bitsOf_eq_div, word, BitVec.toNat_ofNat]
    omega
  · rw [word, BitVec.getLsbD_ofNat, Nat.add_comm, Nat.testBit_two_pow_add_eq, Nat.testBit_lt_two_pow (by omega)]
    rfl

theorem State.mbWrite_go {s u : State} {v : Word} {op : Nat} {k : Byte} (hbits : bitsOf v.toNat 7 0 = op) (hgo : v.getLsbD 31 = true)
    (h : (s.mailed op).mbOp op = (k, u)) :
    s.mbWrite v = (codeOk, (u.setReg 0x301C (word (k.toNat + op * 65536))).raiseInt 6) := by
  unfold State.mailed at h
  unfold State.mbWrite
  simp only [hbits, hgo, h, Bool.not_true, Bool.false_eq_true, if_false]

/-- The status, the interrupt and the write's own code, as an operation that has run leaves them. -/
theorem State.mailboxEnds_of_wstat (u : State) (op : Nat) (k : Byte) :
    MailboxEnds op k u (((u.setReg 0x301C (word (k.toNat + op * 65536))).raiseInt 6).wstat 0x3000 codeOk) := by
  generalize hv : u.setReg 0x301C (word (k.toNat + op * 65536)) = v
  have hstatus : v.reg 0x301C = word (k.toNat + op * 65536) := by rw [← hv, State.setReg_reg_same]
  have hint : (v.raiseInt 6).fld 0x2800 6 6 = 1 := State.setFld_fld_same v 0x2800 6 6 1 (by decide) (by decide)
  obtain ⟨hcode, hreg, heq⟩ := State.wstat_does (v.raiseInt 6) 0x3000 codeOk
  refine ⟨hcode, ?_, ?_, fun o h1 h2 h3 => ?_, ?_⟩
  · rw [hreg _ (by decide) (.inl rfl)]
    exact (State.setFld_reg_other v 6 6 1 (by decide)).trans hstatus
  · unfold State.fld
    rw [hreg _ (by decide) (.inl rfl)]
    exact hint
  · rw [hreg o h3 (.inl rfl), State.raiseInt, State.setFld_reg_other _ _ _ _ h2, ← hv, State.setReg_reg_other _ _ h1]
  · rw [heq, ← hv]
    rfl

theorem State.mbWrite_ends {s u : State} {v : Word} {op : Nat} {k : Byte} (hready : HostReady s 0x3000)
    (hv : bitsOf v.toNat 7 0 = op ∧ v.getLsbD 31 = true) (h : (s.mailed op).mbOp op = (k, u)) :
    MailboxEnds op k u (s.hostWrite 0x3000 fun t => t.mbWrite v) := by
  rw [State.hostWrite_ready hready, State.mbWrite_go hv.1 hv.2 h]
  exact u.mailboxEnds_of_wstat op k

theorem State.mbGo_ends {s u : State} {op : Nat} {k : Byte} (hready : HostReady s 0x3000) (hop : op < 256)
    (h : (s.mailed op).mbOp op = (k, u)) : MailboxEnds op k u (s.mbGo op) :=
  State.mbWrite_ends hready (word_go hop) h

@[simp] theorem State.mbOp_signal (s : State) : s.mbOp 1 = s.mbSignal := rfl
@[simp] theorem State.mbOp_alloc (s : State) : s.mbOp 2 = s.mbAlloc := rfl
@[simp] theorem State.mbOp_ping (s : State) : s.mbOp 4 = s.mbPing := rfl

/-- The branch of FREE is chosen for any function in its place: FREE itself holds the factor 2^32 of its address, with which the kernel
must not compute. -/
@[simp] theorem State.mbOp_free (s : State) : s.mbOp 3 = s.mbFree := by
  have hbranch : ∀ free, State.mbFree = free → s.mbOp 3 = free s := by
    intro free hfree
    delta State.mbOp
    rw [hfree]
    rfl
  exact hbranch _ rfl

/-- A mailbox row runs its operation on a state in which only the write of the command register has been noted. -/
theorem State.mbGo_runs {s : State} {op : Nat} (hready : HostReady s 0x3000) (hop : op < 256) :
    ∃ v, Noted s v ∧ ∀ k u, v.mbOp op = (k, u) → ∃ t, s.mbGo op = t ∧ MailboxEnds op k u t :=
  ⟨s.mailed op, noted_mailed s op, fun _ _ h => ⟨s.mbGo op, rfl, State.mbGo_ends hready hop h⟩⟩

theorem exec_mbSignal {s t : State} (h : s.mbGo 1 = t) : exec .mbSignal s = .next t := congrArg Host.Outcome.next h
theorem exec_mbAlloc {s t : State} (h : s.mbGo 2 = t) : exec .mbAlloc s = .next t := congrArg Host.Outcome.next h
theorem exec_mbFree {s t : State} (h : s.mbGo 3 = t) : exec .mbFree s = .next t := congrArg Host.Outcome.next h
theorem exec_mbPing {s t : State} (h : s.mbGo 4 = t) : exec .mbPing s = .next t := congrArg Host.Outcome.next h

/-! ### SIGNAL and PING (R376) -/

theorem State.mbSignal_eq (s : State) : s.mbSignal = (codeOk, s.signal (s.fld 0x3004 14 0) (s.reg 0x3008).toNat) := rfl

theorem State.mbPing_eq (s : State) : s.mbPing = (codeOk, s.setReg 0x3014 0x4D424F4B#32) := rfl

/-- A signal changes no context and no byte of memory, whether it saturates or not. -/
theorem State.signal_frame (s : State) (n a : Nat) :
    (s.signal n a).ctxs = s.ctxs ∧ (s.signal n a).mem = s.mem := by
  rcases Nat.lt_or_ge ((s.obj n).cnt.toNat + a) (2 ^ 32) with h | h
  · obtain ⟨-, -, -, heq⟩ := s.signal_adds n a h
    rw [heq]
    exact ⟨rfl, rfl⟩
  · obtain ⟨-, -, -, -, -, heq⟩ := s.signal_saturates n a h
    rw [heq]
    exact ⟨rfl, rfl⟩

/-- SIGNAL within 32 bits, with no write of a sync object left to adopt, adds to its object alone. -/
theorem Noted.signal_adds {s v : State} (h : Noted s v) {n a : Nat} (hnone : s.syncWr = [])
    (hroom : (s.obj n).cnt.toNat + a < 2 ^ 32) :
    ((v.signal n a).obj n).cnt.toNat = (s.obj n).cnt.toNat + a ∧ ∀ m, m ≠ n → (v.signal n a).obj m = s.obj m := by
  obtain ⟨hsync, -⟩ := h.sync hnone
  have hobj (m : Nat) : v.obj m = s.obj m := congrArg (fun o => Tab.get SyncObj.reset o m) hsync
  rw [← hobj] at hroom
  obtain ⟨hadds, -, hother, -⟩ := v.signal_adds n a hroom
  exact ⟨by rw [hadds, hobj], fun m hm => (hother m hm).trans (hobj m)⟩

theorem mbSignal_completes {s : State} (hready : HostReady s 0x3000) :
    ∃ t, exec .mbSignal s = .next t ∧ WriteCode t 0x3000 codeOk ∧ t.reg 0x301C = BitVec.ofNat 32 (1 * 65536) ∧ t.fld 0x2800 6 6 = 1 ∧
      (s.syncWr = [] → (s.obj (s.fld 0x3004 14 0)).cnt.toNat + (s.reg 0x3008).toNat < 2 ^ 32 →
        (t.obj (s.fld 0x3004 14 0)).cnt.toNat = (s.obj (s.fld 0x3004 14 0)).cnt.toNat + (s.reg 0x3008).toNat ∧
        (∀ m, m ≠ s.fld 0x3004 14 0 → t.obj m = s.obj m)) ∧ t.ctxs = s.ctxs ∧ t.mem = s.mem := by
  obtain ⟨v, hnoted, hruns⟩ := State.mbGo_runs (op := 1) hready (by decide)
  obtain ⟨t, hgo, hends⟩ := hruns _ _ (v.mbOp_signal.trans v.mbSignal_eq)
  rw [hnoted.fld (by decide), hnoted.reg 0x3008 (by decide)] at hends
  obtain ⟨hctxs, hmem⟩ := v.signal_frame (s.fld 0x3004 14 0) (s.reg 0x3008).toNat
  refine ⟨t, exec_mbSignal hgo, hends.code, hends.status, hends.interrupt, fun hnone hroom => ?_,
    hends.ctxs.trans (hctxs.trans hnoted.ctxs), hends.mem.trans (hmem.trans hnoted.mem)⟩
  obtain ⟨hadds, hother⟩ := hnoted.signal_adds hnone hroom
  exact ⟨(congrArg (fun o : SyncObj => o.cnt.toNat) (hends.obj _)).trans hadds, fun m hm => (hends.obj m).trans (hother m hm)⟩

theorem mbPing_completes {s : State} (hready : HostReady s 0x3000) :
    ∃ t, exec .mbPing s = .next t ∧ WriteCode t 0x3000 codeOk ∧ t.reg 0x301C = BitVec.ofNat 32 (4 * 65536) ∧ t.fld 0x2800 6 6 = 1 ∧
      t.reg 0x3014 = 0x4D424F4B#32 ∧ t.ctxs = s.ctxs ∧ t.mem = s.mem := by
  obtain ⟨v, hnoted, hruns⟩ := State.mbGo_runs (op := 4) hready (by decide)
  obtain ⟨t, hgo, hends⟩ := hruns _ _ (v.mbOp_ping.trans v.mbPing_eq)
  exact ⟨t, exec_mbPing hgo, hends.code, hends.status, hends.interrupt,
    (hends.reg 0x3014 (by decide) (by decide) (by decide)).trans (State.setReg_reg_same _ _ _),
    hends.ctxs.trans (v.setReg_ctxs _ _ |>.trans hnoted.ctxs), hends.mem.trans (v.setReg_mem _ _ |>.trans hnoted.mem)⟩

/-! ### The checks of ALLOC and FREE (R377) -/

/-- The pool of the command is enabled and ready. -/
def State.mbReady (s : State) : Bool := s.poolEn s.mbPool && (s.pool s.mbPool).ready

/-- A host requester asks for a pool of the GENERAL class. -/
def State.mbGeneral (s : State) : Bool := decide (16 ≤ s.mbReq) && decide (s.poolClass s.mbPool = 0)

/-- The address of a FREE. -/
def State.mbAddr (s : State) : Nat := s.mbArg 1 + bitsOf (s.mbArg 2) 15 0 * 2 ^ 32

theorem State.mbAddr_eq (s : State) : s.mbAddr = (s.reg 0x3008).toNat + 2 ^ 32 * s.fld 0x300C 15 0 :=
  congrArg ((s.reg 0x3008).toNat + ·) (Nat.mul_comm _ _)

theorem State.mbChecks_eq (s : State) : s.mbChecks = [(!s.mbReady, codeOffside), (!s.mbGeneral, codeBounds)] := by
  unfold State.mbChecks State.mbReady State.mbGeneral
  simp only [Bool.not_and, ← decide_not, Nat.not_le, ne_eq]

theorem Noted.mbReady {s t : State} (h : Noted s t) : t.mbReady = s.mbReady := by
  simp only [State.mbReady, State.poolEn, h.mbPool, h.pool, h.fld_poolReg]

theorem Noted.mbGeneral {s t : State} (h : Noted s t) : t.mbGeneral = s.mbGeneral := by
  unfold State.mbGeneral State.poolClass
  rw [h.mbReq, h.mbPool, h.fld_poolReg]

theorem Noted.mbAddr {s t : State} (h : Noted s t) : t.mbAddr = s.mbAddr := by
  simp only [State.mbAddr_eq, h.fld (show 0x3000 < 0x300C by decide), h.reg 0x3008 (by decide)]

/-- The lowest code among the checks of ALLOC (R16). -/
theorem lowest_alloc_checks (unready other full : Bool) :
    lowest [(unready, codeOffside), (other, codeBounds), (full, codeQuota)] =
      if unready then some codeOffside else if other then some codeBounds else if full then some codeQuota else none := by
  revert unready other full
  decide

/-- The lowest code among the checks of FREE, of which the last has the code that the pointer's check gave. -/
theorem lowest_free_checks (unready other empty : Bool) {e : Byte}
    (he : e = codeOk ∨ e = codeOffside ∨ e = codeBounds ∨ e = codeAlign) :
    lowest [(unready, codeOffside), (other, codeBounds), (empty, codeOffside), (decide (e ≠ codeOk), e)] =
      if unready || empty then some codeOffside
      else if other then some (if e = codeOffside then codeOffside else codeBounds)
      else if e = codeOk then none else some e := by
  revert unready other empty
  rcases he with rfl | rfl | rfl | rfl <;> decide

/-- The check of a pointer, by the three grounds of R235. -/
theorem State.freeCode_cases (s : State) (n a : Nat) :
    (a < s.poolBase n ∨ s.poolBase n + s.poolCount n * s.bufBytes n ≤ a → s.freeCode n a = codeBounds) ∧
    (s.poolBase n ≤ a → a < s.poolBase n + s.poolCount n * s.bufBytes n → (a - s.poolBase n) % s.bufBytes n ≠ 0 →
      s.freeCode n a = codeAlign) ∧
    (s.poolBase n ≤ a → a < s.poolBase n + s.poolCount n * s.bufBytes n → (a - s.poolBase n) % s.bufBytes n = 0 →
      s.freeCode n a = if Tab.get false (s.pool n).bitmap ((a - s.poolBase n) / s.bufBytes n) = true then codeOk else codeOffside) := by
  have hinside (h : s.poolBase n ≤ a) (h' : a < s.poolBase n + s.poolCount n * s.bufBytes n) :
      ¬ (a < s.poolBase n ∨ s.poolBase n + s.poolCount n * s.bufBytes n ≤ a) := by omega
  unfold State.freeCode
  exact ⟨fun h => if_pos h, fun h h' hmod => (if_neg (hinside h h')).trans (if_pos hmod),
    fun h h' hmod => (if_neg (hinside h h')).trans (if_neg (not_not_intro hmod))⟩

theorem State.freeCode_mem (s : State) (n a : Nat) :
    s.freeCode n a = codeOk ∨ s.freeCode n a = codeOffside ∨ s.freeCode n a = codeBounds ∨ s.freeCode n a = codeAlign := by
  unfold State.freeCode
  dsimp only
  split_ifs <;> simp

/-- The check lets the address of an allocated buffer pass. -/
theorem State.freeCode_allocated {s : State} {n b : Nat} (hb : b < s.poolCount n)
    (hset : Tab.get false (s.pool n).bitmap b = true) :
    s.freeCode n (s.bufAddr n b) = codeOk ∧ (s.bufAddr n b - s.poolBase n) / s.bufBytes n = b := by
  have hpos : 0 < s.bufBytes n := by
    unfold State.bufBytes
    split <;> decide
  have hsub : s.bufAddr n b - s.poolBase n = b * s.bufBytes n := Nat.add_sub_cancel_left ..
  have hdiv : (s.bufAddr n b - s.poolBase n) / s.bufBytes n = b := by rw [hsub, Nat.mul_div_cancel _ hpos]
  have hlt : b * s.bufBytes n < s.poolCount n * s.bufBytes n := Nat.mul_lt_mul_of_pos_right hb hpos
  obtain ⟨-, -, hon⟩ := s.freeCode_cases n (s.bufAddr n b)
  refine ⟨?_, hdiv⟩
  rw [hon (Nat.le_add_right ..) (Nat.add_lt_add_left hlt _) (by rw [hsub, Nat.mul_mod_left]), hdiv, if_pos hset]

/-! ### A buffer's bit of the allocation bitmap (R232) -/

/-- A number made up of bits, its lowest first. -/
theorem testBit_foldl_bits (f : Nat → Bool) (n i : Nat) :
    ((List.range n).foldl (fun v j => v + b2n (f j) * 2 ^ j) 0).testBit i = (decide (i < n) && f i) ∧
      (List.range n).foldl (fun v j => v + b2n (f j) * 2 ^ j) 0 < 2 ^ n := by
  induction n with
  | zero => simp
  | succ n ih =>
    obtain ⟨hbit, hlt⟩ := ih
    rw [List.range_succ, List.foldl_append, List.foldl_cons, List.foldl_nil]
    generalize (List.range n).foldl (fun v j => v + b2n (f j) * 2 ^ j) 0 = v at hbit hlt ⊢
    have hb : b2n (f n) ≤ 1 := by cases f n <;> decide
    constructor
    · rw [Nat.add_comm, Nat.mul_comm, Nat.testBit_two_pow_mul_add _ hlt, hbit]
      rcases Nat.lt_trichotomy i n with h | rfl | h
      · simp [h, Nat.lt_succ_of_lt h]
      · cases hf : f i <;> simp [b2n]
      · have hzero : (b2n (f n)).testBit (i - n) = false := Nat.testBit_lt_two_pow (Nat.lt_of_le_of_lt hb (Nat.one_lt_two_pow (by omega)))
        simp [hzero, Nat.not_lt.2 (Nat.succ_le_of_lt h), Nat.not_lt.2 (Nat.le_of_lt h)]
    · have := Nat.mul_le_mul_right (2 ^ n) hb
      rw [Nat.pow_succ]
      omega

/-- Buffer `b`'s bit of the allocation bitmap in the ring area of pool `n` is written, and no byte but that bit's (log entry 85). -/
def BitWritten (s t : State) (n b : Nat) (on : Bool) : Prop :=
  bitOf (t.byte (s.poolRing n + 8 * s.poolCount n + b / 8)).toNat (b % 8) = on ∧
  ∀ a, a ≠ s.poolRing n + 8 * s.poolCount n + b / 8 → t.byte a = s.byte a

theorem State.bitmapByte_written (s : State) (n b : Nat) :
    BitWritten s (s.bitmapByte n b) n b (Tab.get false (s.pool n).bitmap b) := by
  have hbit : b % 8 < 8 := Nat.mod_lt _ (by decide)
  refine ⟨?_, fun a ha => State.setByte_byte_other _ _ ha⟩
  unfold State.bitmapByte
  rw [State.setByte_byte_same, bitOf, BitVec.toNat_ofNat, Nat.testBit_mod_two_pow,
    (testBit_foldl_bits (fun j => Tab.get false (s.pool n).bitmap (b / 8 * 8 + j)) 8 _).1, Nat.div_add_mod']
  simp [hbit]

/-- A pool is given new contents, and the bit of one of its buffers is written. -/
theorem State.setPool_bitmapByte (s : State) (n b : Nat) (p : Pool) :
    ((s.setPool n p).bitmapByte n b).pool n = p ∧ BitWritten s ((s.setPool n p).bitmapByte n b) n b (Tab.get false p.bitmap b) := by
  have hbit := (s.setPool n p).bitmapByte_written n b
  rw [State.setPool_pool_same] at hbit
  exact ⟨State.setPool_pool_same s n p, hbit⟩

/-! ### A buffer taken (R234) -/

/-- The buffer that the next allocation takes leaves the free store, and nothing else of the pool changes. -/
theorem Pool.next_frame {p q : Pool} {c i : Nat} (h : p.next c = some (i, q)) : q = { p with fresh := q.fresh, freed := q.freed } := by
  unfold Pool.next at h
  split at h
  · cases h
    rfl
  · split at h
    · cases h
    · cases h
      rfl

/-- What a command changes in pool `n`, with the buffers that Huddle or Volley reserve there. -/
structure PoolFrame (n : Nat) (s t : State) : Prop where
  frame : t = { s with pools := t.pools, mem := t.mem, hud := t.hud, vol := t.vol }
  other : ∀ m, m ≠ n → t.pool m = s.pool m

theorem PoolFrame.refl (n : Nat) (s : State) : PoolFrame n s s := ⟨rfl, fun _ _ => rfl⟩

theorem PoolFrame.trans {n : Nat} {s t u : State} (h : PoolFrame n s t) (h' : PoolFrame n t u) : PoolFrame n s u := by
  obtain ⟨heq, hpool⟩ := h
  obtain ⟨heq', hpool'⟩ := h'
  exact ⟨heq'.trans (congrArg (fun x : State => { x with pools := u.pools, mem := u.mem, hud := u.hud, vol := u.vol }) heq),
    fun m hm => (hpool' m hm).trans (hpool m hm)⟩

theorem poolFrame_setPool (s : State) (n : Nat) (p : Pool) : PoolFrame n s (s.setPool n p) :=
  ⟨rfl, fun _ hm => State.setPool_pool_other s p hm⟩

theorem poolFrame_bitmapByte (s : State) (n b : Nat) : PoolFrame n s (s.bitmapByte n b) := ⟨rfl, fun _ _ => rfl⟩

/-- The pool once a requester has taken buffer `b` of it. -/
def Pool.taken (p : Pool) (r b : Nat) (half : Option Half) : Pool :=
  { p with bitmap := Tab.set false p.bitmap b true, halves := Tab.set none p.halves b half
           held := Tab.upd 0 p.held r (· + 1), cached := p.cached - 1 }

theorem State.poolTake_eq {s : State} {n b : Nat} {p : Pool} (r : Nat) (half : Option Half)
    (hnext : (s.pool n).next (s.poolCount n) = some (b, p)) :
    s.poolTake n r half = some (b, (s.setPool n (p.taken r b half)).bitmapByte n b) := by
  unfold State.poolTake
  simp only [hnext]
  rfl

/-- A requester takes the next free buffer: it is allocated, the requester holds one more, and its bit is written. -/
theorem State.poolTake_takes {s : State} {n b : Nat} {p : Pool} (r : Nat) (half : Option Half)
    (hnext : (s.pool n).next (s.poolCount n) = some (b, p)) :
    ∃ t, s.poolTake n r half = some (b, t) ∧ Tab.get false (t.pool n).bitmap b = true ∧
      Tab.get 0 (t.pool n).held r = Tab.get 0 (s.pool n).held r + 1 ∧ BitWritten s t n b true := by
  have hheld : p.held = (s.pool n).held := by rw [Pool.next_frame hnext]
  have hbitmap : Tab.get false (p.taken r b half).bitmap b = true := Tab.get_set_same false p.bitmap b true
  obtain ⟨hpool, hbit⟩ := s.setPool_bitmapByte n b (p.taken r b half)
  refine ⟨_, State.poolTake_eq r half hnext, ?_, ?_, hbitmap ▸ hbit⟩
  · rw [hpool, hbitmap]
  · rw [hpool, ← hheld]
    exact Tab.get_set_same 0 p.held r (Tab.get 0 p.held r + 1)

theorem State.poolTake_isNone (s : State) (n r : Nat) (half : Option Half) :
    (s.poolTake n r half).isNone = ((s.pool n).next (s.poolCount n)).isNone := by
  unfold State.poolTake
  dsimp only
  split <;> next h => simp [h]

theorem poolFrame_poolTake {s t : State} {n r i : Nat} {half : Option Half} (h : s.poolTake n r half = some (i, t)) :
    PoolFrame n s t := by
  unfold State.poolTake at h
  dsimp only at h
  split at h
  · cases h
  · cases h
    exact (poolFrame_setPool s n _).trans (poolFrame_bitmapByte _ n _)

theorem poolFrame_poolTakes {n r : Nat} {half : Option Half} (k : Nat) {s t : State} {l : List Nat}
    (h : s.poolTakes n r half k = some (l, t)) : PoolFrame n s t := by
  induction k generalizing s l with
  | zero =>
    cases h
    exact .refl n _
  | succ k ih =>
    unfold State.poolTakes at h
    split at h
    · cases h
    · next htake =>
      split at h
      · cases h
      · next hrest =>
        cases h
        exact (poolFrame_poolTake htake).trans (ih hrest)

/-! ### A buffer given back (R235) -/

theorem poolFrame_serveWaiting (n fuel : Nat) (s : State) : PoolFrame n s (s.serveWaiting n fuel) := by
  induction fuel generalizing s with
  | zero => exact .refl n s
  | succ fuel ih =>
    have hresv (t : State) (k r : Nat) (bs : List Nat) : PoolFrame n t (if k = 0 then t
        else if r = 0 then { t with hud := { t.hud with resv := bs } } else { t with vol := { t.vol with resv := bs } }) := by
      split_ifs <;> exact ⟨rfl, fun _ _ => rfl⟩
    unfold State.serveWaiting
    dsimp only
    split
    · exact .refl n s
    · split
      · exact .refl n s
      · split
        · exact .refl n s
        · next htakes =>
          exact (poolFrame_setPool s n _).trans ((poolFrame_poolTakes _ htakes).trans ((hresv _ _ _ _).trans (ih _)))

theorem poolFrame_poolGive (s : State) (n r b : Nat) : PoolFrame n s (s.poolGive n r b) := by
  unfold State.poolGive
  exact (poolFrame_setPool s n _).trans ((poolFrame_bitmapByte _ n b).trans (poolFrame_serveWaiting n _ _))

/-- The pool once a requester has given buffer `b` back, which a quarantined one does not enter the free store. -/
def Pool.returned (p : Pool) (r b : Nat) : Pool :=
  { p with bitmap := Tab.set false p.bitmap b false, held := Tab.upd 0 p.held r (· - 1)
           freed := if Tab.get false p.quar b then p.freed else p.freed ++ [b]
           cached := if Tab.get false p.quar b then p.cached else p.cached + 1 }

theorem State.poolGive_eq (s : State) (n r b : Nat) :
    s.poolGive n r b =
      ((s.setPool n ((s.pool n).returned r b)).bitmapByte n b).serveWaiting n (s.pool n).waiting.length := rfl

/-- A buffer comes back to a pool that no request waits for: it is free, its requester holds one less, and its bit is written. -/
theorem State.poolGive_gives {s : State} {n : Nat} (r b : Nat) (hnone : (s.pool n).waiting = []) :
    Tab.get false ((s.poolGive n r b).pool n).bitmap b = false ∧
      Tab.get 0 ((s.poolGive n r b).pool n).held r = Tab.get 0 (s.pool n).held r - 1 ∧ BitWritten s (s.poolGive n r b) n b false ∧
      ((s.poolGive n r b).pool n).waiting = [] := by
  have hgive : s.poolGive n r b = (s.setPool n ((s.pool n).returned r b)).bitmapByte n b := by
    rw [State.poolGive_eq, hnone]
    rfl
  have hbitmap : Tab.get false ((s.pool n).returned r b).bitmap b = false :=
    Tab.get_set_same false (s.pool n).bitmap b false
  obtain ⟨hpool, hbit⟩ := s.setPool_bitmapByte n b ((s.pool n).returned r b)
  rw [hgive, hpool]
  exact ⟨hbitmap, Tab.get_set_same 0 (s.pool n).held r (Tab.get 0 (s.pool n).held r - 1), hbitmap ▸ hbit, hnone⟩

/-! ### ALLOC and FREE (R377) -/

/-- The checks of ALLOC (R377): those it shares with FREE, then the quota and a buffer free. -/
def State.allocChecks (s : State) : List (Bool × Byte) :=
  s.mbChecks ++ [(!s.underQuota s.mbPool s.mbReq 1 || (s.poolTake s.mbPool s.mbReq none).isNone, codeQuota)]

/-- The checks of FREE (R377): those it shares with ALLOC, then a buffer held and the pointer's check of R235. -/
def State.freeChecks (s : State) : List (Bool × Byte) :=
  s.mbChecks ++ [(decide (Tab.get 0 (s.pool s.mbPool).held s.mbReq = 0), codeOffside),
    (decide (s.freeCode s.mbPool s.mbAddr ≠ codeOk), s.freeCode s.mbPool s.mbAddr)]

theorem State.lowest_allocChecks (s : State) :
    lowest s.allocChecks = if !s.mbReady then some codeOffside else if !s.mbGeneral then some codeBounds
      else if !s.underQuota s.mbPool s.mbReq 1 || ((s.pool s.mbPool).next (s.poolCount s.mbPool)).isNone then some codeQuota
      else none := by
  unfold State.allocChecks
  rw [State.mbChecks_eq, State.poolTake_isNone]
  exact lowest_alloc_checks _ _ _

theorem State.lowest_freeChecks (s : State) :
    lowest s.freeChecks = if !s.mbReady || decide (Tab.get 0 (s.pool s.mbPool).held s.mbReq = 0) then some codeOffside
      else if !s.mbGeneral then some (if s.freeCode s.mbPool s.mbAddr = codeOffside then codeOffside else codeBounds)
      else if s.freeCode s.mbPool s.mbAddr = codeOk then none else some (s.freeCode s.mbPool s.mbAddr) := by
  unfold State.freeChecks
  rw [State.mbChecks_eq]
  exact lowest_free_checks _ _ _ (s.freeCode_mem _ _)

theorem Noted.lowest_allocChecks {s t : State} (h : Noted s t) : lowest t.allocChecks = lowest s.allocChecks := by
  simp only [State.lowest_allocChecks, h.mbReady, h.mbGeneral, h.mbPool, h.mbReq, h.underQuota, h.pool, h.poolCount]

theorem Noted.lowest_freeChecks {s t : State} (h : Noted s t) : lowest t.freeChecks = lowest s.freeChecks := by
  simp only [State.lowest_freeChecks, h.mbReady, h.mbGeneral, h.mbPool, h.mbReq, h.mbAddr, h.freeCode, h.pool]

theorem State.mbAlloc_refused {s : State} {k : Byte} (h : lowest s.allocChecks = some k) : s.mbAlloc = (k, s) := by
  unfold State.allocChecks at h
  unfold State.mbAlloc
  simp only [h]

/-- The address of a buffer stands in the two words of the answer (R376). -/
def State.mbAnswered (s : State) (a : Nat) : State := (s.setReg 0x3014 (loOf a)).setReg 0x3018 (word (a / 2 ^ 32 % 65536))

@[simp] theorem State.mbAnswered_mem (s : State) (a : Nat) : (s.mbAnswered a).mem = s.mem := rfl
@[simp] theorem State.mbAnswered_ctxs (s : State) (a : Nat) : (s.mbAnswered a).ctxs = s.ctxs := rfl
@[simp] theorem State.mbAnswered_pool (s : State) (a n : Nat) : (s.mbAnswered a).pool n = s.pool n := rfl

theorem State.mbAnswered_words (s : State) (a : Nat) :
    ((s.mbAnswered a).reg 0x3014).toNat + 2 ^ 32 * ((s.mbAnswered a).reg 0x3018).toNat = a % 2 ^ 48 := by
  unfold State.mbAnswered
  rw [State.setReg_reg_same, State.setReg_reg_other _ _ (by decide), State.setReg_reg_same, loOf, word, word, BitVec.toNat_ofNat,
    BitVec.toNat_ofNat]
  omega

theorem State.mbAlloc_takes {s t : State} {b : Nat} (h : lowest s.allocChecks = none)
    (htake : s.poolTake s.mbPool s.mbReq none = some (b, t)) : s.mbAlloc = (codeOk, t.mbAnswered (t.bufAddr s.mbPool b)) := by
  unfold State.allocChecks at h
  unfold State.mbAlloc
  dsimp only
  rw [h, htake]
  rfl

/-- A FREE that a check refuses changes nothing; one that every check lets pass gives the buffer at its address back, and requests
that still wait are served. The operation is unfolded as a function and its address is given a name, since the kernel must not compute
with the address's factor 2^32. -/
theorem State.mbFree_does (s : State) : (∀ k, lowest s.freeChecks = some k → s.mbFree = (k, s)) ∧
    (lowest s.freeChecks = none → ∀ t,
      t = s.poolGive s.mbPool s.mbReq ((s.mbAddr - s.poolBase s.mbPool) / s.bufBytes s.mbPool) →
      s.mbFree = (codeOk, t.serveWaiting s.mbPool (t.pool s.mbPool).waiting.length)) := by
  unfold State.freeChecks State.mbAddr
  generalize hfree : State.mbFree = free
  delta State.mbFree at hfree
  subst hfree
  beta_reduce
  generalize s.mbArg 1 + bitsOf (s.mbArg 2) 15 0 * 2 ^ 32 = a
  exact ⟨fun k h => by simp only [h], fun h t ht => by simp only [h, ht]⟩

/-! ### A mailbox command's buffer, seen from the state before it -/

theorem PoolFrame.fld {n : Nat} {s t : State} (h : PoolFrame n s t) (o hi lo : Nat) : t.fld o hi lo = s.fld o hi lo := by
  rw [h.frame]
  rfl

theorem PoolFrame.ctxs {n : Nat} {s t : State} (h : PoolFrame n s t) : t.ctxs = s.ctxs := by
  rw [h.frame]

theorem PoolFrame.bufAddr {n : Nat} {s t : State} (h : PoolFrame n s t) (m b : Nat) : t.bufAddr m b = s.bufAddr m b := by
  simp only [State.bufAddr, State.poolBase, State.bufBytes, h.fld]

theorem Noted.bufAddr {s t : State} (h : Noted s t) (n b : Nat) : t.bufAddr n b = s.bufAddr n b := by
  simp only [State.bufAddr, h.poolBase, h.bufBytes]

/-- A bit written after a noted write is written as seen from the state before it, in whatever state has the memory. -/
theorem Noted.bitWritten {s v u t : State} {n b : Nat} {on : Bool} (h : Noted s v) (hbit : BitWritten v u n b on)
    (hmem : t.mem = u.mem) : BitWritten s t n b on := by
  have hbyte (a : Nat) : t.byte a = u.byte a := congrArg (fun m => Tab.get 0#8 m a) hmem
  obtain ⟨hon, hother⟩ := hbit
  rw [h.poolRing, h.poolCount] at hon hother
  exact ⟨by rw [hbyte, hon], fun a ha => by rw [hbyte, hother a ha, h.byte]⟩

/-- ALLOC that every check lets pass (R377). -/
theorem mbAlloc_completes {s : State} {b : Nat} {p : Pool} (hready : HostReady s 0x3000) (hpool : s.mbReady = true)
    (hgeneral : s.mbGeneral = true) (hquota : s.underQuota s.mbPool s.mbReq 1 = true)
    (hnext : (s.pool s.mbPool).next (s.poolCount s.mbPool) = some (b, p)) :
    ∃ t, exec .mbAlloc s = .next t ∧ WriteCode t 0x3000 codeOk ∧ t.reg 0x301C = BitVec.ofNat 32 (2 * 65536) ∧
      (t.reg 0x3014).toNat + 2 ^ 32 * (t.reg 0x3018).toNat = s.bufAddr s.mbPool b % 2 ^ 48 ∧
      Tab.get false (t.pool s.mbPool).bitmap b = true ∧
      Tab.get 0 (t.pool s.mbPool).held s.mbReq = Tab.get 0 (s.pool s.mbPool).held s.mbReq + 1 ∧
      BitWritten s t s.mbPool b true ∧ (∀ m, m ≠ s.mbPool → t.pool m = s.pool m) ∧ t.ctxs = s.ctxs := by
  obtain ⟨v, hnoted, hruns⟩ := State.mbGo_runs (op := 2) hready (by decide)
  have hchecks : lowest v.allocChecks = none := by
    rw [hnoted.lowest_allocChecks, State.lowest_allocChecks, hpool, hgeneral, hquota, hnext]
    rfl
  rw [← hnoted.pool, ← hnoted.poolCount] at hnext
  obtain ⟨w, htake, hbitmap, hheld, hbit⟩ := State.poolTake_takes s.mbReq none hnext
  have hframe := poolFrame_poolTake htake
  rw [hnoted.pool] at hheld
  rw [← hnoted.mbPool, ← hnoted.mbReq] at htake
  have halloc := State.mbAlloc_takes hchecks htake
  rw [hnoted.mbPool, hframe.bufAddr, hnoted.bufAddr] at halloc
  obtain ⟨t, hgo, hends⟩ := hruns _ _ (v.mbOp_alloc.trans halloc)
  have hsame (m : Nat) := (hends.pool m).trans (w.mbAnswered_pool _ m)
  refine ⟨t, exec_mbAlloc hgo, hends.code, hends.status, ?_, hsame s.mbPool ▸ hbitmap, hsame s.mbPool ▸ hheld,
    hnoted.bitWritten hbit (hends.mem.trans (w.mbAnswered_mem _)),
    fun m hm => (hsame m).trans ((hframe.other m hm).trans (hnoted.pool m)),
    hends.ctxs.trans ((w.mbAnswered_ctxs _).trans (hframe.ctxs.trans hnoted.ctxs))⟩
  rw [hends.reg 0x3014 (by decide) (by decide) (by decide), hends.reg 0x3018 (by decide) (by decide) (by decide)]
  exact w.mbAnswered_words _

/-- FREE of an allocated buffer that every check lets pass (R377). -/
theorem mbFree_completes {s : State} {b : Nat} (hready : HostReady s 0x3000) (hpool : s.mbReady = true)
    (hgeneral : s.mbGeneral = true) (hholds : 0 < Tab.get 0 (s.pool s.mbPool).held s.mbReq) (hb : b < s.poolCount s.mbPool)
    (hset : Tab.get false (s.pool s.mbPool).bitmap b = true) (haddr : s.mbAddr = s.bufAddr s.mbPool b) :
    ∃ t, exec .mbFree s = .next t ∧ WriteCode t 0x3000 codeOk ∧ t.reg 0x301C = BitVec.ofNat 32 (3 * 65536) ∧
      t.ctxs = s.ctxs ∧ (∀ m, m ≠ s.mbPool → t.pool m = s.pool m) ∧ ((s.pool s.mbPool).waiting = [] →
        Tab.get false (t.pool s.mbPool).bitmap b = false ∧
        Tab.get 0 (t.pool s.mbPool).held s.mbReq = Tab.get 0 (s.pool s.mbPool).held s.mbReq - 1 ∧
        BitWritten s t s.mbPool b false) := by
  obtain ⟨v, hnoted, hruns⟩ := State.mbGo_runs (op := 3) hready (by decide)
  obtain ⟨hpass, hdiv⟩ := State.freeCode_allocated hb hset
  have hchecks : lowest v.freeChecks = none := by
    rw [hnoted.lowest_freeChecks, State.lowest_freeChecks, hpool, hgeneral, haddr, hpass, decide_eq_false hholds.ne']
    rfl
  obtain ⟨-, hgives⟩ := v.mbFree_does
  have hfree := hgives hchecks _ rfl
  rw [hnoted.mbPool, hnoted.mbReq, hnoted.mbAddr, hnoted.poolBase, hnoted.bufBytes, haddr, hdiv] at hfree
  obtain ⟨t, hgo, hends⟩ := hruns _ _ (v.mbOp_free.trans hfree)
  have hframe := (poolFrame_poolGive v s.mbPool s.mbReq b).trans
    (poolFrame_serveWaiting s.mbPool ((v.poolGive s.mbPool s.mbReq b).pool s.mbPool).waiting.length _)
  refine ⟨t, exec_mbFree hgo, hends.code, hends.status, hends.ctxs.trans (hframe.ctxs.trans hnoted.ctxs),
    fun m hm => (hends.pool m).trans ((hframe.other m hm).trans (hnoted.pool m)), fun hnone => ?_⟩
  rw [← hnoted.pool] at hnone
  obtain ⟨hbitmap, hheld, hbit, hstill⟩ := State.poolGive_gives s.mbReq b hnone
  rw [hstill] at hends
  have hsame := hends.pool s.mbPool
  rw [hnoted.pool] at hheld
  exact ⟨hsame ▸ hbitmap, hsame ▸ hheld, hnoted.bitWritten hbit hends.mem⟩

/-! ### Refusals (R377) -/

/-- ALLOC or FREE that ends with a code and no effect: the code stands in the status, and no pool changes. -/
theorem MailboxEnds.refused {s v t : State} {op : Nat} {k : Byte} (hnoted : Noted s v) (h : MailboxEnds op k v t) :
    WriteCode t 0x3000 codeOk ∧ t.reg 0x301C = BitVec.ofNat 32 (k.toNat + op * 65536) ∧
      t.fld 0x2800 6 6 = 1 ∧ t.pools = s.pools ∧ t.mem = s.mem ∧ t.ctxs = s.ctxs :=
  ⟨h.code, h.status, h.interrupt, h.pools.trans hnoted.pools, h.mem.trans hnoted.mem, h.ctxs.trans hnoted.ctxs⟩

theorem State.lowest_allocChecks_refused {s : State} {k : Byte}
    (h : s.mbReady = false ∧ k = codeOffside ∨ s.mbReady = true ∧ s.mbGeneral = false ∧ k = codeBounds ∨
      s.mbReady = true ∧ s.mbGeneral = true ∧ k = codeQuota ∧
        (s.underQuota s.mbPool s.mbReq 1 = false ∨ (s.pool s.mbPool).next (s.poolCount s.mbPool) = none)) :
    lowest s.allocChecks = some k := by
  rw [State.lowest_allocChecks]
  rcases h with ⟨hready, rfl⟩ | ⟨hready, hgeneral, rfl⟩ | ⟨hready, hgeneral, rfl, hfull⟩
  · simp [hready]
  · simp [hready, hgeneral]
  · rcases hfull with hfull | hfull <;> simp [hready, hgeneral, hfull]

theorem State.lowest_freeChecks_refused {s : State} {k : Byte}
    (h : k = codeOffside ∧ (s.mbReady = false ∨ Tab.get 0 (s.pool s.mbPool).held s.mbReq = 0) ∨
      s.mbReady = true ∧ 0 < Tab.get 0 (s.pool s.mbPool).held s.mbReq ∧ ∀ e, e = s.freeCode s.mbPool s.mbAddr →
        k = (if s.mbGeneral = true then e else if e = codeOffside then codeOffside else codeBounds) ∧ k ≠ codeOk) :
    lowest s.freeChecks = some k := by
  rw [State.lowest_freeChecks]
  rcases h with ⟨rfl, hcause⟩ | ⟨hready, hholds, hcode⟩
  · rcases hcause with hcause | hcause <;> simp [hcause]
  · obtain ⟨hk, hne⟩ := hcode _ rfl
    cases hgeneral : s.mbGeneral with
    | false =>
      rw [hgeneral] at hk
      simp [hready, hholds.ne', hk]
    | true =>
      rw [hgeneral, if_pos rfl] at hk
      rw [hk] at hne
      simp [hready, hholds.ne', hk, hne]

theorem mbAlloc_refused {s : State} {k : Byte} (hready : HostReady s 0x3000) (h : lowest s.allocChecks = some k) :
    ∃ t, exec .mbAlloc s = .next t ∧ WriteCode t 0x3000 codeOk ∧ t.reg 0x301C = BitVec.ofNat 32 (k.toNat + 2 * 65536) ∧
      t.fld 0x2800 6 6 = 1 ∧ t.pools = s.pools ∧ t.mem = s.mem ∧ t.ctxs = s.ctxs := by
  obtain ⟨v, hnoted, hruns⟩ := State.mbGo_runs (op := 2) hready (by decide)
  rw [← hnoted.lowest_allocChecks] at h
  obtain ⟨t, hgo, hends⟩ := hruns _ _ (v.mbOp_alloc.trans (State.mbAlloc_refused h))
  exact ⟨t, exec_mbAlloc hgo, hends.refused hnoted⟩

theorem mbFree_refused {s : State} {k : Byte} (hready : HostReady s 0x3000) (h : lowest s.freeChecks = some k) :
    ∃ t, exec .mbFree s = .next t ∧ WriteCode t 0x3000 codeOk ∧ t.reg 0x301C = BitVec.ofNat 32 (k.toNat + 3 * 65536) ∧
      t.fld 0x2800 6 6 = 1 ∧ t.pools = s.pools ∧ t.mem = s.mem ∧ t.ctxs = s.ctxs := by
  obtain ⟨v, hnoted, hruns⟩ := State.mbGo_runs (op := 3) hready (by decide)
  obtain ⟨hrefuses, -⟩ := v.mbFree_does
  rw [← hnoted.lowest_freeChecks] at h
  obtain ⟨t, hgo, hends⟩ := hruns _ _ (v.mbOp_free.trans (hrefuses k h))
  exact ⟨t, exec_mbFree hgo, hends.refused hnoted⟩

/-! ### The statement -/

theorem mbReady_and_mbGeneral {s : State} (hreq : 16 ≤ s.mbReq) (hen : s.poolEn s.mbPool = true)
    (hready : (s.pool s.mbPool).ready = true) (hclass : s.poolClass s.mbPool = 0) : s.mbReady = true ∧ s.mbGeneral = true := by
  unfold State.mbReady State.mbGeneral
  rw [hen, hready, decide_eq_true hreq, decide_eq_true hclass]
  exact ⟨rfl, rfl⟩

/-- Settles O30: a mailbox command is the live write of its register, its operation, and the code in the status; ALLOC and FREE are
judged by the lowest of their checks, and a buffer that is taken or given back has its bit written. -/
theorem mailbox : Obligations.Mailbox := by
  refine ⟨fun s i k hready hrow => ?_, fun s n r hready hn hr hreq hen hpool hclass => ?_,
    fun s n r i op k ready general hready hn hr hrdy hgen hrow => ?_, fun s n a b z hb hz => ?_⟩
  · rcases hrow with ⟨rfl, rfl⟩ | ⟨rfl, rfl⟩
    · obtain ⟨t, hexec, hcode, hstatus, hint, hadds, hctxs, hmem⟩ := mbSignal_completes hready
      exact ⟨t, hexec, hcode, hstatus, hint, nofun, fun _ => hadds, hctxs, hmem⟩
    · obtain ⟨t, hexec, hcode, hstatus, hint, hanswer, hctxs, hmem⟩ := mbPing_completes hready
      exact ⟨t, hexec, hcode, hstatus, hint, fun _ => hanswer, nofun, hctxs, hmem⟩
  · subst hn hr
    obtain ⟨hrdy, hgen⟩ := mbReady_and_mbGeneral hreq hen hpool hclass
    constructor
    · intro b p hquota hnext
      obtain ⟨t, hexec, hcode, hstatus, haddr, hbitmap, hheld, ⟨hon, hother⟩, hpools, hctxs⟩ :=
        mbAlloc_completes hready hrdy hgen hquota hnext
      exact ⟨t, hexec, hcode, hstatus, haddr, hbitmap, hheld, hon, hother, hpools, hctxs⟩
    · intro b hholds hb hset haddr
      exact mbFree_completes hready hrdy hgen hholds hb hset (s.mbAddr_eq.trans haddr)
  · subst hn hr hrdy hgen
    rw [← s.mbAddr_eq] at hrow
    rcases hrow with ⟨rfl, rfl, hcause⟩ | ⟨rfl, rfl, hcause⟩
    · exact mbAlloc_refused hready (State.lowest_allocChecks_refused hcause)
    · exact mbFree_refused hready (State.lowest_freeChecks_refused hcause)
  · subst hb hz
    exact s.freeCode_cases n a

end Sys2Proof.Machine
end

section
/-! PROOF. Arithmetic, contexts' records, branches and traps (R34, R45, R56, R57, R65), and what an instruction that the journal
notes leaves (R356). -/

namespace Sys2Proof.Machine

open Safety

/-! ### Values (R65) -/

/-- Operand B, as an integer modulo 2^64, is the word that the model adds up. -/
theorem operandB_eq (x : Context) (f : Fields) : operandB x f = (opndB x f).toNat := by
  have hmod : ((2 ^ 64 : Nat) : Int) = 2 ^ 64 := rfl
  unfold operandB opndB immI
  rw [BitVec.toNat_add, BitVec.signExtend, BitVec.toNat_ofInt, hmod]
  omega

theorem ofNat_signExtended (v : Word) : BitVec.ofNat 64 (v.toInt % 2 ^ 64).toNat = v.signExtend 64 := by
  have hmod : ((2 ^ 64 : Nat) : Int) = 2 ^ 64 := rfl
  refine BitVec.eq_of_toNat_eq ?_
  rw [BitVec.toNat_ofNat, BitVec.signExtend, BitVec.toNat_ofInt, hmod]
  omega

/-- An immediate above the low word of a register. -/
theorem ofNat_high_low (v : Word) (x : DWord) :
    BitVec.ofNat 64 (x.toNat % 2 ^ 32 + v.toNat * 2 ^ 32) = v ++ x.extractLsb' 0 32 := by
  refine BitVec.eq_of_toNat_eq ?_
  have hv := v.isLt
  rw [BitVec.toNat_ofNat, BitVec.toNat_append, BitVec.extractLsb'_toNat, Nat.shiftRight_zero, Nat.shiftLeft_eq,
    Nat.mul_comm, ← Nat.two_pow_add_eq_or_of_lt (Nat.mod_lt _ (by decide))]
  omega

/-- The word that an arithmetic instruction writes to xD. -/
def arithWord (x : Context) : Instr → DWord
  | .li _ f => immI f
  | .lui _ f => f.imm ++ (x.xr f.dst).extractLsb' 0 32
  | .add _ f => x.xr f.srcA + opndB x f
  | .sub _ f => x.xr f.srcA - opndB x f
  | .and _ f => x.xr f.srcA &&& opndB x f
  | .or _ f => x.xr f.srcA ||| opndB x f
  | .xor _ f => x.xr f.srcA ^^^ opndB x f
  | .shl _ f => x.xr f.srcA <<< ((opndB x f).toNat % 64)
  | .shr _ f => x.xr f.srcA >>> ((opndB x f).toNat % 64)
  | .mul _ f => x.xr f.srcA * opndB x f
  | .min _ f => if (x.xr f.srcA).slt (opndB x f) then x.xr f.srcA else opndB x f
  | .max _ f => if (opndB x f).slt (x.xr f.srcA) then x.xr f.srcA else opndB x f
  | _ => 0

/-- The integers of R65 are the words of the model. -/
theorem ofNat_arithValue {x : Context} {i : Instr} {c : Ctx} {f : Fields} {v : Nat} (h : arithValue x i = some (c, f, v)) :
    BitVec.ofNat 64 v = arithWord x i := by
  unfold arithValue at h
  split at h
  case h_13 => cases h
  all_goals
    cases h
    simp only [arithWord, operandB_eq, signed_toNat]
  · exact ofNat_signExtended _
  · exact ofNat_high_low _ _
  case h_11 | h_12 => split <;> simp_all [BitVec.slt]
  case h_9 => rw [← Nat.shiftRight_eq_div_pow, ← BitVec.toNat_ushiftRight, BitVec.ofNat_toNat, BitVec.setWidth_eq]
  all_goals
    refine BitVec.eq_of_toNat_eq ?_
    simp [BitVec.toNat_sub, Nat.shiftLeft_eq, Nat.add_comm]

/-- An arithmetic instruction that issues writes its word to xD and ends with OK. -/
theorem exec_arith {s : State} {i : Instr} {c : Ctx} {f : Fields} {v : Nat} (h : arithValue (s.ctx c) i = some (c, f, v))
    (hi : Issues s c i) : exec i s = .next ((s.noteIssue c).retireX c f.dst (arithWord (s.ctx c) i)) := by
  unfold arithValue at h
  split at h
  case h_13 => cases h
  all_goals
    cases h
    exact congrArg Host.Outcome.next (State.control_next _ _ _ _ (Issues_canIssue hi rfl))

/-- A control instruction that ends with OK and writes a register. -/
theorem retireX_controlFrame (s : State) (c : Ctx) (r : Reg) (v : DWord) :
    ControlFrame c s ((s.noteIssue c).retireX c r v) ∧
      ((s.noteIssue c).retireX c r v).ctx c = (((s.ctx c).setX r v).record codeOk (s.ctx c).pc).after (s.ctx c).pc := by
  obtain ⟨hctx, hother, heq⟩ := State.retireX_does (s.noteIssue c) c r v
  exact ⟨controlFrame_of_ctxs (noteIssue_controlFrame s c) heq hother, hctx⟩

/-- Settles O8: the word that a row writes is the integer of R65, and the instruction ends with OK within the frame of the control
class. -/
theorem arithmeticResults : Obligations.ArithmeticResults := by
  intro s i c f v hv hi
  obtain ⟨hframe, hctx⟩ := retireX_controlFrame s c f.dst (arithWord (s.ctx c) i)
  exact ⟨_, exec_arith hv hi, hframe, by rw [hctx, ofNat_arithValue hv]⟩

/-! ### Registers and codes of a context (R34, R56) -/

/-- The registers read by their table alone. -/
theorem Context.xr_congr {x y : Context} (h : x.x = y.x) (r : Reg) : x.xr r = y.xr r := by
  unfold Context.xr
  rw [h]

/-- The codes that a record leaves (R56). -/
theorem Context.record_codes (x : Context) (k : Byte) (pc : Nat) :
    (k ≠ codeOk ∧ x.first = 0 → (x.record k pc).first = k ∧ (x.record k pc).firstPc = pc) ∧
    (k = codeOk ∨ x.first ≠ 0 → (x.record k pc).first = x.first ∧ (x.record k pc).firstPc = x.firstPc) := by
  unfold Context.record
  constructor
  · intro h
    split
    · exact ⟨rfl, rfl⟩
    · next hn => exact absurd h hn
  · intro h
    split
    · next hp => exact absurd hp fun hp => h.elim hp.1 fun hne => hne hp.2
    · exact ⟨rfl, rfl⟩

@[simp] theorem Context.record_xr (x : Context) (k : Byte) (pc : Nat) (r : Reg) : (x.record k pc).xr r = x.xr r := by
  obtain ⟨-, -, -, -, hx, -⟩ := Context.record_does x k pc
  exact Context.xr_congr hx r

@[simp] theorem Context.record_last (x : Context) (k : Byte) (pc : Nat) : (x.record k pc).last = k := (Context.record_does x k pc).1

/-- Settles O9: registers read as written, and a record is LAST, and FIRST when it is the first code that is not OK. -/
theorem contextRecords : Obligations.ContextRecords := by
  refine ⟨fun x r q v => ⟨Context.xr_zero x, Context.setX_zero x v, fun h => Context.setX_xr_same x v h,
    fun h => Context.setX_xr_other x v h⟩, fun x k pc => ?_⟩
  obtain ⟨hlast, hpc, hst, -⟩ := Context.record_does x k pc
  obtain ⟨hfirst, hkeep⟩ := Context.record_codes x k pc
  exact ⟨hlast, hfirst, hkeep, fun r => Context.record_xr x k pc r, hpc, hst⟩

/-! ### Branches (R45) -/

/-- The context after a taken branch to a target in the store. -/
def Context.branched (x : Context) (n : Nat) : Context :=
  { x.record codeOk x.pc with
    pc := n, loops := (x.record codeOk x.pc).loops.dropWhile fun l => decide (n < l.first) || decide (l.first + 8 * l.body ≤ n) }

theorem State.branch_eq_setCtx {s : State} {c : Nat} {n : Int} (h0 : 0 ≤ n) (h1 : n < 0x400000) :
    s.branch c n = s.setCtx c ((s.ctx c).branched n.toNat) := by
  have hin : ¬ (n < 0 ∨ (psBytes : Int) ≤ n) := by
    unfold psBytes
    omega
  unfold State.branch
  rw [if_neg hin]
  rfl

theorem State.branch_eq_trapAlways {s : State} {c : Ctx} {n : Int} (h : n < 0 ∨ 0x400000 ≤ n) :
    s.branch c n = s.trapAlways c codeOffside := if_pos h

/-- A trap whatever the setting of TRAPEN, and what it leaves. -/
theorem State.trapAlways_frame (s : State) (c : Ctx) (k : Byte) :
    (∀ d, d ≠ c.val → (s.trapAlways c k).ctx d = s.ctx d) ∧ (s.trapAlways c k).fld 0x2800 2 2 = 1 ∧
    (∀ o, o ≠ 0x2800 → (s.trapAlways c k).reg o = s.reg o) ∧
    s.trapAlways c k = { s with ctxs := (s.trapAlways c k).ctxs, regs := (s.trapAlways c k).regs } := by
  obtain ⟨-, hother, hint, hreg, heq⟩ := State.trap_does (s.setCtx c ((s.ctx c).record k (s.ctx c).pc)) c (s.ctx c).pc true
  exact ⟨fun d hd => (hother d hd).trans (State.setCtx_ctx_other _ _ hd), hint, hreg, heq⟩

/-- A branch that is taken, to a target in the store. -/
theorem branch_inStore_completes {s : State} {c : Ctx} {n : Int} (h0 : 0 ≤ n) (h1 : n < 0x400000)
    (hrun : (s.ctx c).st = .running) : ∃ t, (s.noteIssue c).branch c n = t ∧ ControlFrame c s t ∧ (t.ctx c).pc = n.toNat ∧
      (t.ctx c).loops = ((s.ctx c).loops.dropWhile fun l =>
        decide ((t.ctx c).pc < l.first) || decide (l.first + 8 * l.body ≤ (t.ctx c).pc)) ∧
      (t.ctx c).last = codeOk ∧ (t.ctx c).st = .running ∧ ∀ r, (t.ctx c).xr r = (s.ctx c).xr r := by
  obtain ⟨hframe, hctx⟩ := setCtx_controlFrame s c ((s.ctx c).branched n.toNat)
  obtain ⟨hlast, -, hst, hloops, hx, -⟩ := Context.record_does (s.ctx c) codeOk (s.ctx c).pc
  refine ⟨_, State.branch_eq_setCtx h0 h1, ?_⟩
  rw [State.noteIssue_ctx, hctx]
  exact ⟨hframe, rfl, by rw [← hloops]; rfl, hlast, hst.trans hrun, Context.xr_congr hx⟩

/-- A branch that is taken, to a target outside the store: the precise trap of R45. -/
theorem branch_outside_traps {s : State} {c : Ctx} {n : Int} (h : n < 0 ∨ 0x400000 ≤ n) :
    ∃ t, (s.noteIssue c).branch c n = t ∧
      (t.ctx c).st = .trapped ∧ (t.ctx c).precise = true ∧ (t.ctx c).pc = (s.ctx c).pc ∧ (t.ctx c).last = codeOffside ∧
      ((s.ctx c).first = 0 → (t.ctx c).first = codeOffside ∧ (t.ctx c).firstPc = (s.ctx c).pc) ∧
      (∀ r, (t.ctx c).xr r = (s.ctx c).xr r) ∧ t.fld 0x2800 2 2 = 1 ∧
      t = { s with ctxs := t.ctxs, regs := t.regs, icache := t.icache, lastIssue := t.lastIssue, stood := t.stood, slow := t.slow } ∧
      (∀ d, d ≠ c.val → t.ctx d = s.ctx d) ∧ (∀ o, o ≠ issueCount c → o ≠ 0x2800 → t.reg o = s.reg o) := by
  obtain ⟨hctx, -⟩ := State.trapAlways_does (s.noteIssue c) c codeOffside
  obtain ⟨hother, hint, hreg, heq⟩ := State.trapAlways_frame (s.noteIssue c) c codeOffside
  obtain ⟨hfirst, -⟩ := Context.record_codes (s.ctx c) codeOffside (s.ctx c).pc
  refine ⟨_, State.branch_eq_trapAlways h, ?_⟩
  rw [hctx, State.noteIssue_ctx]
  refine ⟨rfl, rfl, rfl, Context.record_last _ _ _, fun h0 => hfirst ⟨by decide, h0⟩, Context.record_xr _ _ _, hint, ?_, hother,
    fun o ho ho' => (hreg o ho').trans (State.noteIssue_reg_other s c ho)⟩
  rw [heq]
  rfl

/-- Settles O10: a branch that issues is taken or ends with OK, and a taken one goes to its target or traps as its target lies in the
store or not (R45). -/
theorem branches : Obligations.Branches := by
  refine ⟨fun s i c f b hb hi htarget => ?_, fun s i c f hb hi htarget => ?_⟩
  · have hexec := exec_branch hb hi
    cases b with
    | false =>
      obtain ⟨hframe, hctx⟩ := retire_controlFrame (s := s) (c := c) (State.trapOn_ok s c)
      exact ⟨_, hexec, hframe, fun _ => hctx, nofun⟩
    | true =>
      obtain ⟨h0, h1⟩ := htarget rfl
      obtain ⟨t, ht, hframe, hdoes⟩ := branch_inStore_completes h0 h1 hi.running
      exact ⟨t, hexec.trans (congrArg _ ht), hframe, nofun, fun _ => hdoes⟩
  · obtain ⟨t, ht, hdoes⟩ := branch_outside_traps htarget
    exact ⟨t, (exec_branch hb hi).trans (congrArg _ ht), hdoes⟩

/-! ### Traps on a code (R57) -/

/-- Settles O13: `State.retire` traps by `State.retire_traps` and goes on by `State.retire_goes_on`. -/
theorem localTraps : Obligations.LocalTraps := by
  intro s c k
  refine ⟨fun h => ?_, fun h => (State.retire_goes_on s c k h).1, State.trapOn_fault s c, State.trapOn_ok s c, fun d hd => ?_⟩
  · obtain ⟨hctx, -, hint, -⟩ := State.retire_traps s c k h
    obtain ⟨hlast, -, -, hloops, hx, -⟩ := Context.record_does (s.ctx c) k (s.ctx c).pc
    rw [hctx]
    exact ⟨rfl, rfl, rfl, hlast, hloops, Context.xr_congr hx, hint⟩
  · cases h : s.trapOn c k with
    | false => exact (State.retire_goes_on s c k h).2.1 d hd
    | true => exact (State.retire_traps s c k h).2.1 d hd

end Sys2Proof.Machine
end

section
/-! PROOF. Local instructions: what one that the journal notes leaves (R356), and NOP, END, STAT and SYSR (R45, R65, R66). -/

namespace Sys2Proof.Machine

open Safety

/-! ### The state in which an issue is noted -/

theorem issueCount_range (c : Ctx) : 0x010404 ≤ issueCount c ∧ issueCount c < 0x020000 := by
  unfold issueCount
  omega

theorem State.noteIssue_reg (s : State) (c : Ctx) {o : Nat} (h : o < 0x010000 ∨ 0x020000 ≤ o) :
    (s.noteIssue c).reg o = s.reg o := by
  have := issueCount_range c
  exact State.noteIssue_reg_other s c (by omega)

@[simp] theorem State.noteIssue_fld (s : State) (c : Ctx) {o : Nat} (h : o < 0x010000 ∨ 0x020000 ≤ o) (hi lo : Nat) :
    (s.noteIssue c).fld o hi lo = s.fld o hi lo := by
  unfold State.fld
  rw [State.noteIssue_reg s c h]

@[simp] theorem State.noteIssue_obj (s : State) (c : Ctx) (n : Nat) : (s.noteIssue c).obj n = s.obj n := rfl
@[simp] theorem State.noteIssue_slot (s : State) (c : Ctx) (n : Nat) : (s.noteIssue c).slot n = s.slot n := rfl
@[simp] theorem State.noteIssue_outstanding (s : State) (c : Ctx) (d : Nat) : (s.noteIssue c).outstanding d = s.outstanding d := rfl
@[simp] theorem State.noteIssue_remoteOpen (s : State) (c : Ctx) (d : Nat) : (s.noteIssue c).remoteOpen d = s.remoteOpen d := rfl

/-! ### Instructions that the journal notes (R356) -/

/-- A local instruction outside the control class has its effect on the state with the issue noted; beside it only the journal of its
context changes. -/
theorem localOp_does {s u : State} {c : Ctx} {i : Instr} {op : Nat} {d : Ctx} {f g : Fields} (idx : List Nat) (w : Bool)
    {body : State → State} (hi : Issues s c i) (hop : opcodeOf i = some (op, d, g)) (hj : Journals s c)
    (hu : body (s.noteIssue c) = u) (href : u.ref = s.ref) :
    ∃ t, s.localOp c i f idx w body = t ∧ (∀ d, d ≠ c.val → t.journal d = s.journal d) ∧
      t = { u with ref := { s.ref with journal := t.ref.journal, jpos := t.ref.jpos } } := by
  subst hu
  exact State.localOp_next s c i f idx w body (Issues_canIssue hi hop) hj href

/-- An instruction that changes its own context alone. -/
theorem localOp_journalFrame {s u : State} {c : Ctx} {i : Instr} {op : Nat} {d : Ctx} {f g : Fields} (idx : List Nat) (w : Bool)
    {body : State → State} (hi : Issues s c i) (hop : opcodeOf i = some (op, d, g)) (hj : Journals s c)
    (hu : body (s.noteIssue c) = u) (heq : u = { s.noteIssue c with ctxs := u.ctxs }) (hother : ∀ d, d ≠ c.val → u.ctx d = s.ctx d) :
    ∃ t, s.localOp c i f idx w body = t ∧ JournalFrame c s t ∧ t.ctx c = u.ctx c := by
  obtain ⟨t, ht, hjournal, hframe⟩ := localOp_does (f := f) idx w hi hop hj hu (by rw [heq]; rfl)
  have hctx (d : Nat) : t.ctx d = u.ctx d := by rw [hframe]; rfl
  refine ⟨t, ht, ⟨?_, fun d hd => ⟨(hctx d).trans (hother d hd), hjournal d hd⟩, fun o ho => ?_⟩, hctx c⟩
  · rw [hframe, heq]
    rfl
  · refine Eq.trans ?_ (State.noteIssue_reg_other s c ho)
    rw [hframe, heq]
    rfl

/-- An instruction that ends with a code that does not trap. -/
theorem localOp_retires {s : State} {c : Ctx} {i : Instr} {op : Nat} {d : Ctx} {f g : Fields} {k : Byte} (idx : List Nat) (w : Bool)
    {body : State → State} (hi : Issues s c i) (hop : opcodeOf i = some (op, d, g)) (hj : Journals s c)
    (hu : body (s.noteIssue c) = (s.noteIssue c).retire c k) (hk : s.trapOn c k = false) :
    ∃ t, s.localOp c i f idx w body = t ∧ JournalFrame c s t ∧ t.ctx c = ((s.ctx c).record k (s.ctx c).pc).after (s.ctx c).pc := by
  obtain ⟨hctx, hother, heq⟩ := State.retire_goes_on (s.noteIssue c) c k (by rwa [State.noteIssue_trapOn])
  obtain ⟨t, ht, hframe, hsame⟩ := localOp_journalFrame (f := f) idx w hi hop hj hu heq hother
  exact ⟨t, ht, hframe, hsame.trans hctx⟩

/-- An instruction that ends with OK and writes a register. -/
theorem localOp_retiresX {s : State} {c : Ctx} {i : Instr} {op : Nat} {d : Ctx} {f g : Fields} {r : Reg} {v : DWord} (idx : List Nat)
    (w : Bool) {body : State → State} (hi : Issues s c i) (hop : opcodeOf i = some (op, d, g)) (hj : Journals s c)
    (hu : body (s.noteIssue c) = (s.noteIssue c).retireX c r v) :
    ∃ t, s.localOp c i f idx w body = t ∧ JournalFrame c s t ∧
      t.ctx c = (((s.ctx c).setX r v).record codeOk (s.ctx c).pc).after (s.ctx c).pc := by
  obtain ⟨hctx, hother, heq⟩ := State.retireX_does (s.noteIssue c) c r v
  obtain ⟨t, ht, hframe, hsame⟩ := localOp_journalFrame (f := f) idx w hi hop hj hu heq hother
  exact ⟨t, ht, hframe, hsame.trans hctx⟩

/-! ### NOP, END, STAT and SYSR -/

theorem exec_nop {s : State} {c : Ctx} {f : Fields} (hi : Issues s c (.nop c f)) :
    exec (.nop c f) s = .next ((s.noteIssue c).retire c codeOk) :=
  congrArg Host.Outcome.next (State.control_next _ _ _ _ (Issues_canIssue hi rfl))

theorem exec_endProg {s : State} {c : Ctx} {f : Fields} (hi : Issues s c (.endProg c f)) :
    exec (.endProg c f) s = .next (((s.noteIssue c).setCtx c { s.ctx c with drain := .toFree }).drained c) :=
  congrArg Host.Outcome.next (State.control_next _ _ _ _ (Issues_canIssue hi rfl))

/-- A context with work outstanding stays on its way. -/
theorem State.drained_waits {s : State} {c : Nat} (h : s.outstanding c ≠ 0 ∨ s.remoteOpen c = true) : s.drained c = s := by
  unfold State.drained
  exact if_pos h

/-- A context without work outstanding that is on its way to FREE is FREE. -/
theorem State.drained_toFree {s : State} {c : Nat} (ho : s.outstanding c = 0) (hr : s.remoteOpen c = false)
    (hd : (s.ctx c).drain = .toFree) :
    s.drained c = s.setCtx c ({ s.ctx c with st := .free, drain := .no }.record codeOk (s.ctx c).pc) := by
  unfold State.drained
  simp only [ho, hr, hd, ne_eq, not_true_eq_false, Bool.false_eq_true, or_self, if_false]

theorem endProg_completes {s : State} {c : Ctx} {f : Fields} (hi : Issues s c (.endProg c f)) :
    ∃ t, exec (.endProg c f) s = .next t ∧ ControlFrame c s t ∧
      (s.outstanding c = 0 → s.remoteOpen c = false → (t.ctx c).st = .free) ∧
      (s.outstanding c ≠ 0 ∨ s.remoteOpen c = true → t.ctx c = { s.ctx c with drain := .toFree }) := by
  obtain ⟨hframe, hctx⟩ := setCtx_controlFrame s c { s.ctx c with drain := .toFree }
  generalize hu : (s.noteIssue c).setCtx c { s.ctx c with drain := .toFree } = u at hframe hctx
  have hout : u.outstanding c = s.outstanding c := by rw [← hu]; rfl
  have hopen : u.remoteOpen c = s.remoteOpen c := by rw [← hu]; rfl
  refine ⟨u.drained c, hu ▸ exec_endProg hi, ?_⟩
  by_cases h : s.outstanding c ≠ 0 ∨ s.remoteOpen c = true
  · rw [State.drained_waits (by rwa [hout, hopen])]
    exact ⟨hframe, fun ho hr => by simp [ho, hr] at h, fun _ => hctx⟩
  · have ho : s.outstanding c = 0 := Classical.not_not.1 fun hne => h (.inl hne)
    have hr : s.remoteOpen c = false := Bool.eq_false_iff.2 fun hne => h (.inr hne)
    rw [State.drained_toFree (hout.trans ho) (hopen.trans hr) (by rw [hctx])]
    refine ⟨controlFrame_of_ctxs hframe rfl fun d hd => State.setCtx_ctx_other _ _ hd, fun _ _ => ?_, fun hn => absurd hn h⟩
    rw [State.setCtx_ctx_same]
    exact (Context.record_does _ _ _).2.2.1

/-- What SYSR selects from does not depend on the note of its issue. -/
theorem State.noteIssue_sysValue (s : State) (c : Ctx) (sel : Nat) : (s.noteIssue c).sysValue c sel = s.sysValue c sel := by
  unfold State.sysValue State.chip State.sysSize State.ordered State.gen
  simp only [State.noteIssue_fld s c (.inr (show 0x020000 ≤ 0x0B0004 by decide)),
    State.noteIssue_fld s c (.inr (show 0x020000 ≤ 0x0B0000 by decide)),
    State.noteIssue_fld s c (.inl (show 0x1000 < 0x010000 by decide))]
  rfl

theorem bitsOf_low_byte (v : Nat) : bitsOf v 7 0 = v % 256 := by
  rw [bitsOf_eq_div]
  norm_num

/-- The value of a selector, by the table of R66. -/
theorem State.sysValue_of_table {s : State} {c : Ctx} {sel v : Nat}
    (h : sel = 0 ∧ v = s.chip ∨ sel = 1 ∧ v = s.sysSize ∨ sel = 2 ∧ v = s.step.toNat ∨ sel = 3 ∧ v = c.val ∨
      sel = 4 ∧ v = b2n s.ordered ∨ sel = 5 ∧ v = b2n s.gradeB ∨ sel = 6 ∧ v = (s.gen 0).toNat + 4 * (s.gen 1).toNat ∨
      sel = 7 ∧ v = (match s.tbl.rep.active with | some e => 256 + e.toNat | none => 0)) : s.sysValue c sel = some v := by
  rcases h with ⟨rfl, rfl⟩ | ⟨rfl, rfl⟩ | ⟨rfl, rfl⟩ | ⟨rfl, rfl⟩ | ⟨rfl, rfl⟩ | ⟨rfl, rfl⟩ | ⟨rfl, rfl⟩ | ⟨rfl, rfl⟩
  case inr.inr.inr.inr.inr.inr.inr =>
    unfold State.sysValue
    cases s.tbl.rep.active with
    | none => rfl
    | some e => exact congrArg some (Nat.add_comm _ _)
  all_goals rfl

theorem State.sysValue_undefined {s : State} {c : Ctx} {sel : Nat} (h : 8 ≤ sel) : s.sysValue c sel = none := by
  unfold State.sysValue
  split <;> [omega; omega; omega; omega; omega; omega; omega; omega; rfl]

/-- What SYSR does on the state with its issue noted. -/
def sysrBody (c : Ctx) (f : Fields) (t : State) : State :=
  match t.sysValue c (bitsOf f.imm.toNat 7 0) with
  | some v => t.retireX c f.dst (BitVec.ofNat 64 v)
  | none => t.retire c codeBounds

theorem exec_sysr (s : State) (c : Ctx) (f : Fields) :
    exec (.sysr c f) s = .next (s.localOp c (.sysr c f) f [] true (sysrBody c f)) := rfl

theorem exec_sysr_defined {s : State} {c : Ctx} {f : Fields} {v : Nat} (hi : Issues s c (.sysr c f)) (hj : Journals s c)
    (hv : s.sysValue c (f.imm.toNat % 256) = some v) :
    ∃ t, exec (.sysr c f) s = .next t ∧ JournalFrame c s t ∧
      t.ctx c = (((s.ctx c).setX f.dst (BitVec.ofNat 64 v)).record codeOk (s.ctx c).pc).after (s.ctx c).pc := by
  obtain ⟨t, ht, hdoes⟩ := localOp_retiresX (f := f) (r := f.dst) (v := BitVec.ofNat 64 v) [] true hi rfl hj
    (body := sysrBody c f) (by unfold sysrBody; rw [State.noteIssue_sysValue, bitsOf_low_byte, hv])
  exact ⟨t, by rw [exec_sysr, ht], hdoes⟩

theorem exec_sysr_undefined {s : State} {c : Ctx} {f : Fields} (hi : Issues s c (.sysr c f)) (hj : Journals s c)
    (hv : s.sysValue c (f.imm.toNat % 256) = none) (htrap : s.trapOn c codeBounds = false) :
    ∃ t, exec (.sysr c f) s = .next t ∧ JournalFrame c s t ∧
      t.ctx c = ((s.ctx c).record codeBounds (s.ctx c).pc).after (s.ctx c).pc := by
  obtain ⟨t, ht, hdoes⟩ := localOp_retires (f := f) (k := codeBounds) [] true hi rfl hj (body := sysrBody c f)
    (by unfold sysrBody; rw [State.noteIssue_sysValue, bitsOf_low_byte, hv]) htrap
  exact ⟨t, by rw [exec_sysr, ht], hdoes⟩

/-- Settles O11: NOP and END act within the frame of the control class, STAT and SYSR end with their value, or SYSR with BOUNDS, within
that of the journal. -/
theorem nopEndStatAndSysr : Obligations.NopEndStatAndSysr := by
  refine ⟨fun s c f => ⟨fun hi => ?_, fun hi => endProg_completes hi⟩,
    fun s c f hj => ⟨fun hi => ?_, fun v hi hv => ?_, fun hsel hi htrap => ?_⟩⟩
  · exact ⟨_, exec_nop hi, retire_controlFrame (State.trapOn_ok s c)⟩
  · obtain ⟨t, ht, hdoes⟩ := localOp_retiresX (f := f) [] true hi rfl hj (body := fun t => t.retireX c f.dst
      (BitVec.ofNat 64 ((t.ctx c).last.toNat + 256 * (t.ctx c).first.toNat))) rfl
    exact ⟨t, congrArg _ ht, hdoes⟩
  · obtain ⟨t, ht, hdoes⟩ := exec_sysr_defined hi hj (State.sysValue_of_table hv)
    exact ⟨t, ht, hdoes⟩
  · obtain ⟨t, ht, hdoes⟩ := exec_sysr_undefined hi hj (State.sysValue_undefined hsel) htrap
    exact ⟨t, ht, hdoes⟩

end Sys2Proof.Machine
end

section
/-! PROOF. Local instructions beside their code: SIGNAL, WAIT and CSSET (R50, R51, R67), DESC and FIT (R68, R69, R107), STEP, SEED,
CNT, SAVE and RESTORE (R53, R88, R89). -/

namespace Sys2Proof.Machine

open Safety

/-! ### An instruction with an effect beside its context -/

/-- An instruction that has its effect `v` on the state with the issue noted and then ends with a code that does not trap. -/
theorem localOp_effect {s v : State} {c : Ctx} {i : Instr} {op : Nat} {d : Ctx} {f g : Fields} {k : Byte} (idx : List Nat) (w : Bool)
    {body : State → State} (hi : Issues s c i) (hop : opcodeOf i = some (op, d, g)) (hj : Journals s c)
    (hu : body (s.noteIssue c) = v.retire c k) (href : v.ref = s.ref) (hk : v.trapOn c k = false) :
    ∃ t, s.localOp c i f idx w body = t ∧ t.ctx c = ((v.ctx c).record k (v.ctx c).pc).after (v.ctx c).pc ∧
      (∀ d, d ≠ c.val → t.ctx d = v.ctx d ∧ t.journal d = s.journal d) ∧
      t = { v with ctxs := t.ctxs, ref := { s.ref with journal := t.ref.journal, jpos := t.ref.jpos } } := by
  obtain ⟨hctx, hother, heq⟩ := State.retire_goes_on v c k hk
  obtain ⟨t, ht, hjournal, hframe⟩ := localOp_does (f := f) idx w hi hop hj hu (by rw [heq]; exact href)
  have hctxs (d : Nat) : t.ctx d = (v.retire c k).ctx d := by rw [hframe]; rfl
  refine ⟨t, ht, (hctxs c).trans hctx, fun d hd => ⟨(hctxs d).trans (hother d hd), hjournal d hd⟩, ?_⟩
  rw [hframe, heq]

/-! ### SIGNAL, WAIT and CSSET -/

/-- What an instruction's end leaves of its context: only the registers, the loops and the program counter move. -/
theorem Context.after_eq (x : Context) (pc : Nat) :
    x.after pc = { x with x := (x.after pc).x, loops := (x.after pc).loops, pc := (x.after pc).pc } := by
  unfold Context.after Context.setX
  split
  · split <;> rfl
  · rfl

@[simp] theorem Context.after_cs (x : Context) (pc : Nat) : (x.after pc).cs = x.cs := by rw [Context.after_eq]
@[simp] theorem Context.after_last (x : Context) (pc : Nat) : (x.after pc).last = x.last := by rw [Context.after_eq]

@[simp] theorem Context.record_cs (x : Context) (k : Byte) (pc : Nat) : (x.record k pc).cs = x.cs := by
  unfold Context.record
  split <;> rfl

/-- What a signal may change: the object, the flag register and the flag's counter. -/
theorem State.signal_eq (s : State) (n a : Nat) :
    s.signal n a = { s with sync := (s.signal n a).sync, regs := (s.signal n a).regs } := by
  unfold State.signal
  dsimp only
  split <;> rfl

@[simp] theorem State.signal_ctx (s : State) (n a c : Nat) : (s.signal n a).ctx c = s.ctx c := by rw [State.signal_eq]; rfl

/-- The object that SIGNAL names, on the state with the issue noted. -/
theorem exec_signal {s : State} {c : Ctx} {f : Fields} {n a : Nat} (hj : Journals s c) (hi : Issues s c (.signal c f))
    (hn : n = (f.imm.toNat % 32768 + ((s.ctx c).xr f.srcA).toNat) % 32768) (ha : a = f.imm.toNat / 32768) :
    ∃ t, exec (.signal c f) s = .next t ∧ t.ctx c = ((s.ctx c).record codeOk (s.ctx c).pc).after (s.ctx c).pc ∧
      (∀ d, d ≠ c.val → t.ctx d = s.ctx d) ∧ t.sync = ((s.noteIssue c).signal n a).sync ∧
      t.regs = ((s.noteIssue c).signal n a).regs ∧
      t = { s with ctxs := t.ctxs, regs := t.regs, icache := t.icache, lastIssue := t.lastIssue, stood := t.stood, slow := t.slow,
                   sync := t.sync, ref := { s.ref with journal := t.ref.journal, jpos := t.ref.jpos } } := by
  subst hn ha
  rw [← sObj_eq, ← sAmount_eq]
  have heq := State.signal_eq (s.noteIssue c) (sObj (s.ctx c) f) (sAmount f)
  obtain ⟨t, ht, hctx, hother, hframe⟩ := localOp_effect (f := f) (k := codeOk) [sObj (s.ctx c) f] false hi rfl hj
    (v := (s.noteIssue c).signal (sObj (s.ctx c) f) (sAmount f))
    (body := fun t => (t.signal (sObj (t.ctx c) f) (sAmount f)).retire c codeOk) rfl (by rw [heq]; rfl) (State.trapOn_ok _ _)
  simp only [State.signal_ctx, State.noteIssue_ctx] at hctx hother
  refine ⟨t, congrArg _ ht, hctx, fun d hd => (hother d hd).1, by rw [hframe], by rw [hframe], ?_⟩
  rw [hframe, heq]
  rfl

/-- What WAIT does on the state with its issue noted. -/
def waitBody (c : Ctx) (f : Fields) (t : State) : State :=
  let x := t.ctx c
  let n := sObj x f
  let t := if f.srcB ≠ 0 then t.setObj n { t.obj n with thr := (x.xr f.srcB).extractLsb' 0 32 } else t
  t.setCtx c { x with st := .waiting, wait := .object n (f.flags.getLsbD 0) }

/-- The object that a WAIT leaves: its threshold is the low word of xB unless srcB is x0. -/
def waitObj (s : State) (x : Context) (f : Fields) (n : Nat) : SyncObj :=
  if f.srcB ≠ 0 then { s.obj n with thr := (x.xr f.srcB).extractLsb' 0 32 } else s.obj n

theorem waitBody_obj (c : Ctx) (f : Fields) (s : State) :
    (waitBody c f s).obj (sObj (s.ctx c) f) = waitObj s (s.ctx c) f (sObj (s.ctx c) f) ∧
    (∀ m, m ≠ sObj (s.ctx c) f → (waitBody c f s).obj m = s.obj m) ∧
    (waitBody c f s).ctx c = { s.ctx c with st := .waiting, wait := .object (sObj (s.ctx c) f) (f.flags.getLsbD 0) } ∧
    (∀ d, d ≠ c.val → (waitBody c f s).ctx d = s.ctx d) ∧
    waitBody c f s = { s with sync := (waitBody c f s).sync, ctxs := (waitBody c f s).ctxs } := by
  unfold waitBody waitObj
  dsimp only
  split
  · exact ⟨State.setObj_obj_same _ _ _, fun m hm => State.setObj_obj_other _ _ hm, State.setCtx_ctx_same _ _ _,
      fun d hd => State.setCtx_ctx_other _ _ hd, rfl⟩
  · exact ⟨rfl, fun _ _ => rfl, State.setCtx_ctx_same _ _ _, fun d hd => State.setCtx_ctx_other _ _ hd, rfl⟩

theorem exec_wait {s : State} {c : Ctx} {f : Fields} {n : Nat} (hj : Journals s c) (hi : Issues s c (.wait c f))
    (hn : n = (f.imm.toNat % 32768 + ((s.ctx c).xr f.srcA).toNat) % 32768) :
    ∃ t, exec (.wait c f) s = .next t ∧ t.ctx c = { s.ctx c with st := .waiting, wait := .object n (f.flags.getLsbD 0) } ∧
      t.obj n = waitObj s (s.ctx c) f n ∧ (∀ m, m ≠ n → t.obj m = s.obj m) ∧ (∀ d, d ≠ c.val → t.ctx d = s.ctx d) ∧
      t = { s with ctxs := t.ctxs, regs := t.regs, icache := t.icache, lastIssue := t.lastIssue, stood := t.stood, slow := t.slow,
                   sync := t.sync, ref := { s.ref with journal := t.ref.journal, jpos := t.ref.jpos } } := by
  subst hn
  rw [← sObj_eq]
  obtain ⟨hobj, hobjs, hctx, hctxs, heq⟩ := waitBody_obj c f (s.noteIssue c)
  obtain ⟨t, ht, -, hframe⟩ := localOp_does (f := f) [sObj (s.ctx c) f] false hi rfl hj (body := waitBody c f)
    (u := waitBody c f (s.noteIssue c)) rfl (by rw [heq]; rfl)
  have hto (m : Nat) : t.obj m = (waitBody c f (s.noteIssue c)).obj m := by rw [hframe]; rfl
  have htc (d : Nat) : t.ctx d = (waitBody c f (s.noteIssue c)).ctx d := by rw [hframe]; rfl
  refine ⟨t, congrArg _ ht, (htc c).trans hctx, (hto _).trans hobj, fun m hm => (hto m).trans (hobjs m hm),
    fun d hd => (htc d).trans (hctxs d hd), ?_⟩
  rw [hframe, heq]
  rfl

theorem exec_csset {s : State} {c : Ctx} {f : Fields} (hj : Journals s c) (hi : Issues s c (.csset c f)) :
    ∃ t, exec (.csset c f) s = .next t ∧ JournalFrame c s t ∧ (t.ctx c).last = codeOk ∧
      (t.ctx c).cs = Tab.set 0 (s.ctx c).cs (bitsOf f.flags.toNat 1 0) (sObj (s.ctx c) f) := by
  generalize hv : (s.noteIssue c).setCtx c
    { s.ctx c with cs := Tab.set 0 (s.ctx c).cs (bitsOf f.flags.toNat 1 0) (sObj (s.ctx c) f) } = v
  obtain ⟨t, ht, hctx, hother, hframe⟩ := localOp_effect (f := f) (k := codeOk) (v := v) [sObj (s.ctx c) f] false hi rfl hj
    (body := fun t => (t.setCtx c { t.ctx c with
      cs := Tab.set 0 (t.ctx c).cs (bitsOf f.flags.toNat 1 0) (sObj (t.ctx c) f) }).retire c codeOk)
    (by rw [← hv]; rfl) (by rw [← hv]; rfl) (State.trapOn_ok _ _)
  refine ⟨t, congrArg _ ht, ⟨?_, fun d hd => ⟨?_, (hother d hd).2⟩, fun o ho => ?_⟩, ?_, ?_⟩
  · rw [hframe, ← hv]
    rfl
  · rw [(hother d hd).1, ← hv, State.setCtx_ctx_other _ _ hd]
    rfl
  · refine Eq.trans ?_ (State.noteIssue_reg_other s c ho)
    rw [hframe, ← hv]
    rfl
  · rw [hctx, Context.after_last, (Context.record_does _ _ _).1]
  · rw [hctx, Context.after_cs, Context.record_cs, ← hv, State.setCtx_ctx_same]

/-- Settles O14: SIGNAL is the signal of its object on the state with the issue noted; WAIT and CSSET change their context and, WAIT,
the object's threshold. -/
theorem syncInstructions : Obligations.SyncInstructions := by
  refine ⟨fun s c f n a hj hi hn ha => ?_, fun s c f n hj hn => ⟨fun hi => ?_, fun hi => ?_⟩⟩
  · obtain ⟨t, ht, hctx, hother, hsync, hregs, hframe⟩ := exec_signal hj hi hn ha
    have hobj (m : Nat) : t.obj m = ((s.noteIssue c).signal n a).obj m := by unfold State.obj; rw [hsync]
    have hreg (o : Nat) : t.reg o = ((s.noteIssue c).signal n a).reg o := by unfold State.reg; rw [hregs]
    have hfld (o hi lo : Nat) : t.fld o hi lo = ((s.noteIssue c).signal n a).fld o hi lo := by unfold State.fld; rw [hreg]
    by_cases h : (s.obj n).cnt.toNat + a < 2 ^ 32
    · obtain ⟨hcnt, hthr, hobjs, heq⟩ := State.signal_adds (s.noteIssue c) n a h
      simp only [← hobj, State.noteIssue_obj] at hcnt hthr hobjs
      refine ⟨t, ht, hthr, hobjs, fun _ => ⟨hcnt, fun o ho => ?_⟩, fun hge => by omega, hctx, hother, hframe⟩
      rw [hreg, heq]
      exact State.noteIssue_reg_other s c ho
    · obtain ⟨hsat, hobjs, hflag, hcount, hregs, -⟩ := State.signal_saturates (s.noteIssue c) n a (Nat.le_of_not_lt h)
      have hrange := issueCount_range c
      simp only [← hobj, ← hreg, ← hfld, State.noteIssue_obj] at hsat hobjs hflag hcount hregs
      refine ⟨t, ht, by rw [hsat], hobjs, fun hlt => absurd hlt h, fun _ => ⟨by rw [hsat], hflag, ?_, fun o ho h1 h2 => ?_⟩,
        hctx, hother, hframe⟩
      · rw [hcount, State.noteIssue_reg_other s c (by omega)]
      · rw [hregs o h1 h2, State.noteIssue_reg_other s c ho]
  · obtain ⟨t, ht, hctx, hobj, hobjs, hother, hframe⟩ := exec_wait hj hi hn
    refine ⟨t, ht, by rw [hctx], by rw [hctx], by rw [hctx], fun r => ?_, ?_, fun hb => ?_, fun hb => ?_, hobjs, hother, hframe⟩
    · rw [hctx]
      rfl
    all_goals rw [hobj, waitObj]
    · split <;> rfl
    · rw [if_pos hb]
      simp
    · rw [if_neg (by simp [hb])]
  · obtain ⟨t, ht, hframe, hlast, hcs⟩ := exec_csset hj hi
    have hslot : bitsOf f.flags.toNat 1 0 = f.flags.toNat % 4 := by
      rw [bitsOf_eq_div]
      norm_num
    rw [hslot] at hcs
    refine ⟨t, ht, hframe, ?_, fun k hk => ?_, hlast⟩
    · rw [hcs, Tab.get_set_same, sObj_eq, hn]
    · rw [hcs, Tab.get_set_other _ _ _ hk]

end Sys2Proof.Machine
end

section
/-! PROOF. DESC and FIT (R68, R69, R107), STEP, SEED, CNT, SAVE and RESTORE (R53, R88, R89). -/

namespace Sys2Proof.Machine

open Safety

/-! ### Operands of the DD form (R39) -/

theorem bitsOf_low_twelve (v : Nat) : bitsOf v 11 0 = v % 4096 := by
  rw [bitsOf_eq_div]
  norm_num

theorem ddFirst_eq (x : Context) (f : Fields) : ddFirst x f = (f.imm.toNat % 4096 + (x.xr f.srcA).toNat) % 4096 := by
  unfold ddFirst
  rw [bitsOf_low_twelve]
  omega

theorem ddSecond_eq (x : Context) (f : Fields) : ddSecond x f = (f.imm.toNat / 4096 % 4096 + (x.xr f.srcB).toNat) % 4096 := by
  unfold ddSecond
  rw [bitsOf_eq_div]
  norm_num

/-! ### What the note of an issue leaves for the checks -/

theorem State.noteIssue_region (s : State) (c : Ctx) (n : Nat) : (s.noteIssue c).region n = s.region n := by
  unfold State.region
  simp (disch := omega) only [State.noteIssue_fld]

theorem State.noteIssue_poolFld (s : State) (c : Ctx) (n k hi lo : Nat) :
    (s.noteIssue c).fld (poolReg n k) hi lo = s.fld (poolReg n k) hi lo :=
  State.noteIssue_fld s c (by unfold poolReg; omega) hi lo

theorem State.noteIssue_chip (s : State) (c : Ctx) : (s.noteIssue c).chip = s.chip := by
  unfold State.chip
  simp (disch := omega) only [State.noteIssue_fld]

@[simp] theorem State.noteIssue_pool (s : State) (c : Ctx) (n : Nat) : (s.noteIssue c).pool n = s.pool n := rfl

theorem State.noteIssue_allocation (s : State) (c : Ctx) (a : Nat) : (s.noteIssue c).allocation a = s.allocation a := by
  unfold State.allocation State.poolEn State.poolBase State.bufBytes State.poolCount
  simp only [State.noteIssue_region, State.noteIssue_poolFld, State.noteIssue_pool]

theorem State.noteIssue_validate (s : State) (c : Ctx) (l : Line) : (s.noteIssue c).validate l = s.validate l := by
  unfold State.validate
  simp only [State.noteIssue_allocation, State.noteIssue_chip]

/-! ### DESC (R68) -/

/-- A slot written by DESC: the slot alone changes, and the outstanding commands note it. -/
theorem State.writeSlot_does (s : State) (n : Nat) (d : Slot) :
    (s.writeSlot n d).slot n = d ∧ (∀ m, m ≠ n → (s.writeSlot n d).slot m = s.slot m) ∧
    s.writeSlot n d = { s with slots := (s.writeSlot n d).slots, ucmds := s.ucmds.map fun u => { u with rew := n :: u.rew } } :=
  ⟨State.setSlot_slot_same _ _ _, fun _ hm => State.setSlot_slot_other _ _ hm, rfl⟩

/-- A DESC that writes its slot and ends with OK. -/
theorem desc_writes {s : State} {c : Ctx} {i : Instr} {op n : Nat} {e : Ctx} {f g : Fields} {d : Slot} (idx : List Nat)
    {body : State → State} (hi : Issues s c i) (hop : opcodeOf i = some (op, e, g)) (hj : Journals s c)
    (hbody : body (s.noteIssue c) = ((s.noteIssue c).writeSlot n d).retire c codeOk) :
    ∃ t, s.localOp c i f idx false body = t ∧ t.slot n = d ∧ (∀ m, m ≠ n → t.slot m = s.slot m) ∧
      t.ucmds = s.ucmds.map (fun u => { u with rew := n :: u.rew }) ∧
      t.ctx c = ((s.ctx c).record codeOk (s.ctx c).pc).after (s.ctx c).pc ∧ (∀ d, d ≠ c.val → t.ctx d = s.ctx d) ∧
      (∀ o, o ≠ issueCount c → t.reg o = s.reg o) ∧
      t = { s with ctxs := t.ctxs, regs := t.regs, icache := t.icache, lastIssue := t.lastIssue, stood := t.stood, slow := t.slow,
                   slots := t.slots, ucmds := t.ucmds, ref := { s.ref with journal := t.ref.journal, jpos := t.ref.jpos } } := by
  obtain ⟨hslot, hslots, heq⟩ := State.writeSlot_does (s.noteIssue c) n d
  obtain ⟨t, ht, hctx, hother, hframe⟩ := localOp_effect (f := f) idx false hi hop hj hbody rfl (State.trapOn_ok _ _)
  have hts (m : Nat) : t.slot m = ((s.noteIssue c).writeSlot n d).slot m := by rw [hframe]; rfl
  refine ⟨t, ht, (hts n).trans hslot, fun m hm => (hts m).trans (hslots m hm), by rw [hframe, heq]; rfl, hctx,
    fun d hd => (hother d hd).1, fun o ho => ?_, ?_⟩
  · refine Eq.trans ?_ (State.noteIssue_reg_other s c ho)
    rw [hframe, heq]
    rfl
  · rw [hframe, heq]
    rfl

/-- The lowest code of a DESC's own checks. -/
theorem lowest_desc_checks (form range invalid : Bool) :
    lowest [(form, codeFormat), (range, codeBounds), (invalid, codeOffside)] =
      if invalid then some codeOffside else if range then some codeBounds else if form then some codeFormat else none := by
  revert form range invalid
  decide

/-- What DESC LOAD does on the state with its issue noted. -/
def descLoadBody (c : Ctx) (f : Fields) (t : State) : State :=
  let x := t.ctx c
  let n := bitsOf f.imm.toNat 11 0 + (x.xr f.srcA).toNat % 4096
  let op := f.sub % 4
  match lowest [(decide (4 ≤ f.sub) || decide (op = 3), codeFormat), (decide (op = 0) && decide (1024 ≤ n), codeBounds),
      (decide (op = 1) && !(t.slot (ddFirst x f)).valid, codeOffside)] with
  | some k => t.retire c k
  | none => if op = 0 then t.descWrite c (ddSecond x f) (t.image x.pc n) else t

theorem exec_descLoad (s : State) (c : Ctx) (f : Fields) :
    exec (.descLoad c f) s =
      .next (s.localOp c (.descLoad c f) f [ddFirst (s.ctx c) f, ddSecond (s.ctx c) f] false (descLoadBody c f)) := rfl

/-- Where the checks of DESC LOAD leave nothing against it the image is validated and written. -/
theorem descLoadBody_writes {c : Ctx} {f : Fields} {s : State} (hsub : f.sub = 0)
    (hn : f.imm.toNat % 4096 + ((s.ctx c).xr f.srcA).toNat % 4096 < 1024) :
    descLoadBody c f s = s.descWrite c (ddSecond (s.ctx c) f)
      (s.image (s.ctx c).pc (f.imm.toNat % 4096 + ((s.ctx c).xr f.srcA).toNat % 4096)) := by
  unfold descLoadBody
  simp only [bitsOf_low_twelve, hsub]
  rw [lowest_desc_checks]
  simp [Nat.not_le.2 hn]

/-- The code of a DESC LOAD that the checks refuse. -/
theorem descLoadBody_refuses {c : Ctx} {f : Fields} {s : State} {k : Byte}
    (h : k = codeFormat ∧ 3 ≤ f.sub ∧ (f.sub % 4 = 0 → f.imm.toNat % 4096 + ((s.ctx c).xr f.srcA).toNat % 4096 < 1024) ∧
          (f.sub % 4 = 1 → (s.slot (ddFirst (s.ctx c) f)).valid = true) ∨
        k = codeBounds ∧ f.sub % 4 = 0 ∧ 1024 ≤ f.imm.toNat % 4096 + ((s.ctx c).xr f.srcA).toNat % 4096 ∨
        k = codeOffside ∧ f.sub % 4 = 1 ∧ (s.slot (ddFirst (s.ctx c) f)).valid = false) :
    descLoadBody c f s = s.retire c k := by
  unfold descLoadBody
  simp only [bitsOf_low_twelve]
  rw [lowest_desc_checks]
  rcases h with ⟨rfl, hsub, hin, hvalid⟩ | ⟨rfl, hsub, hout⟩ | ⟨rfl, hsub, hinv⟩
  · rw [if_neg (by simpa using hvalid), if_neg (by simpa using hin), if_pos (by simp; omega)]
  · rw [if_neg (by simp [hsub]), if_pos (by simp [hsub, hout])]
  · rw [if_pos (by simp [hsub, hinv])]

/-- Contents that do not validate are refused with the code of their validation. -/
theorem State.descWrite_refuses {s : State} {c n : Nat} {l : Line} (h : s.validate l ≠ codeOk) :
    s.descWrite c n l = s.retire c (s.validate l) := by
  unfold State.descWrite
  exact if_neg h

theorem State.descWrite_writes {s : State} {c n : Nat} {l : Line} (h : s.validate l = codeOk) :
    s.descWrite c n l = (s.writeSlot n ⟨l, true⟩).retire c codeOk := by
  unfold State.descWrite
  exact if_pos h

/-- What DESC CLONE does on the state with its issue noted. -/
def descCloneBody (c : Ctx) (f : Fields) (t : State) : State :=
  let x := t.ctx c
  let d := t.slot (ddFirst x f)
  if !d.valid then t.retire c codeOffside else t.descWrite c (ddSecond x f) d.bits

theorem exec_descClone (s : State) (c : Ctx) (f : Fields) :
    exec (.descClone c f) s =
      .next (s.localOp c (.descClone c f) f [ddFirst (s.ctx c) f, ddSecond (s.ctx c) f] false (descCloneBody c f)) := rfl

theorem descCloneBody_valid {c : Ctx} {f : Fields} {s : State} (h : (s.slot (ddFirst (s.ctx c) f)).valid = true) :
    descCloneBody c f s = s.descWrite c (ddSecond (s.ctx c) f) (s.slot (ddFirst (s.ctx c) f)).bits := by
  unfold descCloneBody
  simp only [h, Bool.not_true, Bool.false_eq_true, if_false]

theorem descCloneBody_invalid {c : Ctx} {f : Fields} {s : State} (h : (s.slot (ddFirst (s.ctx c) f)).valid = false) :
    descCloneBody c f s = s.retire c codeOffside := by
  unfold descCloneBody
  simp only [h, Bool.not_false, if_true]

/-- CLONE of a valid slot and LOAD of an image below 1024 write what validates to the destination slot. -/
theorem desc_body {s : State} {c : Ctx} {f : Fields} {i : Instr} {l : Line}
    (h : i = .descClone c f ∧ (s.slot (ddFirst (s.ctx c) f)).valid = true ∧ l = (s.slot (ddFirst (s.ctx c) f)).bits ∨
      i = .descLoad c f ∧ f.sub = 0 ∧ f.imm.toNat % 4096 + ((s.ctx c).xr f.srcA).toNat % 4096 < 1024 ∧
        l = s.image (s.ctx c).pc (f.imm.toNat % 4096 + ((s.ctx c).xr f.srcA).toNat % 4096)) :
    ∃ (idx : List Nat) (body : State → State), exec i s = .next (s.localOp c i f idx false body) ∧ opcodeOf i = some (0x30, c, f) ∧
      body (s.noteIssue c) = (s.noteIssue c).descWrite c (ddSecond (s.ctx c) f) l := by
  rcases h with ⟨rfl, hvalid, rfl⟩ | ⟨rfl, hsub, hin, rfl⟩
  · exact ⟨_, _, exec_descClone s c f, rfl, descCloneBody_valid (s := s.noteIssue c) hvalid⟩
  · exact ⟨_, _, exec_descLoad s c f, rfl, descLoadBody_writes (s := s.noteIssue c) hsub hin⟩

/-- Settles O16: a DESC whose contents validate writes its slot, INVAL makes it invalid, and a refused one ends with its code. -/
theorem descriptors : Obligations.Descriptors := by
  refine ⟨fun s c f i n l hj hi hn hsrc hval => ?_, fun s c f hj => ⟨fun k hi htrap hk => ?_, fun hi htrap hinv => ?_, fun n hi hn => ?_⟩⟩
  · rw [← ddSecond_eq] at hn
    rw [← ddFirst_eq] at hsrc
    subst hn
    obtain ⟨idx, body, hexec, hop, hbody⟩ := desc_body hsrc
    obtain ⟨t, ht, hslot, hslots, hucmds, hrest⟩ := desc_writes (f := f) idx hi hop hj
      (hbody.trans (State.descWrite_writes (by rw [State.noteIssue_validate, hval])))
    rw [ht] at hexec
    refine ⟨t, hexec, hslot, hslots, ?_, hrest⟩
    rw [hucmds, List.map_map]
    rfl
  · rw [← ddFirst_eq] at hk
    have hbody : descLoadBody c f (s.noteIssue c) = (s.noteIssue c).retire c k := by
      rcases hk with h | h | ⟨rfl, -, hsub, hinv⟩ | ⟨rfl, hbad, hsub, hin⟩
      · exact descLoadBody_refuses (.inl h)
      · exact descLoadBody_refuses (.inr (.inl h))
      · exact descLoadBody_refuses (.inr (.inr ⟨rfl, hsub, hinv⟩))
      · rw [← State.noteIssue_validate s c] at hbad ⊢
        exact (descLoadBody_writes (s := s.noteIssue c) hsub hin).trans (State.descWrite_refuses hbad)
    obtain ⟨t, ht, hdoes⟩ := localOp_retires (f := f) [ddFirst (s.ctx c) f, ddSecond (s.ctx c) f] false hi rfl hj hbody htrap
    exact ⟨t, congrArg _ ht, hdoes⟩
  · rw [← ddFirst_eq] at hinv
    obtain ⟨t, ht, hdoes⟩ := localOp_retires (f := f) [ddFirst (s.ctx c) f, ddSecond (s.ctx c) f] false hi rfl hj
      (descCloneBody_invalid hinv) htrap
    exact ⟨t, congrArg _ ht, hdoes⟩
  · rw [← ddSecond_eq] at hn
    subst hn
    obtain ⟨t, ht, hslot, hslots, -, hctx, hother, -⟩ := desc_writes (f := f) (n := ddSecond (s.ctx c) f)
      (d := ⟨(s.slot (ddSecond (s.ctx c) f)).bits, false⟩) [ddSecond (s.ctx c) f] hi rfl hj
      (body := fun t => (t.writeSlot (ddSecond (t.ctx c) f) ⟨(t.slot (ddSecond (t.ctx c) f)).bits, false⟩).retire c codeOk) rfl
    exact ⟨t, congrArg _ ht, by rw [hslot], hslots, hctx, hother⟩

end Sys2Proof.Machine
end

section
/-! PROOF. FIT (R18, R69), STEP, SEED, CNT, SAVE and RESTORE (R53, R88, R89). -/

namespace Sys2Proof.Machine

open Safety

/-! ### FIT -/

theorem State.noteIssue_returnPort (s : State) (c : Ctx) (p : Nat) : (s.noteIssue c).returnPort p = s.returnPort p := by
  have hing (l : Nat) : (s.noteIssue c).ing l = s.ing l := by
    unfold State.ing
    simp (disch := omega) only [State.noteIssue_fld]
  unfold State.returnPort State.ingLeader State.ingQueues
  simp only [hing]
  rfl

/-- The resource mask does not depend on the note of its issue. -/
theorem State.noteIssue_fitMask (s : State) (c : Ctx) (m : Manifest) : (s.noteIssue c).fitMask m = s.fitMask m := by
  unfold State.fitMask State.receiveBytes State.poolOf State.poolEn State.poolClass State.poolCount State.bufBytes
  simp only [State.noteIssue_poolFld, State.noteIssue_returnPort,
    State.noteIssue_fld s c (.inr (show 0x020000 ≤ 0x0C0000 by decide))]
  rfl

/-- The manifest that FIT reads: image n with the three behind it. -/
def fitManifest (s : State) (c : Ctx) (f : Fields) : Manifest :=
  Config.manifest ((List.range 4).flatMap fun j => lineBytes (s.image (s.ctx c).pc (bitsOf f.imm.toNat 11 0 + j)))

/-- What FIT does on the state with its issue noted. -/
def fitBody (c : Ctx) (f : Fields) (t : State) : State :=
  if fitUnsup (fitManifest t c f) then t.retire c codeUnsup
  else if f.flags.getLsbD 0 then t.retireX c f.dst (BitVec.ofNat 64 (t.fitMask (fitManifest t c f)))
  else if 4 ≤ t.fitMask (fitManifest t c f) then t.retire c codeFit else t.retire c codeOk

theorem exec_fit (s : State) (c : Ctx) (f : Fields) :
    exec (.fit c f) s = .next (s.localOp c (.fit c f) f [] true (fitBody c f)) := rfl

theorem fitBody_noteIssue (s : State) (c : Ctx) (f : Fields) :
    fitBody c f (s.noteIssue c) =
      if fitUnsup (fitManifest s c f) then (s.noteIssue c).retire c codeUnsup
      else if f.flags.getLsbD 0 then (s.noteIssue c).retireX c f.dst (BitVec.ofNat 64 (s.fitMask (fitManifest s c f)))
      else if 4 ≤ s.fitMask (fitManifest s c f) then (s.noteIssue c).retire c codeFit else (s.noteIssue c).retire c codeOk := by
  have hm : fitManifest (s.noteIssue c) c f = fitManifest s c f := rfl
  unfold fitBody
  simp only [hm, State.noteIssue_fitMask]

/-- Settles O17: FIT ends with UNSUP, with its resource mask, or with the code of the mask. -/
theorem fitChecks : Obligations.FitChecks := by
  intro s c f m hj hi hm
  rw [← bitsOf_low_twelve] at hm
  change m = fitManifest s c f at hm
  subst hm
  refine ⟨fun k htrap hk => ?_, fun hfits hqry => ?_⟩
  · have hbody : fitBody c f (s.noteIssue c) = (s.noteIssue c).retire c k := by
      rw [fitBody_noteIssue]
      rcases hk with ⟨rfl, hunsup⟩ | ⟨hqry, hfits, rfl⟩
      · simp only [hunsup, if_true]
      · simp only [hfits, hqry, Bool.false_eq_true, if_false]
        split
        · rw [if_neg (by omega)]
        · rw [if_pos (by omega)]
    obtain ⟨t, ht, hdoes⟩ := localOp_retires (f := f) [] true hi rfl hj hbody htrap
    exact ⟨t, by rw [exec_fit, ht], hdoes⟩
  · have hbody : fitBody c f (s.noteIssue c) =
        (s.noteIssue c).retireX c f.dst (BitVec.ofNat 64 (s.fitMask (fitManifest s c f))) := by
      rw [fitBody_noteIssue]
      simp only [hfits, hqry, Bool.false_eq_true, if_false, if_true]
    obtain ⟨t, ht, hdoes⟩ := localOp_retiresX (f := f) [] true hi rfl hj hbody
    exact ⟨t, by rw [exec_fit, ht], hdoes⟩

/-! ### STEP, SEED and CNT -/

/-- A context on its way to another state does not issue. -/
theorem State.canIssue_of_drain {s : State} {c : Ctx} {i : Instr} (h : (s.ctx c).drain ≠ .no) : s.canIssue c i = false := by
  unfold State.canIssue State.ready
  simp [h]

/-- A context without work outstanding that is on its way to STEPWAIT is in STEPWAIT. -/
theorem State.drained_toStepwait {s : State} {c : Nat} (ho : s.outstanding c = 0) (hr : s.remoteOpen c = false)
    (hd : (s.ctx c).drain = .toStepwait) : s.drained c = s.setCtx c { s.ctx c with st := .stepwait, drain := .no } := by
  unfold State.drained
  simp only [ho, hr, hd, ne_eq, not_true_eq_false, Bool.false_eq_true, or_self, if_false]

/-- What STEP does on the state with its issue noted. -/
def stepBody (c : Ctx) (t : State) : State := (t.setCtx c { t.ctx c with drain := .toStepwait }).drained c

theorem exec_stepInsn (s : State) (c : Ctx) (f : Fields) :
    exec (.stepInsn c f) s = .next (s.localOp c (.stepInsn c f) f [] false (stepBody c)) := rfl

/-- STEP changes its own context alone. -/
theorem stepBody_does (s : State) (c : Ctx) (hdrain : (s.ctx c).drain = .no) :
    stepBody c s = { s with ctxs := (stepBody c s).ctxs } ∧ (∀ d, d ≠ c.val → (stepBody c s).ctx d = s.ctx d) ∧
    (s.outstanding c = 0 → s.remoteOpen c = false → (stepBody c s).ctx c = { s.ctx c with st := .stepwait }) ∧
    (s.outstanding c ≠ 0 ∨ s.remoteOpen c = true → (stepBody c s).ctx c = { s.ctx c with drain := .toStepwait }) := by
  have hset := State.setCtx_ctx_same s c { s.ctx c with drain := .toStepwait }
  unfold stepBody
  by_cases h : s.outstanding c ≠ 0 ∨ s.remoteOpen c = true
  · rw [State.drained_waits (s := s.setCtx c _) h]
    exact ⟨rfl, fun d hd => State.setCtx_ctx_other _ _ hd, fun ho hr => by simp [ho, hr] at h, fun _ => hset⟩
  · have ho : s.outstanding c = 0 := Classical.not_not.1 fun hne => h (.inl hne)
    have hr : s.remoteOpen c = false := Bool.eq_false_iff.2 fun hne => h (.inr hne)
    rw [State.drained_toStepwait (s := s.setCtx c _) ho hr (by rw [hset])]
    refine ⟨rfl, (State.setCtx_setCtx _ _ _ _).2, fun _ _ => ?_, fun hn => absurd hn h⟩
    rw [State.setCtx_ctx_same, hset, ← hdrain]

theorem bitsOf_low_sixteen (v : Nat) : bitsOf v 15 0 = v % 65536 := by
  rw [bitsOf_eq_div]
  norm_num

/-- What CNT does on the state with its issue noted. -/
def cntBody (c : Ctx) (f : Fields) (t : State) : State :=
  match counterOffset (bitsOf f.imm.toNat 15 0) with
  | some off => t.retireX c f.dst (BitVec.ofNat 64 (t.reg off).toNat)
  | none => t.retire c codeBounds

theorem exec_cnt (s : State) (c : Ctx) (f : Fields) :
    exec (.cnt c f) s = .next (s.localOp c (.cnt c f) f [] true (cntBody c f)) := rfl

theorem cntBody_flagCounter {s : State} {c : Ctx} {f : Fields} (h : f.imm.toNat % 65536 < 0x14) :
    cntBody c f (s.noteIssue c) =
      (s.noteIssue c).retireX c f.dst ((s.reg (0x2100 + 4 * (f.imm.toNat % 65536))).zeroExtend 64) := by
  unfold cntBody counterOffset
  rw [bitsOf_low_sixteen, if_pos (by omega)]
  dsimp only
  rw [State.noteIssue_reg s c (by omega), BitVec.ofNat_toNat]

theorem cntBody_beyond {s : State} {c : Ctx} {f : Fields} (h : 0x46 ≤ f.imm.toNat % 65536) :
    cntBody c f s = s.retire c codeBounds := by
  unfold cntBody counterOffset
  rw [bitsOf_low_sixteen, if_neg (by omega), if_neg (by omega)]

/-- Settles O19: STEP moves its own context, SEED stages its seed, CNT ends with a counter or with BOUNDS. -/
theorem stepSeedAndCnt : Obligations.StepSeedAndCnt := by
  refine fun s c f hj => ⟨fun hi => ?_, fun hi => ?_, fun n hi hn => ⟨fun hlt => ?_, fun hge htrap => ?_⟩⟩
  · obtain ⟨heq, hother, hstep, hwait⟩ := stepBody_does (s.noteIssue c) c hi.staying
    obtain ⟨t, ht, hframe, hctx⟩ := localOp_journalFrame (f := f) [] false hi rfl hj (body := stepBody c) rfl heq hother
    exact ⟨t, by rw [exec_stepInsn, ht], hframe, fun ho hr => hctx.trans (hstep ho hr), fun h => ⟨hctx.trans (hwait h),
      fun i => State.canIssue_of_drain (by rw [hctx, hwait h]; nofun)⟩⟩
  · obtain ⟨t, ht, hctx, hother, hframe⟩ := localOp_effect (f := f) (k := codeOk)
      (v := { s.noteIssue c with seedNext := some ((s.ctx c).xr f.srcA) }) [] false hi rfl hj
      (body := fun t => ({ t with seedNext := some ((t.ctx c).xr f.srcA) } : State).retire c codeOk) rfl rfl (State.trapOn_ok _ _)
    refine ⟨t, congrArg _ ht, by rw [hframe], by rw [hframe]; rfl, hctx, fun d hd => (hother d hd).1, ?_⟩
    rw [hframe]
    rfl
  · subst hn
    obtain ⟨t, ht, hdoes⟩ := localOp_retiresX (f := f) [] true hi rfl hj (cntBody_flagCounter hlt)
    exact ⟨t, by rw [exec_cnt, ht], hdoes⟩
  · subst hn
    obtain ⟨t, ht, hdoes⟩ := localOp_retires (f := f) [] true hi rfl hj (cntBody_beyond hge) htrap
    exact ⟨t, by rw [exec_cnt, ht], hdoes⟩

/-! ### SAVE and RESTORE -/

theorem lowest_arm_checks (armed unaligned beyond : Bool) :
    lowest [(armed, codeOffside), (unaligned, codeAlign), (beyond, codeBounds)] =
      if armed then some codeOffside else if beyond then some codeBounds else if unaligned then some codeAlign else none := by
  revert armed unaligned beyond
  decide

/-- What SAVE and RESTORE do once their checks have answered. -/
def State.armAfter (s : State) (c : Ctx) (f : Fields) (r : Bool) (k : Option Byte) : State :=
  match k with
  | some k => s.retire c k
  | none => { s.setCtx c ((s.ctx c).after (s.ctx c).pc) with arm := some ⟨r, c, (s.ctx c).pc, ((s.ctx c).xr f.srcA).toNat⟩ }

theorem State.armAfter_answer (answer : List (Bool × Byte) → Option Byte) (s : State) (c : Ctx) (f : Fields) (r : Bool) :
    (let x := s.ctx c
     let a := (x.xr f.srcA).toNat
     match answer [(s.arm.isSome || s.saving.isSome, codeOffside), (decide (a % 4096 ≠ 0), codeAlign),
       (decide (s.stackBytes < a + saveBytes), codeBounds)] with
     | some k => s.retire c k
     | none => { s.setCtx c (x.after x.pc) with arm := some ⟨r, c, x.pc, a⟩ }) =
    s.armAfter c f r (answer [(s.arm.isSome || s.saving.isSome, codeOffside),
      (decide (((s.ctx c).xr f.srcA).toNat % 4096 ≠ 0), codeAlign),
      (decide (s.stackBytes < ((s.ctx c).xr f.srcA).toNat + saveBytes), codeBounds)]) := by
  dsimp only
  generalize answer _ = k
  cases k <;> rfl

/-- The function is unfolded as a whole: applied, the kernel would compare its match by evaluating the checks, whose sum with the
image's size it would count in unary. -/
theorem State.armImage_eq (s : State) (c : Ctx) (f : Fields) (r : Bool) :
    s.armImage c f r = s.armAfter c f r (lowest [(s.arm.isSome || s.saving.isSome, codeOffside),
      (decide (((s.ctx c).xr f.srcA).toNat % 4096 ≠ 0), codeAlign),
      (decide (s.stackBytes < ((s.ctx c).xr f.srcA).toNat + saveBytes), codeBounds)]) := by
  have hfun := Eq.refl State.armImage
  conv at hfun => rhs; delta State.armImage
  rw [hfun]
  exact State.armAfter_answer lowest s c f r

/-- An image is armed where none is, at an aligned address inside the stacks. -/
theorem State.armImage_arms {s : State} {c : Ctx} {f : Fields} {r : Bool} (harm : s.arm = none) (hsaving : s.saving = none)
    (halign : ((s.ctx c).xr f.srcA).toNat % 4096 = 0) (hinside : ((s.ctx c).xr f.srcA).toNat + saveBytes ≤ s.stackBytes) :
    s.armImage c f r = { s.setCtx c ((s.ctx c).after (s.ctx c).pc) with
      arm := some ⟨r, c, (s.ctx c).pc, ((s.ctx c).xr f.srcA).toNat⟩ } := by
  rw [State.armImage_eq, lowest_arm_checks, harm, hsaving, if_neg nofun, if_neg (by simpa using hinside), if_neg (by simpa using halign)]
  rfl

/-- Nothing is armed beside an image that is. -/
theorem State.armImage_refused {s : State} {c : Ctx} {f : Fields} {r : Bool} (harm : s.arm ≠ none) :
    s.armImage c f r = s.retire c codeOffside := by
  rw [State.armImage_eq, lowest_arm_checks, Option.isSome_iff_ne_none.2 harm, if_pos (Bool.true_or _)]
  rfl

/-- SAVE and RESTORE arm an image on the state with their issue noted. -/
theorem exec_armImage {s : State} {c : Ctx} {f : Fields} {i : Instr} {r : Bool}
    (h : i = .saveInsn c f ∧ r = false ∨ i = .restoreInsn c f ∧ r = true) :
    exec i s = .next (s.localOp c i f [] false fun t => t.armImage c f r) ∧ ∃ op, opcodeOf i = some (op, c, f) := by
  rcases h with ⟨rfl, rfl⟩ | ⟨rfl, rfl⟩
  · exact ⟨rfl, _, rfl⟩
  · exact ⟨rfl, _, rfl⟩

/-- Settles O20: an image is armed, or refused with OFFSIDE beside one that is. -/
theorem saveAndRestoreArm : Obligations.SaveAndRestoreArm := by
  intro s c f i r a hj hi hrow ha
  subst ha
  obtain ⟨hexec, op, hop⟩ := exec_armImage (s := s) hrow
  refine ⟨fun harm hsaving halign hinside => ?_, fun harm htrap => ?_⟩
  · have harms := State.armImage_arms (s := s.noteIssue c) (c := c) (f := f) (r := r) harm hsaving halign hinside
    obtain ⟨t, ht, -, hframe⟩ := localOp_does (f := f) (body := fun t => t.armImage c f r) [] false hi hop hj harms rfl
    have htc (d : Nat) : t.ctx d = (s.setCtx c ((s.ctx c).after (s.ctx c).pc)).ctx d := by rw [hframe]; rfl
    refine ⟨t, by rw [hexec, ht], by rw [hframe]; rfl, (htc c).trans (State.setCtx_ctx_same _ _ _),
      fun d hd => (htc d).trans (State.setCtx_ctx_other _ _ hd), ?_⟩
    rw [hframe]
    rfl
  · obtain ⟨t, ht, hdoes⟩ := localOp_retires (f := f) (k := codeOffside) (body := fun t => t.armImage c f r) [] false hi hop hj
      (State.armImage_refused (s := s.noteIssue c) (c := c) (f := f) (r := r) harm) htrap
    exact ⟨t, by rw [hexec, ht], hdoes⟩

end Sys2Proof.Machine
end

section
/-! PROOF. Host control: flags and interrupts (R366, R370, R382), the entries of `SEQ_CTX_CTRL` (R57, R59), and whistles (R54, R378). -/

namespace Sys2Proof.Machine

open Safety

/-! ### Flags and interrupts -/

/-- Before K1 ends a host write does nothing (R323). -/
theorem State.hostWrite_unserved {s : State} (off : Nat) (body : State → Byte × State) (h : s.served = false) :
    s.hostWrite off body = s := by
  unfold State.hostWrite
  rw [h]
  rfl

/-- Before K8 a write outside the Referee and the observation port ends with OFFSIDE (R323, R370). -/
theorem State.hostWrite_early {s : State} {off : Nat} (body : State → Byte × State) (hserved : s.served = true)
    (hpre : s.preService = true) (href : refereeOffset off = false) (hobs : observeOffset off = false) :
    s.hostWrite off body = s.wstat off codeOffside := by
  unfold State.hostWrite
  simp only [hserved, hpre, href, hobs, Bool.not_true, Bool.not_false, Bool.and_self, Bool.false_eq_true, if_false, if_true]

/-- A refused write counts. -/
theorem State.wstat_counts {s : State} {off : Nat} {k : Byte} (h : k ≠ codeOk) : (s.wstat off k).reg 0x3024 = s.reg 0x3024 + 1 := by
  unfold State.wstat
  dsimp only
  rw [if_neg h, State.bump_reg_same, State.setReg_reg_other _ _ (by decide)]
  rfl

/-- A host write that takes a value into its own register. -/
theorem hostWrite_setReg {s : State} {off : Nat} {v : Word} {body : State → Byte × State} (hready : HostReady s off)
    (hbody : body s = (codeOk, s.setReg off v)) (hoff : off ≠ 0x3020) :
    ∃ t, s.hostWrite off body = t ∧ WriteCode t off codeOk ∧ t.reg off = v ∧
      (∀ o, o ≠ off → o ≠ 0x3020 → t.reg o = s.reg o) ∧ t = { acked s with regs := t.regs } := by
  obtain ⟨hcode, hreg, heq⟩ := State.wstat_does (s.setReg off v) off codeOk
  refine ⟨_, by rw [State.hostWrite_ready hready, hbody], hcode, ?_, fun o ho h3020 => ?_, ?_⟩
  · rw [hreg off hoff (.inl rfl), State.setReg_reg_same]
  · rw [hreg o h3020 (.inl rfl), State.setReg_reg_other _ _ ho]
  · rw [heq]
    rfl

theorem exec_flagClear (s : State) (mask : Word) :
    exec (.flagClear mask) s = .next (s.hostWrite 0x2000 fun t => t.flagClear mask) := rfl

theorem exec_intPendClear (s : State) (mask : Word) :
    exec (.intPendClear mask) s = .next (s.hostWrite 0x2800 fun t => t.pendClear mask) := rfl

/-- Settles O26: the two clears are host writes that take a value into their own register. -/
theorem flagAndInterruptClear : Obligations.FlagAndInterruptClear := by
  refine fun s mask => ⟨fun hserved => ⟨?_, ?_⟩, fun hserved hpre i off hrow => ?_, fun hready => ?_, fun hready => ?_⟩
  · rw [exec_flagClear, State.hostWrite_unserved _ _ hserved]
  · rw [exec_intPendClear, State.hostWrite_unserved _ _ hserved]
  · have hexec : exec i s = .next (s.wstat off codeOffside) := by
      rcases hrow with ⟨rfl, rfl⟩ | ⟨rfl, rfl⟩
      · rw [exec_flagClear, State.hostWrite_early _ hserved hpre rfl rfl]
      · rw [exec_intPendClear, State.hostWrite_early _ hserved hpre rfl rfl]
    obtain ⟨hcode, hreg, heq⟩ := State.wstat_does s off codeOffside
    exact ⟨_, hexec, hcode, State.wstat_counts (by decide), fun o h20 h24 => hreg o h20 (.inr h24), heq⟩
  · obtain ⟨t, ht, hdoes⟩ := hostWrite_setReg hready (body := fun t => t.flagClear mask) rfl (by decide)
    exact ⟨t, by rw [exec_flagClear, ht], hdoes⟩
  · obtain ⟨t, ht, hdoes⟩ := hostWrite_setReg hready (body := fun t => t.pendClear mask) rfl (by decide)
    exact ⟨t, by rw [exec_intPendClear, ht], hdoes⟩

/-! ### The entries of `SEQ_CTX_CTRL` -/

/-- The bits that act in a write with one entry and CLRERR beside it or not. -/
theorem ctrl_acts : ∀ bit ∈ [0, 1, 2, 3, 5], ∀ clr,
    ([0, 1, 2, 3, 5].filter fun i => (BitVec.ofNat 32 (2 ^ bit + 16 * b2n clr)).getLsbD i) = [bit] ∧
    (BitVec.ofNat 32 (2 ^ bit + 16 * b2n clr)).getLsbD 4 = clr := by
  decide

/-- An entry that the context's state allows acts on the state that CLRERR left. -/
theorem State.ctrlWrite_acts {s : State} {c bit : Nat} (clr : Bool) (hbit : bit ∈ [0, 1, 2, 3, 5]) (hc : c < 4 * s.nSeq)
    (hallowed : ctrlAllowed (s.ctx c).st bit = true) :
    s.ctrlWrite c (BitVec.ofNat 32 (2 ^ bit + 16 * b2n clr)) = (codeOk, (s.cleared c clr).ctrlAct c bit) := by
  obtain ⟨hacts, hclr⟩ := ctrl_acts bit hbit clr
  have hseq : ¬ s.nSeq ≤ c / 4 := by omega
  unfold State.ctrlWrite
  simp only [hacts, hclr, hseq, if_false]
  simp [hallowed, State.cleared]

/-- An entry that the context's state does not allow is refused, CLRERR beside it or not. -/
theorem State.ctrlWrite_refused {s : State} {c bit : Nat} (clr : Bool) (hbit : bit ∈ [0, 1, 2, 3, 5]) (hc : c < 4 * s.nSeq)
    (hallowed : ctrlAllowed (s.ctx c).st bit = false) :
    s.ctrlWrite c (BitVec.ofNat 32 (2 ^ bit + 16 * b2n clr)) = (codeOffside, s) := by
  obtain ⟨hacts, hclr⟩ := ctrl_acts bit hbit clr
  have hseq : ¬ s.nSeq ≤ c / 4 := by omega
  unfold State.ctrlWrite
  simp only [hacts, hseq, if_false]
  simp [hallowed]

/-- CLRERR alone. -/
theorem State.ctrlWrite_clrerr {s : State} {c : Nat} (hc : c < 4 * s.nSeq) : s.ctrlWrite c 16#32 = (codeOk, s.cleared c true) := by
  have hseq : ¬ s.nSeq ≤ c / 4 := by omega
  unfold State.ctrlWrite
  simp only [hseq, if_false]
  rfl

/-- What an entry of `SEQ_CTX_CTRL` leaves of the context `x` it acts on: registers, loops and recorded codes, and every other
context and every register of the window. -/
structure CtrlKeeps (s : State) (c : Nat) (x : Context) (t : State) : Prop where
  first : (t.ctx c).first = x.first
  firstPc : (t.ctx c).firstPc = x.firstPc
  regs : ∀ r, (t.ctx c).xr r = x.xr r
  loops : (t.ctx c).loops = x.loops
  others : ∀ d, d ≠ c → t.ctx d = s.ctx d
  window : ∀ o, t.reg o = s.reg o

theorem ctrlKeeps_setCtx (s : State) (c : Nat) (y : Context) : CtrlKeeps s c y (s.setCtx c y) :=
  ⟨by rw [State.setCtx_ctx_same], by rw [State.setCtx_ctx_same], fun r => by rw [State.setCtx_ctx_same],
    by rw [State.setCtx_ctx_same], fun _ hd => State.setCtx_ctx_other _ _ hd, fun _ => rfl⟩

/-- Giving up the journal's last entry changes the Referee's state alone. -/
theorem State.dropOpen_eq (s : State) (c : Nat) : s.dropOpen c = { s with ref := (s.dropOpen c).ref } := by
  unfold State.dropOpen
  split
  · split <;> rfl
  · rfl

/-- HALT sets a context on its way to HALTED, released from a sync object that it waited for. -/
theorem State.haltCtx_eq (s : State) (c : Nat) : ∃ (u : State) (st : CtxState) (w : WaitOn), s.haltCtx c = u.drained c ∧
    u = { s with ctxs := Tab.set Context.reset s.ctxs c { s.ctx c with st := st, wait := w, drain := .toHalted }, ref := u.ref } := by
  have hdrop (p : Prop) [Decidable p] : (if p then s.dropOpen c else s) = { s with ref := (if p then s.dropOpen c else s).ref } := by
    split
    · exact s.dropOpen_eq c
    · rfl
  unfold State.haltCtx
  dsimp only
  split
  · exact ⟨_, _, _, rfl, by rw [s.dropOpen_eq c]; rfl⟩
  · exact ⟨_, (s.ctx c).st, (s.ctx c).wait, rfl, by rw [hdrop]; rfl⟩

/-- A context without work outstanding that is on its way to HALTED is HALTED. -/
theorem State.drained_toHalted {s : State} {c : Nat} (ho : s.outstanding c = 0) (hr : s.remoteOpen c = false)
    (hd : (s.ctx c).drain = .toHalted) : s.drained c = s.setCtx c { s.ctx c with st := .halted, drain := .no, trapDue := false } := by
  unfold State.drained
  simp only [ho, hr, hd, ne_eq, not_true_eq_false, Bool.false_eq_true, or_self, if_false]

/-- HALT: at once without work outstanding, and on the way to HALTED with it. -/
theorem State.haltCtx_does (s : State) (c : Nat) :
    CtrlKeeps s c (s.ctx c) (s.haltCtx c) ∧ ((s.haltCtx c).ctx c).pc = (s.ctx c).pc ∧
    (s.outstanding c = 0 → s.remoteOpen c = false → ((s.haltCtx c).ctx c).st = .halted) ∧
    (s.outstanding c ≠ 0 ∨ s.remoteOpen c = true → ((s.haltCtx c).ctx c).drain = .toHalted) := by
  obtain ⟨u, st, w, hhalt, hu⟩ := s.haltCtx_eq c
  rw [hhalt]
  have hctx : u.ctx c = { s.ctx c with st := st, wait := w, drain := .toHalted } := by
    rw [hu]
    exact State.setCtx_ctx_same _ _ _
  have hother (d : Nat) (hd : d ≠ c) : u.ctx d = s.ctx d := by
    rw [hu]
    exact State.setCtx_ctx_other s _ hd
  have hreg (o : Nat) : u.reg o = s.reg o := by rw [hu]; rfl
  have hout : u.outstanding c = s.outstanding c := by rw [hu]; rfl
  have hopen : u.remoteOpen c = s.remoteOpen c := by rw [hu]; rfl
  by_cases h : s.outstanding c ≠ 0 ∨ s.remoteOpen c = true
  · rw [State.drained_waits (by rwa [hout, hopen])]
    exact ⟨⟨by rw [hctx], by rw [hctx], fun r => by rw [hctx]; rfl, by rw [hctx], hother, hreg⟩, by rw [hctx],
      fun ho hr => by simp [ho, hr] at h, fun _ => by rw [hctx]⟩
  · have ho : s.outstanding c = 0 := Classical.not_not.1 fun hne => h (.inl hne)
    have hr : s.remoteOpen c = false := Bool.eq_false_iff.2 fun hne => h (.inr hne)
    rw [State.drained_toHalted (hout.trans ho) (hopen.trans hr) (by rw [hctx])]
    obtain ⟨hfirst, hfirstPc, hregs, hloops, hothers, hwindow⟩ :=
      ctrlKeeps_setCtx u c { u.ctx c with st := .halted, drain := .no, trapDue := false }
    have hend := State.setCtx_ctx_same u c { u.ctx c with st := .halted, drain := .no, trapDue := false }
    exact ⟨⟨hfirst.trans (by rw [hctx]), hfirstPc.trans (by rw [hctx]), fun r => (hregs r).trans (by rw [hctx]; rfl),
      hloops.trans (by rw [hctx]), fun d hd => (hothers d hd).trans (hother d hd), fun o => (hwindow o).trans (hreg o)⟩,
      by rw [hend, hctx], fun _ _ => by rw [hend], fun hn => absurd hn h⟩

theorem State.continueCtx_does (s : State) (c pc : Nat) :
    CtrlKeeps s c (s.ctx c) (s.continueCtx c pc) ∧ ((s.continueCtx c pc).ctx c).st = .running ∧ ((s.continueCtx c pc).ctx c).pc = pc := by
  unfold State.continueCtx
  obtain ⟨hfirst, hfirstPc, hregs, hloops, hothers, hwindow⟩ :=
    ctrlKeeps_setCtx s c { s.ctx c with st := .running, pc := pc, precise := false, wait := .nothing, drain := .no }
  exact ⟨⟨hfirst, hfirstPc, hregs, hloops, hothers, hwindow⟩, by rw [State.setCtx_ctx_same], by rw [State.setCtx_ctx_same]⟩

theorem State.freeCtx_does (s : State) (c : Nat) :
    CtrlKeeps s c (s.ctx c) (s.ctrlAct c 5) ∧ ((s.ctrlAct c 5).ctx c).st = .free := by
  obtain ⟨hfirst, hfirstPc, hregs, hloops, hothers, hwindow⟩ :=
    ctrlKeeps_setCtx s c { s.ctx c with st := .free, wait := .nothing, drain := .no }
  exact ⟨⟨hfirst, hfirstPc, hregs, hloops, hothers, hwindow⟩,
    congrArg Context.st (State.setCtx_ctx_same s c { s.ctx c with st := .free, wait := .nothing, drain := .no })⟩

/-- The context that an entry acts on: FIRST and FIRSTPC are cleared by CLRERR and stand without it. -/
theorem State.cleared_ctx (s : State) (c : Nat) (clr : Bool) :
    (s.cleared c clr).ctx c = if clr then { s.ctx c with first := 0, firstPc := 0 } else s.ctx c := by
  cases clr with
  | true => exact State.setCtx_ctx_same _ _ _
  | false => rfl

/-- What the entries of `SEQ_CTX_CTRL` have in common once they have completed. -/
structure CtrlEnds (s : State) (c : Nat) (clr : Bool) (t : State) : Prop where
  code : WriteCode t (ctxBase c) codeOk
  clears : clr = true → (t.ctx c).first = 0 ∧ (t.ctx c).firstPc = 0
  stands : clr = false → (t.ctx c).first = (s.ctx c).first ∧ (t.ctx c).firstPc = (s.ctx c).firstPc
  regs : ∀ r, (t.ctx c).xr r = (s.ctx c).xr r
  loops : (t.ctx c).loops = (s.ctx c).loops
  others : ∀ d, d ≠ c → t.ctx d = s.ctx d
  window : ∀ o, o ≠ 0x3020 → t.reg o = s.reg o

/-- An entry that keeps what CLRERR left, and whose code enters the write status. -/
theorem ctrlEnds_wstat {s t : State} {c : Nat} {clr : Bool}
    (h : CtrlKeeps (s.cleared c clr) c ((s.cleared c clr).ctx c) t) : CtrlEnds s c clr (t.wstat (ctxBase c) codeOk) := by
  obtain ⟨hfirst, hfirstPc, hregs, hloops, hothers, hwindow⟩ := h
  obtain ⟨hcode, hreg, -⟩ := State.wstat_does t (ctxBase c) codeOk
  obtain ⟨hclrOthers, hclrReg, -⟩ := State.cleared_does s c clr
  rw [State.cleared_ctx] at hfirst hfirstPc hregs hloops
  refine ⟨hcode, ?_, ?_, ?_, ?_, fun d hd => ?_, fun o ho => ?_⟩
  case refine_5 => rw [State.wstat_ctx, hothers d hd, hclrOthers d hd]
  case refine_6 => rw [hreg o ho (.inl rfl), hwindow, hclrReg]
  all_goals
    rw [State.wstat_ctx]
    cases clr
  case refine_1.false | refine_2.true => nofun
  · exact fun _ => ⟨hfirst, hfirstPc⟩
  · exact fun _ => ⟨hfirst, hfirstPc⟩
  · exact hregs
  · exact hregs
  · exact hloops
  · exact hloops

/-- An allowed entry completes. -/
theorem ctrlBit_completes {s : State} {c : Ctx} {bit : Nat} (clr : Bool) (hready : HostReady s (ctxBase c)) (hc : c.val < 4 * s.nSeq)
    (hbit : bit ∈ [0, 1, 2, 3, 5]) (hallowed : ctrlAllowed (s.ctx c).st bit = true) :
    s.ctrlBit c bit clr = ((s.cleared c clr).ctrlAct c bit).wstat (ctxBase c) codeOk := by
  unfold State.ctrlBit
  rw [State.hostWrite_ready hready, State.ctrlWrite_acts clr hbit hc hallowed]

/-- An entry that is not allowed changes nothing beside the write status. -/
theorem ctrlBit_refused {s : State} {c : Ctx} {bit : Nat} (clr : Bool) (hready : HostReady s (ctxBase c)) (hc : c.val < 4 * s.nSeq)
    (hbit : bit ∈ [0, 1, 2, 3, 5]) (hallowed : ctrlAllowed (s.ctx c).st bit = false) :
    WriteCode (s.ctrlBit c bit clr) (ctxBase c) codeOffside ∧
      s.ctrlBit c bit clr = { acked s with regs := (s.ctrlBit c bit clr).regs } := by
  obtain ⟨hcode, hframe, -⟩ := State.hostWrite_refused hready
    (body := fun t => t.ctrlWrite c (BitVec.ofNat 32 (2 ^ bit + 16 * b2n clr))) (State.ctrlWrite_refused clr hbit hc hallowed) (by unfold ctxBase; omega)
  exact ⟨hcode, hframe⟩

/-- Settles O28: an allowed entry acts on the state that CLRERR left, and one that is not allowed is refused as a whole. -/
theorem contextControl : Obligations.ContextControl := by
  refine ⟨fun s c clr i hready hc hrow => ?_, fun s c clr i hready hc hrow => ?_⟩
  · have hst : ((s.cleared c clr).ctx c).st = (s.ctx c).st := by rw [State.cleared_ctx]; cases clr <;> rfl
    have hpc : ((s.cleared c clr).ctx c).pc = (s.ctx c).pc := by rw [State.cleared_ctx]; cases clr <;> rfl
    have hout : (s.cleared c clr).outstanding c = s.outstanding c := by cases clr <;> rfl
    have hopen : (s.cleared c clr).remoteOpen c = s.remoteOpen c := by cases clr <;> rfl
    rcases hrow with ⟨rfl, hallowed⟩ | ⟨rfl, hallowed⟩ | ⟨rfl, hfree, hhalted⟩ | ⟨rfl, hallowed⟩ | ⟨rfl, rfl⟩
    · obtain ⟨hkeeps, hrun, hat⟩ := (s.cleared c clr).continueCtx_does c ((s.cleared c clr).ctx c).pc
      obtain ⟨hcode, hclears, hstands, hregs, hloops, hothers, hwindow⟩ := ctrlEnds_wstat hkeeps
      refine ⟨_, congrArg Host.Outcome.next (ctrlBit_completes clr hready hc (bit := 2) (by decide) (by simpa [ctrlAllowed] using hallowed)),
        hcode, fun _ => ⟨?_, ?_⟩, nofun, nofun, nofun, nofun, hclears, hstands, hregs, hloops, hothers, hwindow⟩
      · rw [State.wstat_ctx]
        exact hrun
      · rw [State.wstat_ctx]
        exact hat.trans hpc
    · obtain ⟨hkeeps, hrun, hat⟩ := (s.cleared c clr).continueCtx_does c (((s.cleared c clr).ctx c).pc + 8)
      obtain ⟨hcode, hclears, hstands, hregs, hloops, hothers, hwindow⟩ := ctrlEnds_wstat hkeeps
      refine ⟨_, congrArg Host.Outcome.next (ctrlBit_completes clr hready hc (bit := 3) (by decide) (by simpa [ctrlAllowed] using hallowed)),
        hcode, nofun, fun _ => ⟨?_, ?_⟩, nofun, nofun, nofun, hclears, hstands, hregs, hloops, hothers, hwindow⟩
      · rw [State.wstat_ctx]
        exact hrun
      · rw [State.wstat_ctx, ← hpc]
        exact hat
    · obtain ⟨hkeeps, hat, hdone, hdrain⟩ := (s.cleared c clr).haltCtx_does c
      obtain ⟨hcode, hclears, hstands, hregs, hloops, hothers, hwindow⟩ := ctrlEnds_wstat hkeeps
      refine ⟨_, congrArg Host.Outcome.next (ctrlBit_completes clr hready hc (bit := 1) (by decide) (by simp [ctrlAllowed, hfree, hhalted])),
        hcode, nofun, nofun, fun _ => ⟨?_, fun ho hr => ?_, fun h => ?_⟩, nofun, nofun, hclears, hstands, hregs, hloops, hothers, hwindow⟩
      all_goals rw [State.wstat_ctx]
      · exact hat.trans hpc
      · exact hdone (hout.trans ho) (hopen.trans hr)
      · exact hdrain (by rwa [hout, hopen])
    · obtain ⟨hkeeps, hfreed⟩ := (s.cleared c clr).freeCtx_does c
      obtain ⟨hcode, hclears, hstands, hregs, hloops, hothers, hwindow⟩ := ctrlEnds_wstat hkeeps
      refine ⟨_, congrArg Host.Outcome.next (ctrlBit_completes clr hready hc (bit := 5) (by decide) (by simpa [ctrlAllowed] using hallowed)),
        hcode, nofun, nofun, nofun, fun _ => ?_, nofun, hclears, hstands, hregs, hloops, hothers, hwindow⟩
      rw [State.wstat_ctx]
      exact hfreed
    · have hkeeps : CtrlKeeps (s.cleared c true) c ((s.cleared c true).ctx c) (s.cleared c true) :=
        ⟨rfl, rfl, fun _ => rfl, rfl, fun _ _ => rfl, fun _ => rfl⟩
      obtain ⟨hcode, hclears, hstands, hregs, hloops, hothers, hwindow⟩ := ctrlEnds_wstat hkeeps
      have hexec : exec (.ctxClrerr c) s = .next ((s.cleared c true).wstat (ctxBase c) codeOk) := by
        show Host.Outcome.next (s.hostWrite (ctxBase c) fun t => t.ctrlWrite c 16#32) = _
        rw [State.hostWrite_ready hready, State.ctrlWrite_clrerr hc]
      refine ⟨_, hexec, hcode, nofun, nofun, nofun, nofun, fun _ => ?_, hclears, hstands, hregs, hloops, hothers, hwindow⟩
      rw [State.wstat_ctx]
      exact hst
  · obtain ⟨bit, hexec, hbit, hallowed⟩ : ∃ bit, exec i s = .next (s.ctrlBit c bit clr) ∧ bit ∈ [0, 1, 2, 3, 5] ∧
        ctrlAllowed (s.ctx c).st bit = false := by
      rcases hrow with ⟨rfl, h⟩ | ⟨rfl, h⟩ | ⟨rfl, h⟩ | ⟨rfl, h⟩ | ⟨rfl, h⟩
      · exact ⟨0, rfl, by decide, by simpa [ctrlAllowed] using h⟩
      · exact ⟨2, rfl, by decide, by simpa [ctrlAllowed] using h⟩
      · exact ⟨3, rfl, by decide, by simpa [ctrlAllowed] using h⟩
      · exact ⟨1, rfl, by decide, by rcases h with h | h <;> simp [ctrlAllowed, h]⟩
      · exact ⟨5, rfl, by decide, by simpa [ctrlAllowed] using h⟩
    obtain ⟨hcode, hframe⟩ := ctrlBit_refused clr hready hc hbit hallowed
    exact ⟨_, hexec, hcode, hframe⟩

/-! ### Whistles -/

/-- A member of the step group as `State.releaseAll` treats it. -/
def State.releaseOne (s : State) (c : Nat) : State :=
  let x := s.ctx c
  if x.st ≠ CtxState.stepwait then s else
  let u := s.setCtx c x.stepped
  if x.trapDue then u.trap c (u.ctx c).pc false else u

theorem State.releaseAll_eq (s : State) : s.releaseAll = s.group.foldl State.releaseOne { s with boundary := false } := rfl

theorem State.releaseOne_ctx_other (s : State) {c d : Nat} (h : d ≠ c) : (s.releaseOne c).ctx d = s.ctx d := by
  unfold State.releaseOne
  dsimp only
  split
  · rfl
  · split
    · rw [(State.trap_does _ _ _ _).2.1 d h, State.setCtx_ctx_other _ _ h]
    · exact State.setCtx_ctx_other _ _ h

/-- A context outside STEPWAIT stays. -/
theorem State.releaseOne_of_not_stepwait {s : State} {c : Nat} (h : (s.ctx c).st ≠ .stepwait) : s.releaseOne c = s := by
  unfold State.releaseOne
  exact if_pos h

/-- A member in STEPWAIT without a trap due goes on behind its STEP. -/
theorem State.releaseOne_ctx_same {s : State} {c : Nat} (hst : (s.ctx c).st = .stepwait) (htrap : (s.ctx c).trapDue = false) :
    (s.releaseOne c).ctx c = (s.ctx c).stepped := by
  unfold State.releaseOne
  simp only [hst, htrap, ne_eq, not_true_eq_false, Bool.false_eq_true, if_false]
  exact State.setCtx_ctx_same _ _ _

/-- Beside contexts and registers the release of a member changes nothing. -/
theorem State.releaseOne_eq (s : State) (c : Nat) :
    s.releaseOne c = { s with ctxs := (s.releaseOne c).ctxs, regs := (s.releaseOne c).regs } := by
  unfold State.releaseOne
  dsimp only
  split
  · rfl
  · split
    · exact (State.trap_does _ _ _ _).2.2.2.2
    · rfl

theorem State.releaseFold_eq (l : List Nat) (s : State) :
    l.foldl State.releaseOne s = { s with ctxs := (l.foldl State.releaseOne s).ctxs, regs := (l.foldl State.releaseOne s).regs } := by
  induction l generalizing s with
  | nil => rfl
  | cons c l ih =>
    rw [List.foldl_cons, ih (s.releaseOne c), State.releaseOne_eq]

/-- A context that is out of STEPWAIT stays as it is through the release of the members. -/
theorem State.releaseFold_ctx_released {l : List Nat} {s : State} {c : Nat} (h : (s.ctx c).st ≠ .stepwait) :
    (l.foldl State.releaseOne s).ctx c = s.ctx c := by
  induction l generalizing s with
  | nil => rfl
  | cons d l ih =>
    have hstep : (s.releaseOne d).ctx c = s.ctx c := by
      by_cases hd : c = d
      · rw [← hd, State.releaseOne_of_not_stepwait h]
      · exact State.releaseOne_ctx_other s hd
    rw [List.foldl_cons, ih (by rwa [hstep]), hstep]

/-- Every member in STEPWAIT without a trap due goes on behind its STEP. -/
theorem State.releaseFold_ctx {l : List Nat} {s : State} {c : Nat} (hc : c ∈ l) (hst : (s.ctx c).st = .stepwait)
    (htrap : (s.ctx c).trapDue = false) : (l.foldl State.releaseOne s).ctx c = (s.ctx c).stepped := by
  induction l generalizing s with
  | nil => nomatch hc
  | cons d l ih =>
    rw [List.foldl_cons]
    by_cases hd : c = d
    · subst hd
      have hstep := State.releaseOne_ctx_same hst htrap
      rw [State.releaseFold_ctx_released (by rw [hstep]; nofun), hstep]
    · have hstep := State.releaseOne_ctx_other s hd
      rw [ih ((List.mem_cons.1 hc).resolve_left hd) (by rw [hstep, hst]) (by rw [hstep, htrap]), hstep]

/-- A grant while no boundary waits, within 255. -/
theorem State.grant_stands {s : State} {n : Nat} (hb : s.boundary = false) (h : s.standing + n ≤ 255) :
    s.grant n = (codeOk, { s with standing := s.standing + n }) := by
  unfold State.grant
  simp only [hb, Bool.false_eq_true, if_false, Nat.not_lt.2 h]
  split
  · next hn =>
    rw [hn, Nat.add_zero, ← hb]
  · rfl

theorem State.grant_refused {s : State} {n : Nat} (hb : s.boundary = false) (hn : n ≠ 0) (h : 255 < s.standing + n) :
    s.grant n = (codeOffside, s) := by
  unfold State.grant
  simp only [hb, Bool.false_eq_true, if_false, hn, h, if_true]

theorem State.grant_releases {s : State} {n : Nat} (hb : s.boundary = true) (hs : s.standing = 0) (hn : n ≠ 0) (h : n ≤ 255) :
    s.grant n = (codeOk, { s.releaseAll with standing := n - 1 }) := by
  unfold State.grant
  simp only [hb, hs, if_true, hn, if_false, Nat.zero_add, show ¬ 255 < n - 1 by omega]

/-- A write of `GCTL_WHISTLE` without CLEAR is its grant. -/
theorem State.whistleWrite_grant (s : State) (n : Byte) : s.whistleWrite (word n.toNat) = s.grant n.toNat := by
  have hn : bitsOf (word n.toNat).toNat 7 0 = n.toNat := by
    have := n.isLt
    rw [bitsOf_low_byte, word, BitVec.toNat_ofNat]
    omega
  have hclear : (word n.toNat).getLsbD 31 = false := by
    have := n.isLt
    rw [word, BitVec.getLsbD, BitVec.toNat_ofNat]
    exact Nat.testBit_lt_two_pow (by omega)
  unfold State.whistleWrite
  rw [hn, hclear]
  rfl

theorem exec_whistleGrant {s : State} {n k : Byte} {t : State} (hready : HostReady s 0x3030) (h : s.grant n.toNat = (k, t)) :
    exec (.whistleGrant n) s = .next (t.wstat 0x3030 k) := by
  show Host.Outcome.next (s.hostWrite 0x3030 fun t => t.whistleWrite (word n.toNat)) = _
  rw [State.hostWrite_ready hready, State.whistleWrite_grant, h]

theorem exec_whistleClear {s : State} (hready : HostReady s 0x3030) :
    exec .whistleClear s = .next (({ s with standing := 0 } : State).wstat 0x3030 codeOk) :=
  congrArg Host.Outcome.next (State.hostWrite_ready hready _)

/-- Settles O31: a grant adds to the standing count, is refused past 255, or releases the members of a boundary that waits. -/
theorem whistles : Obligations.Whistles := by
  refine fun s n hready => ⟨fun hb hsum => ?_, fun hb hn hsum => ?_, fun hb hs hn => ?_, ?_⟩
  · obtain ⟨hcode, -, heq⟩ := State.wstat_does { s with standing := s.standing + n.toNat } 0x3030 codeOk
    refine ⟨_, exec_whistleGrant hready (State.grant_stands hb hsum), hcode, ?_⟩
    rw [heq]
    exact ⟨rfl, rfl, hb, rfl⟩
  · have hpos : n.toNat ≠ 0 := fun h => hn (BitVec.eq_of_toNat_eq h)
    obtain ⟨hcode, -, heq⟩ := State.wstat_does s 0x3030 codeOffside
    refine ⟨_, exec_whistleGrant hready (State.grant_refused hb hpos hsum), hcode, ?_, heq⟩
    rw [heq]
    rfl
  · have hpos : n.toNat ≠ 0 := fun h => hn (BitVec.eq_of_toNat_eq h)
    obtain ⟨hcode, -, heq⟩ := State.wstat_does { s.releaseAll with standing := n.toNat - 1 } 0x3030 codeOk
    refine ⟨_, exec_whistleGrant hready (State.grant_releases hb hs hpos (by have := n.isLt; omega)), hcode, ?_, ?_, ?_⟩
    · rw [heq]
      rfl
    · rw [heq, State.releaseAll_eq, State.releaseFold_eq]
      rfl
    · intro c hc hst htrap
      rw [State.wstat_ctx]
      exact congrArg Context.st (State.releaseFold_ctx (s := { s with boundary := false }) hc hst htrap)
  · obtain ⟨hcode, -, heq⟩ := State.wstat_does { s with standing := 0 } 0x3030 codeOk
    exact ⟨_, exec_whistleClear hready, hcode, by rw [heq]; rfl, heq⟩

end Sys2Proof.Machine
end

section
/-! PROOF. Fetch events (R37, R43, R44) and the waiters of a sync object (R51). -/

namespace Sys2Proof.Machine

open Safety

/-! ### Traps at fetch -/

theorem exec_undefinedInstruction {s : State} {c : Ctx} (hissue : s.atIssue c = true) (hfetch : s.fetchable (s.ctx c).pc = true)
    (hheld : s.icHeld c (s.ctx c).pc = true) (hword : decodeWord c (s.psWord (s.ctx c).pc) = none) :
    exec (.undefinedInstruction c) s = .next ((s.icTouch c (s.ctx c).pc).trapAlways c codeFormat) := by
  show Host.Outcome.next (if s.atIssue c && s.fetchable (s.ctx c).pc && s.icHeld c (s.ctx c).pc &&
    (decodeWord c (s.psWord (s.ctx c).pc)).isNone then (s.icTouch c (s.ctx c).pc).trapAlways c codeFormat else s) = _
  rw [hissue, hfetch, hheld, hword]
  rfl

/-- A fetch that traps does so on a state that differs from the one before it in the order of cache use alone. -/
theorem exec_fetchTrap {s : State} {c : Ctx} {i : Instr} {k : Byte} (hissue : s.atIssue c = true)
    (h : i = .undefinedInstruction c ∧ k = codeFormat ∧ s.fetchable (s.ctx c).pc = true ∧ s.icHeld c (s.ctx c).pc = true ∧
        decodeWord c (s.psWord (s.ctx c).pc) = none ∨
      i = .unlockedRegionFetch c ∧ k = codeOffside ∧ s.fetchable (s.ctx c).pc = false) :
    ∃ m, exec i s = .next (({ s with icache := m } : State).trapAlways c k) := by
  rcases h with ⟨rfl, rfl, hfetch, hheld, hword⟩ | ⟨rfl, rfl, hfetch⟩
  · exact ⟨_, exec_undefinedInstruction hissue hfetch hheld hword⟩
  · exact ⟨s.icache, exec_unlockedRegionFetch hissue hfetch⟩

/-! ### The instruction cache -/

/-- The line touched is the most recently used of its set, which holds at most four. -/
theorem State.icTouch_line (s : State) (c pc : Nat) :
    Tab.get [] (s.icTouch c pc).icache (icSet c pc) =
      ((pc / 64) :: (Tab.get [] s.icache (icSet c pc)).filter (fun k => k ≠ pc / 64)).take 4 := by
  unfold State.icTouch Tab.upd
  dsimp only
  rw [Tab.get_set_same]

/-- A fill leaves the other sets, and everything beside the cache. -/
theorem State.icFill_eq (s : State) (c pc : Nat) : s.icFill c pc = { s with icache := (s.icFill c pc).icache } := by
  unfold State.icFill
  split <;> rfl

theorem State.icFill_other (s : State) (c : Nat) {pc pc' : Nat} (h : icSet c pc' ≠ icSet c pc) :
    Tab.get [] (s.icFill c pc).icache (icSet c pc') = Tab.get [] s.icache (icSet c pc') := by
  unfold State.icFill
  split
  · rfl
  · unfold State.icTouch Tab.upd
    dsimp only
    rw [Tab.get_set_other _ _ _ h]

/-- The line after another lies in another set. -/
theorem icSet_next (c pc : Nat) : icSet c pc ≠ icSet c (pc + 64) := by
  unfold icSet
  omega

theorem State.icFill_missing {s : State} {c pc : Nat} (hheld : s.icHeld c pc = false) (hin : pc < psBytes) :
    s.icFill c pc = s.icTouch c pc := by
  unfold State.icFill
  rw [hheld, decide_eq_false (Nat.not_le.2 hin)]
  rfl

theorem State.pc_lt_of_fetchable {s : State} {pc : Nat} (h : s.fetchable pc = true) : pc < psBytes := by
  unfold State.fetchable at h
  rw [Bool.and_eq_true, decide_eq_true_eq] at h
  exact h.1

/-- The fill of a miss: the line of the next instruction is held and most recently used, and the miss is counted. -/
theorem icacheMissFill_does {s : State} {c : Ctx} (hissue : s.atIssue c = true) (hfetch : s.fetchable (s.ctx c).pc = true)
    (hheld : s.icHeld c (s.ctx c).pc = false) :
    ∃ t, exec (.icacheMissFill c) s = .next t ∧ t.icHeld c (s.ctx c).pc = true ∧
      (Tab.get [] t.icache (icSet c (s.ctx c).pc)).head? = some ((s.ctx c).pc / 64) ∧
      (Tab.get [] t.icache (icSet c (s.ctx c).pc)).length ≤ 4 ∧
      t.reg (0x010408 + 0x800 * (c.val / 4)) = s.reg (0x010408 + 0x800 * (c.val / 4)) + 1 ∧
      t = { s with regs := t.regs, icache := t.icache } := by
  generalize hu : (s.bump (0x010408 + 0x800 * (c.val / 4)) 1).icFill c ((s.ctx c).pc + 64) = u
  have hcount := State.icFill_eq (s.bump (0x010408 + 0x800 * (c.val / 4)) 1) c ((s.ctx c).pc + 64)
  have hmiss : u.icHeld c (s.ctx c).pc = false := by
    rw [← hheld, ← hu]
    unfold State.icHeld
    rw [State.icFill_other _ _ (icSet_next _ _)]
    rfl
  have hexec : exec (.icacheMissFill c) s = .next (u.icTouch c (s.ctx c).pc) := by
    rw [← State.icFill_missing hmiss (State.pc_lt_of_fetchable hfetch), ← hu]
    show Host.Outcome.next (if s.atIssue c && s.fetchable (s.ctx c).pc && !s.icHeld c (s.ctx c).pc then _ else s) = _
    rw [hissue, hfetch, hheld]
    rfl
  have hline := u.icTouch_line c (s.ctx c).pc
  rw [hu] at hcount
  refine ⟨_, hexec, ?_, ?_, ?_, ?_, ?_⟩
  · unfold State.icHeld
    rw [hline]
    simp
  · rw [hline]
    rfl
  · rw [hline]
    exact List.length_take_le _ _
  · rw [hcount]
    exact State.bump_reg_same _ _ _
  · rw [hcount]
    rfl

/-! ### The end of a WAIT (R51) -/

/-- A WAIT ends with a code that does not trap: its context goes on behind it. -/
theorem State.endWait_does {s : State} {c : Nat} {k : Byte} (htrap : (s.ctx c).trapDue = false) (hk : s.trapOn c k = false) :
    (s.endWait c k).ctx c =
      (({ s.ctx c with st := .running, wait := .nothing } : Context).record k (s.ctx c).pc).after (s.ctx c).pc ∧
    (∀ d, d ≠ c → (s.endWait c k).ctx d = s.ctx d) ∧
    s.endWait c k = { s with ctxs := (s.endWait c k).ctxs, ref := (s.endWait c k).ref } := by
  have hrun : ({ s.ctx c with st := .running, wait := .nothing, trapDue := false } : Context) =
      { s.ctx c with st := .running, wait := .nothing } := by rw [← htrap]
  generalize hx : ({ s.ctx c with st := .running, wait := .nothing } : Context) = x at hrun
  have hpc : (s.ctx c).pc = x.pc := by rw [← hx]
  obtain ⟨hctx, hother, heq⟩ := State.retire_goes_on ((s.setCtx c x).closeEntry c false (s.ctx c).serial ⟨k, 0⟩) c k hk
  have hset : ((s.setCtx c x).closeEntry c false (s.ctx c).serial ⟨k, 0⟩).ctx c = x := State.setCtx_ctx_same s c x
  have hend : s.endWait c k = ((s.setCtx c x).closeEntry c false (s.ctx c).serial ⟨k, 0⟩).retire c k := by
    unfold State.endWait
    dsimp only
    rw [hrun]
    exact if_neg (by simp [htrap])
  rw [hend]
  refine ⟨?_, fun d hd => (hother d hd).trans (State.setCtx_ctx_other s x hd), ?_⟩
  · rw [hctx, hset, hpc]
  · rw [heq]
    rfl

/-! ### The waiters of an object (R51) -/

/-- One context as `State.releaseFrom` tests it. -/
def State.releaseStep (s : State) (n c : Nat) : State :=
  match (s.ctx c).wait with
  | .object m consume =>
    if m = n ∧ (s.obj n).thr ≤ (s.obj n).cnt ∧ (s.ctx c).st = CtxState.waiting then
      (if consume then s.setObj n { s.obj n with cnt := (s.obj n).cnt - (s.obj n).thr } else s).endWait c codeOk
    else s
  | _ => s

theorem State.releaseFrom_succ (s : State) (n c k : Nat) :
    s.releaseFrom n c (k + 1) = (s.releaseStep n c).releaseFrom n (c + 1) k := rfl

/-- A context that does not wait for the object stays. -/
theorem State.releaseStep_of_other {s : State} {n c : Nat} (h : ∀ b, (s.ctx c).wait ≠ .object n b) : s.releaseStep n c = s := by
  unfold State.releaseStep
  split
  · next m consume hw =>
    exact if_neg fun hm => h consume (by rw [hw, hm.1])
  · rfl

/-- Contexts that do not wait for the object stay. -/
theorem State.releaseFrom_of_others {s : State} {n a k : Nat} (h : ∀ d, a ≤ d → d < a + k → ∀ b, (s.ctx d).wait ≠ .object n b) :
    s.releaseFrom n a k = s := by
  induction k generalizing a with
  | zero => rfl
  | succ k ih =>
    rw [State.releaseFrom_succ, State.releaseStep_of_other (h a (Nat.le_refl a) (by omega))]
    exact ih fun d hd hlt => h d (by omega) (by omega)

theorem State.releaseFrom_add (s : State) (n a j k : Nat) :
    s.releaseFrom n a (j + k) = (s.releaseFrom n a j).releaseFrom n (a + j) k := by
  induction j generalizing s a with
  | zero => rw [Nat.zero_add]; rfl
  | succ j ih =>
    rw [Nat.succ_add, State.releaseFrom_succ, State.releaseFrom_succ, ih, Nat.succ_add_eq_add_succ]

/-- With one waiter the object's release is the test of that waiter. -/
theorem State.releaseFrom_single {s : State} {n : Nat} {c : Ctx} (hother : ∀ d, d < 128 → d ≠ c.val → ∀ b, (s.ctx d).wait ≠ .object n b)
    (hstep : ∀ d, d ≠ c.val → (s.releaseStep n c).ctx d = s.ctx d) : s.releaseFrom n 0 128 = s.releaseStep n c := by
  have hc := c.isLt
  rw [← congrArg (s.releaseFrom n 0) (show c.val + ((127 - c.val) + 1) = 128 by omega), State.releaseFrom_add,
    State.releaseFrom_of_others fun d _ hd => hother d (by omega) (by omega), Nat.zero_add, State.releaseFrom_succ]
  refine State.releaseFrom_of_others fun d hd hlt => ?_
  rw [hstep d (by omega)]
  exact hother d (by omega) (by omega)

/-- A waiter is released once the count has reached the threshold, which a consuming one subtracts. -/
theorem State.releaseStep_reached {s : State} {n c : Nat} {k : Bool} (hst : (s.ctx c).st = .waiting)
    (hwait : (s.ctx c).wait = .object n k) (hcnt : (s.obj n).thr ≤ (s.obj n).cnt) :
    s.releaseStep n c = (s.setObj n { s.obj n with cnt := if k then (s.obj n).cnt - (s.obj n).thr else (s.obj n).cnt }).endWait c codeOk ∨
    k = false ∧ s.releaseStep n c = s.endWait c codeOk := by
  unfold State.releaseStep
  rw [hwait]
  dsimp only
  rw [if_pos ⟨rfl, hcnt, hst⟩]
  cases k with
  | true => exact .inl rfl
  | false => exact .inr ⟨rfl, rfl⟩

theorem State.releaseStep_below {s : State} {n c : Nat} {k : Bool} (hwait : (s.ctx c).wait = .object n k)
    (hcnt : ¬ (s.obj n).thr ≤ (s.obj n).cnt) : s.releaseStep n c = s := by
  unfold State.releaseStep
  rw [hwait]
  exact if_neg fun h => hcnt h.2.1

/-- The release of a waiter: its context, the object and what stays. -/
theorem State.releaseStep_does {s : State} {n c : Nat} {k : Bool} (hst : (s.ctx c).st = .waiting)
    (hwait : (s.ctx c).wait = .object n k) (htrap : (s.ctx c).trapDue = false) (hcnt : (s.obj n).thr ≤ (s.obj n).cnt) :
    (s.releaseStep n c).ctx c =
      (({ s.ctx c with st := .running, wait := .nothing } : Context).record codeOk (s.ctx c).pc).after (s.ctx c).pc ∧
    (∀ d, d ≠ c → (s.releaseStep n c).ctx d = s.ctx d) ∧
    ((s.releaseStep n c).obj n).cnt = (if k then (s.obj n).cnt - (s.obj n).thr else (s.obj n).cnt) ∧
    ((s.releaseStep n c).obj n).thr = (s.obj n).thr ∧ ∀ m, m ≠ n → (s.releaseStep n c).obj m = s.obj m := by
  rcases State.releaseStep_reached hst hwait hcnt with hstep | ⟨rfl, hstep⟩
  · obtain ⟨hctx, hother, heq⟩ := State.endWait_does (k := codeOk)
      (s := s.setObj n { s.obj n with cnt := if k then (s.obj n).cnt - (s.obj n).thr else (s.obj n).cnt }) htrap (State.trapOn_ok _ _)
    rw [hstep]
    generalize hobj : ({ s.obj n with cnt := if k then (s.obj n).cnt - (s.obj n).thr else (s.obj n).cnt } : SyncObj) = o at *
    have hsame : ((s.setObj n o).endWait c codeOk).obj n = o := by
      rw [heq]
      exact State.setObj_obj_same s n o
    refine ⟨hctx, hother, by rw [hsame, ← hobj], by rw [hsame, ← hobj], fun m hm => ?_⟩
    rw [heq]
    exact State.setObj_obj_other s o hm
  · obtain ⟨hctx, hother, heq⟩ := State.endWait_does (s := s) (k := codeOk) htrap (State.trapOn_ok _ _)
    rw [hstep]
    exact ⟨hctx, hother, by rw [heq]; rfl, by rw [heq]; rfl, fun m _ => by rw [heq]; rfl⟩

theorem exec_syncWaiterRelease (s : State) (obj : Fin 32768) :
    exec (.syncWaiterRelease obj) s = .next (s.releaseFrom obj.val 0 128) := rfl

theorem exec_waitTimeout {s : State} {c : Ctx} {o : Nat} {k : Bool} (hst : (s.ctx c).st = .waiting)
    (hwait : (s.ctx c).wait = .object o k) (hlimit : s.regNow 0x1048 ≠ 0) :
    exec (.waitTimeout c) s = .next (s.endWait c codeTimeout) := by
  show execWaitTimeout c s = _
  unfold execWaitTimeout
  dsimp only
  rw [hwait]
  exact congrArg Host.Outcome.next (if_pos ⟨hlimit, hst⟩)

/-- Settles O18: fetches that trap, the fill of a miss, and the ends of a WAIT. -/
theorem fetchAndWaitEvents : Obligations.FetchAndWaitEvents := by
  refine ⟨⟨fun s c i k hissue hrow => ?_, fun s c hissue hfetch hheld => icacheMissFill_does hissue hfetch hheld⟩,
    fun s c obj k hst hwait htrap hothers => ?_, fun s c o k hst hwait htrap hlimit hk => ?_⟩
  · obtain ⟨m, hexec⟩ := exec_fetchTrap hissue hrow
    obtain ⟨hctx, -⟩ := State.trapAlways_does { s with icache := m } c k
    obtain ⟨hother, hint, hreg, heq⟩ := State.trapAlways_frame { s with icache := m } c k
    refine ⟨_, hexec, ?_⟩
    rw [hctx]
    refine ⟨rfl, rfl, rfl, Context.record_last _ _ _, Context.record_xr _ _ _, hint, hother, hreg, ?_⟩
    rw [heq]
  · by_cases hcnt : (s.obj obj).thr ≤ (s.obj obj).cnt
    · obtain ⟨hctx, hother, hcount, hthr, hobjs⟩ := State.releaseStep_does hst hwait htrap hcnt
      refine ⟨_, exec_syncWaiterRelease s obj, ?_⟩
      rw [State.releaseFrom_single hothers hother]
      exact ⟨fun _ => ⟨hctx, hcount, hthr, hobjs⟩, fun h => absurd hcnt h, hother⟩
    · have hsame := State.releaseStep_below hwait hcnt
      refine ⟨_, exec_syncWaiterRelease s obj, ?_⟩
      rw [State.releaseFrom_single hothers fun d _ => by rw [hsame], hsame]
      exact ⟨fun h => absurd h hcnt, fun _ => rfl, fun _ _ => rfl⟩
  · obtain ⟨hctx, hother, heq⟩ := State.endWait_does htrap hk
    exact ⟨_, exec_waitTimeout hst hwait hlimit, by rw [heq], hctx, hother, fun o => by rw [heq]; rfl⟩

end Sys2Proof.Machine
end

section
/-! PROOF. The machine as a whole: the step, the state after a power-on reset, words that are not executed, and an FCLK of a block at
rest. -/

namespace Sys2Proof

/-! ### Words that are not executed (R37, R64) -/

theorem regField_of_ge {v : BitVec 6} (h : 32 ≤ v.toNat) : regField v = none := dif_neg (Nat.not_lt.2 h)

/-- A register field from 32 up leaves a word without fields. -/
theorem fieldsOf_of_ge {w : DWord} (h : 32 ≤ (w.extractLsb' 50 6).toNat ∨ 32 ≤ (w.extractLsb' 44 6).toNat ∨
    32 ≤ (w.extractLsb' 38 6).toNat) : fieldsOf w = none := by
  unfold fieldsOf
  split
  · next hd ha hb =>
    rcases h with h | h | h
    · rw [regField_of_ge h] at hd
      cases hd
    · rw [regField_of_ge h] at ha
      cases ha
    · rw [regField_of_ge h] at hb
      cases hb
  · rfl

theorem decodeWord_of_no_fields {c : Ctx} {w : DWord} (h : fieldsOf w = none) : decodeWord c w = none := by
  unfold decodeWord
  rw [h]

/-- A word does not decode where its flags or its opcode leave no row. -/
theorem decodeWord_of_no_row {c : Ctx} {w : DWord}
    (h : ∀ f, fieldsOf w = some f → f.flags &&& ~~~flagMask (w.extractLsb' 56 8).toNat ≠ 0#6 ∨ rowOf (w.extractLsb' 56 8).toNat c f = none) :
    decodeWord c w = none := by
  unfold decodeWord
  cases hw : fieldsOf w with
  | none => rfl
  | some f =>
    dsimp only
    split
    · next hflags => exact (h f hw).resolve_left (not_not_intro hflags)
    · rfl

/-- The flags of a word's fields are its bits [37:32]. -/
theorem flags_of_fieldsOf {w : DWord} {f : Fields} (h : fieldsOf w = some f) : f.flags = w.extractLsb' 32 6 := by
  rw [← packWord_flags (w.extractLsb' 56 8).toNat f, packWord_of_fieldsOf h]

/-- Settles O7: the words that are not executed lack fields, flags or a row; the words of the manual evaluate. -/
theorem wordsOfTheManual : Obligations.WordsOfTheManual := by
  refine ⟨⟨fun c w h => decodeWord_of_no_fields (fieldsOf_of_ge h), fun c w h => decodeWord_of_no_row fun f hf => .inl ?_,
    fun c w h => decodeWord_of_no_row fun f _ => .inr ?_⟩, rfl, rfl, rfl, rfl, rfl, rfl⟩
  · rwa [flags_of_fieldsOf hf]
  · generalize (w.extractLsb' 56 8).toNat = op at h
    simp only [List.mem_cons, List.not_mem_nil, or_false] at h
    rcases h with rfl | rfl | rfl <;> rfl

namespace Machine

/-! ### The step and the reset -/

/-- Settles O1: by the step's own case of a queue that is not empty. -/
theorem stepRunsTheFrontCommand : Obligations.StepRunsTheFrontCommand := by
  intro s i rest h
  unfold step
  rw [h]

theorem reset_reg (o : Nat) : State.reset.reg o = resetAt o := rfl

/-- Settles O2: the tables of the reset state list nothing, and its registers read their reset values. -/
theorem resetState : Obligations.ResetState := by
  have hflags : resetAt 0x2000 = 0 := by decide +kernel
  refine ⟨rfl, rfl, rfl, rfl, fun c => ⟨rfl, rfl, fun r => ?_⟩, fun _ => rfl, fun _ => rfl, fun _ => ⟨rfl, rfl⟩,
    by decide +kernel, by decide +kernel, fun b => ?_⟩
  · unfold Context.xr
    split <;> rfl
  · unfold State.fld
    rw [reset_reg, hflags, bitsOf_eq_div]
    simp

/-- Settles O3: the stacks list no byte. -/
theorem resetMemoryCanonical : Obligations.ResetMemoryCanonical := rfl

/-! ### An FCLK of a block at rest -/

theorem State.noHalf_of_no_faults {s : State} (h : s.ref.faults = []) : s.noHalf = s := by
  have hs : ({ s with ref := { s.ref with faults := [] } } : State) = s := by rw [← h]
  unfold State.noHalf
  rw [h]
  exact hs

theorem State.stallAdmission_of_idle {s : State} (h : s.adm.stalled = false) : s.stallAdmission = s := by
  unfold State.stallAdmission
  rw [h]
  rfl

theorem State.stallScore_of_idle {s : State} (h : s.ucmds = []) : s.stallScore = s := by
  unfold State.stallScore
  rw [h]
  rfl

theorem State.stallScout_of_idle {s : State} (h : s.scout.bins = []) : s.stallScout = s := by
  unfold State.stallScout
  split
  · next hb =>
    rw [h] at hb
    cases hb
  · rfl

theorem State.stallLinks_of_idle {s : State} (h : s.vol.stuck = []) : s.stallLinks = s := by
  unfold State.stallLinks
  rw [h]
  rfl

theorem State.ageBins_of_idle {s : State} (h : s.scout.bins = []) : s.ageBins = s := if_pos h

theorem State.stallMemory_of_idle {s : State} (h : s.mp.wait = []) : s.stallMemory = s := if_pos h

theorem State.maintSend_of_idle {s : State} (h : s.mp.maint = []) : s.maintSend = s := by
  unfold State.maintSend
  rw [h]

theorem State.memRun_of_idle {s : State} (hrq : s.mp.rq = []) (hhold : s.mp.holdq = []) (hwait : s.mp.wait = []) : s.memRun = s :=
  if_pos ⟨hrq, hhold, hwait⟩

theorem State.retryStuck_of_idle {s : State} (h : s.vol.stuck = []) : s.retryStuck = s := if_pos h

/-- Settles O60: where nothing is at work each part of the FCLK leaves the state as it is. -/
theorem idleStep : Obligations.IdleStep := by
  intro s hpending hucmds hqueues hflow hstuck hfaults hstalled hbins hrq hhold hwait hmaint
  generalize hu : ({ s with ref := { s.ref with recov := false }
                            pins := { s.pins with hwAck := false, spmOut := false } } : State) = u
  have htick : s.tick = u.holdUpdate := by
    subst hu
    unfold State.tick
    rw [State.noHalf_of_no_faults hfaults]
    dsimp only
    rw [State.stallAdmission_of_idle (by exact hstalled), State.stallScore_of_idle (by exact hucmds),
      State.stallScout_of_idle (by exact hbins), State.stallLinks_of_idle (by exact hstuck), State.ageBins_of_idle (by exact hbins),
      hucmds, List.map_nil, List.foldl_nil, State.stallMemory_of_idle (by exact hwait), State.maintSend_of_idle (by exact hmaint),
      State.memRun_of_idle (by exact hrq) (by exact hhold) (by exact hwait), hqueues, List.map_nil, List.foldl_nil, hflow,
      List.map_nil, List.foldl_nil, State.retryStuck_of_idle (by exact hstuck)]
  refine ⟨u.holdUpdate, ?_, ?_⟩
  · unfold step
    rw [hpending, ← htick]
  · rw [← hu]
    rfl

end Machine

end Sys2Proof
end

section
namespace Sys2Proof.Machine

/-- What no command and no FCLK changes: the queue of waiting commands and the grade (R3), and that the stacks' contents are in
canonical form. -/
structure Keeps (s t : State) : Prop where
  pending : t.pending = s.pending
  gradeB : t.gradeB = s.gradeB
  mem : Memory.wf s.mem = true → Memory.wf t.mem = true

namespace Keeps

theorem refl (s : State) : Keeps s s := ⟨rfl, rfl, id⟩

/-- An update of the other fields. The fields are variables here, so that no proof by `rfl` evaluates what they hold. -/
theorem update {s : State} {regs lag : Tab (Option Word)} {staged : Tab (Option (Word × Word))} {capt ps : Tab Word} {ctxs : Tab
    Context} {icache stood : Tab (List Nat)} {lastIssue : Tab Nat} {slow : Tab Bool} {sync : Tab SyncObj} {syncWr : List (Nat ×
    Bool × Word)} {slots : Tab Slot} {ucmds : List UCmd} {step spcnt seed : DWord} {seedNext : Option DWord} {standing free :
    Nat} {boundary : Bool} {arm saving : Option Capture} {tbl : Tables} {adm : Admission} {scout : Scout} {hud : Huddle} {queues
    : Tab Queue} {flow : Tab (List QWord)} {pools : Tab Pool} {vol : Volley} {reb : Rebound} {mp : MemPort} {ref : Referee}
    {kick : Kickoff} {obs : Observe} {pins : Pins} :
    Keeps s { s with
      regs, lag, staged, capt, ctxs, icache, lastIssue, stood, slow, ps, sync, syncWr, slots, ucmds, step, spcnt, seed,
      seedNext, standing, boundary, arm, saving, tbl, adm, scout, hud, queues, flow, pools, vol, reb, mp, ref, kick, obs, pins,
      free } := ⟨rfl, rfl, id⟩

theorem trans {s t u : State} (h : Keeps s t) (h' : Keeps t u) : Keeps s u :=
  ⟨h'.pending.trans h.pending, h'.gradeB.trans h.gradeB, h'.mem ∘ h.mem⟩

theorem after {s t u : State} (h' : Keeps t u) (h : Keeps s t) : Keeps s u := h.trans h'

theorem of_ite {s t u : State} {p : Prop} {inst : Decidable p} (ht : Keeps s t) (hu : Keeps s u) :
    Keeps s (@ite State p inst t u) := by
  cases inst with
  | isTrue _ => exact ht
  | isFalse _ => exact hu

theorem of_ite_snd {α : Type} {s : State} {t u : α × State} {p : Prop} {inst : Decidable p} (ht : Keeps s t.2) (hu : Keeps s u.2) :
    Keeps s (@ite (α × State) p inst t u).2 := by
  cases inst with
  | isTrue _ => exact ht
  | isFalse _ => exact hu

theorem of_ite_thd {α β : Type} {s : State} {t u : α × β × State} {p : Prop} {inst : Decidable p} (ht : Keeps s t.2.2) (hu : Keeps s u.2.2) :
    Keeps s (@ite (α × β × State) p inst t u).2.2 := by
  cases inst with
  | isTrue _ => exact ht
  | isFalse _ => exact hu

theorem foldl {α : Type} {f : State → α → State} (hf : ∀ t a, Keeps t (f t a)) (l : List α) (s : State) : Keeps s (l.foldl f s) := by
  induction l generalizing s with
  | nil => exact .refl s
  | cons a l ih => exact (hf s a).trans (ih (f s a))

theorem foldl_snd {α β : Type} {f : β × State → α → β × State} (hf : ∀ t a, Keeps t.2 (f t a).2) (l : List α) (s : β × State) :
    Keeps s.2 (l.foldl f s).2 := by
  induction l generalizing s with
  | nil => exact .refl s.2
  | cons a l ih => exact (hf s a).trans (ih (f s a))

theorem foldl_pair {α β : Type} {f : β × State → α → β × State} (hf : ∀ t a, Keeps t.2 (f t a).2) (l : List α) (b : β)
    (s : State) : Keeps s (l.foldl f (b, s)).2 := foldl_snd hf l (b, s)

theorem foldl_thd {α β γ : Type} {f : β × γ × State → α → β × γ × State} (hf : ∀ t a, Keeps t.2.2 (f t a).2.2) (l : List α)
    (s : β × γ × State) : Keeps s.2.2 (l.foldl f s).2.2 := by
  induction l generalizing s with
  | nil => exact .refl s.2.2
  | cons a l ih => exact (hf s a).trans (ih (f s a))

end Keeps

/-- What a command answers keeps what `Keeps` names. -/
def KeepsNext (s : State) (o : Out) : Prop := ∀ t, o = .next t → Keeps s t

namespace KeepsNext

theorem next {s t : State} (h : Keeps s t) : KeepsNext s (.next t) := by
  intro u hu
  cases hu
  exact h

theorem refused {s : State} {r : Refusal} : KeepsNext s (.refused r) := by
  intro u hu
  cases hu

theorem fault {s : State} {r : Fault} : KeepsNext s (.fault r) := by
  intro u hu
  cases hu

theorem of_ite {s : State} {o u : Out} {p : Prop} {inst : Decidable p} (ho : KeepsNext s o) (hu : KeepsNext s u) :
    KeepsNext s (@ite Out p inst o u) := by
  cases inst with
  | isTrue _ => exact ho
  | isFalse _ => exact hu

end KeepsNext

end Sys2Proof.Machine
end

section
namespace Sys2Proof.Machine

/-! ### `Keeps` for the functions of Machine/Ops -/

theorem keeps_setReg (s : State) (off : Nat) (v : Word) : Keeps s (State.setReg s off v) :=
  .update

theorem keeps_setFld (s : State) (off : Nat) (hi : Nat) (lo : Nat) (v : Nat) : Keeps s (State.setFld s off hi lo v) :=
  keeps_setReg _ _ _

theorem keeps_bump (s : State) (off : Nat) (n : Nat) : Keeps s (State.bump s off n) :=
  keeps_setReg _ _ _

theorem keeps_raiseFlag (s : State) (b : Nat) (n : Nat) : Keeps s (State.raiseFlag s b n) :=
  .after (keeps_bump _ _ _) (keeps_setFld _ _ _ _ _)

theorem keeps_raiseInt (s : State) (b : Nat) : Keeps s (State.raiseInt s b) :=
  keeps_setFld _ _ _ _ _

theorem keeps_draw (s : State) : Keeps s (State.draw s).2 :=
  .update

theorem keeps_setByte (s : State) (a : Nat) (v : Byte) : Keeps s (s.setByte a v) := ⟨rfl, rfl, s.setByte_wf a v⟩

theorem keeps_setBytes (s : State) (a : Nat) (bs : List Byte) : Keeps s (s.setBytes a bs) := ⟨rfl, rfl, s.setBytes_wf a bs⟩

theorem keeps_setNum (s : State) (a n v : Nat) : Keeps s (s.setNum a n v) := ⟨rfl, rfl, s.setNum_wf a n v⟩

theorem keeps_cure (s : State) (l : Nat) : Keeps s (State.cure s l) :=
  .of_ite .update (.refl _)

theorem keeps_cureRange (s : State) (a : Nat) (n : Nat) : Keeps s (State.cureRange s a n) :=
  .of_ite (.refl _) (.foldl (fun _ _ => keeps_cure _ _) _ _)

theorem keeps_setCtx (s : State) (c : Nat) (x : Machine.Context) : Keeps s (State.setCtx s c x) :=
  .update

theorem keeps_icTouch (s : State) (c : Nat) (pc : Nat) : Keeps s (State.icTouch s c pc) :=
  .update

theorem keeps_noteIssue (s : State) (c : Ctx) : Keeps s (State.noteIssue s c) :=
  .after (keeps_icTouch _ _ _) (.after (keeps_bump _ _ _) .update)

theorem keeps_trap (s : State) (c : Nat) (pc : Nat) (precise : Bool) : Keeps s (State.trap s c pc precise) :=
  .after (keeps_raiseInt _ _) (keeps_setCtx _ _ _)

theorem keeps_retire (s : State) (c : Nat) (code : Byte) : Keeps s (State.retire s c code) :=
  .of_ite (.after (keeps_trap _ _ _ _) (keeps_setCtx _ _ _)) (.after (keeps_setCtx _ _ _) (keeps_setCtx _ _ _))

theorem keeps_retireX (s : State) (c : Nat) (r : Reg) (v : DWord) : Keeps s (State.retireX s c r v) :=
  .after (keeps_retire _ _ _) (keeps_setCtx _ _ _)

theorem keeps_branch (s : State) (c : Nat) (target : ℤ) : Keeps s (State.branch s c target) :=
  .of_ite (.after (keeps_trap _ _ _ _) (keeps_setCtx _ _ _)) (keeps_setCtx _ _ _)

theorem keeps_drained (s : State) (c : Nat) : Keeps s (State.drained s c) :=
  .of_ite (.refl _) ((by split; exacts [.refl _, keeps_setCtx _ _ _, keeps_setCtx _ _ _, keeps_setCtx _ _ _]))

theorem keeps_setObj (s : State) (n : Nat) (o : SyncObj) : Keeps s (State.setObj s n o) :=
  .update

theorem keeps_signal (s : State) (n : Nat) (amount : Nat) : Keeps s (State.signal s n amount) :=
  .of_ite (keeps_setObj _ _ _) (.after (keeps_raiseFlag _ _ _) (keeps_setObj _ _ _))

theorem keeps_setSlot (s : State) (n : Nat) (d : Slot) : Keeps s (State.setSlot s n d) :=
  .update

theorem keeps_countRec (s : State) (f : Nat) (h : Nat) (n : Nat) : Keeps s (State.countRec s f h n) :=
  .update

theorem keeps_measure (s : State) (k : Nat) (n : Nat) : Keeps s (State.measure s k n) :=
  .of_ite .update (.refl _)

theorem keeps_report (s : State) (r : FaultRep) : Keeps s (State.report s r) :=
  .update

theorem keeps_lostRead (s : State) (l : Nat) (h : Option Half) : Keeps s (State.lostRead s l h) :=
  .after (keeps_report _ _)
      ((by split; exacts [.after .update (.of_ite (keeps_bump _ _ _) (.after (keeps_raiseInt _ _) (.after .update (keeps_bump _ _ _)))),
              .of_ite (keeps_bump _ _ _) (.after (keeps_raiseInt _ _) (.after .update (keeps_bump _ _ _)))]))

end Sys2Proof.Machine
end

section
namespace Sys2Proof.Machine

/-! ### `Keeps` for the functions of Machine/Operands -/

theorem keeps_setPool (s : State) (n : Nat) (p : Pool) : Keeps s (State.setPool s n p) :=
  .update

theorem keeps_writes (s : State) (l : List (Nat × List Byte)) : Keeps s (s.writes l) := by
  induction l generalizing s with
  | nil => exact .refl s
  | cons x l ih => exact .after (ih _) (keeps_setBytes s x.1 x.2)

theorem keeps_putRow (s : State) (d : Desc) (r : Nat) (l : List Fl) : Keeps s (State.putRow s d r l) :=
  .of_ite (keeps_setNum _ _ _ _) (keeps_writes _ _)

theorem keeps_putRows (s : State) (d : Desc) (n : Nat) (f : State → Nat → List Fl × State) (hf : ∀ t r, Keeps t (f t r).2) :
    Keeps s (s.putRows d n f) := by
  unfold State.putRows
  split
  · refine .after (keeps_writes _ _) (.foldl_pair ?_ _ _ _)
    exact fun t r => hf t.2 r
  · exact .foldl (fun t r => .after (keeps_putRow _ _ _ _) (hf t r)) _ _

theorem keeps_setChoice (s : State) (d : Desc) (r : Nat) (j : Nat) (c : ChoiceRec) : Keeps s (State.setChoice s d r j c) :=
  keeps_setNum _ _ _ _

end Sys2Proof.Machine
end

section
namespace Sys2Proof.Machine

/-! ### `Keeps` for the functions of Machine/Traffic -/

theorem keeps_setStack (s : State) (k : Nat) (x : Stack) : Keeps s (State.setStack s k x) :=
  .update

theorem keeps_writeEnabled (s : State) (a : Nat) (bs : List Byte) (es : List Bool) : Keeps s (s.writeEnabled a bs es) := by
  induction bs generalizing s a es with
  | nil => exact .refl s
  | cons b bs ih =>
    cases es with
    | nil => exact .refl s
    | cons e es => exact .after (ih _ _ _) (.of_ite (keeps_setByte _ _ _) (.refl s))

theorem keeps_addEnabled (s : State) (r : MemReq) : Keeps s (State.addEnabled s r) :=
  .foldl (fun _ _ => .of_ite (keeps_setNum _ _ _ _) (.refl _)) _ _

theorem keeps_carryOut (s : State) (r : MemReq) : Keeps s (State.carryOut s r) := by
  unfold State.carryOut
  split
  · exact .refl _
  · exact .of_ite (.after (keeps_cure _ _) (keeps_writeEnabled _ _ _ _)) (keeps_writeEnabled _ _ _ _)
  · exact .of_ite (.refl _) (keeps_addEnabled _ _)

theorem keeps_sendReq (s : State) (c : Nat) (r : MemReq) (tag : Nat) : Keeps s (State.sendReq s c r tag) :=
  .after .update (.of_ite (.of_ite (.of_ite (keeps_cure _ _) (.refl _)) (.after (keeps_measure _ _ _) (.of_ite (keeps_cure _ _) (.refl
      _)))) (.after (keeps_measure _ _ _) (.of_ite (.of_ite (keeps_cure _ _) (.refl _)) (.after (keeps_measure _ _ _) (.of_ite (keeps_cure
      _ _) (.refl _))))))

theorem keeps_spend (s : State) (m : Nat) (r : MemReq) : Keeps s (State.spend s m r) :=
  .update

theorem keeps_issueReqs (s : State) (m n : Nat) : Keeps s (s.issueReqs m n) := by
  induction n generalizing s with
  | zero => exact .refl s
  | succ n ih =>
    unfold State.issueReqs
    split
    · exact .after (ih _) (.after (keeps_sendReq _ _ _ _) (.after (keeps_spend _ _ _) (.of_ite .update .update)))
    · exact .refl s

theorem keeps_issuePort (s : State) (m : Nat) : Keeps s (State.issuePort s m) :=
  .of_ite (.refl _) (keeps_issueReqs _ _ _)

theorem keeps_memAccept {s t : State} {r : MemReq} (h : s.memAccept r = some t) : Keeps s t := by
  unfold State.memAccept at h
  dsimp only at h
  split at h
  · rw [← Option.some.inj h]
    exact .of_ite (.refl s) (keeps_lostRead _ _ _)
  · split at h
    · split at h
      · rw [← Option.some.inj h]
        exact .after .update (keeps_carryOut _ _)
      · cases h
    · rw [← Option.some.inj h]
      exact .after (keeps_issuePort _ _) (.after .update (keeps_carryOut _ _))

theorem keeps_memRequest (s : State) (r : MemReq) : Keeps s (s.memRequest r) := by
  unfold State.memRequest
  split
  · exact .update
  · split
    · next t ht => exact keeps_memAccept ht
    · exact .update

theorem keeps_retryWait (s : State) : Keeps s (State.retryWait s) :=
  .of_ite (.refl _) (.after (.foldl (fun _ _ => keeps_memRequest _ _) _ _) .update)

theorem keeps_memRun (s : State) : Keeps s (State.memRun s) :=
  .of_ite (.refl _) (.after (keeps_retryWait _) (.foldl (fun _ _ => keeps_issuePort _ _) _ _))

theorem keeps_spillReqs (s : State) (q : Nat) (a : Nat) (op : MemOp) : Keeps s (State.spillReqs s q a op) :=
  .of_ite (.refl _) (.foldl (fun _ _ => keeps_memRequest _ _) _ _)

end Sys2Proof.Machine
end

section
namespace Sys2Proof.Machine

/-! ### `Keeps` for the functions of Machine/Queue -/

theorem keeps_bitmapByte (s : State) (n : Nat) (i : Nat) : Keeps s (State.bitmapByte s n i) :=
  keeps_setByte _ _ _

theorem keeps_poolTake {s t : State} {n r i : Nat} {h : Option Half} (hp : s.poolTake n r h = some (i, t)) : Keeps s t := by
  unfold State.poolTake at hp
  dsimp only at hp
  split at hp
  · cases hp
  · cases hp
    exact .after (keeps_bitmapByte _ _ _) (keeps_setPool _ _ _)

theorem keeps_poolTakes {s t : State} {n r k : Nat} {h : Option Half} {l : List Nat}
    (hp : s.poolTakes n r h k = some (l, t)) : Keeps s t := by
  induction k generalizing s t l with
  | zero =>
    cases hp
    exact .refl s
  | succ k ih =>
    unfold State.poolTakes at hp
    split at hp
    · cases hp
    · next i u hu =>
      split at hp
      · cases hp
      · next l' t' ht =>
        cases hp
        exact .after (ih ht) (keeps_poolTake hu)

theorem keeps_serveWaiting (s : State) (n k : Nat) : Keeps s (s.serveWaiting n k) := by
  induction k generalizing s with
  | zero => exact .refl s
  | succ k ih =>
    unfold State.serveWaiting
    dsimp only
    split
    · exact .refl s
    · split
      · exact .refl s
      · split
        · exact .refl s
        · next bs t ht =>
          exact .after (ih _) (.after (.of_ite (.refl t) (.of_ite .update .update)) (.after (keeps_poolTakes ht) (keeps_setPool _ _ _)))

theorem keeps_poolGive (s : State) (n : Nat) (r : Nat) (i : Nat) : Keeps s (State.poolGive s n r i) :=
  .after (keeps_serveWaiting _ _ _) (.after (keeps_bitmapByte _ _ _) (keeps_setPool _ _ _))

theorem keeps_unitFree (s : State) (n : Nat) (r : Nat) (a : Nat) : Keeps s (State.unitFree s n r a) :=
  .of_ite (keeps_poolGive _ _ _ _) (.after (keeps_report _ _) (keeps_bump _ _ _))

theorem keeps_setQueue (s : State) (q : Nat) (x : Queue) : Keeps s (State.setQueue s q x) :=
  .update

theorem keeps_putBlock (s : State) (a : Nat) (ws : List QWord) : Keeps s (State.putBlock s a ws) :=
  .after (keeps_cureRange _ _ _) (.after (keeps_setBytes _ _ _) (.foldl (fun _ _ => keeps_setNum _ _ _ _) _ _))

/-- The function is unfolded as a whole: applied, the kernel would evaluate the search of its match. -/
theorem keeps_blockRead (s : State) (a : Nat) : Keeps s (s.blockRead a) := by
  have hfun := Eq.refl State.blockRead
  conv at hfun => rhs; delta State.blockRead
  rw [hfun]
  beta_reduce
  split
  · exact .refl s
  · exact .of_ite (.after (keeps_unitFree _ _ _ _) .update) .update

theorem keeps_spillFill (s : State) (q : Nat) : Keeps s (State.spillFill s q) := by
  unfold State.spillFill
  dsimp only
  split
  · exact .refl _
  · exact .of_ite (.refl _) (.after (keeps_setQueue _ _ _) (keeps_spillReqs _ _ _ _))

theorem keeps_wordLeft (s : State) (q : Nat) : Keeps s (State.wordLeft s q) :=
  .of_ite (.refl _) (.after (.foldl (fun _ _ => keeps_blockRead _ _) _ _) (keeps_setQueue _ _ _))

theorem keeps_settleQueue (s : State) (q : Nat) : Keeps s (State.settleQueue s q) :=
  .of_ite (keeps_setQueue _ _ _) (.of_ite (.after (keeps_setQueue _ _ _) (.after (keeps_spillReqs _ _ _ _) (keeps_putBlock _ _ _))) (.refl
      _))

theorem keeps_enter (s : State) (q : Nat) (w : QWord) : Keeps s (State.enter s q w) :=
  .after (keeps_settleQueue _ _) (keeps_setQueue _ _ _)

theorem keeps_cutPacket (s : State) (q : Nat) (w : QWord) : Keeps s (State.cutPacket s q w) :=
  keeps_setQueue _ _ _

theorem keeps_arrive (s : State) (q : Nat) (w : QWord) : Keeps s (State.arrive s q w).2 :=
  .of_ite_snd (.after (keeps_bump _ _ _) (keeps_setQueue _ _ _)) (.of_ite_snd (keeps_setQueue _ _ _) (.of_ite_snd (keeps_cutPacket _ _ _)
      (keeps_enter _ _ _)))

theorem keeps_takeMark (s : State) (q : Nat) : Keeps s (State.takeMark s q).2 :=
  .of_ite_snd (keeps_setQueue _ _ _) (.refl _)

theorem keeps_flowIn (q : Nat) (ws : List QWord) (s : State) : Keeps s (flowIn q ws s).2 := by
  induction ws generalizing s with
  | nil => exact .refl s
  | cons w ws ih =>
    unfold flowIn
    exact .of_ite_snd (.after (ih _) (.after (keeps_bump _ _ _) (keeps_setQueue _ _ _)))
      (.of_ite_snd (.refl s) (.after (ih _) (keeps_enter _ _ _)))

theorem keeps_push (s : State) (q : Nat) (ws : List QWord) : Keeps s (State.push s q ws) :=
  .after .update (keeps_flowIn _ _ _)

theorem keeps_rowDelivered (s : State) (a : Nat) : Keeps s (State.rowDelivered s a) := by
  unfold State.rowDelivered
  split
  · exact .refl _
  · exact .of_ite ((by split; exacts [.after (keeps_unitFree _ _ _ _) .update, .update])) .update

theorem keeps_rowsOut (s : State) (q : Nat) : Keeps s (State.rowsOut s q) :=
  .of_ite (.refl _) (.after (.foldl (fun _ _ => keeps_rowDelivered _ _) _ _) .update)

theorem keeps_flowOn (s : State) (q : Nat) : Keeps s (State.flowOn s q) :=
  .of_ite (.after (keeps_rowsOut _ _) (keeps_push _ _ _)) (.refl _)

theorem keeps_rawPop {s t : State} {q : Nat} {w : QWord} (h : s.rawPop q = some (w, t)) : Keeps s t := by
  unfold State.rawPop at h
  dsimp only at h
  split at h
  · cases h
  · cases h
    exact .after (keeps_settleQueue _ _) (.after (keeps_wordLeft _ _) (.after (keeps_setQueue _ _ _)
      (.of_ite (keeps_spillFill _ _) (.refl s))))

theorem keeps_skipCuts (s : State) (q n : Nat) : Keeps s (s.skipCuts q n) := by
  induction n generalizing s with
  | zero => exact .refl s
  | succ n ih =>
    unfold State.skipCuts
    split
    · split
      · next t ht => exact .after (ih _) (.after (keeps_setQueue _ _ _) (keeps_rawPop ht))
      · exact .refl s
    · exact .refl s

theorem keeps_skipCut (s : State) (q : Nat) : Keeps s (State.skipCut s q) := by
  unfold State.skipCut
  split
  · exact keeps_skipCuts _ _ _
  · exact .refl _

theorem keeps_popWord {s t : State} {q : Nat} {w : QWord} (h : s.popWord q = some (w, t)) : Keeps s t :=
  .after (keeps_rawPop h) (keeps_skipCut s q)

theorem keeps_dropWords (s : State) (q n : Nat) : Keeps s (s.dropWords q n) := by
  induction n generalizing s with
  | zero => exact .refl s
  | succ n ih =>
    unfold State.dropWords
    split
    · exact .refl s
    · next t ht => exact .after (ih t) (keeps_popWord ht)

theorem keeps_malformed (s : State) : Keeps s (State.malformed s) :=
  .after (keeps_raiseFlag _ _ _) (keeps_bump _ _ _)

theorem keeps_holdUpdate (s : State) : Keeps s (State.holdUpdate s) :=
  .update

theorem keeps_holdFlush (s : State) (q : Nat) : Keeps s (State.holdFlush s q) :=
  .update

theorem keeps_adoptMarks (s : State) (q : Nat) : Keeps s (State.adoptMarks s q) :=
  .of_ite (.after (keeps_raiseFlag _ _ _) (.of_ite (.after (keeps_raiseFlag _ _ _) (keeps_setQueue _ _ _)) (keeps_setQueue _ _ _)))
      (.of_ite (.after (keeps_raiseFlag _ _ _) (keeps_setQueue _ _ _)) (keeps_setQueue _ _ _))

theorem keeps_flush (s : State) (q : Nat) : Keeps s (State.flush s q) :=
  .after (keeps_holdFlush _ _) (.after (keeps_setQueue _ _ _) (.foldl (fun _ _ => keeps_blockRead _ _) _ _))

theorem keeps_dropRest (s : State) (q : Nat) : Keeps s (State.dropRest s q) :=
  .of_ite (.refl _) (.of_ite (keeps_skipCut _ _)
      ((by split; exacts [.after (keeps_setQueue _ _ _) (keeps_dropWords _ _ _), .after (keeps_setQueue _ _ _) (keeps_dropWords _ _ _)])))

end Sys2Proof.Machine
end

section
namespace Sys2Proof.Machine

/-! ### `Keeps` for the functions of Machine/Unit -/

theorem keeps_nextEntry (s : State) (c : Nat) : Keeps s (State.nextEntry s c) :=
  .update

theorem keeps_addEntry (s : State) (c : Nat) (e : JEnt) : Keeps s (State.addEntry s c e) :=
  .of_ite (keeps_report _ _) (.after .update .update)

theorem keeps_closeEntry (s : State) (c : Nat) (unit : Bool) (serial : BitVec 16) (r : UResult) : Keeps s (State.closeEntry s c unit
    serial r) :=
  .update

theorem keeps_closeRemote (s : State) (c : Nat) (seq : BitVec 16) (r : UResult) : Keeps s (State.closeRemote s c seq r) :=
  .update

theorem keeps_dropOpen (s : State) (c : Nat) : Keeps s (State.dropOpen s c) := by
  unfold State.dropOpen
  split
  · exact .of_ite (.refl _) .update
  · exact .refl _

theorem keeps_halfEntry (s : State) (c : Nat) (serial : BitVec 16) (h : Option Half) : Keeps s (State.halfEntry s c serial h) :=
  .update

theorem keeps_mismatch (s : State) : Keeps s (State.mismatch s) :=
  keeps_report _ _

theorem keeps_satisfy (s : State) (c : Nat) (f : Fields) (writes : Bool) (r : UResult) : Keeps s (State.satisfy s c f writes r) :=
  .after (keeps_nextEntry _ _) (keeps_setCtx _ _ _)

theorem keeps_journalled (s : State) (c : Nat) (i : Instr) (f : Fields) (idx : List Nat) (writes : Bool) (body : State → State) (hbody : ∀
    t, Keeps t (body t)) : Keeps s (State.journalled s c i f idx writes body) := by
  unfold State.journalled
  split
  · exact .of_ite (keeps_mismatch _) ((by split; exacts [keeps_satisfy _ _ _ _ _, .after (hbody _) (keeps_nextEntry _ _)]))
  · exact .after (keeps_addEntry _ _ _) (hbody _)

theorem keeps_noteRows (s : State) (u : UCmd) : Keeps s (State.noteRows s u) :=
  .update

theorem keeps_putCmd (s : State) (u : UCmd) : Keeps s (State.putCmd s u) :=
  .update

theorem keeps_drainWords (q : Nat) (w : BitVec 16) (k : Nat) (s : State) (n : Nat) (e : Bool) :
    Keeps s (drainWords q w k s n e).2.2 := by
  induction k generalizing s n e with
  | zero => exact .refl s
  | succ k ih =>
    unfold drainWords
    split
    · exact .refl s
    · split
      · exact .refl s
      · split
        · exact .refl s
        · next x t ht =>
          refine .trans (keeps_popWord ht) (.of_ite_thd (.after (ih _ _ _) ?_) (.of_ite_thd (ih _ _ _) (ih _ _ _)))
          exact .of_ite (.refl t) (keeps_malformed t)

theorem keeps_drain (s : State) (u : UCmd) : Keeps s (s.drain u).2 := by
  unfold State.drain
  split
  next v t hv =>
    have ht : Keeps s t := by
      split at hv
      · rw [← (Prod.mk.inj hv).2]
        exact keeps_drainWords _ _ _ _ _ _
      · rw [← (Prod.mk.inj hv).2]
        exact .refl s
    split
    · exact .after (keeps_drainWords _ _ _ _ _ _) ht
    · exact ht

theorem keeps_postWords (q : Nat) (sr : BitVec 16) (n k : Nat) (s : State) (p : Nat) (l : Bool) :
    Keeps s (postWords q sr n k s p l).2.2 := by
  induction k generalizing s p l with
  | zero => exact .refl s
  | succ k ih =>
    unfold postWords
    exact .of_ite_thd (.refl s) (.of_ite_thd (.refl s) (.after (ih _ _ _) (keeps_enter _ _ _)))

theorem keeps_post (s : State) (u : UCmd) : Keeps s (State.post s u).2 := by
  unfold State.post
  split
  · exact .refl _
  · exact .of_ite_snd (.refl _) (.of_ite_snd (.of_ite_snd (.after (keeps_postWords _ _ _ _ _ _ _) (.of_ite_snd (keeps_postWords _ _ _ _ _
      _ _) (.refl _))) (.of_ite_snd (keeps_postWords _ _ _ _ _ _ _) (.refl _))) (.of_ite_snd (.after (keeps_postWords _ _ _ _ _ _ _)
      (.of_ite_snd (keeps_postWords _ _ _ _ _ _ _) (.refl _))) (.of_ite_snd (keeps_postWords _ _ _ _ _ _ _) (.refl _))))

theorem keeps_unrecord (s : State) (u : UCmd) : Keeps s (State.unrecord s u) :=
  keeps_setCtx _ _ _

theorem keeps_cureRows (s : State) (d : Desc) (n : Nat) : Keeps s (State.cureRows s d n) :=
  .of_ite (.refl _) (.of_ite (keeps_cureRange _ _ _) (.foldl (fun _ _ => .foldl (fun _ _ => keeps_cureRange _ _ _) _ _) _ _))

theorem keeps_labour (s : State) (u : UCmd) (work : State → UCmd → UCmd × State) (hwork : ∀ t v, Keeps t (work t v).2) :
    Keeps s (s.labour u work).2 := by
  have hw := hwork s u
  unfold State.labour
  generalize work s u = w at hw ⊢
  obtain ⟨v, t⟩ := w
  split
  · exact keeps_lostRead _ _ _
  · dsimp only
    split
    · exact .after (.of_ite (keeps_cureRows _ _ _) (.refl _)) hw
    · exact hw

theorem keeps_driveRows (s : State) (u : UCmd) (check : State → UCmd → Option Byte) (start : State → UCmd → UCmd × State) (take : State →
    UCmd → UCmd × State) (work : State → UCmd → UCmd × State) (hstart : ∀ t a1, Keeps t (start t a1).2) (htake : ∀ t a1, Keeps t (take t
    a1).2) (hwork : ∀ t a1, Keeps t (work t a1).2) : Keeps s (State.driveRows s u check start take work) :=
  .of_ite (.refl _)
      ((by split; exacts [.after (keeps_putCmd _ _) (keeps_unrecord _ _), .after (keeps_putCmd _ _) (.after (keeps_post _ _) (.of_ite_snd
              (.after (keeps_labour _ _ _ (fun _ _ => hwork _ _)) (.of_ite_snd (.after (htake _ _) (.after (keeps_drain _ _) (.of_ite_snd
              (.refl _) (.after (keeps_halfEntry _ _ _ _) (.after (keeps_noteRows _ _) (hstart _ _)))))) (.after (keeps_drain _ _)
              (.of_ite_snd (.refl _) (.after (keeps_halfEntry _ _ _ _) (.after (keeps_noteRows _ _) (hstart _ _))))))) (.of_ite_snd
              (.after (htake _ _) (.after (keeps_drain _ _) (.of_ite_snd (.refl _) (.after (keeps_halfEntry _ _ _ _) (.after
              (keeps_noteRows _ _) (hstart _ _)))))) (.after (keeps_drain _ _) (.of_ite_snd (.refl _) (.after (keeps_halfEntry _ _ _ _)
              (.after (keeps_noteRows _ _) (hstart _ _))))))))]))

theorem keeps_drive (s : State) (u : UCmd) (check : State → UCmd → Option Byte) (start : State → UCmd → UCmd × State) (work : State → UCmd
    → UCmd × State) (hstart : ∀ t a1, Keeps t (start t a1).2) (hwork : ∀ t a1, Keeps t (work t a1).2) : Keeps s (State.drive s u check
    start work) :=
  keeps_driveRows _ _ _ _ _ _ (fun _ _ => hstart _ _) (fun _ _ => .refl _) (fun _ _ => hwork _ _)

theorem keeps_recordKC (s : State) (u : UCmd) : Keeps s (State.recordKC s u) := by
  unfold State.recordKC
  split
  · exact .of_ite (keeps_setSlot _ _ _) (.refl _)
  · exact .refl _

theorem keeps_pushCmd (s : State) (c : Ctx) (i : Instr) (f : Fields) (run : State → UCmd → State) (hrun : ∀ t a1, Keeps t (run t a1)) :
    Keeps s (State.pushCmd s c i f run) :=
  .of_ite (.after (hrun _ _) (.after .update (.after (keeps_recordKC _ _) (keeps_setCtx _ _ _)))) (.after .update (.after (keeps_recordKC
      _ _) (keeps_setCtx _ _ _)))

theorem keeps_issueUnit (s : State) (c : Ctx) (i : Instr) (f : Fields) (run : State → UCmd → State)
    (hrun : ∀ t u, Keeps t (run t u)) : Keeps s (s.issueUnit c i f run) := by
  unfold State.issueUnit
  refine .of_ite (.refl s) ?_
  extract_lets t
  have ht : Keeps s t := keeps_noteIssue _ _
  clear_value t
  generalize slotsOf (s.ctx c) i f = p
  obtain ⟨a, b, q⟩ := p
  dsimp only
  split
  · refine .of_ite (.after (keeps_mismatch t) ht) (.of_ite ?_ ?_)
    · exact .after (keeps_pushCmd _ _ _ _ run hrun) (.after (keeps_nextEntry _ _) (.after .update ht))
    · split
      · exact .after (keeps_setCtx _ _ _) (.after (keeps_satisfy _ _ _ _ _) ht)
      · exact .refl s
  · exact .after (keeps_pushCmd _ _ _ _ run hrun) (.after (keeps_addEntry _ _ _) ht)

theorem keeps_setVext (s : State) (u : UCmd) (slot : Nat) (n : Nat) : Keeps s (State.setVext s u slot n) :=
  .of_ite (.refl _) (keeps_setSlot _ _ _)

theorem keeps_releaseWt (s : State) (c : Nat) (trapped : Bool) : Keeps s (State.releaseWt s c trapped) :=
  .of_ite (keeps_trap _ _ _ _) (.of_ite (.after (keeps_trap _ _ _ _) (keeps_setCtx _ _ _)) (keeps_setCtx _ _ _))

theorem keeps_completeCtx (s : State) (u : UCmd) (r : UResult) : Keeps s (s.completeCtx u r) := by
  unfold State.completeCtx
  extract_lets c x y s1 s2 s3 z trapped s4
  have h3 : Keeps s s3 := .after (.of_ite (keeps_signal _ _ _) (.refl s2)) (.after (keeps_closeEntry _ _ _ _ _) (keeps_setCtx _ _ _))
  have h4 : Keeps s3 s4 := by
    refine .of_ite (keeps_releaseWt _ _ _) (.of_ite ?_ (.refl s3))
    split
    · exact .of_ite (.refl s3) (.after (keeps_trap _ _ _ _) (.of_ite (keeps_dropOpen _ _) (.refl s3)))
    · exact keeps_setCtx _ _ _
    · exact .refl s3
  exact .after (keeps_drained _ _) (h3.trans h4)

theorem keeps_complete (s : State) (u : UCmd) (r : UResult) : Keeps s (s.complete u r) := by
  unfold State.complete
  extract_lets c s1 s2 t
  have h1 : Keeps s s1 := by
    refine .of_ite ?_ (.refl s)
    split
    · exact keeps_setVext _ _ _ _
    · exact .refl s
  have h2 : Keeps s s2 := .after .update h1
  exact .of_ite (.after (.of_ite (keeps_signal _ _ _) (.refl t)) (.after (keeps_closeEntry _ _ _ _ _) h2))
    (.after (keeps_completeCtx _ _ _) h2)

end Sys2Proof.Machine
end

section
namespace Sys2Proof.Machine

/-! ### `Keeps` for the functions of Machine/Sfu -/

theorem keeps_eachRow (n : Nat) (s : State) (f : State → Nat → State) (hf : ∀ t a1, Keeps t (f t a1)) : Keeps s (eachRow n s f) :=
  .foldl (fun _ _ => hf _ _) _ _

theorem keeps_bindSfu (s : State) (u : UCmd) : Keeps s (State.bindSfu s u).2 :=
  .refl _

theorem keeps_countClamp (s : State) (b : Bool) : Keeps s (State.countClamp s b) :=
  .of_ite (keeps_raiseFlag _ _ _) (.refl _)

theorem keeps_normOne (u : UCmd) (s : State) (r : Nat) : Keeps s (normOne u s r).2 :=
  .after (keeps_countClamp _ _) (.after (keeps_countClamp _ _) (.of_ite (keeps_bump _ _ _) (.refl _)))

theorem keeps_normRun (s : State) (u : UCmd) : Keeps s (normRun s u) :=
  keeps_drive _ _ _ _ _ (fun _ _ => keeps_bindSfu _ _) (fun _ _ => keeps_putRows _ _ _ _ (fun _ _ => keeps_normOne _ _ _))

theorem keeps_execNorm (c : Ctx) (f : Fields) (s : State) : KeepsNext s (execNorm c f s) :=
  .next (keeps_issueUnit _ _ _ _ _ (fun _ _ => keeps_normRun _ _))

theorem keeps_posRun (s : State) (u : UCmd) : Keeps s (posRun s u) := by
  refine keeps_drive _ _ _ _ _ (fun _ _ => keeps_bindSfu _ _) fun t v => ?_
  dsimp only
  refine keeps_putRows t _ _ _ ?_
  exact fun _ _ => keeps_countClamp _ _

theorem keeps_execPos (c : Ctx) (f : Fields) (s : State) : KeepsNext s (execPos c f s) :=
  .next (keeps_issueUnit _ _ _ _ _ (fun _ _ => keeps_posRun _ _))

theorem keeps_fuseOne (u : UCmd) (s : State) (r : Nat) : Keeps s (fuseOne u s r).2 :=
  keeps_countClamp _ _

theorem keeps_fuseRun (s : State) (u : UCmd) : Keeps s (fuseRun s u) :=
  keeps_drive _ _ _ _ _ (fun _ _ => keeps_bindSfu _ _) (fun _ _ => keeps_putRows _ _ _ _ (fun _ _ => keeps_fuseOne _ _ _))

theorem keeps_execFuse (c : Ctx) (f : Fields) (s : State) : KeepsNext s (execFuse c f s) :=
  .next (keeps_issueUnit _ _ _ _ _ (fun _ _ => keeps_fuseRun _ _))

theorem keeps_microRun (s : State) (u : UCmd) : Keeps s (microRun s u) := by
  refine keeps_drive _ _ _ _ _ (fun _ _ => keeps_bindSfu _ _) fun t v => ?_
  dsimp only
  refine keeps_putRows t _ _ _ ?_
  exact fun _ _ => keeps_countClamp _ _

theorem keeps_execMicro (c : Ctx) (f : Fields) (s : State) : KeepsNext s (execMicro c f s) :=
  .next (keeps_issueUnit _ _ _ _ _ (fun _ _ => keeps_microRun _ _))

theorem keeps_countClamps (s : State) (h : Option Half) (n : Nat) : Keeps s (State.countClamps s h n) :=
  .after (keeps_countRec _ _ _ _) (keeps_bump _ _ _)

theorem keeps_smaxOne (u : UCmd) (s : State) (r : Nat) : Keeps s (smaxOne u s r) :=
  .of_ite (.after (.foldl (fun _ _ =>
      (by split; exacts [keeps_setChoice _ _ _ _ _])) _ _) (keeps_countClamps _ _ _)) (.after (keeps_putRow _ _ _ _) (.after
      (keeps_countClamps _ _ _) (keeps_countClamp _ _)))

theorem keeps_smaxRun (s : State) (u : UCmd) : Keeps s (smaxRun s u) :=
  keeps_drive _ _ _ _ _ (fun _ _ => keeps_bindSfu _ _) (fun _ _ => keeps_eachRow _ _ _ (fun _ _ => keeps_smaxOne _ _ _))

theorem keeps_execSmax (c : Ctx) (f : Fields) (s : State) : KeepsNext s (execSmax c f s) :=
  .next (keeps_issueUnit _ _ _ _ _ (fun _ _ => keeps_smaxRun _ _))

end Sys2Proof.Machine
end

section
namespace Sys2Proof.Machine

/-! ### `Keeps` for the functions of Machine/Digest -/

theorem keeps_addItem (s : State) (unit : Nat) (h : Nat) (bs : List Byte) : Keeps s (State.addItem s unit h bs) :=
  .update

theorem keeps_clearItems (s : State) (unit : Nat) (h : Nat) : Keeps s (State.clearItems s unit h) :=
  .update

theorem keeps_compareEnter (s : State) (mine : Bool) (d : Digest) : Keeps s (State.compareEnter s mine d) := by
  unfold State.compareEnter
  dsimp only
  split
  · exact .of_ite .update (.after (keeps_raiseInt _ _) (.after (keeps_raiseFlag _ _ _) (.after .update .update)))
  · exact .of_ite (keeps_raiseFlag _ _ _) .update

theorem keeps_formDigest (s : State) (unit : Nat) (h : Half) : Keeps s (State.formDigest s unit h) :=
  .of_ite (keeps_clearItems _ _ _) (.after (keeps_compareEnter _ _ _) (.of_ite (.after (keeps_raiseFlag _ _ _) (keeps_clearItems _ _ _))
      (.after .update (keeps_clearItems _ _ _))))

theorem keeps_formFor (s : State) (unit : Nat) (h : Option Half) : Keeps s (State.formFor s unit h) := by
  unfold State.formFor
  split
  · exact keeps_formDigest _ _ _
  · exact .refl _

theorem keeps_addRow (s : State) (unit : Nat) (h : Option Half) (g : Nat) (bs : List Byte) : Keeps s (State.addRow s unit h g bs) := by
  unfold State.addRow
  split
  · exact keeps_addItem _ _ _ _
  · exact .refl _

theorem keeps_newProgramDigest (s : State) : Keeps s (State.newProgramDigest s) :=
  .update

end Sys2Proof.Machine
end

section
namespace Sys2Proof.Machine

/-! ### `Keeps` for the functions of Machine/HostWrite -/

theorem keeps_wstat (s : State) (off : Nat) (code : Byte) : Keeps s (State.wstat s off code) :=
  .of_ite (.after (keeps_setReg _ _ _) .update) (.after (keeps_bump _ _ _) (.after (keeps_setReg _ _ _) .update))

theorem keeps_hostWrite (s : State) (off : Nat) (body : State → Byte × State) (hbody : ∀ t, Keeps t (body t).2) : Keeps s (State.hostWrite
    s off body) :=
  .of_ite (.refl _) (.of_ite (keeps_wstat _ _ _) (.after (keeps_wstat _ _ _) (hbody _)))

theorem keeps_setAdopt (s : State) (u : Nat) : Keeps s (State.setAdopt s u) :=
  .of_ite (.after (keeps_setFld _ _ _ _ _) (keeps_setFld _ _ _ _ _)) (keeps_setFld _ _ _ _ _)

theorem keeps_adoptSync (s : State) : Keeps s (State.adoptSync s) :=
  .after .update (.foldl (fun _ _ => keeps_setObj _ _ _) _ _)

theorem keeps_adoptQueues (s : State) : Keeps s (State.adoptQueues s) :=
  .foldl (fun _ _ => keeps_adoptMarks _ _) _ _

theorem keeps_noteLive (s : State) (g : Nat) : Keeps s (State.noteLive s g) :=
  .of_ite (.after (keeps_setAdopt _ _) (.after (keeps_setReg _ _ _) (.after .update (.after (keeps_bump _ _ _) (.of_ite (.of_ite (.refl _)
      (keeps_adoptSync _)) (.after (keeps_adoptQueues _) (.of_ite (.refl _) (keeps_adoptSync _)))))))) (.after (keeps_setReg _ _ _)
      (.after .update (.after (keeps_bump _ _ _) (.of_ite (.of_ite (.refl _) (keeps_adoptSync _)) (.after (keeps_adoptQueues _) (.of_ite
      (.refl _) (keeps_adoptSync _)))))))

theorem keeps_liveWrite (s : State) (off : Nat) (v : Word) : Keeps s (State.liveWrite s off v) :=
  .of_ite (.after (keeps_noteLive _ _) (keeps_setReg _ _ _)) (.after .update (.after (keeps_noteLive _ _) (keeps_setReg _ _ _)))

end Sys2Proof.Machine
end

section
namespace Sys2Proof.Machine

/-! ### `Keeps` for the functions of Machine/Link -/

theorem keeps_setPort (s : State) (l : Nat) (p : Port) : Keeps s (State.setPort s l p) :=
  .update

theorem keeps_stick (s : State) (f : Frame) : Keeps s (State.stick s f) :=
  .update

theorem keeps_spray (s : State) (f : Frame) : Keeps s (State.spray s f) := by
  unfold State.spray
  split
  · exact keeps_stick _ _
  · exact .of_ite (keeps_stick _ _) (.after .update (keeps_setPort _ _ _))

theorem keeps_sendFrame (s : State) (f : Frame) : Keeps s (State.sendFrame s f) :=
  .of_ite (keeps_spray _ _) (.of_ite (keeps_stick _ _) .update)

theorem keeps_sendFrames (s : State) (fs : List Frame) : Keeps s (State.sendFrames s fs) :=
  .foldl (fun _ _ => keeps_sendFrame _ _) _ _

theorem keeps_sendPstate (s : State) : Keeps s (State.sendPstate s) :=
  keeps_sendFrames _ _

theorem keeps_portState (s : State) (l : Nat) (st : Nat) : Keeps s (State.portState s l st) :=
  .of_ite (.refl _) (.of_ite (.after (keeps_raiseInt _ _) (keeps_setPort _ _ _)) (.after (keeps_sendPstate _) (.after (keeps_raiseInt _ _)
      (keeps_setPort _ _ _))))

theorem keeps_portDown (s : State) (l : Nat) (st : Nat) : Keeps s (State.portDown s l st) :=
  .after (.foldl (fun _ _ => keeps_sendFrame _ _) _ _) (.after (keeps_portState _ _ _) (keeps_setPort _ _ _))

theorem keeps_retryStuck (s : State) : Keeps s (State.retryStuck s) :=
  .of_ite (.refl _) (.after (.foldl (fun _ _ => keeps_sendFrame _ _) _ _) .update)

end Sys2Proof.Machine
end

section
namespace Sys2Proof.Machine

/-! ### `Keeps` for the functions of Machine/Local -/

theorem keeps_control (s : State) (c : Ctx) (i : Instr) (body : State → State) (hbody : ∀ t, Keeps t (body t)) : Keeps s (State.control s
    c i body) :=
  .of_ite (.after (hbody _) (keeps_noteIssue _ _)) (.refl _)

theorem keeps_localOp (s : State) (c : Ctx) (i : Instr) (f : Fields) (idx : List Nat) (writes : Bool) (body : State → State) (hbody : ∀ t,
    Keeps t (body t)) : Keeps s (State.localOp s c i f idx writes body) :=
  .of_ite (.after (keeps_journalled _ _ _ _ _ _ _ (fun _ => hbody _)) (keeps_noteIssue _ _)) (.refl _)

theorem keeps_execNop (c : Ctx) (f : Fields) (s : State) : KeepsNext s (execNop c f s) :=
  .next (keeps_control _ _ _ _ (fun _ => keeps_retire _ _ _))

theorem keeps_execEndProg (c : Ctx) (f : Fields) (s : State) : KeepsNext s (execEndProg c f s) :=
  .next (keeps_control _ _ _ _ (fun _ => .after (keeps_drained _ _) (keeps_setCtx _ _ _)))

theorem keeps_arith (s : State) (c : Ctx) (i : Instr) (f : Fields) (v : Machine.Context → DWord) : Keeps s (State.arith s c i f v) :=
  keeps_control _ _ _ _ (fun _ => keeps_retireX _ _ _ _)

theorem keeps_execLi (c : Ctx) (f : Fields) (s : State) : KeepsNext s (execLi c f s) :=
  .next (keeps_arith _ _ _ _ _)

theorem keeps_execLui (c : Ctx) (f : Fields) (s : State) : KeepsNext s (execLui c f s) :=
  .next (keeps_arith _ _ _ _ _)

theorem keeps_execAdd (c : Ctx) (f : Fields) (s : State) : KeepsNext s (execAdd c f s) :=
  .next (keeps_arith _ _ _ _ _)

theorem keeps_execSub (c : Ctx) (f : Fields) (s : State) : KeepsNext s (execSub c f s) :=
  .next (keeps_arith _ _ _ _ _)

theorem keeps_execAnd (c : Ctx) (f : Fields) (s : State) : KeepsNext s (execAnd c f s) :=
  .next (keeps_arith _ _ _ _ _)

theorem keeps_execOr (c : Ctx) (f : Fields) (s : State) : KeepsNext s (execOr c f s) :=
  .next (keeps_arith _ _ _ _ _)

theorem keeps_execXor (c : Ctx) (f : Fields) (s : State) : KeepsNext s (execXor c f s) :=
  .next (keeps_arith _ _ _ _ _)

theorem keeps_execShl (c : Ctx) (f : Fields) (s : State) : KeepsNext s (execShl c f s) :=
  .next (keeps_arith _ _ _ _ _)

theorem keeps_execShr (c : Ctx) (f : Fields) (s : State) : KeepsNext s (execShr c f s) :=
  .next (keeps_arith _ _ _ _ _)

theorem keeps_execMul (c : Ctx) (f : Fields) (s : State) : KeepsNext s (execMul c f s) :=
  .next (keeps_arith _ _ _ _ _)

theorem keeps_execMin (c : Ctx) (f : Fields) (s : State) : KeepsNext s (execMin c f s) :=
  .next (keeps_arith _ _ _ _ _)

theorem keeps_execMax (c : Ctx) (f : Fields) (s : State) : KeepsNext s (execMax c f s) :=
  .next (keeps_arith _ _ _ _ _)

theorem keeps_branchIf (s : State) (c : Ctx) (i : Instr) (f : Fields) (take : Machine.Context → Bool) : Keeps s (State.branchIf s c i f
    take) :=
  keeps_control _ _ _ _ (fun _ => .of_ite (keeps_branch _ _ _) (keeps_retire _ _ _))

theorem keeps_execBeq (c : Ctx) (f : Fields) (s : State) : KeepsNext s (execBeq c f s) :=
  .next (keeps_branchIf _ _ _ _ _)

theorem keeps_execBne (c : Ctx) (f : Fields) (s : State) : KeepsNext s (execBne c f s) :=
  .next (keeps_branchIf _ _ _ _ _)

theorem keeps_execBlt (c : Ctx) (f : Fields) (s : State) : KeepsNext s (execBlt c f s) :=
  .next (keeps_branchIf _ _ _ _ _)

theorem keeps_execBge (c : Ctx) (f : Fields) (s : State) : KeepsNext s (execBge c f s) :=
  .next (keeps_branchIf _ _ _ _ _)

theorem keeps_execBltu (c : Ctx) (f : Fields) (s : State) : KeepsNext s (execBltu c f s) :=
  .next (keeps_branchIf _ _ _ _ _)

theorem keeps_enterLoop (s : State) (c : Ctx) (f : Fields) (trip : Nat) (bad : Bool) : Keeps s (State.enterLoop s c f trip bad) := by
  unfold State.enterLoop
  dsimp only
  split
  · exact keeps_retire _ _ _
  · exact .of_ite (keeps_setCtx _ _ _) (keeps_setCtx _ _ _)

theorem keeps_execLoop (c : Ctx) (f : Fields) (s : State) : KeepsNext s (execLoop c f s) :=
  .next (keeps_control _ _ _ _ (fun _ => keeps_enterLoop _ _ _ _ _))

theorem keeps_execLoopv (c : Ctx) (f : Fields) (s : State) : KeepsNext s (execLoopv c f s) :=
  .next (keeps_control _ _ _ _ (fun _ => keeps_enterLoop _ _ _ _ _))

theorem keeps_execStat (c : Ctx) (f : Fields) (s : State) : KeepsNext s (execStat c f s) :=
  .next (keeps_localOp _ _ _ _ _ _ _ (fun _ => keeps_retireX _ _ _ _))

theorem keeps_execSysr (c : Ctx) (f : Fields) (s : State) : KeepsNext s (execSysr c f s) :=
  .next (keeps_localOp _ _ _ _ _ _ _ (fun _ => (by split; exacts [keeps_retireX _ _ _ _, keeps_retire _ _ _])))

theorem keeps_execSignal (c : Ctx) (f : Fields) (s : State) : KeepsNext s (execSignal c f s) :=
  .next (keeps_localOp _ _ _ _ _ _ _ (fun _ => .after (keeps_retire _ _ _) (keeps_signal _ _ _)))

theorem keeps_execWait (c : Ctx) (f : Fields) (s : State) : KeepsNext s (execWait c f s) :=
  .next (keeps_localOp _ _ _ _ _ _ _ (fun _ => .after (keeps_setCtx _ _ _) (.of_ite (keeps_setObj _ _ _) (.refl _))))

theorem keeps_execRemoteSignal (c : Ctx) (f : Fields) (s : State) : KeepsNext s (execRemoteSignal c f s) :=
  .next (keeps_localOp _ _ _ _ _ _ _ (fun _ => .of_ite (keeps_retire _ _ _) (.after (keeps_sendFrame _ _) (.after (keeps_setCtx _ _ _)
      .update))))

theorem keeps_execCsset (c : Ctx) (f : Fields) (s : State) : KeepsNext s (execCsset c f s) :=
  .next (keeps_localOp _ _ _ _ _ _ _ (fun _ => .after (keeps_retire _ _ _) (keeps_setCtx _ _ _)))

theorem keeps_writeSlot (s : State) (n : Nat) (d : Slot) : Keeps s (State.writeSlot s n d) :=
  .after .update (keeps_setSlot _ _ _)

theorem keeps_descWrite (s : State) (c : Nat) (n : Nat) (l : Line) : Keeps s (State.descWrite s c n l) :=
  .of_ite (.after (keeps_retire _ _ _) (keeps_writeSlot _ _ _)) (keeps_retire _ _ _)

theorem keeps_execDescLoad (c : Ctx) (f : Fields) (s : State) : KeepsNext s (execDescLoad c f s) := by
  refine .next (keeps_localOp _ _ _ _ _ _ _ fun t => ?_)
  dsimp only
  split
  · exact keeps_retire _ _ _
  · exact .of_ite (keeps_descWrite _ _ _ _) (.refl t)

theorem keeps_execDescClone (c : Ctx) (f : Fields) (s : State) : KeepsNext s (execDescClone c f s) :=
  .next (keeps_localOp _ _ _ _ _ _ _ (fun _ => .of_ite (keeps_retire _ _ _) (keeps_descWrite _ _ _ _)))

theorem keeps_execDescInval (c : Ctx) (f : Fields) (s : State) : KeepsNext s (execDescInval c f s) :=
  .next (keeps_localOp _ _ _ _ _ _ _ (fun _ => .after (keeps_retire _ _ _) (keeps_writeSlot _ _ _)))

theorem keeps_execFit (c : Ctx) (f : Fields) (s : State) : KeepsNext s (execFit c f s) :=
  .next (keeps_localOp _ _ _ _ _ _ _ (fun _ => .of_ite (keeps_retire _ _ _) (.of_ite (keeps_retireX _ _ _ _) (.of_ite (keeps_retire _ _ _)
      (keeps_retire _ _ _)))))

theorem keeps_trapAlways (s : State) (c : Ctx) (code : Byte) : Keeps s (State.trapAlways s c code) :=
  .after (keeps_trap _ _ _ _) (keeps_setCtx _ _ _)

theorem keeps_execUndefinedInstruction (c : Ctx) (s : State) : KeepsNext s (execUndefinedInstruction c s) :=
  .next (.of_ite (.after (keeps_trapAlways _ _ _) (keeps_icTouch _ _ _)) (.refl _))

theorem keeps_execUnlockedRegionFetch (c : Ctx) (s : State) : KeepsNext s (execUnlockedRegionFetch c s) :=
  .next (.of_ite (keeps_trapAlways _ _ _) (.refl _))

theorem keeps_icFill (s : State) (c : Nat) (pc : Nat) : Keeps s (State.icFill s c pc) :=
  .of_ite (.refl _) (keeps_icTouch _ _ _)

theorem keeps_execIcacheMissFill (c : Ctx) (s : State) : KeepsNext s (execIcacheMissFill c s) :=
  .next (.of_ite (.after (keeps_icFill _ _ _) (.after (keeps_icFill _ _ _) (keeps_bump _ _ _))) (.refl _))

theorem keeps_endWait (s : State) (c : Nat) (code : Byte) : Keeps s (State.endWait s c code) :=
  .of_ite (.after (keeps_trap _ _ _ _) (.after (keeps_retire _ _ _) (.after (keeps_closeEntry _ _ _ _ _) (keeps_setCtx _ _ _)))) (.after
      (keeps_retire _ _ _) (.after (keeps_closeEntry _ _ _ _ _) (keeps_setCtx _ _ _)))

theorem keeps_releaseFrom (s : State) (n c k : Nat) : Keeps s (s.releaseFrom n c k) := by
  induction k generalizing s c with
  | zero => exact .refl s
  | succ k ih =>
    rw [State.releaseFrom_succ]
    refine .after (ih _ _) ?_
    unfold State.releaseStep
    split
    · exact .of_ite (.after (keeps_endWait _ _ _) (.of_ite (keeps_setObj _ _ _) (.refl s))) (.refl s)
    · exact .refl s

theorem keeps_execSyncWaiterRelease (obj : Fin 32768) (s : State) : KeepsNext s (execSyncWaiterRelease obj s) :=
  .next (keeps_releaseFrom _ _ _ _)

theorem keeps_execWaitTimeout (c : Ctx) (s : State) : KeepsNext s (execWaitTimeout c s) :=
  .next ((by split; exacts [.of_ite (keeps_endWait _ _ _) (.refl _), .refl _]))

theorem keeps_endRemote (s : State) (g : SigOut) (code : Byte) : Keeps s (s.endRemote g code) := by
  unfold State.endRemote
  extract_lets c _ t u x v
  have ht : Keeps s t := .update
  have hu : Keeps s u := .after (keeps_closeRemote _ _ _ _) (.after (keeps_setCtx _ _ _) ht)
  have hv : Keeps u v := by
    refine .of_ite (.refl u) ?_
    split
    · exact .of_ite (.refl u) (.after (keeps_trap _ _ _ _) (.of_ite (keeps_dropOpen _ _) (.refl u)))
    · exact keeps_setCtx _ _ _
    · exact .refl u
  exact .of_ite (.after (keeps_closeRemote _ _ _ _) ht) (.after (keeps_drained _ _) (hu.trans hv))

end Sys2Proof.Machine
end

section
namespace Sys2Proof.Machine

/-! ### `Keeps` for the functions of Machine/Tables -/

theorem keeps_setBanked (s : State) (t : Nat) (b : Banked) : Keeps s (State.setBanked s t b) := by
  unfold State.setBanked
  split
  · exact .update
  · exact .update
  · exact .update
  · exact .update

theorem keeps_execEpochRelease (t : Fin 4) (s : State) : KeepsNext s (execEpochRelease t s) :=
  .next (.of_ite (keeps_setBanked _ _ _) (.refl _))

theorem keeps_startGate (s : State) (n : Nat) : Keeps s (State.startGate s n) := by
  unfold State.startGate
  dsimp only
  split
  · exact .update
  · exact .after (keeps_raiseFlag _ _ _) .update

theorem keeps_autoGate (s : State) : Keeps s (State.autoGate s) :=
  .of_ite (.refl _) (.of_ite .update (keeps_startGate _ _))

theorem keeps_gldWrite (s : State) (v : Word) : Keeps s (s.gldWrite v).2 := by
  unfold State.gldWrite
  extract_lets t
  have ht : Keeps s t := keeps_liveWrite _ _ _
  split
  · exact ht
  · split
    · exact .after (keeps_raiseFlag _ _ _) (.after .update ht)
    · exact .after (keeps_startGate _ _) ht

theorem keeps_execGldGo (v : Word) (s : State) : KeepsNext s (execGldGo v s) :=
  .next (keeps_hostWrite _ _ _ (fun _ => keeps_gldWrite _ _))

theorem keeps_signalIf (s : State) (off : Nat) : Keeps s (State.signalIf s off) :=
  .of_ite (keeps_signal _ _ _) (.refl _)

theorem keeps_imageLostRead {s t : State} {a n : Nat} (h : s.imageLostRead a n = some t) : Keeps s t := by
  obtain ⟨l, _, rfl⟩ := Option.map_eq_some_iff.1 h
  exact keeps_lostRead _ _ _

theorem keeps_execGateLoadComplete (s : State) : KeepsNext s (execGateLoadComplete s) := by
  unfold execGateLoadComplete
  refine .next (.of_ite (.refl s) ?_)
  split
  · next t ht => exact keeps_imageLostRead ht
  · refine .of_ite (.after (keeps_autoGate _) ?_) ?_
    · exact .after (keeps_signalIf _ _) .update
    · exact .after (keeps_signalIf _ _) .update

theorem keeps_headerLost {s t : State} {n : Nat} (h : s.headerLost n = some t) : Keeps s t := by
  unfold State.headerLost at h
  split at h
  · cases h
  · exact keeps_imageLostRead h

theorem keeps_startRep (s : State) (n : Nat) : Keeps s (s.startRep n) := by
  unfold State.startRep
  split
  next t cause ht =>
    have hk : Keeps s t := by
      split at ht
      · next u hu =>
        rw [← (Prod.mk.inj ht).1]
        exact keeps_headerLost hu
      · rw [← (Prod.mk.inj ht).1]
        exact .refl s
    split
    · exact .after .update hk
    · exact .after (keeps_raiseFlag _ _ _) (.after .update hk)

theorem keeps_autoRep (s : State) : Keeps s (State.autoRep s) :=
  .of_ite (.refl _) (.of_ite .update (keeps_startRep _ _))

theorem keeps_rldWrite (s : State) (v : Word) : Keeps s (s.rldWrite v).2 := by
  unfold State.rldWrite
  extract_lets t
  have ht : Keeps s t := keeps_liveWrite _ _ _
  split
  · exact ht
  · split
    · exact .after (keeps_raiseFlag _ _ _) (.after .update ht)
    · exact .after (keeps_startRep _ _) ht

theorem keeps_execRldGo (v : Word) (s : State) : KeepsNext s (execRldGo v s) :=
  .next (keeps_hostWrite _ _ _ (fun _ => keeps_rldWrite _ _))

theorem keeps_execReplicaLoadComplete (s : State) : KeepsNext s (execReplicaLoadComplete s) := by
  unfold execReplicaLoadComplete
  refine .next (.of_ite (.refl s) ?_)
  split
  · next t ht => exact keeps_imageLostRead ht
  · refine .of_ite (.after (keeps_autoRep _) ?_) ?_
    · exact .after (keeps_signalIf _ _) .update
    · exact .after (keeps_signalIf _ _) .update

theorem keeps_switch (s : State) (t : Nat) : Keeps s (State.switch s t) := by
  unfold State.switch
  dsimp only
  split
  · exact .after (keeps_autoRep _) (.after .update (keeps_setBanked _ _ _))
  · exact .after (keeps_autoGate _) (.after .update (keeps_setBanked _ _ _))
  · exact .after (keeps_newProgramDigest _) (keeps_setBanked _ _ _)
  · exact keeps_setBanked _ _ _

theorem keeps_execEpoch (c : Ctx) (f : Fields) (s : State) : KeepsNext s (execEpoch c f s) := by
  refine .next (keeps_localOp _ _ _ _ _ _ _ fun t => ?_)
  dsimp only
  split
  · exact keeps_retire _ _ _
  · exact .after (keeps_retireX _ _ _ _) (keeps_switch _ _)

end Sys2Proof.Machine
end

section
namespace Sys2Proof.Machine

/-! ### `Keeps` for the functions of Machine/Score -/

theorem keeps_scoreStart (s : State) (u : UCmd) : Keeps s (scoreStart s u).2 :=
  .refl _

theorem keeps_scoreBind (s : State) (u : UCmd) : Keeps s (scoreBind s u).2 := by
  unfold scoreBind
  refine .of_ite_snd (.refl s) ?_
  extract_lets v
  split
  · exact .update
  · exact .refl s

theorem keeps_putLogits (s : State) (d : Desc) (r : Nat) (l : List Fl) : Keeps s (State.putLogits s d r l) :=
  .of_ite (.foldl (fun _ _ => keeps_setNum _ _ _ _) _ _) (keeps_putRow _ _ _ _)

theorem keeps_scoreOne (u : UCmd) (b : Machine.Bind) (g : GateMeta) (s : State) (r : Nat) : Keeps s (scoreOne u b g s r) :=
  .after (keeps_addRow _ _ _ _ _) (.after (keeps_putLogits _ _ _ _) (.after (keeps_measure _ _ _) (keeps_countClamp _ _)))

theorem keeps_scoreRows (k : Nat) (s : State) (u : UCmd) : Keeps s (scoreRows k s u).2 := by
  induction k generalizing s u with
  | zero => exact .refl s
  | succ k ih =>
    unfold scoreRows
    split
    · exact .refl s
    · next b l _ =>
      refine .of_ite_snd (.refl s) ?_
      extract_lets g
      split
      · exact keeps_lostRead _ _ _
      · exact .after (ih _ _) (.foldl (fun _ _ => keeps_scoreOne _ _ _ _ _) _ _)

theorem keeps_scoreTake (s : State) (u : UCmd) : Keeps s (scoreTake s u).2 :=
  .after (keeps_scoreRows _ _ _) (keeps_scoreBind _ _)

theorem keeps_scoreWork (s : State) (u : UCmd) : Keeps s (scoreWork s u).2 :=
  .of_ite_snd (.refl _) (keeps_formFor _ _ _)

theorem keeps_scoreRun (s : State) (u : UCmd) : Keeps s (scoreRun s u) :=
  keeps_driveRows _ _ _ _ _ _ (fun _ _ => keeps_scoreStart _ _) (fun _ _ => keeps_scoreTake _ _) (fun _ _ => keeps_scoreWork _ _)

theorem keeps_execScore (c : Ctx) (f : Fields) (s : State) : KeepsNext s (execScore c f s) :=
  .next (keeps_issueUnit _ _ _ _ _ (fun _ _ => keeps_scoreRun _ _))

theorem keeps_topkStart (s : State) (u : UCmd) : Keeps s (topkStart s u).2 :=
  .refl _

theorem keeps_topkOne (u : UCmd) (s : State) (r : Nat) : Keeps s (topkOne u s r) :=
  .after (keeps_addRow _ _ _ _ _) (.after (.foldl (fun _ _ => keeps_setChoice _ _ _ _ _) _ _) (keeps_countClamp _ _))

theorem keeps_topkRun (s : State) (u : UCmd) : Keeps s (topkRun s u) :=
  keeps_drive _ _ _ _ _ (fun _ _ => keeps_topkStart _ _) (fun _ _ => .after (keeps_formFor _ _ _) (keeps_eachRow _ _ _ (fun _ _ =>
      keeps_topkOne _ _ _)))

theorem keeps_execTopk (c : Ctx) (f : Fields) (s : State) : KeepsNext s (execTopk c f s) :=
  .next (keeps_issueUnit _ _ _ _ _ (fun _ _ => keeps_topkRun _ _))

end Sys2Proof.Machine
end

section
namespace Sys2Proof.Machine

/-! ### `Keeps` for the functions of Machine/Slots -/

theorem keeps_setRslot (s : State) (n : Nat) (r : RSlot) : Keeps s (State.setRslot s n r) :=
  .update

theorem keeps_giveAns (s : State) (a : Nat) : Keeps s (State.giveAns s a) := by
  unfold State.giveAns
  split
  · exact .refl _
  · exact .update

theorem keeps_takeLines (s : State) (n : Nat) : Keeps s (State.takeLines s n) :=
  .update

theorem keeps_giveLines (s : State) (n : Nat) : Keeps s (State.giveLines s n) :=
  .update

theorem keeps_freeHeld (s : State) (n : Nat) : Keeps s (State.freeHeld s n) :=
  .after (keeps_setRslot _ _ _) (.after (.foldl (fun _ _ => keeps_giveAns _ _) _ _) (keeps_giveLines _ _))

theorem keeps_returnRes (s : State) (n : Nat) (k : Nat) : Keeps s (State.returnRes s n k) :=
  .after (keeps_setRslot _ _ _) .update

theorem keeps_releaseSlot (s : State) (n : Nat) : Keeps s (State.releaseSlot s n) :=
  .after .update (.after (keeps_setRslot _ _ _) (.after (keeps_returnRes _ _ _) (keeps_freeHeld _ _)))

theorem keeps_drainSlot (s : State) (n : Nat) : Keeps s (State.drainSlot s n) :=
  .of_ite (keeps_releaseSlot _ _) (.refl _)

end Sys2Proof.Machine
end

section
namespace Sys2Proof.Machine

/-! ### `Keeps` for the functions of Machine/Admit -/

theorem keeps_addRecord (s : State) (q : Nat) (r : BitVec 128) : Keeps s (State.addRecord s q r) :=
  .of_ite .update (.after .update (keeps_enter _ _ _))

theorem keeps_countToken (s : State) (layer : Nat) (h : Nat) (experts : List Nat) : Keeps s (State.countToken s layer h experts) :=
  .after (keeps_countRec _ _ _ _) .update

theorem keeps_admitStart (s : State) (u : UCmd) : Keeps s (admitStart s u).2 :=
  .after .update (.after (keeps_clearItems _ _ _) (keeps_draw _))

theorem keeps_admitRowStart (s : State) (u : UCmd) (r : Nat) : Keeps s (admitRowStart s u r).2 :=
  .after (keeps_countToken _ _ _ _) (.foldl (fun _ _ => keeps_setChoice _ _ _ _ _) _ _)

theorem keeps_admitRowEnd (s : State) (u : UCmd) (r : Nat) : Keeps s (admitRowEnd s u r) := by
  unfold admitRowEnd
  dsimp only
  split
  · exact .after (keeps_drainSlot _ _) (.after (keeps_setRslot _ _ _) (.of_ite (keeps_countRec _ _ _ _) (.refl _)))
  · exact .of_ite (keeps_countRec _ _ _ _) (.refl _)

theorem keeps_reserve {s t : State} {n : Nat} (h : s.reserve n = some t) : Keeps s t := by
  unfold State.reserve at h
  split at h
  · rw [← Option.some.inj h]
    exact .after (keeps_setRslot _ _ _) .update
  · cases h

theorem keeps_reserveRow {s t : State} {h r : Nat} (ht : s.reserveRow h r = some t) : Keeps s t := by
  unfold State.reserveRow at ht
  split at ht
  · exact keeps_reserve ht
  · split at ht
    · cases ht
      exact .refl s
    · cases ht

theorem keeps_admitChoice {s t : State} {u v : UCmd} {r : Nat} {b : Bool} (h : admitChoice s u r = (some (v, t), b)) :
    Keeps s t := by
  have hcount (t : State) (att un w : Nat) (h : Nat) : Keeps t (((t.bump 0x070044 att).bump 0x00220C un).countRec 12 h w) :=
    .after (keeps_countRec _ _ _ _) (.after (keeps_bump _ _ _) (keeps_bump _ _ _))
  unfold admitChoice at h
  dsimp only at h
  split at h
  · rw [← (Prod.mk.inj (Option.some.inj (Prod.mk.inj h).1)).2]
    exact .after (keeps_countRec _ _ _ _) (.after (hcount _ _ _ _ _) (keeps_setChoice _ _ _ _ _))
  · split at h
    · cases (Prod.mk.inj h).1
    · split at h
      · cases (Prod.mk.inj h).1
      · next s1 h1 =>
        rw [← (Prod.mk.inj (Option.some.inj (Prod.mk.inj h).1)).2]
        refine .after .update (.after (keeps_addItem _ _ _ _) (.after (keeps_addRecord _ _ _)
          (.of_ite (.after (keeps_countRec _ _ _ _) ?_) ?_)))
        all_goals
          exact .after (keeps_countRec _ _ _ _) (.after (hcount _ _ _ _ _) (.after (keeps_setChoice _ _ _ _ _) (keeps_reserveRow h1)))

theorem keeps_admitLoop (order : List Nat) (n : Nat) (u : UCmd) (s : State) : Keeps s (admitLoop order n u s).2 := by
  induction n generalizing u s with
  | zero => exact .refl s
  | succ n ih =>
    unfold admitLoop
    split
    · exact .refl s
    · next r _ =>
      split
      next v t hv =>
        have ht : Keeps s t := by
          split at hv
          · rw [show t = (admitRowStart s u r).2 from (congrArg Prod.snd hv).symm]
            exact keeps_admitRowStart _ _ _
          · rw [← (Prod.mk.inj hv).2]
            exact .refl s
        extract_lets d
        refine .trans ht (.of_ite_snd (.after (ih _ _) (keeps_admitRowEnd _ _ _)) ?_)
        split
        · next w t' _ hc =>
          have hk : Keeps t t' := keeps_admitChoice hc
          exact .of_ite_snd (.after (ih _ _) (.after (keeps_admitRowEnd _ _ _) hk)) (.after (ih _ _) hk)
        · exact .update
        · exact .refl t

theorem keeps_admitWork (s : State) (u : UCmd) : Keeps s (admitWork s u).2 := by
  unfold admitWork
  refine .of_ite_snd (.refl s) ?_
  extract_lets _ s1 n order
  have h1 : Keeps s s1 := .update
  have hl := keeps_admitLoop order (n * 17 + 1) u s1
  generalize admitLoop order (n * 17 + 1) u s1 = p at hl ⊢
  obtain ⟨v, t⟩ := p
  refine .trans h1 (.trans hl (.of_ite_snd (.refl t) ?_))
  exact .after (keeps_formFor _ _ _) (.after .update (keeps_enter _ _ _))

theorem keeps_admitRun (s : State) (u : UCmd) : Keeps s (admitRun s u) :=
  keeps_drive _ _ _ _ _ (fun _ _ => keeps_admitStart _ _) (fun _ _ => keeps_admitWork _ _)

theorem keeps_execAdmitRows (c : Ctx) (f : Fields) (s : State) : KeepsNext s (execAdmitRows c f s) :=
  .next (keeps_issueUnit _ _ _ _ _ (fun _ _ => keeps_admitRun _ _))

theorem keeps_execAdmissionStallEnd (s : State) : KeepsNext s (execAdmissionStallEnd s) := by
  refine .next (.of_ite ?_ (.refl s))
  dsimp only
  split
  · exact .after (keeps_admitRun _ _) .update
  · exact .update

theorem keeps_histogram (s : State) (u : UCmd) : Keeps s (State.histogram s u) :=
  .of_ite (.refl _) (.of_ite (.after .update (keeps_bump _ _ _)) (.after (keeps_signalIf _ _) (.after (keeps_setFld _ _ _ _ _) (.foldl
      (fun _ _ => .after (keeps_cureRange _ _ _) (keeps_setBytes _ _ _)) _ _))))

theorem keeps_histRd (s : State) (v : Word) : Keeps s (s.histRd v).2 := by
  unfold State.histRd
  dsimp only
  split
  · exact .refl s
  · dsimp only
    exact keeps_liveWrite _ _ _

theorem keeps_execHistRdWrite (v : Word) (s : State) : KeepsNext s (execHistRdWrite v s) :=
  .next (keeps_hostWrite _ _ _ (fun _ => keeps_histRd _ _))

end Sys2Proof.Machine
end

section
namespace Sys2Proof.Machine

/-! ### `Keeps` for the functions of Machine/Nvs -/

theorem keeps_setImg (s : State) (w : Nat) (v : Word) : Keeps s (State.setImg s w v) :=
  .update

theorem keeps_setImgs (s : State) (l : List (Nat × Word)) : Keeps s (s.setImgs l) := by
  induction l generalizing s with
  | nil => exact .refl s
  | cons x l ih => exact .after (ih _) (keeps_setImg _ _ _)

theorem keeps_markOut (s : State) (w : Nat) (u : Nat) : Keeps s (State.markOut s w u) :=
  .after (keeps_setImg _ _ _) .update

theorem keeps_takeMarks (s : State) : Keeps s (State.takeMarks s) :=
  .update

theorem keeps_logEntry (s : State) (e : LogEnt) : Keeps s (State.logEntry s e) :=
  keeps_setImgs _ _

theorem keeps_logEvent (s : State) (cause : Byte) (item : BitVec 16) : Keeps s (State.logEvent s cause item) :=
  keeps_logEntry _ _

end Sys2Proof.Machine
end

section
namespace Sys2Proof.Machine

/-! ### `Keeps` for the functions of Machine/Pools -/

theorem keeps_poolCtrl (s : State) (n : Nat) (v : Word) : Keeps s (State.poolCtrl s n v).2 :=
  .of_ite_snd (.refl _) (.of_ite_snd (.refl _) (.of_ite_snd (.refl _) (.of_ite_snd (.of_ite (.after .update (.after (keeps_setPool _ _ _)
      (keeps_setReg _ _ _))) (.after (keeps_setPool _ _ _) (keeps_setReg _ _ _))) (.of_ite_snd (.refl _) (.of_ite_snd (.refl _) (.after
      (keeps_setPool _ _ _) (keeps_setReg _ _ _)))))))

theorem keeps_execPoolEnable (n : Fin 8) (v : Word) (s : State) : KeepsNext s (execPoolEnable n v s) :=
  .next (keeps_hostWrite _ _ _ (fun _ => keeps_poolCtrl _ _ _))

theorem keeps_ringImage (s : State) (n : Nat) (sound : List Nat) : Keeps s (State.ringImage s n sound) :=
  .after (keeps_setBytes _ _ _) (keeps_setBytes _ _ _)

theorem keeps_execPoolRingBuilt (n : Fin 8) (s : State) : KeepsNext s (execPoolRingBuilt n s) :=
  .next (.of_ite (.refl _) (.of_ite (.after .update (.after (.foldl (fun _ _ => keeps_bitmapByte _ _ _) _ _) (.after (keeps_setPool _ _ _)
      (.after (keeps_ringImage _ _ _) (keeps_setPool _ _ _))))) (.after (keeps_serveWaiting _ _ _) (.after (keeps_ringImage _ _ _)
      (keeps_setPool _ _ _)))))

theorem keeps_quotaWrite (s : State) (n : Nat) (r : Nat) (v : Word) : Keeps s (State.quotaWrite s n r v).2 :=
  .of_ite_snd (.refl _) (.of_ite_snd (.refl _) (.of_ite_snd (.refl _) (.of_ite_snd (.refl _) (keeps_setReg _ _ _))))

theorem keeps_execPoolQuotaWrite (n : Fin 8) (r : Fin 256) (v : Word) (s : State) : KeepsNext s (execPoolQuotaWrite n r v s) :=
  .next (keeps_hostWrite _ _ _ (fun _ => keeps_quotaWrite _ _ _ _))

theorem keeps_poolRequest (s : State) (n r : Nat) : Keeps s (s.poolRequest n r) := by
  unfold State.poolRequest
  extract_lets p wait
  have hw : Keeps s wait := keeps_setPool _ _ _
  refine .of_ite (.refl s) (.of_ite hw ?_)
  split
  · refine .of_ite (.refl s) (.of_ite (.of_ite hw (.refl s)) ?_)
    split
    · next i t ht => exact keeps_poolTake ht
    · exact .of_ite hw (.refl s)
  · refine .of_ite (.refl s) ?_
    split
    · next i t ht => exact keeps_poolTake ht
    · exact .refl s
  · exact .refl s

theorem keeps_execPoolAllocate (n : Fin 8) (r : Fin 256) (s : State) : KeepsNext s (execPoolAllocate n r s) :=
  .next (keeps_poolRequest _ _ _)

theorem keeps_execPoolFree (n : Fin 8) (r : Fin 256) (addr : BitVec 48) (s : State) : KeepsNext s (execPoolFree n r addr s) :=
  .next (.of_ite (.refl _) (.of_ite (keeps_poolGive _ _ _ _) (.of_ite (keeps_unitFree _ _ _ _) (.refl _))))

theorem keeps_writeBack (s : State) (n : Nat) : Keeps s (State.writeBack s n) :=
  .after (keeps_setPool _ _ _) (.foldl (fun _ _ => keeps_setNum _ _ _ _) _ _)

theorem keeps_execPoolCacheRefill (n : Fin 8) (s : State) : KeepsNext s (execPoolCacheRefill n s) :=
  .next (.of_ite (.refl _) (.after (keeps_serveWaiting _ _ _) (.of_ite (keeps_setPool _ _ _) (.of_ite (keeps_writeBack _ _) (.refl _)))))

theorem keeps_tregCtrl (s : State) (n : Nat) (v : Word) : Keeps s (State.tregCtrl s n v).2 :=
  .of_ite_snd (.refl _) (.of_ite_snd (.refl _) (.of_ite_snd (keeps_setReg _ _ _) (.of_ite_snd (.refl _) (keeps_setReg _ _ _))))

theorem keeps_execTregEnable (n : Fin 256) (s : State) : KeepsNext s (execTregEnable n s) :=
  .next (keeps_hostWrite _ _ _ (fun _ => keeps_tregCtrl _ _ _))

end Sys2Proof.Machine
end

section
namespace Sys2Proof.Machine

/-! ### `Keeps` for the functions of Machine/Huddle -/

theorem keeps_setHbank (s : State) (h : Nat) (b : HudBank) : Keeps s (State.setHbank s h b) :=
  .of_ite .update .update

theorem keeps_huddleStart (s : State) (u : UCmd) : Keeps s (huddleStart s u).2 := by
  unfold huddleStart
  extract_lets v p k _ s1
  have h1 : Keeps s s1 := .update
  refine .of_ite_snd h1 ?_
  extract_lets
  split
  · next bs t ht =>
    split at ht
    · exact .after .update (.after (keeps_poolTakes ht) h1)
    · cases ht
  · exact .after (keeps_setPool s1 _ _) h1

theorem keeps_readRecords (q n : Nat) (s : State) : Keeps s (readRecords q n s).2 := by
  induction n generalizing s with
  | zero => exact .refl s
  | succ n ih =>
    unfold readRecords
    split
    · exact .refl s
    · next w t ht =>
      refine .trans (keeps_popWord ht) (.of_ite_snd (.after (ih _) (.of_ite (keeps_malformed t) (.refl t))) ?_)
      exact .of_ite_snd .update (.after (ih _) .update)

theorem keeps_putChain (s : State) (addr : Nat → Nat) (i : Nat) (l : List (List QWord)) : Keeps s (s.putChain addr i l).2 := by
  induction l generalizing s i with
  | nil => exact .refl s
  | cons ws l ih => exact .after (ih _ _) (keeps_putBlock _ _ _)

theorem keeps_splice (s : State) (q : Nat) (chain : List (Nat × Nat)) (packets : Nat) : Keeps s (State.splice s q chain packets) :=
  keeps_setQueue _ _ _

theorem keeps_spliceAll (s : State) (h : Nat) (addr : Nat → Nat) (cs : List (Nat × Nat × List AdmRec)) (l : List Nat) (j i : Nat) :
    Keeps s (s.spliceAll h addr cs l j i).2 := by
  induction l generalizing s j i with
  | nil => exact .refl s
  | cons host l ih => exact .after (ih _ _ _) (.after (keeps_splice _ _ _ _) (keeps_putChain _ _ _ _))

theorem keeps_huddleFinish (s : State) (u : UCmd) : Keeps s (huddleFinish s u).2 :=
  .after .update (.after (keeps_setHbank _ _ _) (.after (keeps_bump _ _ _) (.after (keeps_bump _ _ _) (.after (.foldl (fun _ _ => .of_ite
      (keeps_poolGive _ _ _ _) .update) _ _) (keeps_spliceAll _ _ _ _ _ _ _)))))

theorem keeps_clearBank (s : State) (h : Nat) : Keeps s (State.clearBank s h) :=
  .after .update (keeps_setHbank _ _ _)

theorem keeps_huddleTake (s : State) (u : UCmd) : Keeps s (huddleTake s u).2 := by
  unfold huddleTake
  extract_lets h b v
  split
  next w t hw =>
    have ht : Keeps s t := by
      split at hw
      · rw [← (Prod.mk.inj hw).2]
        exact keeps_clearBank _ _
      · rw [← (Prod.mk.inj hw).2]
        exact .refl s
    refine .of_ite_snd ht ?_
    exact .after (keeps_readRecords _ _ _) (.of_ite (.after .update (.after (keeps_takeMark _ _) ht)) (.after (keeps_takeMark _ _) ht))

theorem keeps_huddleWork (s : State) (u : UCmd) : Keeps s (huddleWork s u).2 :=
  .of_ite_snd (keeps_huddleFinish _ _) (.refl _)

theorem keeps_huddleRun (s : State) (u : UCmd) : Keeps s (huddleRun s u) :=
  keeps_driveRows _ _ _ _ _ _ (fun _ _ => keeps_huddleStart _ _) (fun _ _ => keeps_huddleTake _ _) (fun _ _ => keeps_huddleWork _ _)

theorem keeps_execHuddle (c : Ctx) (f : Fields) (s : State) : KeepsNext s (execHuddle c f s) :=
  .next (keeps_issueUnit _ _ _ _ _ (fun _ _ => keeps_huddleRun _ _))

theorem keeps_packStart (s : State) (u : UCmd) : Keeps s (packStart s u).2 :=
  .refl _

theorem keeps_packOne (u : UCmd) (h : Nat) (acc : Nat × State) (r : Nat) : Keeps acc.2 (packOne u h acc r).2 := by
  obtain ⟨sum, s⟩ := acc
  exact .after (keeps_setHbank _ _ _) (.after (keeps_bump _ _ _) (.after (keeps_bump _ _ _) (.after (keeps_bump _ _ _)
    (keeps_setBytes _ _ _))))

theorem keeps_packWork (s : State) (u : UCmd) : Keeps s (packWork s u).2 := by
  unfold packWork
  split
  · exact .refl s
  · exact .after (keeps_setHbank _ _ _) (.foldl_pair (fun t r => keeps_packOne _ _ t r) _ _ _)

theorem keeps_packRun (s : State) (u : UCmd) : Keeps s (packRun s u) :=
  keeps_drive _ _ _ _ _ (fun _ _ => keeps_packStart _ _) (fun _ _ => keeps_packWork _ _)

theorem keeps_execPack (c : Ctx) (f : Fields) (s : State) : KeepsNext s (execPack c f s) :=
  .next (keeps_issueUnit _ _ _ _ _ (fun _ _ => keeps_packRun _ _))

end Sys2Proof.Machine
end

section
namespace Sys2Proof.Machine

/-! ### `Keeps` for the functions of Machine/MemPort -/

theorem keeps_execMemRequestIssue (r : MemReq) (s : State) : KeepsNext s (execMemRequestIssue r s) :=
  .of_ite (.fault) (.of_ite (.next (.refl _)) (.next (keeps_memRequest _ _)))

theorem keeps_quarPools (s : State) : Keeps s (State.quarPools s) :=
  .foldl (fun _ _ => .of_ite (.refl _) (.after .update (keeps_setPool _ _ _))) _ _

theorem keeps_quarantine (s : State) (c : Nat) (u : Nat) : Keeps s (State.quarantine s c u) :=
  .of_ite (.refl _)
      ((by split; exacts [.after (keeps_quarPools _) (keeps_setImgs _ _), .after (keeps_quarPools _) (.after (keeps_raiseFlag _ _ _)
              .update)]))

theorem keeps_poisonUnit (s : State) (c : Nat) (u : Nat) : Keeps s (State.poisonUnit s c u) :=
  .foldl (fun _ _ => .update) _ _

theorem keeps_maintSend (s : State) : Keeps s s.maintSend := by
  unfold State.maintSend
  split
  · extract_lets p
    split
    · exact .update
    · exact .refl s
  · exact .refl s

theorem keeps_maintAdd (s : State) (m : Maint) : Keeps s (State.maintAdd s m) :=
  .after (keeps_maintSend _) .update

theorem keeps_remapUnit (s : State) (c : Nat) (u : Nat) (keep : Bool) : Keeps s (State.remapUnit s c u keep) :=
  keeps_maintAdd _ _

theorem keeps_corrected (s : State) (c : Nat) (u : Nat) : Keeps s (State.corrected s c u) :=
  .of_ite (.after .update (keeps_bump _ _ _)) (.after (keeps_remapUnit _ _ _ _) (.after .update (keeps_bump _ _ _)))

theorem keeps_uncorrectable (s : State) (f : Flight) (u : Nat) : Keeps s (State.uncorrectable s f u) :=
  .of_ite (.of_ite (.after .update (.after (keeps_report _ _) (keeps_bump _ _ _))) (.after (keeps_report _ _) (keeps_bump _ _ _))) (.after
      (keeps_remapUnit _ _ _ _) (.of_ite (.after .update (.after (keeps_report _ _) (keeps_bump _ _ _))) (.after (keeps_report _ _)
      (keeps_bump _ _ _))))

theorem keeps_execMemResponse (m : Fin 40) (tag : Byte) (status : BitVec 2) (s : State) : KeepsNext s (execMemResponse m tag status s) :=
  .next
      ((by split; exacts [.refl _, .after (keeps_memRun _) (.after (keeps_maintSend _) (.of_ite (.after (keeps_lostRead _ _ _) .update)
              (.of_ite (.after (keeps_corrected _ _ _) .update) (.of_ite (.after (keeps_uncorrectable _ _ _) .update) .update))))]))

theorem keeps_execRetrainStart (ch : Fin 640) (s : State) : KeepsNext s (execRetrainStart ch s) :=
  .next (.of_ite (.refl _) (.after (keeps_bump _ _ _) .update))

theorem keeps_execRetrainDone (ch : Fin 640) (s : State) : KeepsNext s (execRetrainDone ch s) :=
  .next (.of_ite (.after (keeps_memRun _) .update) (.refl _))

theorem keeps_loseChan (s : State) (c : Nat) : Keeps s (State.loseChan s c) :=
  .update

theorem keeps_spareFor (s : State) (c : Nat) : Keeps s (State.spareFor s c) :=
  .after (.foldl (fun _ _ => keeps_report _ _) _ _) (.after (keeps_logEvent _ _ _) (.after (keeps_setImg _ _ _) (.after .update (.after
      (keeps_loseChan _ _) (keeps_setStack _ _ _)))))

theorem keeps_takeOver (s : State) (c : Nat) : Keeps s (State.takeOver s c) :=
  .of_ite (.refl _)
      ((by split; exacts [.after (keeps_maintAdd _ _) (keeps_spareFor _ _), .refl _, .after (keeps_raiseInt _ _) (.after (keeps_raiseFlag
              _ _ _) (.after (.foldl (fun _ _ => keeps_lostRead _ _ _) _ _) (.after .update (.after (keeps_loseChan _ _) (keeps_setStack _
              _ _)))))]))

theorem keeps_execRetrainWindowExpiry (ch : Fin 640) (s : State) : KeepsNext s (execRetrainWindowExpiry ch s) :=
  .next (.of_ite (keeps_takeOver _ _) (.refl _))

theorem keeps_execChannelFailed (ch : Fin 640) (s : State) : KeepsNext s (execChannelFailed ch s) :=
  .next (keeps_takeOver _ _)

theorem keeps_execSpareReady (stack : Fin 20) (s : State) : KeepsNext s (execSpareReady stack s) :=
  .next (.of_ite (.after (keeps_memRun _) (keeps_setStack _ _ _)) (.refl _))

theorem keeps_memResume (s : State) : Keeps s (State.memResume s) :=
  .update

theorem keeps_execMemResume (s : State) : KeepsNext s (execMemResume s) :=
  .next (keeps_hostWrite _ _ _ (fun _ => keeps_memResume _))

theorem keeps_maintCode (s : State) (k : Byte) : Keeps s (State.maintCode s k) :=
  keeps_setFld _ _ _ _ _

theorem keeps_maintGo (s : State) (stack : Nat) (pc : Nat) (op : Nat) : Keeps s (State.maintGo s stack pc op).2 := by
  unfold State.maintGo
  dsimp only
  split
  · exact keeps_maintCode _ _
  · exact .after (keeps_maintAdd _ _) (keeps_liveWrite _ _ _)

theorem keeps_hostMaint (s : State) (stack : BitVec 5) (pc : BitVec 6) (op : Nat) : Keeps s (State.hostMaint s stack pc op) :=
  keeps_hostWrite _ _ _ (fun _ => keeps_maintGo _ _ _ _)

theorem keeps_execMaintMarginT (stack : BitVec 5) (pc : BitVec 6) (s : State) : KeepsNext s (execMaintMarginT stack pc s) :=
  .next (keeps_hostMaint _ _ _ _)

theorem keeps_execMaintMarginV (stack : BitVec 5) (pc : BitVec 6) (s : State) : KeepsNext s (execMaintMarginV stack pc s) :=
  .next (keeps_hostMaint _ _ _ _)

theorem keeps_execMaintRowq (stack : BitVec 5) (pc : BitVec 6) (s : State) : KeepsNext s (execMaintRowq stack pc s) :=
  .next (keeps_hostMaint _ _ _ _)

theorem keeps_execMaintRemap (stack : BitVec 5) (pc : BitVec 6) (s : State) : KeepsNext s (execMaintRemap stack pc s) :=
  .next (keeps_hostMaint _ _ _ _)

theorem keeps_execMaintCread (stack : BitVec 5) (pc : BitVec 6) (s : State) : KeepsNext s (execMaintCread stack pc s) :=
  .next (keeps_hostMaint _ _ _ _)

theorem keeps_execMaintCwrite (stack : BitVec 5) (pc : BitVec 6) (s : State) : KeepsNext s (execMaintCwrite stack pc s) :=
  .next (keeps_hostMaint _ _ _ _)

theorem keeps_execMaintTakeover (stack : BitVec 5) (pc : BitVec 6) (s : State) : KeepsNext s (execMaintTakeover stack pc s) :=
  .next (keeps_hostMaint _ _ _ _)

theorem keeps_remapDone (s : State) (m : Maint) (v : Word) : Keeps s (State.remapDone s m v) := by
  unfold State.remapDone
  dsimp only
  split
  · exact keeps_bump _ _ _
  · exact .of_ite (.after (keeps_quarantine _ _ _) (.of_ite (.after (keeps_poisonUnit _ _ _) (keeps_bump _ _ _)) (keeps_bump _ _ _)))
      (.of_ite (.after (keeps_poisonUnit _ _ _) (keeps_bump _ _ _)) (keeps_bump _ _ _))

theorem keeps_maintDone (s : State) (m : Maint) (v : Word) : Keeps s (State.maintDone s m v) :=
  .of_ite (keeps_remapDone _ _ _) (.of_ite (keeps_spareFor _ _) (.refl _))

theorem keeps_execMaintResult (v : Word) (s : State) : KeepsNext s (execMaintResult v s) :=
  .next
      ((by split; exacts [.refl _, .after (keeps_memRun _) (.after (keeps_maintSend _) (.of_ite (.after (keeps_maintCode _ _) (.after
              (keeps_setReg _ _ _) (.after (keeps_maintDone _ _ _) .update))) (.after (keeps_maintDone _ _ _) .update)))]))

theorem keeps_gainCredit (s : State) : Keeps s (State.gainCredit s) :=
  .update

end Sys2Proof.Machine
end

section
namespace Sys2Proof.Machine

/-! ### `Keeps` for the functions of Machine/Ports -/

theorem keeps_ingCtrl (s : State) (p : Nat) (v : Word) : Keeps s (State.ingCtrl s p v).2 :=
  .of_ite_snd (.refl _) (.of_ite_snd (.refl _) (.of_ite_snd (.refl _) (.of_ite_snd (.after (keeps_holdUpdate _) (keeps_setReg _ _ _))
      (.of_ite_snd (.refl _) (.after (keeps_holdUpdate _) (.after (.foldl (fun _ _ => keeps_adoptMarks _ _) _ _) (keeps_setReg _ _
      _)))))))

theorem keeps_execIngestGroupEnable (p : Fin 32) (v : Word) (s : State) : KeepsNext s (execIngestGroupEnable p v s) :=
  .next (keeps_hostWrite _ _ _ (fun _ => keeps_ingCtrl _ _ _))

theorem keeps_egrCtrl (s : State) (p : Nat) (v : Word) : Keeps s (State.egrCtrl s p v).2 :=
  .of_ite_snd (.refl _) (.of_ite_snd (.refl _) (.of_ite_snd (.refl _) (.of_ite_snd (keeps_setReg _ _ _) (.of_ite_snd (.refl _)
      (keeps_setReg _ _ _)))))

theorem keeps_execEgressGroupEnable (p : Fin 32) (v : Word) (s : State) : KeepsNext s (execEgressGroupEnable p v s) :=
  .next (keeps_hostWrite _ _ _ (fun _ => keeps_egrCtrl _ _ _))

theorem keeps_popWords (s : State) (q n : Nat) : Keeps s (s.popWords q n).2 := by
  induction n generalizing s with
  | zero => exact .refl s
  | succ n ih =>
    unfold State.popWords
    split
    · exact .refl s
    · next w t ht => exact .after (ih t) (keeps_popWord ht)

theorem keeps_execEgressWords (p : Fin 32) (hold : Bool) (s : State) : KeepsNext s (execEgressWords p hold s) :=
  .next (.of_ite (.refl _) (.of_ite .update (.after .update (.after (keeps_flowOn _ _) (keeps_popWords _ _ _)))))

theorem keeps_overflowed (s : State) (q : Nat) (h : Half) : Keeps s (State.overflowed s q h) :=
  .of_ite (.after (keeps_report _ _) (.after (keeps_raiseFlag _ _ _) (keeps_bump _ _ _))) (.after (keeps_raiseFlag _ _ _) (keeps_bump _ _
      _))

theorem keeps_ingestWord (s : State) (l : Nat) (w : QWord) : Keeps s (State.ingestWord s l w) :=
  .of_ite (.refl _)
      ((by split; exacts [.of_ite (keeps_malformed _) (.of_ite (.after (keeps_overflowed _ _ _) (keeps_arrive _ _ _)) (keeps_arrive _ _
              _)), .of_ite (.after (keeps_malformed _) (keeps_cutPacket _ _ _)) (.of_ite (.after (keeps_overflowed _ _ _) (keeps_arrive _
              _ _)) (keeps_arrive _ _ _))]))

theorem keeps_ingestPort (s : State) (p : Nat) (valid : Bool) (words : List QWord) : Keeps s (State.ingestPort s p valid words) :=
  .of_ite (.refl _) ((by split; exacts [.foldl (fun _ _ => keeps_ingestWord _ _ _) _ _, .refl _]))

theorem keeps_execIngestPacket (p : Fin 32) (ports : List (Bool × List QWord)) (s : State) : KeepsNext s (execIngestPacket p ports s) :=
  .next (.after (keeps_holdUpdate _) (.foldl (fun _ _ => keeps_ingestPort _ _ _ _) _ _))

theorem keeps_execQueueSpillFill (q : Fin 4096) (s : State) : KeepsNext s (execQueueSpillFill q s) :=
  .next (keeps_spillFill _ _)

theorem keeps_queueTableWrite (s : State) (q j : Nat) (v : Word) : Keeps s (s.queueTableWrite q j v).2 := by
  unfold State.queueTableWrite
  extract_lets x n static
  have hs (y : Queue) : Keeps s (static y).2 :=
    .of_ite_snd (.refl s) (.of_ite_snd (.after (keeps_adoptMarks _ _) (keeps_setQueue _ _ _)) (.refl s))
  split
  · exact .of_ite_snd (.after (keeps_flush _ _) (hs _)) (hs _)
  · exact hs _
  · exact hs _
  · exact .of_ite_snd (.refl s) (hs _)
  · dsimp only
    exact .after (keeps_noteLive _ _) (keeps_setQueue _ _ _)
  · dsimp only
    exact .after (keeps_noteLive _ _) (keeps_setQueue _ _ _)
  · exact .refl s

theorem keeps_execQueCfgFlush (q : Fin 4096) (s : State) : KeepsNext s (execQueCfgFlush q s) :=
  .next (.of_ite (.refl _) (keeps_hostWrite _ _ _ (fun _ => keeps_flush _ _)))

theorem keeps_execQctlFlush (c : Ctx) (f : Fields) (s : State) : KeepsNext s (execQctlFlush c f s) :=
  .next (keeps_localOp _ _ _ _ _ _ _ (fun _ => .after (keeps_retire _ _ _) (keeps_flush _ _)))

theorem keeps_execQctlDroprest (c : Ctx) (f : Fields) (s : State) : KeepsNext s (execQctlDroprest c f s) :=
  .next (keeps_localOp _ _ _ _ _ _ _ (fun _ => .of_ite (.after (keeps_retire _ _ _) (keeps_dropRest _ _)) (keeps_retire _ _ _)))

theorem keeps_execQctlCount (c : Ctx) (f : Fields) (s : State) : KeepsNext s (execQctlCount c f s) :=
  .next (keeps_localOp _ _ _ _ _ _ _ (fun _ => .of_ite (keeps_retireX _ _ _ _) (keeps_retire _ _ _)))

end Sys2Proof.Machine
end

section
namespace Sys2Proof.Machine

/-! ### `Keeps` for the functions of Machine/Scout -/

theorem keeps_keepStart (s : State) (u : UCmd) : Keeps s (keepStart s u).2 :=
  .refl _

theorem keeps_keepWork (s : State) (u : UCmd) : Keeps s (keepWork s u).2 := by
  unfold keepWork
  dsimp only
  split
  · exact .refl s
  · dsimp only
    exact .foldl_pair (fun _ _ => keeps_setBytes _ _ _) _ _ _

theorem keeps_keepRun (s : State) (u : UCmd) : Keeps s (keepRun s u) :=
  keeps_drive _ _ _ _ _ (fun _ _ => keeps_keepStart _ _) (fun _ _ => keeps_keepWork _ _)

theorem keeps_execKeep (c : Ctx) (f : Fields) (s : State) : KeepsNext s (execKeep c f s) :=
  .next (keeps_issueUnit _ _ _ _ _ (fun _ _ => keeps_keepRun _ _))

theorem keeps_copyOfRow (s : State) (a : Nat) : Keeps s (State.copyOfRow s a).2.2 := by
  unfold State.copyOfRow
  split
  · exact .refl _
  · exact .update

theorem keeps_scoutTake (s : State) (u : UCmd) : Keeps s (scoutTake s u).2 :=
  .update

theorem keeps_ageBins (s : State) : Keeps s (State.ageBins s) :=
  .of_ite (.refl _) .update

theorem keeps_scoutWork (s : State) (u : UCmd) : Keeps s (scoutWork s u).2 :=
  .of_ite_snd (keeps_formFor _ _ _) (.refl _)

theorem keeps_scoutStart (s : State) (u : UCmd) : Keeps s (scoutStart s u).2 := by
  unfold scoutStart
  dsimp only
  split
  · exact .after (keeps_clearItems _ _ _) (.after .update (keeps_bindSfu _ _))
  · exact .after .update (keeps_bindSfu _ _)

theorem keeps_scoutRun (s : State) (u : UCmd) : Keeps s (scoutRun s u) :=
  keeps_driveRows _ _ _ _ _ _ (fun _ _ => keeps_scoutStart _ _) (fun _ _ => keeps_scoutTake _ _) (fun _ _ => keeps_scoutWork _ _)

theorem keeps_execScout (c : Ctx) (f : Fields) (s : State) : KeepsNext s (execScout c f s) :=
  .next (keeps_issueUnit _ _ _ _ _ (fun _ _ => keeps_scoutRun _ _))

theorem keeps_auditRow (s : State) (u : UCmd) (cause : Nat) (gidx : Nat) (e : Nat) (nb : Nat) (tag : BitVec 96) (mask : List Bool) : Keeps
    s (State.auditRow s u cause gidx e nb tag mask).2 :=
  .of_ite_snd (.refl _) ((by split; exacts [keeps_bump _ _ _, .update]))

theorem keeps_deliver {s t : State} {u v : UCmd} {r : Nat} (h : s.deliver u r = some (v, t)) : Keeps s t := by
  unfold State.deliver at h
  dsimp only at h
  by_cases hf : s.flowing u.queue
  · rw [if_pos hf] at h
    cases h
  · rw [if_neg hf] at h
    rw [← (Prod.mk.inj (Option.some.inj h)).2]
    refine .after (keeps_bump _ _ _) (.after .update (.trans (.trans ?_ (.of_ite (keeps_raiseFlag _ _ _) (.refl _)))
      (.of_ite (.after (keeps_countRec _ _ _ _) (.after (keeps_bump _ _ _) (keeps_bump _ _ _))) (.refl _))))
    exact .after (keeps_addItem _ _ _ _) (.after (keeps_rowsOut _ _) (.after .update (.after (keeps_push _ _ _)
      (.after (keeps_auditRow _ _ _ _ _ _ _ _) (keeps_copyOfRow _ _)))))

theorem keeps_deliverRows (l : List Nat) (u : UCmd) (s : State) : Keeps s (deliverRows l u s).2.2 := by
  induction l generalizing u s with
  | nil => exact .refl s
  | cons r l ih =>
    unfold deliverRows
    split
    · exact .refl s
    · next v t ht => exact .after (ih v t) (keeps_deliver ht)

theorem keeps_execScoutBinReady (e : Fin 4096) (s : State) : KeepsNext s (execScoutBinReady e s) :=
  .next
      ((by split; exacts [.of_ite (.refl _) (.after (keeps_scoutRun _ _) (.after (keeps_putCmd _ _) (.after .update (keeps_deliverRows _ _
              _)))), .refl _]))

theorem keeps_execStagingLoadComplete (e : Fin 4096) (s : State) : KeepsNext s (execStagingLoadComplete e s) :=
  .next ((by split; exacts [.of_ite (.refl _) .update, .refl _]))

theorem keeps_addMiss (s : State) (n : Nat) (h : Nat) : Keeps s (State.addMiss s n h) :=
  .of_ite (.after (keeps_countRec _ _ _ _) (.after (keeps_setFld _ _ _ _ _) (keeps_setReg _ _ _))) (.after (keeps_raiseFlag _ _ _) (.after
      (keeps_countRec _ _ _ _) (.after (keeps_setFld _ _ _ _ _) (keeps_setReg _ _ _))))

theorem keeps_auditCompare (s : State) (ws : List QWord) : Keeps s (State.auditCompare s ws) := by
  unfold State.auditCompare
  dsimp only
  split
  · exact keeps_bump _ _ _
  · exact .after (keeps_bump _ _ _) (.after (keeps_addMiss _ _ _) .update)

theorem keeps_auditNext {s t : State} (h : s.auditNext = some t) : Keeps s t := by
  unfold State.auditNext at h
  extract_lets q at h
  split at h
  · cases h
  · obtain ⟨ws, _, rfl⟩ := Option.map_eq_some_iff.1 h
    exact .of_ite (.after (keeps_auditCompare _ _) (keeps_dropWords _ _ _)) (.after (keeps_malformed _) (keeps_dropWords _ _ _))

theorem keeps_execAuditReport (s : State) : KeepsNext s (execAuditReport s) := by
  refine .next ?_
  cases h : s.auditNext with
  | none => exact .refl s
  | some t => exact keeps_auditNext h

theorem keeps_auditAll (s : State) (n : Nat) : Keeps s (s.auditAll n) := by
  induction n generalizing s with
  | zero => exact .refl s
  | succ n ih =>
    unfold State.auditAll
    split
    · next t ht => exact .after (ih t) (keeps_auditNext ht)
    · exact .refl s

end Sys2Proof.Machine
end

section
namespace Sys2Proof.Machine

/-! ### `Keeps` for the functions of Machine/Volley -/

theorem keeps_tagError (s : State) : Keeps s (State.tagError s) :=
  .after (keeps_raiseFlag _ _ _) (keeps_bump _ _ _)

theorem keeps_discarded (s : State) (h : Half) : Keeps s (State.discarded s h) :=
  keeps_countRec _ _ _ _

theorem keeps_freeRx (s : State) (a : Nat) : Keeps s (State.freeRx s a) := by
  unfold State.freeRx
  split
  · exact keeps_unitFree _ _ _ _
  · exact .refl _

theorem keeps_pushOn (s : State) (q : Nat) (ws : List QWord) : Keeps s (State.pushOn s q ws) :=
  keeps_push _ _ _

theorem keeps_sendFaultn (s : State) (dest : Nat) (h : Half) (inst : Byte) (batch : BitVec 14) (gen : BitVec 2) (cause : Nat) : Keeps s
    (State.sendFaultn s dest h inst batch gen cause) :=
  keeps_sendFrame _ _

theorem keeps_volleyStart (s : State) (u : UCmd) : Keeps s (volleyStart s u).2 := by
  unfold volleyStart
  split
  next n first _ =>
    extract_lets v p k _ s1
    have h1 : Keeps s s1 := .update
    refine .of_ite_snd h1 ?_
    extract_lets
    split
    · next bs t ht =>
      split at ht
      · exact .after .update (.after (keeps_poolTakes ht) h1)
      · cases ht
    · exact .after (keeps_setPool s1 _ _) h1

theorem keeps_volleyTake (s : State) (u : UCmd) : Keeps s (volleyTake s u).2 :=
  .refl _

theorem keeps_volleyWork (s : State) (u : UCmd) : Keeps s (volleyWork s u).2 :=
  .of_ite_snd (.refl _) (.of_ite (.refl _) .update)

theorem keeps_volleyRun (s : State) (u : UCmd) : Keeps s (volleyRun s u) :=
  keeps_driveRows _ _ _ _ _ _ (fun _ _ => keeps_volleyStart _ _) (fun _ _ => keeps_volleyTake _ _) (fun _ _ => keeps_volleyWork _ _)

theorem keeps_execVolley (c : Ctx) (f : Fields) (s : State) : KeepsNext s (execVolley c f s) :=
  .next (keeps_issueUnit _ _ _ _ _ (fun _ _ => keeps_volleyRun _ _))

theorem keeps_freeSendBufs (s : State) : Keeps s s.freeSendBufs := by
  refine .after .update (.foldl_pair (fun t j => ?_) _ _ _)
  exact .foldl (fun _ _ => keeps_poolGive _ _ _ _) _ _

theorem keeps_builtEntry (s : State) (j : VJob) (pid : Option Word) : Keeps s (State.builtEntry s j pid) :=
  .update

theorem keeps_buildEntry (s : State) (j : VJob) (ws : List QWord) : Keeps s (s.buildEntry j ws) := by
  unfold State.buildEntry
  extract_lets t hdr tag dest h d row fmt e
  have ht : Keeps s t := keeps_dropWords _ _ _
  refine .trans ht (.of_ite (.after (keeps_builtEntry _ _ _) (keeps_malformed t)) (.of_ite
    (.after (keeps_builtEntry _ _ _) (.after (keeps_report _ _) (keeps_tagError t))) ?_))
  split
  next payload cl _ =>
    extract_lets t1
    have h1 : Keeps t t1 := .of_ite (keeps_raiseFlag _ _ _) (.refl t)
    refine .trans h1 ?_
    split
    · exact .after (keeps_builtEntry _ _ _) (keeps_lostRead _ _ _)
    · exact .after (keeps_builtEntry _ _ _) (.after (keeps_sendFrames _ _) (.after (keeps_addItem _ _ _ _)
        (.after (keeps_setHbank _ _ _) .update)))

theorem keeps_execSendListBuild (s : State) : KeepsNext s (execSendListBuild s) :=
  .next ((by split; exacts [.refl _, (by split; exacts [.refl _, .after (keeps_freeSendBufs _) (keeps_buildEntry _ _ _)])]))

theorem keeps_execEohSend (h : Half) (s : State) : KeepsNext s (execEohSend h s) :=
  .next (.of_ite (.refl _) (.after (keeps_formDigest _ _ _) (.after .update (.after (keeps_setHbank _ _ _) (keeps_sendFrames _ _)))))

theorem keeps_emitFrame (s : State) (l : Nat) (f : Frame) : Keeps s (State.emitFrame s l f) :=
  .after .update (.of_ite (.after (keeps_measure _ _ _) (keeps_setPort _ _ _)) (keeps_setPort _ _ _))

theorem keeps_sendControl (s : State) (l : Nat) : Keeps s (State.sendControl s l) :=
  .after .update (keeps_setPort _ _ _)

theorem keeps_sendDigest (s : State) (l : Nat) : Keeps s (s.sendDigest l) := by
  refine .of_ite (keeps_setPort _ _ _) (.after (keeps_setPort _ _ _) ?_)
  split
  · exact .after (keeps_emitFrame _ _ _) .update
  · exact keeps_emitFrame _ _ _

theorem keeps_resendFrame (s : State) (l : Nat) (r : Retry) : Keeps s (State.resendFrame s l r) :=
  .after (keeps_bump _ _ _) (.after .update (keeps_setPort _ _ _))

theorem keeps_execFrameSend (l : Fin 64) (s : State) : KeepsNext s (execFrameSend l s) :=
  .next (.of_ite (.refl _) (.of_ite (keeps_sendControl _ _)
      ((by split; exacts [.of_ite (keeps_resendFrame _ _ _) (.of_ite (keeps_sendDigest _ _) (keeps_sendControl _ _)),
              (by split; exacts [.after (keeps_retryStuck _) (.after (keeps_freeSendBufs _) (.after (keeps_emitFrame _ _ _) (keeps_setPort
                     _ _ _))), .of_ite (keeps_sendDigest _ _) (keeps_sendControl _ _)])]))))

theorem keeps_sendAgain (s : State) (l : Nat) (seq : BitVec 24) : Keeps s (State.sendAgain s l seq) := by
  unfold State.sendAgain
  dsimp only
  split
  · exact .refl _
  · exact .of_ite (keeps_portDown _ _ _) (keeps_setPort _ _ _)

theorem keeps_execAckTimeout (l : Fin 64) (seq : BitVec 24) (s : State) : KeepsNext s (execAckTimeout l seq s) :=
  .next (.of_ite (keeps_sendAgain _ _ _) (.refl _))

theorem keeps_execControlBlockReceive (l : Fin 64) (bytes : List Byte) (s : State) : KeepsNext s (execControlBlockReceive l bytes s) :=
  .next (.of_ite (.refl _) (.after (.foldl (fun _ _ => .of_ite (keeps_sendAgain _ _ _) (.refl _)) _ _) (keeps_setPort _ _ _)))

theorem keeps_returnCells (s : State) (l : Option (Fin 64)) (n : Nat) : Keeps s (State.returnCells s l n) := by
  unfold State.returnCells
  split
  · exact keeps_setPort _ _ _
  · exact .refl _

theorem keeps_takeFrame (s : State) (l : Fin 64) (bs : List Byte) (f : Frame) : Keeps s (State.takeFrame s l bs f) :=
  .of_ite (.after (keeps_returnCells _ _ _) (keeps_tagError _)) (.of_ite (.after (keeps_returnCells _ _ _) (keeps_bump _ _ _)) (.after
      .update (.of_ite (keeps_measure _ _ _) (.refl _))))

theorem keeps_execFrameReceive (l : Fin 64) (bytes : List Byte) (s : State) : KeepsNext s (execFrameReceive l bytes s) :=
  .next (.of_ite (.refl _) (.of_ite (keeps_setPort _ _ _) (.of_ite (keeps_setPort _ _ _) (.of_ite (.after (keeps_returnCells _ _ _)
      (.after (keeps_bump _ _ _) (keeps_setPort _ _ _))) (.after (keeps_takeFrame _ _ _ _) (keeps_setPort _ _ _))))))

theorem keeps_setArrival (s : State) (h : Nat) (o : Nat) (a : Arrival) : Keeps s (State.setArrival s h o a) :=
  .update

theorem keeps_applyDiscard (s : State) (h : Half) (o : Nat) (g : BitVec 2) : Keeps s (State.applyDiscard s h o g) :=
  .after .update (keeps_setArrival _ _ _ _)

theorem keeps_countCheck (s : State) (h : Half) (o : Nat) : Keeps s (State.countCheck s h o) :=
  .of_ite (.after (keeps_sendFaultn _ _ _ _ _ _ _) (keeps_bump _ _ _)) (.refl _)

theorem keeps_judge (s : State) (h : Half) (o : Nat) (b : BitVec 14) (g : BitVec 2) : Keeps s (State.judge s h o b g).2 :=
  .of_ite_snd (keeps_setArrival _ _ _ _) (.of_ite_snd (.refl _) (.of_ite_snd (.refl _) (.of_ite_snd (.refl _) (keeps_applyDiscard _ _ _
      _))))

theorem keeps_stale (s : State) (h : Half) : Keeps s (State.stale s h) :=
  .after (keeps_discarded _ _) (keeps_bump _ _ _)

theorem keeps_takeRx {s t : State} {k : Nat} {f : Frame} (h : s.takeRx k = some (f, t)) : Keeps s t := by
  unfold State.takeRx at h
  split at h
  · cases h
  · next r _ =>
    rw [← (Prod.mk.inj (Option.some.inj h)).2]
    exact .of_ite (.after (keeps_retryStuck _) (.after (keeps_returnCells _ _ _) .update)) (.after (keeps_returnCells _ _ _) .update)

theorem keeps_copyOpen (s : State) (h : Half) (o buf : Nat) : Keeps s (s.copyOpen h o buf) := by
  unfold State.copyOpen
  extract_lets t
  have hj := keeps_judge s h o t.batch t.gen
  generalize s.judge h o t.batch t.gen = j at hj ⊢
  obtain ⟨v, s1⟩ := j
  cases v with
  | tagError => exact .after (keeps_freeRx _ _) (.after (keeps_tagError _) hj)
  | stale => exact .after (keeps_freeRx _ _) (.after (keeps_stale _ _) hj)
  | accept => exact .after (keeps_countCheck _ _ _) (.after (keeps_pushOn _ _ _) (.after (keeps_setArrival _ _ _ _) hj))

theorem keeps_copyArrive (s : State) (h : Half) (inst : Byte) (o : Nat) (buf : Nat) : Keeps s (State.copyArrive s h inst o buf) :=
  .of_ite (keeps_copyOpen _ _ _ _) (.of_ite (keeps_pushOn _ _ _) (.after (keeps_freeRx _ _) (keeps_stale _ _)))

theorem keeps_putSegment (s : State) (a : Nat) (f : Frame) : Keeps s (State.putSegment s a f) :=
  keeps_setBytes _ _ _

theorem keeps_copyWritten (s : State) (p : Machine.Part) : Keeps s (State.copyWritten s p) :=
  keeps_cureRange _ _ _

theorem keeps_takeRxBuf {s t : State} {h : Half} {a : Nat} (ht : s.takeRxBuf h = some (a, t)) : Keeps s t := by
  unfold State.takeRxBuf at ht
  split at ht
  · cases ht
  · split at ht
    · cases ht
    · next i u hu =>
      cases ht
      exact keeps_poolTake hu

theorem keeps_partOf {s t : State} {f : Frame} {p : Part} (h : s.partOf f = some (p, t)) : Keeps s t := by
  unfold State.partOf at h
  split at h
  · rw [← (Prod.mk.inj (Option.some.inj h)).2]
    exact .update
  · split at h
    · cases h
    · next a u hu =>
      rw [← (Prod.mk.inj (Option.some.inj h)).2]
      exact .after (.of_ite (keeps_bump _ _ _) (.refl u)) (keeps_takeRxBuf hu)

theorem keeps_execCopySegment (s : State) : KeepsNext s (execCopySegment s) := by
  refine .next ?_
  split
  · exact .refl s
  · next f t ht =>
    refine .of_ite (.refl s) (.trans (keeps_takeRx ht) ?_)
    split
    · exact .after (keeps_sendFaultn _ _ _ _ _ _ _) (.after (keeps_raiseFlag _ _ _) (keeps_bump _ _ _))
    · next p u hu =>
      refine .trans (keeps_partOf hu) (.trans (keeps_putSegment u p.buf f) ?_)
      exact .of_ite .update (.after (keeps_copyArrive _ _ _ _ _) (.after (keeps_copyWritten _ _) .update))

theorem keeps_execDupFilterExpiry (origin : Fin 8192) (pid : Word) (s : State) : KeepsNext s (execDupFilterExpiry origin pid s) :=
  .next .update

theorem keeps_execPartialTimeout (origin : Fin 8192) (pid : Word) (s : State) : KeepsNext s (execPartialTimeout origin pid s) :=
  .next
      ((by split; exacts [.refl _, .of_ite (.after (keeps_sendFaultn _ _ _ _ _ _ _) (.after (keeps_freeRx _ _) (.after (keeps_bump _ _ _)
              .update))) (.after (keeps_report _ _) (.after (keeps_bump _ _ _) .update))]))

theorem keeps_execConservationTimeout (h : Half) (origin : Fin 8192) (s : State) : KeepsNext s (execConservationTimeout h origin s) :=
  .next (.of_ite (.after (keeps_sendFaultn _ _ _ _ _ _ _) (keeps_bump _ _ _)) (.refl _))

theorem keeps_eohOpen (s : State) (h : Half) (o : Nat) (b : BitVec 14) (g : BitVec 2) (n : Nat) : Keeps s (s.eohOpen h o b g n) := by
  unfold State.eohOpen
  have hj := keeps_judge s h o b g
  generalize s.judge h o b g = j at hj ⊢
  obtain ⟨v, s1⟩ := j
  cases v with
  | tagError => exact .after (keeps_tagError _) hj
  | stale => exact .after (keeps_stale _ _) hj
  | accept => exact .after (keeps_countCheck _ _ _) (.after (keeps_setArrival _ _ _ _) hj)

theorem keeps_discardOpen (s : State) (h : Half) (o : Nat) (b : BitVec 14) (g : BitVec 2) : Keeps s (State.discardOpen s h o b g) :=
  .of_ite (keeps_setArrival _ _ _ _) (.of_ite (.refl _) (.of_ite (keeps_applyDiscard _ _ _ _) (.refl _)))

theorem keeps_endNotice (s : State) (discard : Bool) (f : Frame) : Keeps s (State.endNotice s discard f) :=
  .of_ite (.of_ite (keeps_discardOpen _ _ _ _ _) (keeps_eohOpen _ _ _ _ _ _)) (.of_ite .update (.of_ite (.refl _) (keeps_stale _ _)))

theorem keeps_execEohPacket (s : State) : KeepsNext s (execEohPacket s) := by
  refine .next ?_
  split
  · next f t ht => exact .after (keeps_endNotice _ _ _) (keeps_takeRx ht)
  · exact .refl s

theorem keeps_execDiscardPacket (s : State) : KeepsNext s (execDiscardPacket s) := by
  refine .next ?_
  split
  · next f t ht => exact .after (keeps_endNotice _ _ _) (keeps_takeRx ht)
  · exact .refl s

theorem keeps_execFaultnPacket (s : State) : KeepsNext s (execFaultnPacket s) := by
  refine .next ?_
  split
  · exact .refl s
  · next f t ht => exact .trans (keeps_takeRx ht) (.of_ite (keeps_report _ _) (.refl t))

theorem keeps_execPstatePacket (s : State) : KeepsNext s (execPstatePacket s) := by
  refine .next ?_
  split
  · exact .refl s
  · next f t ht => exact .after (keeps_retryStuck _) (.after .update (keeps_takeRx ht))

theorem keeps_execDigestPacket (s : State) : KeepsNext s (execDigestPacket s) := by
  refine .next ?_
  split
  · exact .refl s
  · next f t ht => exact .trans (keeps_takeRx ht) (.of_ite (.refl t) (keeps_compareEnter _ _ _))

theorem keeps_execPcPartnerTimeout (step : DWord) (unit : Fin 8) (h : Half) (s : State) : KeepsNext s (execPcPartnerTimeout step unit h s)
    :=
  .next ((by split; exacts [.refl _, .after (keeps_raiseFlag _ _ _) .update]))

theorem keeps_execSignalPacket (s : State) : KeepsNext s (execSignalPacket s) := by
  refine .next ?_
  split
  · exact .refl s
  · next f t ht =>
    refine .trans (keeps_takeRx ht) (.after (keeps_sendFrame _ _) ?_)
    exact .of_ite .update (.of_ite (.after (keeps_bump _ _ _) .update) (.after (keeps_signal _ _ _) .update))

theorem keeps_execSigack (s : State) : KeepsNext s (execSigack s) := by
  refine .next ?_
  split
  · exact .refl s
  · next f t ht =>
    refine .trans (keeps_takeRx ht) ?_
    split
    · exact keeps_endRemote _ _ _
    · exact .refl t

theorem keeps_execSignalResendTimeout (seq : BitVec 16) (s : State) : KeepsNext s (execSignalResendTimeout seq s) :=
  .next ((by split; exacts [.after (keeps_sendFrame _ _) (keeps_bump _ _ _), .refl _]))

theorem keeps_execRemoteSignalTimeout (c : Ctx) (s : State) : KeepsNext s (execRemoteSignalTimeout c s) :=
  .next ((by split; exacts [keeps_endRemote _ _ _, .refl _]))

theorem keeps_recvNetStart (s : State) (u : UCmd) : Keeps s (recvNetStart s u).2 :=
  .refl _

theorem keeps_unpackCopy (s : State) (u : UCmd) (h : Half) (buf : Nat) : Keeps s (s.unpackCopy u h buf).2 := by
  unfold State.unpackCopy
  extract_lets d
  split
  next hd els _ =>
    split
    · exact .after (keeps_freeRx _ _) (keeps_lostRead s _ _)
    · refine .of_ite_snd (.after (keeps_freeRx _ _) (keeps_tagError s)) ?_
      extract_lets tags fit t
      have ht : Keeps s t := .foldl (fun _ _ => .after .update (keeps_setBytes _ _ _)) _ _
      exact .trans ht (.of_ite (keeps_freeRx t _) .update)

theorem keeps_drainCopies (h : Half) (n : Nat) (u : UCmd) (s : State) : Keeps s (drainCopies h n u s).2 := by
  induction n generalizing u s with
  | zero => exact .refl s
  | succ n ih =>
    unfold drainCopies
    split
    · exact .refl s
    · next ws _ =>
      extract_lets t buf
      have ht : Keeps s t := .after (keeps_flowOn _ _) (keeps_dropWords _ _ _)
      refine .trans ht (.of_ite_snd (.after (ih _ _) (keeps_malformed t)) (.of_ite_snd ?_ ?_))
      · exact .after (ih _ _) (.after (keeps_freeRx _ _) (.after (keeps_discarded _ _) .update))
      · exact .after (ih _ _) (keeps_unpackCopy t u h buf)

theorem keeps_replayCopy (s : State) (h : Half) (ws : List QWord) : Keeps s (State.replayCopy s h ws) :=
  .of_ite (keeps_malformed _) (.of_ite (.after (keeps_freeRx _ _) (.after (keeps_discarded _ _) .update)) (keeps_copyOpen _ _ _ _))

theorem keeps_replayNotice (s : State) (h : Half) (e : EarlyEoh) : Keeps s (State.replayNotice s h e) :=
  .of_ite (keeps_discardOpen _ _ _ _ _) (keeps_eohOpen _ _ _ _ _ _)

theorem keeps_replayEarly (h : Half) (n : Nat) (ps : List (List QWord)) (es : List EarlyEoh) (s : State) :
    Keeps s (replayEarly h n ps es s) := by
  induction n generalizing ps es s with
  | zero => exact .refl s
  | succ n ih =>
    unfold replayEarly
    extract_lets left
    split
    · refine .of_ite (.after (ih _ _ _) (keeps_replayNotice _ _ _)) ?_
      split
      · exact .after (ih _ _ _) (keeps_replayCopy _ _ _)
      · exact .refl s
    · exact .after (ih _ _ _) (keeps_replayCopy _ _ _)
    · exact .refl s

theorem keeps_openNext (s : State) (h : Half) : Keeps s (State.openNext s h) :=
  .after (keeps_replayEarly _ _ _ _ _) (.after (keeps_dropWords _ _ _) .update)

theorem keeps_recvNetWork (s : State) (u : UCmd) : Keeps s (recvNetWork s u).2 := by
  unfold recvNetWork
  split
  · exact .refl s
  · next h _ =>
    have hd := keeps_drainCopies h ((s.allWords u.queue).length + 1) u s
    generalize drainCopies h ((s.allWords u.queue).length + 1) u s = p at hd ⊢
    obtain ⟨v, t⟩ := p
    refine .trans hd (.of_ite_snd .update ?_)
    exact .after .update (.after (keeps_openNext _ _) .update)

theorem keeps_recvNetRun (s : State) (u : UCmd) : Keeps s (recvNetRun s u) :=
  keeps_drive _ _ _ _ _ (fun _ _ => keeps_recvNetStart _ _) (fun _ _ => keeps_recvNetWork _ _)

theorem keeps_execRecvNet (c : Ctx) (f : Fields) (s : State) : KeepsNext s (execRecvNet c f s) :=
  .next (keeps_issueUnit _ _ _ _ _ (fun _ _ => keeps_recvNetRun _ _))

theorem keeps_instClear (s : State) : Keeps s (State.instClear s).2 :=
  .of_ite_snd (.refl _) .update

theorem keeps_execVolInstclr (s : State) : KeepsNext s (execVolInstclr s) :=
  .next (keeps_hostWrite _ _ _ (fun _ => keeps_instClear _))

theorem keeps_execLaneFail (l : Fin 64) (lane : Fin 18) (s : State) : KeepsNext s (execLaneFail l lane s) :=
  .next (.of_ite (.refl _) (.of_ite (.after (keeps_portDown _ _ _) (keeps_setPort _ _ _)) (keeps_setPort _ _ _)))

theorem keeps_markLanes (s : State) (phys : Nat) (bad : List Nat) : Keeps s (State.markLanes s phys bad) :=
  .of_ite (.refl _) (keeps_setImg _ _ _)

theorem keeps_execPortRetrainDone (l : Fin 64) (s : State) : KeepsNext s (execPortRetrainDone l s) :=
  .next (.of_ite (.refl _) (.of_ite (.after (keeps_retryStuck _) (.after (keeps_portState _ _ _) (.after (keeps_setPort _ _ _)
      (keeps_markLanes _ _ _)))) (.of_ite (.refl _) (.of_ite (.after (keeps_retryStuck _) (.after (keeps_portState _ _ _) (keeps_setPort _
      _ _))) (keeps_portState _ _ _)))))

theorem keeps_portSubst (s : State) (l : Nat) : Keeps s (State.portSubst s l) := by
  unfold State.portSubst
  dsimp only
  split
  · exact .of_ite (.refl _) (.after (keeps_retryStuck _) (.after (keeps_portState _ _ _) (.after (keeps_logEvent _ _ _) (.after
      (keeps_markOut _ _ _) (keeps_setPort _ _ _)))))
  · exact .refl _

theorem keeps_execPortSubstitution (l : Fin 64) (s : State) : KeepsNext s (execPortSubstitution l s) :=
  .next (keeps_portSubst _ _)

theorem keeps_portCtrl (s : State) (l : Nat) (out : Bool) : Keeps s (State.portCtrl s l out).2 :=
  .of_ite_snd (.refl _) (.of_ite_snd (.of_ite (keeps_liveWrite _ _ _) (.after (keeps_portDown _ _ _) (keeps_liveWrite _ _ _))) (.of_ite
      (.after (keeps_portState _ _ _) (keeps_liveWrite _ _ _)) (keeps_liveWrite _ _ _)))

theorem keeps_execPortOutWrite (l : Fin 64) (out : Bool) (s : State) : KeepsNext s (execPortOutWrite l out s) :=
  .next (keeps_hostWrite _ _ _ (fun _ => keeps_portCtrl _ _ _))

end Sys2Proof.Machine
end

section
namespace Sys2Proof.Machine

/-! ### `Keeps` for the functions of Machine/Kickoff -/

theorem keeps_tearWrite (s : State) : Keeps s (State.tearWrite s) := by
  unfold State.tearWrite
  split
  · exact .refl _
  · exact .after .update (keeps_draw _)

theorem keeps_toReset (s : State) (warm : Bool) : Keeps s (State.toReset s warm) :=
  .after .update (keeps_tearWrite _)

theorem keeps_execPowerOnReset (s : State) : KeepsNext s (execPowerOnReset s) :=
  .next (.after .update (keeps_toReset _ _))

theorem keeps_execWarmReset (s : State) : KeepsNext s (execWarmReset s) :=
  .next (.after .update (.of_ite (.refl _) (keeps_toReset _ _)))

theorem keeps_begin (s : State) : Keeps s (State.begin s) :=
  .update

theorem keeps_execResetRelease (power : Bool) (warm : Bool) (s : State) : KeepsNext s (execResetRelease power warm s) :=
  .next (.of_ite (.after (keeps_begin _) .update) .update)

theorem keeps_flushNvs (s : State) : Keeps s (State.flushNvs s) :=
  .update

theorem keeps_execLockLoss (s : State) : KeepsNext s (execLockLoss s) :=
  .next (.of_ite (.refl _) (.after (keeps_begin _) (.after (keeps_toReset _ _) (.after (keeps_flushNvs _) (keeps_logEvent _ _ _)))))

theorem keeps_stopKick (s : State) (n : Nat) (f : KFail) (action : Nat) (rpt : Nat) : Keeps s (State.stopKick s n f action rpt) :=
  .after (keeps_raiseInt _ _) (.after .update (keeps_logEntry _ _))

theorem keeps_kFail (s : State) (n : Nat) (f : KFail) (canSkip : Bool) (canAlter : Bool) : Keeps s (State.kFail s n f canSkip canAlter).2
    :=
  .of_ite_snd (.refl _) (.of_ite_snd (keeps_logEntry _ _) (.of_ite_snd (.of_ite_snd (keeps_logEntry _ _) (keeps_stopKick _ _ _ _ _))
      (keeps_stopKick _ _ _ _ _)))

theorem keeps_kPass (s : State) (n : Nat) (repaired : Bool) (detail : List Byte) : Keeps s (State.kPass s n repaired detail) :=
  .of_ite (.refl _) (.after .update (keeps_logEntry _ _))

theorem keeps_answer (s : State) (cause : Byte) : Keeps s (State.answer s cause) :=
  .update

theorem keeps_emptyImage (s : State) : Keeps s (State.emptyImage s) :=
  .after (keeps_setImg _ _ _) (.after (keeps_setImg _ _ _) (.after (.foldl (fun _ _ => .of_ite (keeps_setImg _ _ _) (.refl _)) _ _)
      .update))

theorem keeps_readAndCount (s : State) : Keeps s (State.readAndCount s) :=
  .of_ite (.refl _) (.after .update (.after (keeps_takeMarks _) (.after (keeps_setImg _ _ _) (.of_ite (.refl _) (.after (keeps_answer _ _)
      (keeps_emptyImage _))))))

theorem keeps_imageLost (s : State) : Keeps s (State.imageLost s) :=
  .of_ite (keeps_kFail _ _ _ _ _) (.after (keeps_answer _ _) (.after (keeps_logEntry _ _) .update))

theorem keeps_lockFail (s : State) (altOk : Bool) : Keeps s (State.lockFail s altOk) :=
  .after (keeps_answer _ _) (keeps_kFail _ _ _ _ _)

theorem keeps_lateLock (s : State) : Keeps s (State.lateLock s) := by
  unfold State.lateLock
  split
  · exact .after (keeps_lockFail _ _) .update
  · exact .refl _

theorem keeps_execKickoffK0 (i : K0In) (s : State) : KeepsNext s (execKickoffK0 i s) :=
  .next (.of_ite (.refl _) (.after .update (.after (keeps_kPass _ _ _ _) (.of_ite (.after (keeps_kFail _ _ _ _ _) (.after (keeps_lateLock
      _) (.of_ite (.refl _) (.of_ite (keeps_imageLost _) (keeps_readAndCount _))))) (.of_ite (.after (keeps_kFail _ _ _ _ _) (.after
      (keeps_lateLock _) (.of_ite (.refl _) (.of_ite (keeps_imageLost _) (keeps_readAndCount _))))) (.after (keeps_lateLock _) (.of_ite
      (.refl _) (.of_ite (keeps_imageLost _) (keeps_readAndCount _)))))))))

theorem keeps_execPllLockTimeout (altOk : Bool) (s : State) : KeepsNext s (execPllLockTimeout altOk s) :=
  .next (.of_ite (.refl _) (.of_ite .update (.after (keeps_lockFail _ _) (keeps_readAndCount _))))

theorem keeps_execNvsCommandDone (rdata : Word) (s : State) : KeepsNext s (execNvsCommandDone rdata s) :=
  .next (.of_ite .update ((by split; exacts [.refl _, .update])))

theorem keeps_persistOff (s : State) : Keeps s (State.persistOff s) :=
  .update

theorem keeps_execNvsTimeout (s : State) : KeepsNext s (execNvsTimeout s) :=
  .next (.of_ite (keeps_imageLost _)
      ((by split; exacts [.refl _, .of_ite (.after (keeps_persistOff _) .update) (.of_ite (.after (keeps_persistOff _) (.after
              (keeps_kFail _ _ _ _ _) .update)) (.after (keeps_kFail _ _ _ _ _) .update))])))

theorem keeps_execKickoffK1 (i : K1In) (s : State) : KeepsNext s (execKickoffK1 i s) :=
  .next (.of_ite (.refl _) (.of_ite (.of_ite (.refl _) (keeps_kFail _ _ _ _ _)) (.after .update (.after (keeps_kPass _ _ _ _) (.of_ite
      (.refl _) (keeps_kFail _ _ _ _ _))))))

theorem keeps_execSpmMarkerTimeout (s : State) : KeepsNext s (execSpmMarkerTimeout s) :=
  .next (.of_ite (.refl _) (.of_ite (.after .update (keeps_kFail _ _ _ _ _)) (keeps_kFail _ _ _ _ _)))

theorem keeps_execSpmMarker (early : BitVec 7) (s : State) : KeepsNext s (execSpmMarker early s) :=
  .next (.of_ite (.refl _) (.after (keeps_raiseFlag _ _ _) (.after (keeps_bump _ _ _) .update)))

theorem keeps_markItem {s t : State} {item : BitVec 16} (h : s.markItem item = some t) : Keeps s t := by
  unfold State.markItem at h
  extract_lets u at h
  split at h
  · cases h
    exact keeps_markOut _ _ _
  · cases h
    exact keeps_markOut _ _ _
  · cases h
    exact keeps_markOut _ _ _
  · cases h
    exact keeps_markOut _ _ _
  · cases h

theorem keeps_unitFail (n : Nat) (s : State) (f : KFail) : Keeps s (State.unitFail n s f) := by
  unfold State.unitFail
  extract_lets ok
  have hk := keeps_kFail s n f ok false
  generalize s.kFail n f ok false = p at hk ⊢
  obtain ⟨a, t⟩ := p
  refine .trans hk (.of_ite ?_ (.refl t))
  cases h : t.markItem f.item with
  | none => exact .refl t
  | some t' => exact keeps_markItem h

theorem keeps_execKickoffK2 (fails : List KFail) (s : State) : KeepsNext s (execKickoffK2 fails s) :=
  .next (.of_ite (.refl _) (.after (keeps_kPass _ _ _ _) (.foldl (fun _ _ => keeps_unitFail _ _ _) _ _)))

theorem keeps_assignClass (acc : Bool × State) (c : Nat × Nat × Nat × Nat × Nat) : Keeps acc.2 (State.assignClass acc c).2 := by
  obtain ⟨cls, n, bench, k, w⟩ := c
  unfold State.assignClass
  dsimp only
  split
  · exact .refl _
  · split
    · exact keeps_kFail _ _ _ _ _
    · exact .update

theorem keeps_execKickoffK3 (fails : List KFail) (s : State) : KeepsNext s (execKickoffK3 fails s) := by
  refine .next (.of_ite (.refl s) (.after (keeps_kPass _ _ _ _) ?_))
  exact .after (.foldl_pair keeps_assignClass _ _ _) (.foldl (keeps_unitFail 3) _ _)

theorem keeps_spareAtStart (s : State) (k : Nat) (p : Nat) : Keeps s (State.spareAtStart s k p) :=
  .after (keeps_maintAdd _ _) (.after (keeps_loseChan _ _) (keeps_setStack _ _ _))

theorem keeps_stackLost (s : State) (k : Nat) : Keeps s (State.stackLost s k) :=
  keeps_kFail _ _ _ _ _

theorem keeps_chanFail (s : State) (f : KFail) : Keeps s (State.chanFail s f) :=
  .of_ite (keeps_kFail _ _ _ _ _) (.of_ite (.after (keeps_stackLost _ _) (keeps_kFail _ _ _ _ _)) (.of_ite (.after (keeps_setStack _ _ _)
      (keeps_kFail _ _ _ _ _)) (.after (keeps_setImg _ _ _) (.after (keeps_spareAtStart _ _ _) (keeps_kFail _ _ _ _ _)))))

theorem keeps_startStacks (s : State) : Keeps s (State.startStacks s) :=
  .after (.foldl (fun _ _ => keeps_stackLost _ _) _ _) (.after .update (.foldl (fun _ _ => .of_ite (.after (keeps_spareAtStart _ _ _)
      (keeps_setStack _ _ _)) (keeps_setStack _ _ _)) _ _))

theorem keeps_execKickoffK4 (i : K4In) (s : State) : KeepsNext s (execKickoffK4 i s) :=
  .next (.of_ite (.refl _) (.after (keeps_kPass _ _ _ _) (.of_ite (.after (.foldl (fun _ _ => keeps_chanFail _ _) _ _) (.after .update
      (.of_ite (keeps_startStacks _) (.after (keeps_kFail _ _ _ _ _) (keeps_startStacks _))))) (.after (keeps_kFail _ _ _ _ _) (.after
      (.foldl (fun _ _ => keeps_chanFail _ _) _ _) (.after .update (.of_ite (keeps_startStacks _) (.after (keeps_kFail _ _ _ _ _)
      (keeps_startStacks _)))))))))

theorem keeps_servePort (s : State) (l : Nat) (p : Nat) (bad : List Nat) (down : Bool) (half : Bool) : Keeps s (State.servePort s l p bad
    down half) :=
  .after (keeps_portState _ _ _) (.after (keeps_setPort _ _ _) (keeps_markLanes _ _ _))

theorem keeps_trainPort (i : K5In) (l n : Nat) (s : State) : Keeps s (State.trainPort i l n s) := by
  induction n generalizing s with
  | zero => exact .refl s
  | succ n ih =>
    have hk (f : KFail) (skip alter : Bool) := keeps_kFail s 5 f skip alter
    unfold State.trainPort
    refine .of_ite (.refl s) ?_
    dsimp only
    split
    · exact .trans (hk _ _ _) (.of_ite (keeps_servePort _ _ _ _ _ _) (.refl _))
    · split
      · exact keeps_servePort _ _ _ _ _ _
      · exact .trans (hk _ _ _) (.of_ite (keeps_servePort _ _ _ _ _ _) (.of_ite (.after (ih _) (keeps_markOut _ _ _)) (.refl _)))

theorem keeps_execKickoffK5 (i : K5In) (s : State) : KeepsNext s (execKickoffK5 i s) :=
  .next (.of_ite (.refl _) (.after (keeps_kPass _ _ _ _) (.of_ite (.after .update (.foldl (fun _ _ => keeps_trainPort _ _ _ _) _ _))
      (.foldl (fun _ _ => keeps_trainPort _ _ _ _) _ _))))

theorem keeps_execLinkPartnerTimeout (l : Fin 64) (s : State) : KeepsNext s (execLinkPartnerTimeout l s) :=
  .next (.of_ite (.refl _) (.of_ite (.after (keeps_setPort _ _ _) (keeps_kFail _ _ _ _ _)) (keeps_kFail _ _ _ _ _)))

theorem keeps_loadFail (n : Nat) (s : State) (f : KFail) : Keeps s (State.loadFail n s f) :=
  keeps_kFail _ _ _ _ _

theorem keeps_execKickoffK6 (fails : List KFail) (s : State) : KeepsNext s (execKickoffK6 fails s) :=
  .next (.of_ite (.refl _) (.of_ite (.foldl (fun _ _ => keeps_loadFail _ _ _) _ _) (.after (keeps_kPass _ _ _ _) (.after (keeps_setReg _ _
      _) (.after .update (.foldl (fun _ _ => keeps_loadFail _ _ _) _ _))))))

theorem keeps_execKickoffK7 (fails : List KFail) (s : State) : KeepsNext s (execKickoffK7 fails s) :=
  .next (.of_ite (.refl _) (.of_ite (.foldl (fun _ _ => keeps_loadFail _ _ _) _ _) (.after (keeps_kPass _ _ _ _) (.after
      (keeps_newProgramDigest _) (.after .update (.foldl (fun _ _ => keeps_loadFail _ _ _) _ _))))))

theorem keeps_execKickoffK8 (s : State) : KeepsNext s (execKickoffK8 s) :=
  .next (.of_ite (.refl _) (.after (keeps_raiseInt _ _) (.after .update (keeps_kPass _ _ _ _))))

theorem keeps_kctlRelease (s : State) : Keeps s (State.kctlRelease s).2 :=
  .of_ite_snd .update (.refl _)

theorem keeps_execKctlRelease (s : State) : KeepsNext s (execKctlRelease s) :=
  .next (keeps_hostWrite _ _ _ (fun _ => keeps_kctlRelease _))

theorem keeps_kctlForget (s : State) : Keeps s (State.kctlForget s).2 :=
  .of_ite_snd (.refl _) (keeps_logEntry _ _)

theorem keeps_execKctlForget (s : State) : KeepsNext s (execKctlForget s) :=
  .next (keeps_hostWrite _ _ _ (fun _ => keeps_kctlForget _))

theorem keeps_execHostWarmReset (s : State) : KeepsNext s (execHostWarmReset s) :=
  .next (.of_ite (.after (keeps_begin _) (keeps_toReset _ _)) (.refl _))

theorem keeps_kctlWrite (s : State) (v : Word) : Keeps s (State.kctlWrite s v).2 :=
  .of_ite (.of_ite (.after (keeps_begin _) (.after (keeps_toReset _ _) (.of_ite_snd (.after (keeps_kctlForget _) (.of_ite_snd (.after
      (keeps_kctlRelease _) (keeps_setReg _ _ _)) (keeps_setReg _ _ _))) (.of_ite_snd (.after (keeps_kctlRelease _) (keeps_setReg _ _ _))
      (keeps_setReg _ _ _))))) (.of_ite_snd (.after (keeps_kctlForget _) (.of_ite_snd (.after (keeps_kctlRelease _) (keeps_setReg _ _ _))
      (keeps_setReg _ _ _))) (.of_ite_snd (.after (keeps_kctlRelease _) (keeps_setReg _ _ _)) (keeps_setReg _ _ _)))) (.refl _)

theorem keeps_imgWrite (s : State) (w : Nat) (v : Word) : Keeps s (State.imgWrite s w v).2 :=
  .of_ite_snd (.after (keeps_flushNvs _) (keeps_setImg _ _ _)) (.refl _)

theorem keeps_execRefImgWrite (w : Fin 2048) (v : Word) (s : State) : KeepsNext s (execRefImgWrite w v s) :=
  .next (keeps_hostWrite _ _ _ (fun _ => keeps_imgWrite _ _ _))

end Sys2Proof.Machine
end

section
namespace Sys2Proof.Machine

/-! ### `Keeps` for the functions of Machine/MemCmd -/

theorem keeps_writesCured (s : State) (l : List (Nat × List Byte)) : Keeps s (State.writesCured s l) :=
  .after (.foldl (fun _ _ => keeps_cureRange _ _ _) _ _) (keeps_writes _ _)

theorem keeps_memStart (s : State) (u : UCmd) : Keeps s (memStart s u).2 :=
  .refl _

theorem keeps_copyWork (s : State) (u : UCmd) : Keeps s (copyWork s u).2 :=
  .of_ite (keeps_writes _ _) (.after (keeps_raiseFlag _ _ _) (keeps_writes _ _))

theorem keeps_copyRunCmd (s : State) (u : UCmd) : Keeps s (copyRunCmd s u) :=
  keeps_drive _ _ _ _ _ (fun _ _ => keeps_memStart _ _) (fun _ _ => keeps_copyWork _ _)

theorem keeps_execCopy (c : Ctx) (f : Fields) (s : State) : KeepsNext s (execCopy c f s) :=
  .next (keeps_issueUnit _ _ _ _ _ (fun _ _ => keeps_copyRunCmd _ _))

theorem keeps_xposeWork (s : State) (u : UCmd) : Keeps s (xposeWork s u).2 :=
  .of_ite (keeps_writes _ _) (.after (keeps_raiseFlag _ _ _) (keeps_writes _ _))

theorem keeps_xposeRunCmd (s : State) (u : UCmd) : Keeps s (xposeRunCmd s u) :=
  keeps_drive _ _ _ _ _ (fun _ _ => keeps_memStart _ _) (fun _ _ => keeps_xposeWork _ _)

theorem keeps_execXpose (c : Ctx) (f : Fields) (s : State) : KeepsNext s (execXpose c f s) :=
  .next (keeps_issueUnit _ _ _ _ _ (fun _ _ => keeps_xposeRunCmd _ _))

theorem keeps_gatherWork (s : State) (u : UCmd) : Keeps s (gatherWork s u).2 :=
  .of_ite (keeps_putRows _ _ _ _ (fun _ _ => .after (keeps_countClamp _ _) (keeps_countClamp _ _))) (keeps_eachRow _ _ _ (fun _ _ =>
      .after (keeps_countClamp _ _) (.after (keeps_countClamp _ _) (keeps_writes _ _))))

theorem keeps_gatherRun (s : State) (u : UCmd) : Keeps s (gatherRun s u) :=
  keeps_drive _ _ _ _ _ (fun _ _ => keeps_memStart _ _) (fun _ _ => keeps_gatherWork _ _)

theorem keeps_execGather (c : Ctx) (f : Fields) (s : State) : KeepsNext s (execGather c f s) :=
  .next (keeps_issueUnit _ _ _ _ _ (fun _ _ => keeps_gatherRun _ _))

theorem keeps_scatterWork (s : State) (u : UCmd) : Keeps s (scatterWork s u).2 :=
  .of_ite (.after (keeps_writes _ _) (.after (.foldl (fun _ _ => keeps_countClamp _ _) _ _) (.foldl (fun _ _ => .after (keeps_countClamp _
      _) (keeps_countClamp _ _)) _ _))) (.after (.foldl (fun _ _ => .after (keeps_countClamp _ _) (keeps_writesCured _ _)) _ _) (.foldl
      (fun _ _ => .after (keeps_countClamp _ _) (keeps_countClamp _ _)) _ _))

theorem keeps_scatterRun (s : State) (u : UCmd) : Keeps s (scatterRun s u) :=
  keeps_drive _ _ _ _ _ (fun _ _ => keeps_memStart _ _) (fun _ _ => keeps_scatterWork _ _)

theorem keeps_execScatter (c : Ctx) (f : Fields) (s : State) : KeepsNext s (execScatter c f s) :=
  .next (keeps_issueUnit _ _ _ _ _ (fun _ _ => keeps_scatterRun _ _))

theorem keeps_addBytes (s : State) (f : AddFmt) (a : Nat) (bs : List Byte) : Keeps s (State.addBytes s f a bs) :=
  .foldl (fun _ _ => keeps_setNum _ _ _ _) _ _

theorem keeps_addPiece (f : AddFmt) (h : Option Half) (acc : Bool × State) (p : Nat × List Byte) :
    Keeps acc.2 (addPiece f h acc p).2 := by
  unfold addPiece
  split
  · exact keeps_lostRead _ _ _
  · exact keeps_addBytes _ _ _ _

theorem keeps_scatterAddWork (s : State) (u : UCmd) : Keeps s (scatterAddWork s u).2 := by
  unfold scatterAddWork
  refine .trans (keeps_draw s) (.foldl_pair (fun acc r => ?_) _ _ _)
  dsimp only
  split
  · dsimp only
    exact .after (keeps_countClamp _ _) (keeps_countClamp _ _)
  · exact .after (keeps_countClamp _ _) (.after (.foldl_pair (keeps_addPiece _ _) _ _ _) (keeps_countClamp _ _))

theorem keeps_scatterAddRun (s : State) (u : UCmd) : Keeps s (scatterAddRun s u) :=
  keeps_drive _ _ _ _ _ (fun _ _ => keeps_memStart _ _) (fun _ _ => keeps_scatterAddWork _ _)

theorem keeps_execScatterAdd (c : Ctx) (f : Fields) (s : State) : KeepsNext s (execScatterAdd c f s) :=
  .next (keeps_issueUnit _ _ _ _ _ (fun _ _ => keeps_scatterAddRun _ _))

end Sys2Proof.Machine
end

section
namespace Sys2Proof.Machine

/-! ### `Keeps` for the functions of Machine/Rebound -/

theorem keeps_setReadSoFar (s : State) (q : Nat) (ws : List QWord) : Keeps s (State.setReadSoFar s q ws) :=
  .update

theorem keeps_recvInStart (s : State) (u : UCmd) : Keeps s (recvInStart s u).2 :=
  .of_ite (keeps_clearItems _ _ _) (.after .update (keeps_clearItems _ _ _))

theorem keeps_putToken (s : State) (u : UCmd) (pos : List Byte) (payload : List Byte) : Keeps s (State.putToken s u pos payload) :=
  .of_ite (keeps_setBytes _ _ _) (.after (keeps_setBytes _ _ _) (keeps_setBytes _ _ _))

theorem keeps_endIn (s : State) (u : UCmd) : Keeps s (State.endIn s u).2 :=
  .update

theorem keeps_takeSlot {s t : State} {n : Nat} (h : s.takeSlot = some (n, t)) : Keeps s t := by
  unfold State.takeSlot at h
  split at h
  · cases h
  · rw [← (Prod.mk.inj (Option.some.inj h)).2]
    exact .update

theorem keeps_takeToken {s t : State} {u : UCmd} {pos payload : List Byte} (h : s.takeToken u pos payload = some t) :
    Keeps s t := by
  unfold State.takeToken at h
  dsimp only at h
  split at h
  · cases h
  · next n u hu =>
    rw [← Option.some.inj h]
    exact .after (keeps_addItem _ _ _ _) (.after .update (.after (keeps_setRslot _ _ _) (keeps_takeSlot hu)))

theorem keeps_readOn {s t : State} {q : Nat} (h : s.readOn q = some t) : Keeps s t := by
  have hm := keeps_takeMark s q
  unfold State.readOn at h
  generalize s.takeMark q = p at hm h
  obtain ⟨cut, u⟩ := p
  dsimp only at h
  split at h
  · rw [← Option.some.inj h]
    exact .after (keeps_setReadSoFar _ _ _) hm
  · split at h
    · cases h
    · next w v hv =>
      rw [← Option.some.inj h]
      exact .after (keeps_setReadSoFar _ _ _) (.after (keeps_popWord hv) hm)

theorem keeps_recvInLoop (n : Nat) (u : UCmd) (s : State) : Keeps s (recvInLoop n u s).2 := by
  induction n generalizing u s with
  | zero => exact .refl s
  | succ n ih =>
    unfold recvInLoop
    dsimp only
    refine .of_ite_snd ?_ (.of_ite_snd (keeps_endIn _ _) (.of_ite_snd (.of_ite_snd ?_ (.of_ite_snd ?_ ?_)) ?_))
    · split
      · exact keeps_lostRead _ _ _
      · split
        · exact .refl s
        · next t ht => exact .after (ih _ _) (keeps_takeToken ht)
    · exact .after (keeps_endIn _ _) (keeps_setReadSoFar _ _ _)
    · exact .after (ih _ _) (.after (keeps_malformed _) (keeps_setReadSoFar _ _ _))
    · split
      · exact .refl s
      · next t ht => exact .after (ih _ _) (.after (keeps_putToken _ _ _ _) (.after (keeps_takeToken ht) (keeps_setReadSoFar _ _ _)))
    · split
      · exact .refl s
      · next t ht => exact .after (ih _ _) (keeps_readOn ht)

theorem keeps_recvInWork (s : State) (u : UCmd) : Keeps s (recvInWork s u).2 := by
  unfold recvInWork
  dsimp only
  exact .after (keeps_holdUpdate _) (keeps_recvInLoop _ _ _)

theorem keeps_recvInRun (s : State) (u : UCmd) : Keeps s (recvInRun s u) :=
  keeps_drive _ _ _ _ _ (fun _ _ => keeps_recvInStart _ _) (fun _ _ => keeps_recvInWork _ _)

theorem keeps_execRecvIn (c : Ctx) (f : Fields) (s : State) : KeepsNext s (execRecvIn c f s) :=
  .next (keeps_issueUnit _ _ _ _ _ (fun _ _ => keeps_recvInRun _ _))

theorem keeps_retStart (s : State) (u : UCmd) : Keeps s (retStart s u).2 :=
  .refl _

theorem keeps_retBind (s : State) (u : UCmd) : Keeps s (retBind s u).2 :=
  .of_ite_snd (.refl _) ((by split; exacts [.refl _, .after (keeps_halfEntry _ _ _ _) .update]))

theorem keeps_forward (s : State) (ws : List QWord) : Keeps s (State.forward s ws) :=
  .after (keeps_sendFrames _ _) .update

theorem keeps_answerRead (s : State) (u : UCmd) (ws : List QWord) : Keeps s (State.answerRead s u ws) :=
  .of_ite (keeps_malformed _) (.of_ite (.after (keeps_report _ _) (keeps_malformed _)) (keeps_forward _ _))

theorem keeps_retLoop (h n : Nat) (u : UCmd) (s : State) : Keeps s (retLoop h n u s).2 := by
  induction n generalizing u s with
  | zero => exact .refl s
  | succ n ih =>
    unfold retLoop
    dsimp only
    refine .of_ite_snd .update (.of_ite_snd (.after (ih _ _) (.after (keeps_answerRead _ _ _) (keeps_setReadSoFar _ _ _))) ?_)
    split
    · exact .refl s
    · next t ht => exact .after (ih _ _) (keeps_readOn ht)

theorem keeps_retWork (s : State) (u : UCmd) : Keeps s (retWork s u).2 := by
  have hb := keeps_retBind s u
  unfold retWork
  generalize retBind s u = p at hb ⊢
  obtain ⟨v, t⟩ := p
  dsimp only
  split
  · exact hb
  · exact .after (keeps_retLoop _ _ _ _) hb

theorem keeps_retRun (s : State) (u : UCmd) : Keeps s (retRun s u) :=
  keeps_drive _ _ _ _ _ (fun _ _ => keeps_retStart _ _) (fun _ _ => keeps_retWork _ _)

theorem keeps_execReboundRet (c : Ctx) (f : Fields) (s : State) : KeepsNext s (execReboundRet c f s) :=
  .next (keeps_issueUnit _ _ _ _ _ (fun _ _ => keeps_retRun _ _))

theorem keeps_addAnswer (s : State) (n : Nat) (a : Answer) : Keeps s (State.addAnswer s n a) :=
  .after (keeps_returnRes _ _ _) (.after (keeps_setRslot _ _ _) ((by split; exacts [.refl _, keeps_takeLines _ _])))

theorem keeps_parkStore (s : State) (n : Nat) (a : Answer) : Keeps s (State.parkStore s n a) :=
  .after (keeps_setRslot _ _ _) (keeps_takeLines _ _)

theorem keeps_setAnswer (s : State) (a : Nat) (bs : List Byte) : Keeps s (State.setAnswer s a bs) :=
  .after (keeps_cureRange _ _ _) (keeps_setBytes _ _ _)

theorem keeps_takeAns {s t : State} {a : Nat} (h : s.takeAns = some (a, t)) : Keeps s t := by
  unfold State.takeAns at h
  split at h
  · cases h
  · dsimp only at h
    split at h
    · cases h
    · rw [← (Prod.mk.inj (Option.some.inj h)).2]
      exact .update

theorem keeps_sumToken (s : State) (n d : Nat) : Keeps s (s.sumToken n d).2 := by
  unfold State.sumToken
  dsimp only
  split
  · exact .refl s
  · exact keeps_draw s

theorem keeps_lostOnce (s : State) (l : Nat) (h : Half) : Keeps s (State.lostOnce s l h) :=
  .of_ite (.refl _) (keeps_lostRead _ _ _)

theorem keeps_reportOnce (s : State) (r : FaultRep) : Keeps s (State.reportOnce s r) :=
  .of_ite (.refl _) (keeps_report _ _)

theorem keeps_resultPlace {s t : State} {n a : Nat} (h : s.resultPlace n = some (a, t)) : Keeps s t := by
  unfold State.resultPlace at h
  dsimp only at h
  split at h
  · rw [← (Prod.mk.inj (Option.some.inj h)).2]
    exact .after (keeps_freeHeld _ _) (keeps_setRslot _ _ _)
  · split at h
    · cases h
    · exact .after (keeps_takeAns h) (keeps_freeHeld _ _)

theorem keeps_holdResult {s t : State} {n : Nat} {bs : List Byte} (h : s.holdResult n bs = some t) : Keeps s t := by
  unfold State.holdResult at h
  dsimp only at h
  split at h
  · rw [← Option.some.inj h]
    exact .after (keeps_setRslot _ _ _) (.after (keeps_takeLines _ _) (.after (keeps_returnRes _ _ _) (keeps_freeHeld _ _)))
  · split at h
    · cases h
    · next a u hu =>
      rw [← Option.some.inj h]
      exact .after (keeps_setRslot _ _ _) (.after (keeps_setAnswer _ _ _) (.after (keeps_returnRes _ _ _) (keeps_resultPlace hu)))

theorem keeps_finishToken (s : State) (n : Nat) : Keeps s (s.finishToken n) := by
  unfold State.finishToken
  dsimp only
  split
  · exact .refl s
  · refine .of_ite (.refl s) (.of_ite (keeps_reportOnce _ _) ?_)
    split
    · exact keeps_lostOnce _ _ _
    · generalize List.flatMap _ _ = bs
      cases h : State.holdResult _ n bs with
      | none => exact .refl s
      | some t => exact .trans (keeps_sumToken _ _ _) (keeps_holdResult h)

theorem keeps_answerPart (s : State) (f : Frame) : Keeps s (State.answerPart s f).2 := by
  unfold State.answerPart
  split
  · exact .update
  · exact .of_ite (keeps_bump _ _ _) (.refl _)

theorem keeps_endPart (s : State) (p : Machine.Part) (seg : Nat) (discarded : Bool) : Keeps s (State.endPart s p seg discarded) :=
  .of_ite .update .update

theorem keeps_dropSegment (s : State) (p : Machine.Part) (reg : Nat) (h : Half) : Keeps s (State.dropSegment s p reg h) :=
  .of_ite (.refl _) (.after (keeps_discarded _ _) (keeps_bump _ _ _))

theorem keeps_seeChoice (s : State) (n : Nat) (c : Nat) : Keeps s (State.seeChoice s n c) :=
  keeps_setRslot _ _ _

theorem keeps_parkStack {s t : State} {n : Nat} {a : Answer} (h : s.parkStack n a = some t) : Keeps s t := by
  unfold State.parkStack at h
  split at h
  · cases h
  · next addr u hu =>
    rw [← Option.some.inj h]
    exact .after (keeps_bump _ _ _) (.after (keeps_setRslot _ _ _) (.after (keeps_setAnswer _ _ _) (keeps_takeAns hu)))

theorem keeps_sideAdd {s t : State} {n : Nat} {a : Answer} (h : s.sideAdd n a = some t) : Keeps s t := by
  unfold State.sideAdd at h
  dsimp only at h
  split at h
  · rw [← Option.some.inj h]
    refine .after (keeps_returnRes _ _ _) (.after (keeps_setRslot _ _ _) ?_)
    split
    · exact keeps_lostRead _ _ _
    · exact keeps_setBytes _ _ _
  · split at h
    · cases h
    · next addr u hu =>
      rw [← Option.some.inj h]
      exact .after (keeps_bump _ _ _) (.after (keeps_setRslot _ _ _) (.after (keeps_setAnswer _ _ _) (keeps_takeAns hu)))

theorem keeps_placeAnswer {s t : State} {n : Nat} {a : Answer} (h : s.placeAnswer n a = some t) : Keeps s t := by
  unfold State.placeAnswer at h
  dsimp only at h
  split at h
  · rw [← Option.some.inj h]
    exact keeps_addAnswer _ _ _
  · split at h
    · rw [← Option.some.inj h]
      exact keeps_parkStore _ _ _
    · split at h
      · exact keeps_sideAdd h
      · exact keeps_parkStack h

theorem keeps_execAnswerSegment (s : State) : KeepsNext s (execAnswerSegment s) := by
  refine .next ?_
  split
  · exact .refl s
  · next f t0 ht0 =>
    have hp : Keeps s (t0.answerPart f).2 := .after (keeps_answerPart t0 f) (keeps_takeRx ht0)
    dsimp only
    generalize t0.answerPart f = p at hp ⊢
    obtain ⟨p, t⟩ := p
    have hend (b : Bool) (m : Nat) (h : Half) : Keeps s ((t.dropSegment p m h).endPart p f.seg b) :=
      .after (keeps_endPart _ _ _ _) (.after (keeps_dropSegment _ _ _ _) hp)
    refine .of_ite (hend _ _ _) (.of_ite (.of_ite ?_ (hend _ _ _)) (.of_ite ?_ (.of_ite (hend _ _ _) ?_)))
    · exact .after (keeps_drainSlot _ _) (.after (keeps_returnRes _ _ _) (.after (keeps_seeChoice _ _ _) (hend _ _ _)))
    · refine .trans (.after (keeps_endPart _ _ _ _) (.after (.of_ite (.refl _) (keeps_report _ _)) (.after (keeps_dropSegment _ _ _ _)
        hp)))
        (.of_ite (keeps_seeChoice _ _ _) (.refl _))
    · refine .of_ite (.of_ite ?_ ?_) ?_
      · exact .after (keeps_seeChoice _ _ _) (.after (keeps_setRslot _ _ _) (.after (keeps_endPart _ _ _ _) hp))
      · exact .after (keeps_setRslot _ _ _) (.after (keeps_endPart _ _ _ _) hp)
      · split
        · exact .refl s
        · next u hu =>
          exact .after (keeps_finishToken _ _) (.after (keeps_placeAnswer hu) (.after (keeps_setRslot _ _ _)
            (.after (keeps_endPart _ _ _ _) hp)))

theorem keeps_combineStart (s : State) (u : UCmd) : Keeps s (combineStart s u).2 :=
  .after .update (.after (keeps_clearItems _ _ _) (keeps_clearItems _ _ _))

theorem keeps_combineWork (s : State) (u : UCmd) : Keeps s (combineWork s u).2 := by
  unfold combineWork
  dsimp only
  split
  · exact .of_ite_snd (.after (keeps_formFor _ _ _) .update) (.foldl (fun _ _ => keeps_finishToken _ _) _ _)
  · exact .foldl (fun _ _ => keeps_finishToken _ _) _ _

theorem keeps_combineRun (s : State) (u : UCmd) : Keeps s (combineRun s u) :=
  keeps_drive _ _ _ _ _ (fun _ _ => keeps_combineStart _ _) (fun _ _ => keeps_combineWork _ _)

theorem keeps_execReboundCombine (c : Ctx) (f : Fields) (s : State) : KeepsNext s (execReboundCombine c f s) :=
  .next (keeps_issueUnit _ _ _ _ _ (fun _ _ => keeps_combineRun _ _))

theorem keeps_passRows (s : State) (h n : Nat) : Keeps s (s.passRows h n) := by
  induction n generalizing s with
  | zero => exact .refl s
  | succ n ih =>
    unfold State.passRows
    exact .of_ite (.after (ih _) .update) (.refl s)

theorem keeps_emit (s : State) (u : UCmd) (n : Nat) (bs : List Byte) : Keeps s (State.emit s u n bs) :=
  .after (keeps_releaseSlot _ _) (.after .update (.after (keeps_addItem _ _ _ _) (.after (keeps_addItem _ _ _ _) (.of_ite (.refl _)
      (.after (keeps_bump _ _ _) (.of_ite (.after (keeps_bump _ _ _) (.after (keeps_setBytes _ _ _) (keeps_push _ _ _))) (.after
      (keeps_setBytes _ _ _) (keeps_push _ _ _))))))))

theorem keeps_execResultEmission (h : Half) (s : State) : KeepsNext s (execResultEmission h s) := by
  refine .next ?_
  split
  · exact .refl s
  · refine .trans (keeps_passRows s h.val (s.takenOf h.val)) (.of_ite (.refl _) ?_)
    split
    · exact .refl _
    · next n _ =>
      refine .trans (keeps_finishToken _ n) ?_
      dsimp only
      split
      · exact .refl _
      · refine .of_ite (.refl _) ?_
        split
        · exact keeps_lostOnce _ _ _
        · exact keeps_emit _ _ _ _

theorem keeps_cancelSlot (s : State) (n : Nat) : Keeps s (State.cancelSlot s n) :=
  .after (keeps_drainSlot _ _) (.after (keeps_setRslot _ _ _) (.after (keeps_returnRes _ _ _) (keeps_freeHeld _ _)))

theorem keeps_cancelWhere (s : State) (p : RSlot → Bool) : Keeps s (State.cancelWhere s p).2 :=
  .foldl (fun _ _ => keeps_cancelSlot _ _) _ _

theorem keeps_cancelWrite (s : State) (v : Word) : Keeps s (State.cancelWrite s v).2 :=
  .of_ite_snd (.refl _) (.after .update (keeps_cancelWhere _ _))

theorem keeps_execRebCancel (batch : BitVec 14) (s : State) : KeepsNext s (execRebCancel batch s) := by
  have h (v : Word) : KeepsNext s (.next (s.hostWrite 0x0C0020 fun t => t.cancelWrite v)) :=
    .next (keeps_hostWrite _ _ _ fun t => keeps_cancelWrite t v)
  unfold execRebCancel
  exact h _

end Sys2Proof.Machine
end

section
namespace Sys2Proof.Machine

/-! ### `Keeps` for the functions of Machine/Complete -/

theorem keeps_unitRun (s : State) (u : UCmd) : Keeps s (unitRun s u) := by
  unfold unitRun
  split
  · exact keeps_normRun _ _
  · exact keeps_posRun _ _
  · exact keeps_scoreRun _ _
  · exact keeps_smaxRun _ _
  · exact keeps_topkRun _ _
  · exact keeps_admitRun _ _
  · exact keeps_scoutRun _ _
  · exact keeps_huddleRun _ _
  · exact keeps_packRun _ _
  · exact keeps_keepRun _ _
  · exact keeps_volleyRun _ _
  · exact keeps_recvInRun _ _
  · exact keeps_recvNetRun _ _
  · exact keeps_combineRun _ _
  · exact keeps_retRun _ _
  · exact keeps_fuseRun _ _
  · exact keeps_microRun _ _
  · exact keeps_copyRunCmd _ _
  · exact keeps_xposeRunCmd _ _
  · exact keeps_gatherRun _ _
  · exact keeps_scatterRun _ _
  · exact keeps_scatterAddRun _ _
  · exact .refl _

theorem keeps_outHeader (s : State) (u : UCmd) : Keeps s (State.outHeader s u) :=
  .of_ite (.refl _) (.of_ite (.after .update (keeps_bump _ _ _)) (.after (keeps_setFld _ _ _ _ _) (keeps_setBytes _ _ _)))

theorem keeps_obhRd (s : State) (v : Word) : Keeps s (s.obhRd v).2 := by
  unfold State.obhRd
  dsimp only
  split
  · exact .refl s
  · dsimp only
    exact keeps_liveWrite _ _ _

theorem keeps_execObhRdWrite (v : Word) (s : State) : KeepsNext s (execObhRdWrite v s) :=
  .next (keeps_hostWrite _ _ _ (fun _ => keeps_obhRd _ _))

theorem keeps_atEnd (s : State) (u : UCmd) (r : UResult) : Keeps s (State.atEnd s u r) :=
  .of_ite (.refl _) ((by split; exacts [keeps_histogram _ _, keeps_outHeader _ _, .refl _]))

theorem keeps_execUnitCommandCompletion (c : Ctx) (serial : BitVec 16) (s : State) :
    KeepsNext s (execUnitCommandCompletion c serial s) := by
  refine .next ?_
  split
  · exact .refl s
  · next u _ =>
    have ht : Keeps s (if u.result.isNone && s.isHead u then unitRun s u else s) := .of_ite (keeps_unitRun _ _) (.refl s)
    refine .trans ht ?_
    generalize (if u.result.isNone && s.isHead u then unitRun s u else s) = t
    dsimp only
    split
    · exact .refl t
    · split
      · exact .after (keeps_complete _ _ _) (keeps_atEnd _ _ _)
      · exact .refl t

end Sys2Proof.Machine
end

section
namespace Sys2Proof.Machine

/-! ### `Keeps` for the functions of Machine/Boundary -/

theorem keeps_execStepInsn (c : Ctx) (f : Fields) (s : State) : KeepsNext s (execStepInsn c f s) :=
  .next (keeps_localOp _ _ _ _ _ _ _ (fun _ => .after (keeps_drained _ _) (keeps_setCtx _ _ _)))

theorem keeps_armImage (s : State) (c : Ctx) (f : Fields) (restore : Bool) : Keeps s (s.armImage c f restore) := by
  rw [State.armImage_eq]
  generalize lowest _ = k
  cases k with
  | some k => exact keeps_retire _ _ _
  | none => exact .after .update (keeps_setCtx _ _ _)

theorem keeps_execSaveInsn (c : Ctx) (f : Fields) (s : State) : KeepsNext s (execSaveInsn c f s) :=
  .next (keeps_localOp _ _ _ _ _ _ _ (fun _ => keeps_armImage _ _ _ _))

theorem keeps_execRestoreInsn (c : Ctx) (f : Fields) (s : State) : KeepsNext s (execRestoreInsn c f s) :=
  .next (keeps_localOp _ _ _ _ _ _ _ (fun _ => keeps_armImage _ _ _ _))

theorem keeps_execCnt (c : Ctx) (f : Fields) (s : State) : KeepsNext s (execCnt c f s) :=
  .next (keeps_localOp _ _ _ _ _ _ _ (fun _ => (by split; exacts [keeps_retireX _ _ _ _, keeps_retire _ _ _])))

theorem keeps_execSeed (c : Ctx) (f : Fields) (s : State) : KeepsNext s (execSeed c f s) :=
  .next (keeps_localOp _ _ _ _ _ _ _ (fun _ => .after (keeps_retire _ _ _) .update))

theorem keeps_ringCheck (s : State) (was : Bool) (ctrl : Nat) (base : Nat) (slot : Nat) : Keeps s (State.ringCheck s was ctrl base slot)
    :=
  .of_ite (.after (keeps_raiseFlag _ _ _) (keeps_setFld _ _ _ _ _)) (.refl _)

theorem keeps_applyRegs (s : State) : Keeps s (State.applyRegs s) :=
  .after (keeps_ringCheck _ _ _ _ _) (.after (keeps_ringCheck _ _ _ _ _) (.after .update (.foldl (fun _ _ =>
      (by split; exacts [keeps_setReg _ _ _, .refl _])) _ _)))

theorem keeps_autoBatch (before s : State) : Keeps s (State.autoBatch before s) :=
  .of_ite (.refl s) (.foldl (fun t _ => .of_ite (.refl t) (keeps_setFld _ _ _ _ _)) _ _)

theorem keeps_newBatch (before s : State) : Keeps s (State.newBatch before s) :=
  .foldl (fun t _ => .of_ite (.refl t) .update) _ _

theorem keeps_setSteer (s : State) (w : Nat) (v : Nat) : Keeps s (State.setSteer s w v) :=
  .update

theorem keeps_applySteer (s : State) : Keeps s (State.applySteer s).2 :=
  .after (.foldl_snd (fun _ _ => .foldl (fun _ _ => keeps_setSteer _ _ _) _ _) _ _) (.after .update (.foldl (fun _ _ =>
      (by split; exacts [keeps_setSteer _ _ _, .refl _])) _ _))

theorem keeps_steerLayer (s : State) (keep : List Nat) (eta vmax : Fl) (l : Nat) : Keeps s (s.steerLayer keep eta vmax l).2 := by
  refine .foldl_pair (fun acc j => ?_) _ _ _
  exact .of_ite_snd (.refl _) (keeps_setSteer _ _ _)

theorem keeps_steerUpdate (s : State) (keep : List Nat) : Keeps s (s.steerUpdate keep).2.2 := by
  unfold State.steerUpdate
  refine .of_ite_thd .update (.of_ite_thd .update ?_)
  dsimp only
  refine .after .update (.foldl_pair (fun acc l => ?_) _ _ _)
  exact keeps_steerLayer _ _ _ _ _

theorem keeps_postRecord (s : State) (r : List Byte) : Keeps s (State.postRecord s r) :=
  .after (keeps_raiseInt _ _) (.of_ite (.after (keeps_raiseFlag _ _ _) (.after (keeps_setFld _ _ _ _ _) (.after (keeps_setFld _ _ _ _ _)
      (.foldl (fun _ _ => keeps_setReg _ _ _) _ _)))) (.after (keeps_setFld _ _ _ _ _) (.foldl (fun _ _ => keeps_setReg _ _ _) _ _)))

theorem keeps_loadTables (s : State) (a : Nat) : Keeps s (State.loadTables s a) :=
  .after .update ((by split; exacts [.after .update (.after (keeps_startGate _ _) .update), .after .update .update]))

theorem keeps_loadImage (s : State) (a : Nat) : Keeps s (State.loadImage s a) :=
  .after (keeps_newProgramDigest _) (.after (keeps_loadTables _ _) (.after (keeps_setFld _ _ _ _ _) (.after (keeps_setFld _ _ _ _ _)
      .update)))

theorem keeps_endArm (s : State) (cap : Capture) (code : Byte) : Keeps s (State.endArm s cap code) :=
  keeps_setCtx _ _ _

theorem keeps_doArm (s : State) : Keeps s s.doArm := by
  unfold State.doArm
  split
  · exact .refl s
  · next cap _ =>
    extract_lets t u
    have ht : Keeps s t := .update
    refine .trans ht (.of_ite (keeps_endArm _ _ _) (.of_ite ?_ ?_))
    · split
      · next u hu => exact .after (keeps_endArm _ _ _) (keeps_imageLostRead hu)
      · exact .of_ite (keeps_endArm _ _ _) (.after (keeps_endArm _ _ _) (keeps_loadImage _ _))
    · exact .after .update (.after (keeps_cureRange _ _ _) (keeps_setBytes _ _ _))

theorem keeps_releaseAll (s : State) : Keeps s (State.releaseAll s) :=
  .after (.foldl (fun _ _ => .of_ite (.refl _) (.of_ite (.after (keeps_trap _ _ _ _) (keeps_setCtx _ _ _)) (keeps_setCtx _ _ _))) _ _)
      .update

theorem keeps_whistle (s : State) : Keeps s (State.whistle s) :=
  .of_ite (.after (keeps_releaseAll _) .update) .update

theorem keeps_checkpoint (s : State) : Keeps s (State.checkpoint s) :=
  .update

theorem keeps_endProgress (s : State) : Keeps s (State.endProgress s) :=
  .after (.foldl (fun _ _ => keeps_setCtx _ _ _) _ _) (.foldl (fun _ _ => keeps_flush _ _) _ _)

theorem keeps_scoutBoundary (s : State) : Keeps s (State.scoutBoundary s) :=
  .after .update (.of_ite (.after (keeps_raiseFlag _ _ _) (.after (keeps_bump _ _ _) (keeps_auditAll _ _))) (.after (keeps_bump _ _ _)
      (keeps_auditAll _ _)))

theorem keeps_stagedStep (s : State) : Keeps s s.stagedStep.2.2 := by
  have h1 : Keeps s (State.newBatch s (State.autoBatch s s.applyRegs)) :=
    .after (keeps_newBatch _ _) (.after (keeps_autoBatch _ _) (keeps_applyRegs s))
  unfold State.stagedStep
  generalize State.newBatch s (State.autoBatch s s.applyRegs) = t1 at h1 ⊢
  dsimp only
  refine .trans h1 (.trans (.after (keeps_steerUpdate _ _) (.after (keeps_applySteer _) .update)) (.of_ite (keeps_raiseFlag _ _ _) (.refl
      _)))

theorem keeps_endStep (s : State) (steered : Nat) (cfgErrors : Nat) : Keeps s (State.endStep s steered cfgErrors) :=
  .after .update (.after (keeps_postRecord _ _) (.after (keeps_formDigest _ _ _) (.after (keeps_addItem _ _ _ _) (keeps_clearItems _ _
      _))))

theorem keeps_nextStep (s : State) : Keeps s (State.nextStep s) :=
  .update

theorem keeps_execStepBoundary (s : State) : KeepsNext s (execStepBoundary s) := by
  have h1 : Keeps s s.scoutBoundary.stagedStep.2.2 := .after (keeps_stagedStep _) (keeps_scoutBoundary s)
  unfold execStepBoundary
  refine .next (.of_ite (.refl s) ?_)
  generalize s.scoutBoundary.stagedStep = p at h1 ⊢
  obtain ⟨n, bad, t⟩ := p
  dsimp only at h1 ⊢
  exact .trans (.after (keeps_checkpoint _) (.after (keeps_nextStep _) (.after (keeps_doArm _) (.after (keeps_endStep _ _ _)
    (.after (keeps_endProgress _) h1))))) (.of_ite (.refl _) (keeps_whistle _))

theorem keeps_execSaveImageWritten (s : State) : KeepsNext s (execSaveImageWritten s) :=
  .next ((by split; exacts [.after (keeps_whistle _) (.after (keeps_endArm _ _ _) .update), .refl _]))

end Sys2Proof.Machine
end

section
namespace Sys2Proof.Machine

/-! ### `Keeps` for the functions of Machine/Referee -/

theorem keeps_faultRecord (s : State) (r : FaultRep) (action : Nat) : Keeps s (State.faultRecord s r action) :=
  .after (keeps_raiseInt _ _) .update

theorem keeps_noHalf (s : State) : Keeps s (State.noHalf s) :=
  .after (.foldl (fun _ _ => .after (keeps_faultRecord _ _ _) (keeps_draw _)) _ _) .update

theorem keeps_maskedBy (s : State) (mech : Nat) : Keeps s (State.maskedBy s mech) :=
  .update

theorem keeps_reloadGate (s : State) : Keeps s s.reloadGate := by
  refine .of_ite (.refl s) ?_
  split
  · next t ht => exact keeps_imageLostRead ht
  · exact .update

theorem keeps_reloadRep (s : State) : Keeps s s.reloadRep := by
  refine .of_ite (.refl s) ?_
  split
  · next t ht => exact keeps_imageLostRead ht
  · exact .update

theorem keeps_found (s : State) (f : Found) : Keeps s (State.found s f) := by
  unfold State.found
  dsimp only
  split
  · exact .refl _
  · exact keeps_maskedBy _ _
  · exact keeps_maskedBy _ _
  · exact keeps_maskedBy _ _
  · exact keeps_report _ _
  · exact .after (keeps_report _ _) (.of_ite (keeps_reloadGate _) (keeps_reloadRep _))
  · exact keeps_report _ _
  · exact .after (keeps_report _ _) (keeps_draw _)

theorem keeps_noWait (s : State) (n : Nat) (r : Nat) : Keeps s (State.noWait s n r) :=
  keeps_setPool _ _ _

theorem keeps_stopCmd (s : State) (u : UCmd) : Keeps s (State.stopCmd s u) := by
  unfold State.stopCmd
  split
  · exact .update
  · exact .after (.foldl (fun _ _ => keeps_poolGive _ _ _ _) _ _) (.of_ite (.after (keeps_noWait _ _ _) .update) .update)
  · exact .after (.foldl (fun _ _ => keeps_poolGive _ _ _ _) _ _) (.of_ite (.after (keeps_noWait _ _ _) .update) .update)
  · exact .update
  · exact .update
  · exact (by split; exacts [.of_ite .update (.refl _), .refl _])
  · exact .refl _

theorem keeps_stopHalf (s : State) (h : Half) : Keeps s (State.stopHalf s h) :=
  .after (.foldl (fun _ _ => keeps_stopCmd _ _) _ _) .update

theorem keeps_emptyHalf (s : State) (h : Half) : Keeps s (State.emptyHalf s h) :=
  .after .update (.after (.foldl (fun _ _ => .foldl (fun _ _ => keeps_poolGive _ _ _ _) _ _) _ _) (.after (keeps_setHbank _ _ _) (.foldl
      (fun _ _ => keeps_flush _ _) _ _)))

theorem keeps_dropSlots (s : State) (h : Half) (running : Bool) : Keeps s (State.dropSlots s h running) :=
  .after .update (.foldl (fun _ _ => keeps_releaseSlot _ _) _ _)

theorem keeps_restartHalf (s : State) (h : Half) : Keeps s (State.restartHalf s h) :=
  .after .update (.after (.foldl (fun _ _ => keeps_clearItems _ _ _) _ _) .update)

theorem keeps_sendDiscards (s : State) (h : Half) : Keeps s (State.sendDiscards s h) :=
  keeps_sendFrames _ _

theorem keeps_discardHalf (s : State) (h : Half) : Keeps s (State.discardHalf s h) :=
  .after (keeps_sendDiscards _ _) (.after (keeps_restartHalf _ _) (.after (keeps_dropSlots _ _ _) (.after (keeps_emptyHalf _ _)
      (keeps_stopHalf _ _))))

theorem keeps_execEarlyFaultRecovery (i : FoundIn) (s : State) : KeepsNext s (execEarlyFaultRecovery i s) :=
  .next (.of_ite (.after (keeps_noHalf _) (keeps_found _ _)) (.of_ite (.after .update (.after (keeps_noHalf _) (keeps_found _ _))) (.after
      (.foldl (fun _ _ => keeps_discardHalf _ _) _ _) (.after .update (.after (.foldl (fun _ _ => keeps_faultRecord _ _ _) _ _) (.after
      (keeps_noHalf _) (keeps_found _ _)))))))

theorem keeps_rewind (s : State) (c : Nat) : Keeps s (State.rewind s c) := by
  unfold State.rewind
  split
  · exact keeps_setCtx _ _ _
  · exact .refl _

theorem keeps_execReplay (s : State) : KeepsNext s (execReplay s) :=
  .next (.of_ite (.refl _) (.after .update (.after (.foldl (fun _ _ => keeps_rewind _ _) _ _) (.foldl (fun _ _ => keeps_stopHalf _ _) _
      _))))

theorem keeps_setRepair (s : State) : Keeps s (State.setRepair s) :=
  .after .update (.of_ite (.refl _) (keeps_raiseInt _ _))

theorem keeps_haltCtx (s : State) (c : Nat) : Keeps s (State.haltCtx s c) :=
  .after (keeps_drained _ _)
      ((by split; exacts [.after (keeps_setCtx _ _ _) (keeps_dropOpen _ _), .after (keeps_setCtx _ _ _) (.of_ite (keeps_dropOpen _ _)
              (.refl _))]))

theorem keeps_lateHalf (s : State) (h : Half) (reps : List FaultRep) : Keeps s (s.lateHalf h reps) := by
  have hc := keeps_cancelWhere s fun r => decide (r.half = h)
  unfold State.lateHalf
  generalize s.cancelWhere (fun r => decide (r.half = h)) = p at hc ⊢
  exact .after (keeps_setRepair _) (.after .update (.after (.foldl (fun _ _ => keeps_faultRecord _ _ _) _ _) hc))

theorem keeps_stepLoss (s : State) (reps : List FaultRep) : Keeps s (s.stepLoss reps) := by
  have hc := keeps_cancelWhere s fun _ => true
  unfold State.stepLoss
  generalize s.cancelWhere (fun _ => true) = p at hc ⊢
  exact .after (.foldl (fun _ _ => keeps_haltCtx _ _) _ _) (.after (keeps_setRepair _) (.after .update
    (.after (.foldl (fun _ _ => keeps_faultRecord _ _ _) _ _) hc)))

theorem keeps_execLateFault (i : FoundIn) (s : State) : KeepsNext s (execLateFault i s) :=
  .next (.of_ite (.after (keeps_stepLoss _ _) (.after (keeps_noHalf _) (keeps_found _ _))) (.of_ite (.after (keeps_lateHalf _ _ _) (.after
      (keeps_noHalf _) (keeps_found _ _))) (.after (keeps_noHalf _) (keeps_found _ _))))

theorem keeps_substitute (s : State) (u : UnitClass) (i : Nat) (b : Nat) (mech : Byte) : Keeps s (State.substitute s u i b mech) :=
  .of_ite (.after .update (.of_ite (.after (keeps_logEvent _ _ _) (.after (keeps_markOut _ _ _) .update))
      ((by split; exacts [.after (keeps_report _ _) (.after (keeps_logEvent _ _ _) (.after (keeps_markOut _ _ _) .update)), .after
              (keeps_faultRecord _ _ _) (.after (keeps_logEvent _ _ _) (.after (keeps_markOut _ _ _) .update))])))) (.of_ite (.after
      (keeps_logEvent _ _ _) (.after (keeps_markOut _ _ _) .update))
      ((by split; exacts [.after (keeps_report _ _) (.after (keeps_logEvent _ _ _) (.after (keeps_markOut _ _ _) .update)), .after
              (keeps_faultRecord _ _ _) (.after (keeps_logEvent _ _ _) (.after (keeps_markOut _ _ _) .update))])))

theorem keeps_execUnitSubstitution (u : UnitClass) (i : Fin 64) (test : BenchTest) (s : State) : KeepsNext s (execUnitSubstitution u i
    test s) :=
  .next (.of_ite (.refl _)
      ((by split; exacts [(by split; exacts [.of_ite (keeps_portSubst _ _) (keeps_markOut _ _ _), .refl _]),
              (by split; exacts [.refl _, .of_ite (keeps_substitute _ _ _ _ _) (keeps_markOut _ _ _), keeps_report _ _])])))

theorem keeps_execWatchdogExpiry (t : WdTarget) (testOk : Bool) (s : State) : KeepsNext s (execWatchdogExpiry t testOk s) :=
  .next
      ((by split; exacts [(by split; exacts [.of_ite (.refl _) (keeps_report _ _), .refl _]), .of_ite (.refl _) (.of_ite (keeps_report _
              _) (.of_ite (keeps_faultRecord _ _ _) (.refl _)))]))

theorem keeps_repairClear (s : State) (v : Word) : Keeps s (State.repairClear s v).2 :=
  .of_ite_snd (.refl _) (.of_ite_snd .update (.refl _))

theorem keeps_execRepairClear (s : State) : KeepsNext s (execRepairClear s) :=
  .next (keeps_hostWrite _ _ _ (fun _ => keeps_repairClear _ _))

theorem keeps_divClear (s : State) (v : Word) : Keeps s (State.divClear s v).2 :=
  .of_ite_snd .update (.refl _)

theorem keeps_execPcDivclr (s : State) : KeepsNext s (execPcDivclr s) :=
  .next (keeps_hostWrite _ _ _ (fun _ => keeps_divClear _ _))

end Sys2Proof.Machine
end

section
namespace Sys2Proof.Machine

/-! ### `Keeps` for the functions of Machine/Paged -/

theorem keeps_tableRefused (s : State) (code : Byte) : Keeps s (State.tableRefused s code).2 :=
  keeps_raiseFlag _ _ _

theorem keeps_pageWrite (s : State) (w : Nat) (v : Word) : Keeps s (State.pageWrite s w v).2 := by
  unfold State.pageWrite
  dsimp only
  split
  · exact .refl _
  · exact .of_ite_snd (.refl _)
      ((by split; exacts [keeps_tableRefused _ _,
              (by split; exacts [keeps_tableRefused _ _, .update]), .of_ite_snd (keeps_tableRefused _ _) .update, .of_ite_snd
              (keeps_tableRefused _ _) .update, .of_ite_snd (keeps_tableRefused _ _) .update, .update, keeps_queueTableWrite _ _ _
              _]))

theorem keeps_execPagedWindowWrite (w : Fin 2097152) (v : Word) (s : State) : KeepsNext s (execPagedWindowWrite w v s) :=
  .next (keeps_hostWrite _ _ _ (fun _ => keeps_pageWrite _ _ _))

end Sys2Proof.Machine
end

section
namespace Sys2Proof.Machine

/-! ### `Keeps` for the functions of Machine/Window -/

theorem keeps_execLowWordRead (off : BitVec 24) (s : State) : KeepsNext s (execLowWordRead off s) :=
  .next (.of_ite (.refl _) ((by split; exacts [.after .update .update, .update])))

end Sys2Proof.Machine
end

section
namespace Sys2Proof.Machine

/-! ### `Keeps` for the functions of Machine/Control -/

theorem keeps_startCtx (s : State) (c : Nat) : Keeps s (State.startCtx s c) :=
  .after .update (keeps_setCtx _ _ _)

theorem keeps_continueCtx (s : State) (c : Nat) (pc : Nat) : Keeps s (State.continueCtx s c pc) :=
  keeps_setCtx _ _ _

theorem keeps_ctrlAct (s : State) (c : Nat) (bit : Nat) : Keeps s (State.ctrlAct s c bit) := by
  unfold State.ctrlAct
  split
  · exact keeps_startCtx _ _
  · exact keeps_haltCtx _ _
  · exact keeps_continueCtx _ _ _
  · exact keeps_continueCtx _ _ _
  · exact keeps_setCtx _ _ _

theorem keeps_clrErr (s : State) (c : Nat) : Keeps s (State.clrErr s c) :=
  keeps_setCtx _ _ _

theorem keeps_ctrlWrite (s : State) (c : Nat) (v : Word) : Keeps s (State.ctrlWrite s c v).2 :=
  .of_ite_snd (.refl _) (.of_ite_snd (.refl _) (.after (.foldl (fun _ _ => keeps_ctrlAct _ _ _) _ _) (.of_ite (keeps_clrErr _ _) (.refl
      _))))

theorem keeps_ctrlBit (s : State) (c : Ctx) (bit : Nat) (clr : Bool) : Keeps s (State.ctrlBit s c bit clr) :=
  keeps_hostWrite _ _ _ (fun _ => keeps_ctrlWrite _ _ _)

theorem keeps_execCtxStart (c : Ctx) (clr : Bool) (s : State) : KeepsNext s (execCtxStart c clr s) :=
  .next (keeps_ctrlBit _ _ _ _)

theorem keeps_execCtxHalt (c : Ctx) (clr : Bool) (s : State) : KeepsNext s (execCtxHalt c clr s) :=
  .next (keeps_ctrlBit _ _ _ _)

theorem keeps_execCtxResume (c : Ctx) (clr : Bool) (s : State) : KeepsNext s (execCtxResume c clr s) :=
  .next (keeps_ctrlBit _ _ _ _)

theorem keeps_execCtxSkip (c : Ctx) (clr : Bool) (s : State) : KeepsNext s (execCtxSkip c clr s) :=
  .next (keeps_ctrlBit _ _ _ _)

theorem keeps_execCtxClrerr (c : Ctx) (s : State) : KeepsNext s (execCtxClrerr c s) :=
  .next (keeps_hostWrite _ _ _ (fun _ => keeps_ctrlWrite _ _ _))

theorem keeps_execCtxFree (c : Ctx) (clr : Bool) (s : State) : KeepsNext s (execCtxFree c clr s) :=
  .next (keeps_ctrlBit _ _ _ _)

theorem keeps_icDrop (s : State) (rs : List Nat) : Keeps s (State.icDrop s rs) :=
  .update

theorem keeps_lockWrite (s : State) (off : Nat) (lo : Nat) (v : Word) : Keeps s (State.lockWrite s off lo v).2 :=
  .of_ite_snd (.refl _) (.of_ite (.after .update (.after (keeps_icDrop _ _) (keeps_liveWrite _ _ _))) (.after (keeps_newProgramDigest _)
      (.after .update (.after (keeps_icDrop _ _) (keeps_liveWrite _ _ _)))))

theorem keeps_execPsLockWrite (hi : Bool) (v : Word) (s : State) : KeepsNext s (execPsLockWrite hi v s) :=
  .next (.of_ite (keeps_hostWrite _ _ _ (fun _ => keeps_lockWrite _ _ _ _)) (keeps_hostWrite _ _ _ (fun _ => keeps_lockWrite _ _ _ _)))

theorem keeps_psWrite (s : State) (w : Nat) (v : Word) : Keeps s (State.psWrite s w v).2 :=
  .of_ite_snd (.refl _) .update

theorem keeps_execProgramStoreWrite (w : Fin 1048576) (v : Word) (s : State) : KeepsNext s (execProgramStoreWrite w v s) :=
  .next (keeps_hostWrite _ _ _ (fun _ => keeps_psWrite _ _ _))

theorem keeps_mbSignal (s : State) : Keeps s (State.mbSignal s).2 :=
  keeps_signal _ _ _

theorem keeps_mbAlloc (s : State) : Keeps s s.mbAlloc.2 := by
  unfold State.mbAlloc
  dsimp only
  split
  · exact .refl s
  · split
    · exact .refl s
    · next i t ht => exact .after (keeps_setReg _ _ _) (.after (keeps_setReg _ _ _) (keeps_poolTake ht))

theorem keeps_mbFree_answer (answer : List (Bool × Byte) → Option Byte) (s : State) :
    Keeps s (let n := s.mbPool
             let r := s.mbReq
             let a := s.mbArg 1 + bitsOf (s.mbArg 2) 15 0 * 2 ^ 32
             let k := s.freeCode n a
             match answer (s.mbChecks ++ [(decide (Tab.get 0 (s.pool n).held r = 0), codeOffside), (decide (k ≠ codeOk), k)]) with
             | some k => (k, s)
             | none =>
               let t := s.poolGive n r ((a - s.poolBase n) / s.bufBytes n)
               (codeOk, t.serveWaiting n (t.pool n).waiting.length) : Byte × State).2 := by
  dsimp only
  generalize answer _ = o
  cases o with
  | none => exact .after (keeps_serveWaiting _ _ _) (keeps_poolGive _ _ _ _)
  | some k => exact .refl s

/-- The function is unfolded as a whole: applied, the kernel would evaluate the checks of its match. -/
theorem keeps_mbFree (s : State) : Keeps s s.mbFree.2 := by
  have hfun := Eq.refl State.mbFree
  conv at hfun => rhs; delta State.mbFree
  rw [hfun]
  exact keeps_mbFree_answer lowest s

theorem keeps_mbPing (s : State) : Keeps s (State.mbPing s).2 :=
  keeps_setReg _ _ _

theorem keeps_mbOp (s : State) (op : Nat) : Keeps s (State.mbOp s op).2 := by
  unfold State.mbOp
  split
  · exact keeps_mbSignal _
  · exact keeps_mbAlloc _
  · exact keeps_mbFree _
  · exact keeps_mbPing _
  · exact .refl _

theorem keeps_mbWrite (s : State) (v : Word) : Keeps s (s.mbWrite v).2 := by
  unfold State.mbWrite
  dsimp only
  split
  · dsimp only
    exact keeps_liveWrite _ _ _
  · exact .after (keeps_raiseInt _ _) (.after (keeps_setReg _ _ _) (.after (keeps_mbOp _ _) (keeps_liveWrite _ _ _)))

theorem keeps_mbGo (s : State) (op : Nat) : Keeps s (s.mbGo op) := by
  have h (v : Word) : Keeps s (s.hostWrite 0x3000 fun t => t.mbWrite v) := keeps_hostWrite _ _ _ fun t => keeps_mbWrite t v
  exact h _

theorem keeps_execMbSignal (s : State) : KeepsNext s (execMbSignal s) :=
  .next (keeps_mbGo _ _)

theorem keeps_execMbAlloc (s : State) : KeepsNext s (execMbAlloc s) :=
  .next (keeps_mbGo _ _)

theorem keeps_execMbFree (s : State) : KeepsNext s (execMbFree s) :=
  .next (keeps_mbGo _ _)

theorem keeps_execMbPing (s : State) : KeepsNext s (execMbPing s) :=
  .next (keeps_mbGo _ _)

theorem keeps_grant (s : State) (n : Nat) : Keeps s (State.grant s n).2 :=
  .of_ite_snd (.refl _) (.of_ite_snd (.refl _) (.after .update (.of_ite (keeps_releaseAll _) (.refl _))))

theorem keeps_whistleWrite (s : State) (v : Word) : Keeps s (State.whistleWrite s v).2 :=
  .of_ite (.after .update (keeps_grant _ _)) (keeps_grant _ _)

theorem keeps_execWhistleGrant (n : Byte) (s : State) : KeepsNext s (execWhistleGrant n s) :=
  .next (keeps_hostWrite _ _ _ (fun _ => keeps_whistleWrite _ _))

theorem keeps_execWhistleClear (s : State) : KeepsNext s (execWhistleClear s) :=
  .next (keeps_hostWrite _ _ _ (fun _ => keeps_whistleWrite _ _))

theorem keeps_flagClear (s : State) (mask : Word) : Keeps s (State.flagClear s mask).2 :=
  keeps_setReg _ _ _

theorem keeps_execFlagClear (mask : Word) (s : State) : KeepsNext s (execFlagClear mask s) :=
  .next (keeps_hostWrite _ _ _ (fun _ => keeps_flagClear _ _))

theorem keeps_pendClear (s : State) (mask : Word) : Keeps s (State.pendClear s mask).2 :=
  keeps_setReg _ _ _

theorem keeps_execIntPendClear (mask : Word) (s : State) : KeepsNext s (execIntPendClear mask s) :=
  .next (keeps_hostWrite _ _ _ (fun _ => keeps_pendClear _ _))

end Sys2Proof.Machine
end

section
namespace Sys2Proof.Machine

/-! ### `Keeps` for the functions of Machine/Register -/

theorem keeps_fieldWrite (s : State) (off : Nat) (v : Word) : Keeps s (State.fieldWrite s off v).2 :=
  .of_ite_snd (.refl _) (.of_ite (.of_ite (.of_ite (.refl _) (keeps_setReg _ _ _)) (.after .update (.of_ite (.refl _) (keeps_setReg _ _
      _)))) (.after (keeps_liveWrite _ _ _) (.of_ite (.of_ite (.refl _) (keeps_setReg _ _ _)) (.after .update (.of_ite (.refl _)
      (keeps_setReg _ _ _))))))

theorem keeps_heldWrite (s : State) (en : Bool) (off : Nat) (v : Word) : Keeps s (State.heldWrite s en off v).2 :=
  .of_ite_snd (.refl _) (keeps_fieldWrite _ _ _)

theorem keeps_selWrite (s : State) (p : Nat) (v : Word) : Keeps s (State.selWrite s p v).2 :=
  .of_ite_snd (.refl _) (keeps_fieldWrite _ _ _)

theorem keeps_execObsSelWrite (p : Fin 16) (v : Word) (s : State) : KeepsNext s (execObsSelWrite p v s) :=
  .next (keeps_hostWrite _ _ _ (fun _ => keeps_selWrite _ _ _))

theorem keeps_mwinWrite (s : State) (v : Word) : Keeps s (State.mwinWrite s v).2 :=
  .of_ite_snd (.refl _) (.of_ite_snd .update (.of_ite_snd .update (.refl _)))

theorem keeps_execMwinStart (s : State) : KeepsNext s (execMwinStart s) :=
  .next (keeps_hostWrite _ _ _ (fun _ => keeps_mwinWrite _ _))

theorem keeps_execMwinStop (s : State) : KeepsNext s (execMwinStop s) :=
  .next (keeps_hostWrite _ _ _ (fun _ => keeps_mwinWrite _ _))

theorem keeps_globalWrite (s : State) (off : Nat) (v : Word) : Keeps s (State.globalWrite s off v).2 := by
  unfold State.globalWrite
  split
  · exact keeps_lockWrite _ _ _ _
  · exact keeps_lockWrite _ _ _ _
  · exact keeps_flagClear _ _
  · exact keeps_pendClear _ _
  · exact keeps_mbWrite _ _
  · exact keeps_whistleWrite _ _
  · exact keeps_fieldWrite _ _ _

theorem keeps_seqWrite (s : State) (off : Nat) (v : Word) : Keeps s (State.seqWrite s off v).2 :=
  .of_ite_snd (.refl _)
      ((by split; exacts [keeps_ctrlWrite _ _ _, keeps_liveWrite _ _ _, .of_ite_snd (.refl _) (keeps_fieldWrite _ _ _)]))

theorem keeps_syncWrite (s : State) (off : Nat) (v : Word) : Keeps s (State.syncWrite s off v).2 :=
  .after .update (keeps_noteLive _ _)

theorem keeps_routeWrite (s : State) (off : Nat) (v : Word) : Keeps s (State.routeWrite s off v).2 :=
  .of_ite_snd (keeps_gldWrite _ _) (.of_ite_snd (keeps_rldWrite _ _) (.of_ite_snd (keeps_histRd _ _) (.of_ite_snd (keeps_ingCtrl _ _ _)
      (.of_ite_snd (keeps_egrCtrl _ _ _) (keeps_fieldWrite _ _ _)))))

theorem keeps_poolWrite (s : State) (off : Nat) (v : Word) : Keeps s (s.poolWrite off v).2 := by
  unfold State.poolWrite
  dsimp only
  split
  · split
    · exact keeps_poolCtrl _ _ _
    · exact keeps_heldWrite _ _ _ _
  · split
    · exact keeps_quotaWrite _ _ _ _
    · exact keeps_fieldWrite _ _ _

theorem keeps_volWrite (s : State) (off : Nat) (v : Word) : Keeps s (State.volWrite s off v).2 :=
  .of_ite_snd (.of_ite_snd (.refl _) (.of_ite_snd (.refl _) (keeps_fieldWrite _ _ _))) (.of_ite_snd (.of_ite_snd (.refl _) (.of_ite_snd
      (.refl _) (keeps_fieldWrite _ _ _))) (.of_ite_snd (.of_ite_snd (keeps_instClear _) (.refl _)) (.of_ite_snd (keeps_portCtrl _ _ _)
      (keeps_fieldWrite _ _ _))))

theorem keeps_memWrite (s : State) (off : Nat) (v : Word) : Keeps s (State.memWrite s off v).2 :=
  .of_ite_snd (keeps_cancelWrite _ _) (.of_ite_snd (.of_ite (keeps_memResume _) (.refl _)) (.of_ite_snd (.of_ite_snd (keeps_maintGo _ _ _
      _) (keeps_fieldWrite _ _ _)) (.of_ite_snd (.of_ite_snd (keeps_tregCtrl _ _ _) (keeps_heldWrite _ _ _ _)) (keeps_fieldWrite _ _ _))))

theorem keeps_refWrite (s : State) (off : Nat) (v : Word) : Keeps s (State.refWrite s off v).2 := by
  unfold State.refWrite
  split
  · exact keeps_kctlWrite _ _
  · exact keeps_repairClear _ _
  · exact keeps_obhRd _ _
  · exact keeps_divClear _ _
  · exact .of_ite_snd (keeps_imgWrite _ _ _) (keeps_fieldWrite _ _ _)

theorem keeps_obsWrite (s : State) (off : Nat) (v : Word) : Keeps s (State.obsWrite s off v).2 :=
  .of_ite_snd (keeps_selWrite _ _ _) (.of_ite_snd (keeps_mwinWrite _ _) (keeps_fieldWrite _ _ _))

theorem keeps_write (s : State) (off : Nat) (v : Word) : Keeps s (State.write s off v).2 :=
  .of_ite_snd (.refl _) (.of_ite_snd (keeps_globalWrite _ _ _) (.of_ite_snd (keeps_seqWrite _ _ _) (.of_ite_snd (keeps_syncWrite _ _ _)
      (.of_ite_snd (keeps_routeWrite _ _ _) (.of_ite_snd (keeps_poolWrite _ _ _) (.of_ite_snd (keeps_volWrite _ _ _) (.of_ite_snd
      (keeps_memWrite _ _ _) (.of_ite_snd (keeps_refWrite _ _ _) (.of_ite_snd (keeps_obsWrite _ _ _) (.of_ite_snd (keeps_psWrite _ _ _)
      (.of_ite_snd (.refl _) (keeps_pageWrite _ _ _))))))))))))

theorem keeps_execRegisterWrite (off : BitVec 24) (v : Word) (s : State) : KeepsNext s (execRegisterWrite off v s) :=
  .next (.of_ite (keeps_kctlWrite _ _) (keeps_hostWrite _ _ _ (fun _ => keeps_write _ _ _)))

theorem keeps_adopt (s : State) (u : Nat) : Keeps s (State.adopt s u) :=
  .of_ite (.of_ite (.after (keeps_adoptSync _) .update) (.of_ite (.after (keeps_adoptQueues _) .update) .update)) (.after
      (keeps_setAdopt _ _) (.of_ite (.after (keeps_adoptSync _) .update) (.of_ite (.after (keeps_adoptQueues _) .update) .update)))

theorem keeps_execLiveAdopt (u : Fin 15) (s : State) : KeepsNext s (execLiveAdopt u s) :=
  .next (.of_ite (.refl _) (keeps_adopt _ _))

theorem keeps_window (s : State) : Keeps s (State.window s) := by
  unfold State.window
  split
  · exact .update
  · exact .after .update (keeps_measure _ _ _)
  · exact keeps_measure _ _ _

theorem keeps_execSuperperiodBoundary (s : State) : KeepsNext s (execSuperperiodBoundary s) :=
  .next (.of_ite (.refl _) (.after (keeps_window _) (.after (keeps_adopt _ _) (.after (keeps_gainCredit _) .update))))

theorem keeps_execObsUpdatePeriod (samples : List (List Bool)) (s : State) : KeepsNext s (execObsUpdatePeriod samples s) :=
  .next .update

end Sys2Proof.Machine
end

section
namespace Sys2Proof.Machine

/-! ### `Keeps` for the functions of Machine/Dispatch -/

theorem keeps_exec (i : Instr) (s : State) : KeepsNext s (exec i s) := by
  unfold exec
  split
  · exact keeps_execNop _ _ _
  · exact keeps_execEndProg _ _ _
  · exact keeps_execLi _ _ _
  · exact keeps_execLui _ _ _
  · exact keeps_execAdd _ _ _
  · exact keeps_execSub _ _ _
  · exact keeps_execAnd _ _ _
  · exact keeps_execOr _ _ _
  · exact keeps_execXor _ _ _
  · exact keeps_execShl _ _ _
  · exact keeps_execShr _ _ _
  · exact keeps_execMul _ _ _
  · exact keeps_execMin _ _ _
  · exact keeps_execMax _ _ _
  · exact keeps_execBeq _ _ _
  · exact keeps_execBne _ _ _
  · exact keeps_execBlt _ _ _
  · exact keeps_execBge _ _ _
  · exact keeps_execBltu _ _ _
  · exact keeps_execLoop _ _ _
  · exact keeps_execLoopv _ _ _
  · exact keeps_execStat _ _ _
  · exact keeps_execSysr _ _ _
  · exact keeps_execSignal _ _ _
  · exact keeps_execWait _ _ _
  · exact keeps_execRemoteSignal _ _ _
  · exact keeps_execCsset _ _ _
  · exact keeps_execDescLoad _ _ _
  · exact keeps_execDescClone _ _ _
  · exact keeps_execDescInval _ _ _
  · exact keeps_execFit _ _ _
  · exact keeps_execNorm _ _ _
  · exact keeps_execPos _ _ _
  · exact keeps_execScore _ _ _
  · exact keeps_execSmax _ _ _
  · exact keeps_execTopk _ _ _
  · exact keeps_execAdmitRows _ _ _
  · exact keeps_execAdmissionStallEnd _
  · exact keeps_execScout _ _ _
  · exact keeps_execHuddle _ _ _
  · exact keeps_execPack _ _ _
  · exact keeps_execKeep _ _ _
  · exact keeps_execVolley _ _ _
  · exact keeps_execRecvIn _ _ _
  · exact keeps_execRecvNet _ _ _
  · exact keeps_execReboundCombine _ _ _
  · exact keeps_execReboundRet _ _ _
  · exact keeps_execFuse _ _ _
  · exact keeps_execMicro _ _ _
  · exact keeps_execCopy _ _ _
  · exact keeps_execXpose _ _ _
  · exact keeps_execGather _ _ _
  · exact keeps_execScatter _ _ _
  · exact keeps_execScatterAdd _ _ _
  · exact keeps_execStepInsn _ _ _
  · exact keeps_execSaveInsn _ _ _
  · exact keeps_execRestoreInsn _ _ _
  · exact keeps_execQctlFlush _ _ _
  · exact keeps_execQctlDroprest _ _ _
  · exact keeps_execQctlCount _ _ _
  · exact keeps_execEpoch _ _ _
  · exact keeps_execCnt _ _ _
  · exact keeps_execSeed _ _ _
  · exact keeps_execUnitCommandCompletion _ _ _
  · exact keeps_execIcacheMissFill _ _
  · exact keeps_execSyncWaiterRelease _ _
  · exact keeps_execWaitTimeout _ _
  · exact keeps_execStepBoundary _
  · exact keeps_execSaveImageWritten _
  · exact keeps_execCtxStart _ _ _
  · exact keeps_execCtxHalt _ _ _
  · exact keeps_execCtxResume _ _ _
  · exact keeps_execCtxSkip _ _ _
  · exact keeps_execCtxClrerr _ _
  · exact keeps_execCtxFree _ _ _
  · exact keeps_execPsLockWrite _ _ _
  · exact keeps_execProgramStoreWrite _ _ _
  · exact keeps_execGldGo _ _
  · exact keeps_execGateLoadComplete _
  · exact keeps_execRldGo _ _
  · exact keeps_execReplicaLoadComplete _
  · exact keeps_execEpochRelease _ _
  · exact keeps_execTregEnable _ _
  · exact keeps_execPoolEnable _ _ _
  · exact keeps_execPoolRingBuilt _ _
  · exact keeps_execPoolQuotaWrite _ _ _ _
  · exact keeps_execPoolAllocate _ _ _
  · exact keeps_execPoolFree _ _ _ _
  · exact keeps_execPoolCacheRefill _ _
  · exact keeps_execIngestGroupEnable _ _ _
  · exact keeps_execEgressGroupEnable _ _ _
  · exact keeps_execQueCfgFlush _ _
  · exact keeps_execHistRdWrite _ _
  · exact keeps_execObhRdWrite _ _
  · exact keeps_execMbSignal _
  · exact keeps_execMbAlloc _
  · exact keeps_execMbFree _
  · exact keeps_execMbPing _
  · exact keeps_execWhistleGrant _ _
  · exact keeps_execWhistleClear _
  · exact keeps_execRebCancel _ _
  · exact keeps_execVolInstclr _
  · exact keeps_execPortOutWrite _ _ _
  · exact keeps_execKctlRelease _
  · exact keeps_execHostWarmReset _
  · exact keeps_execKctlForget _
  · exact keeps_execRefImgWrite _ _ _
  · exact keeps_execMemResume _
  · exact keeps_execMaintMarginT _ _ _
  · exact keeps_execMaintMarginV _ _ _
  · exact keeps_execMaintRowq _ _ _
  · exact keeps_execMaintRemap _ _ _
  · exact keeps_execMaintCread _ _ _
  · exact keeps_execMaintCwrite _ _ _
  · exact keeps_execMaintTakeover _ _ _
  · exact keeps_execMaintResult _ _
  · exact keeps_execRepairClear _
  · exact keeps_execPcDivclr _
  · exact keeps_execMwinStart _
  · exact keeps_execMwinStop _
  · exact keeps_execObsSelWrite _ _ _
  · exact keeps_execPagedWindowWrite _ _ _
  · exact keeps_execFlagClear _ _
  · exact keeps_execIntPendClear _ _
  · exact keeps_execLowWordRead _ _
  · exact keeps_execRegisterWrite _ _ _
  · exact keeps_execLiveAdopt _ _
  · exact keeps_execPowerOnReset _
  · exact keeps_execWarmReset _
  · exact keeps_execResetRelease _ _ _
  · exact keeps_execLockLoss _
  · exact keeps_execKickoffK0 _ _
  · exact keeps_execKickoffK1 _ _
  · exact keeps_execKickoffK2 _ _
  · exact keeps_execKickoffK3 _ _
  · exact keeps_execKickoffK4 _ _
  · exact keeps_execKickoffK5 _ _
  · exact keeps_execKickoffK6 _ _
  · exact keeps_execKickoffK7 _ _
  · exact keeps_execKickoffK8 _
  · exact keeps_execNvsCommandDone _ _
  · exact keeps_execNvsTimeout _
  · exact keeps_execSpmMarker _ _
  · exact keeps_execSpmMarkerTimeout _
  · exact keeps_execSuperperiodBoundary _
  · exact keeps_execObsUpdatePeriod _ _
  · exact keeps_execIngestPacket _ _ _
  · exact keeps_execQueueSpillFill _ _
  · exact keeps_execEgressWords _ _ _
  · exact keeps_execMemRequestIssue _ _
  · exact keeps_execMemResponse _ _ _ _
  · exact keeps_execRetrainStart _ _
  · exact keeps_execRetrainDone _ _
  · exact keeps_execRetrainWindowExpiry _ _
  · exact keeps_execChannelFailed _ _
  · exact keeps_execSpareReady _ _
  · exact keeps_execSendListBuild _
  · exact keeps_execEohSend _ _
  · exact keeps_execFrameSend _ _
  · exact keeps_execControlBlockReceive _ _ _
  · exact keeps_execFrameReceive _ _ _
  · exact keeps_execCopySegment _
  · exact keeps_execAnswerSegment _
  · exact keeps_execSignalPacket _
  · exact keeps_execSigack _
  · exact keeps_execEohPacket _
  · exact keeps_execDiscardPacket _
  · exact keeps_execFaultnPacket _
  · exact keeps_execPstatePacket _
  · exact keeps_execDigestPacket _
  · exact keeps_execAckTimeout _ _ _
  · exact keeps_execPartialTimeout _ _ _
  · exact keeps_execConservationTimeout _ _ _
  · exact keeps_execDupFilterExpiry _ _ _
  · exact keeps_execSignalResendTimeout _ _
  · exact keeps_execRemoteSignalTimeout _ _
  · exact keeps_execLaneFail _ _ _
  · exact keeps_execPortRetrainDone _ _
  · exact keeps_execPortSubstitution _ _
  · exact keeps_execPcPartnerTimeout _ _ _ _
  · exact keeps_execResultEmission _ _
  · exact keeps_execScoutBinReady _ _
  · exact keeps_execStagingLoadComplete _ _
  · exact keeps_execAuditReport _
  · exact keeps_execWatchdogExpiry _ _ _
  · exact keeps_execEarlyFaultRecovery _ _
  · exact keeps_execReplay _
  · exact keeps_execLateFault _ _
  · exact keeps_execUnitSubstitution _ _ _ _
  · exact keeps_execUndefinedInstruction _ _
  · exact keeps_execUnlockedRegionFetch _ _
  · exact keeps_execPllLockTimeout _ _
  · exact keeps_execLinkPartnerTimeout _ _

end Sys2Proof.Machine
end

section
namespace Sys2Proof.Machine

/-! ### `Keeps` for the functions of Machine/Tick -/

theorem keeps_stallAdmission (s : State) : Keeps s (State.stallAdmission s) :=
  .of_ite (.refl _) ((by split; exacts [.after (keeps_countRec _ _ _ _) (keeps_bump _ _ _), keeps_bump _ _ _]))

theorem keeps_stallScore (s : State) : Keeps s (State.stallScore s) :=
  .of_ite (keeps_bump _ _ _) (.refl _)

theorem keeps_stallScout (s : State) : Keeps s (State.stallScout s) := by
  unfold State.stallScout
  split
  · exact .of_ite (keeps_bump _ _ _) (.refl _)
  · exact .refl _

theorem keeps_stallLinks (s : State) : Keeps s (State.stallLinks s) :=
  .of_ite (keeps_bump _ _ _) (.refl _)

theorem keeps_stallMemory (s : State) : Keeps s (State.stallMemory s) :=
  .of_ite (.refl _) (keeps_bump _ _ _)

theorem keeps_goOn (s : State) (k : Ctx × BitVec 16) : Keeps s (State.goOn s k) := by
  unfold State.goOn
  split
  · exact .of_ite (keeps_unitRun _ _) (.refl _)
  · exact .refl _

theorem keeps_tick (s : State) : Keeps s (State.tick s) :=
  .after (keeps_holdUpdate _) (.after (keeps_retryStuck _) (.after (.foldl (fun _ _ => keeps_flowOn _ _) _ _) (.after (.foldl (fun _ _ =>
      keeps_settleQueue _ _) _ _) (.after (keeps_memRun _) (.after (keeps_maintSend _) (.after (keeps_stallMemory _) (.after (.foldl (fun
      _ _ => keeps_goOn _ _) _ _) (.after (keeps_ageBins _) (.after (keeps_stallLinks _) (.after (keeps_stallScout _) (.after
      (keeps_stallScore _) (.after (keeps_stallAdmission _) (.after .update (keeps_noHalf _))))))))))))))

end Sys2Proof.Machine
end

section
namespace Sys2Proof.Machine

/-- Settles O5: every arm of `exec` keeps the queue and the grade. -/
theorem commandsKeepQueueAndGrade : Obligations.CommandsKeepQueueAndGrade := by
  intro i s t h
  have hk : Keeps s t := keeps_exec i s t h
  exact ⟨hk.pending, hk.gradeB⟩

/-- Settles O4: an FCLK and every command keep the canonical form. -/
theorem stepKeepsMemoryCanonical : Obligations.StepKeepsMemoryCanonical := by
  intro s t hs h
  unfold step at h
  split at h
  · rw [← Host.Outcome.next.inj h]
    exact (keeps_tick s).mem hs
  · next i rest _ =>
    have hk : Keeps { s with pending := rest } t := keeps_exec i _ t h
    exact hk.mem hs

end Sys2Proof.Machine
end

section
/-! PROOF. The observation port (R388 to R391) and the superperiod boundary (R299, R316). -/

namespace Sys2Proof.Machine

open Safety

/-! ### What a live write leaves (R364) -/

/-- What the note of a live write of another group than the static registers' leaves of the register above the mailbox: the register
as written, its value in force as it was, and every other register. -/
structure LiveWritten (s : State) (off : Nat) (v : Word) (t : State) : Prop where
  frame : t = { s with sync := t.sync, syncWr := t.syncWr, queues := t.queues, lag := t.lag, regs := t.regs }
  reg : t.reg off = v
  others : ∀ o, 0x3000 < o → o ≠ off → t.reg o = s.reg o
  inForce : ownerOf off ≠ 13 → t.regNow off = s.regNow off

theorem State.regNow_set_lag (s : State) (off : Nat) (o : Option Word) :
    ({ s with lag := Tab.set none s.lag off o } : State).regNow off = o.getD (s.reg off) := by
  unfold State.regNow
  rw [Tab.get_set_same]
  rfl

theorem liveWrite_written (s : State) {off : Nat} (v : Word) (ho : 0x3000 < off) : LiveWritten s off v (s.liveWrite off v) := by
  obtain ⟨hframe, hreg, -⟩ := noted_noteLive (s.setReg off v) (ownerOf off)
  have hsame : ((s.setReg off v).noteLive (ownerOf off)).reg off = v := (hreg off ho).trans (State.setReg_reg_same _ _ _)
  have hothers (o : Nat) (h : 0x3000 < o) (hne : o ≠ off) : ((s.setReg off v).noteLive (ownerOf off)).reg o = s.reg o :=
    (hreg o h).trans (State.setReg_reg_other _ _ hne)
  unfold State.liveWrite
  dsimp only
  generalize (s.setReg off v).noteLive (ownerOf off) = t at hframe hsame hothers
  split
  · next h13 => exact ⟨by rw [hframe]; rfl, hsame, hothers, fun h => absurd h13 h⟩
  · refine ⟨by rw [hframe]; rfl, hsame, hothers, fun _ => ?_⟩
    rw [State.regNow_set_lag, hsame]
    split
    · next h => exact h
    · rfl

/-! ### Selections of the observation pins (R390) -/

/-- The fields of an observation pin's register are live, and the observation port reads them. -/
theorem selection_fields : ∀ p : Fin 16, maskOf (fieldsAt (0x0F0100 + 4 * p.val)) .rw = 0 ∧
    maskOf (fieldsAt (0x0F0100 + 4 * p.val)) .rws = 0 ∧ maskOf (fieldsAt (0x0F0100 + 4 * p.val)) .rwl = 0x33F3F#32 ∧
    ownerOf (0x0F0100 + 4 * p.val) = 14 := by
  decide

/-- A write of live fields alone. -/
theorem State.fieldWrite_live {s : State} {off : Nat} (v : Word) {m : Word} (hrw : maskOf (fieldsAt off) .rw = 0)
    (hrws : maskOf (fieldsAt off) .rws = 0) (hrwl : maskOf (fieldsAt off) .rwl = m) (hm : m ≠ 0) :
    s.fieldWrite off v = (codeOk, s.liveWrite off ((s.reg off &&& ~~~m) ||| (v &&& m))) := by
  have hnone : (s.reg off ^^^ v) &&& (0 : Word) = 0 := BitVec.and_zero
  unfold State.fieldWrite
  simp only [hrw, hrws, hrwl, hm, hnone, ne_eq, not_true_eq_false, false_and, if_false, if_true]

/-- The bits of a field inside the mask are those of the value written. -/
theorem bitsOf_masked (old v m : Word) {hi lo : Nat} (h : ∀ i, lo ≤ i → i ≤ hi → m.getLsbD i = true) :
    bitsOf ((old &&& ~~~m) ||| (v &&& m)).toNat hi lo = bitsOf v.toNat hi lo := by
  refine Nat.eq_of_testBit_eq fun i => ?_
  rw [testBit_bitsOf, testBit_bitsOf]
  by_cases hi' : i < hi + 1 - lo
  · have hm := h (lo + i) (by omega) (by omega)
    rw [BitVec.testBit_toNat, BitVec.testBit_toNat, BitVec.getLsbD_or, BitVec.getLsbD_and, BitVec.getLsbD_and, BitVec.getLsbD_not, hm]
    simp
  · simp [hi']

theorem exec_obsSelWrite (s : State) (p : Fin 16) (v : Word) :
    exec (.obsSelWrite p v) s = .next (s.hostWrite (0x0F0100 + 4 * p.val) fun t => t.selWrite p.val v) := rfl

theorem obsSelWrite_refused {s : State} {p : Fin 16} {v : Word} (hready : HostReady s (0x0F0100 + 4 * p.val))
    (hv : v.toNat / 65536 % 4 = 3) : ∃ t, exec (.obsSelWrite p v) s = .next t ∧ WriteCode t (0x0F0100 + 4 * p.val) codeFormat ∧
      t = { acked s with regs := t.regs } ∧ t.reg (0x0F0100 + 4 * p.val) = s.reg (0x0F0100 + 4 * p.val) := by
  have hmode : bitsOf v.toNat 17 16 = 3 := (bitsOf_eq_div _ _ _).trans hv
  have hbody : s.selWrite p.val v = (codeFormat, s) := by
    unfold State.selWrite
    exact if_pos hmode
  exact ⟨_, exec_obsSelWrite s p v, State.hostWrite_refused hready hbody ⟨by omega, by omega⟩⟩

theorem obsSelWrite_accepted {s : State} {p : Fin 16} {v : Word} {off : Nat} (hoff : off = 0x0F0100 + 4 * p.val)
    (hready : HostReady s off) (hv : v.toNat / 65536 % 4 ≠ 3) : ∃ t, exec (.obsSelWrite p v) s = .next t ∧ WriteCode t off codeOk ∧
      t.fld off 5 0 = v.toNat % 64 ∧ t.fld off 13 8 = v.toNat / 256 % 64 ∧ t.fld off 17 16 = v.toNat / 65536 % 4 ∧
      t.regNow off = s.regNow off ∧ t.mem = s.mem ∧ t.ctxs = s.ctxs := by
  obtain ⟨hrw, hrws, hrwl, howner⟩ := selection_fields p
  rw [← hoff] at hrw hrws hrwl howner
  have hmode : ¬ bitsOf v.toNat 17 16 = 3 := by rw [bitsOf_eq_div]; exact hv
  have hbody : s.selWrite p.val v = (codeOk, s.liveWrite off ((s.reg off &&& ~~~0x33F3F#32) ||| (v &&& 0x33F3F#32))) := by
    unfold State.selWrite
    rw [← hoff]
    exact (if_neg hmode).trans (State.fieldWrite_live v hrw hrws hrwl (by decide))
  obtain ⟨hframe, hreg, -, hnow⟩ := liveWrite_written s ((s.reg off &&& ~~~0x33F3F#32) ||| (v &&& 0x33F3F#32)) (off := off) (by omega)
  generalize s.liveWrite off ((s.reg off &&& ~~~0x33F3F#32) ||| (v &&& 0x33F3F#32)) = t at hbody hframe hreg hnow
  obtain ⟨hcode, hwreg, hwframe⟩ := State.wstat_does t off codeOk
  have hkept : (t.wstat off codeOk).reg off = (s.reg off &&& ~~~0x33F3F#32) ||| (v &&& 0x33F3F#32) :=
    (hwreg off (by omega) (.inl rfl)).trans hreg
  have hfld (hi lo : Nat) (h : ∀ i, lo ≤ i → i ≤ hi → (0x33F3F#32).getLsbD i = true) :
      (t.wstat off codeOk).fld off hi lo = v.toNat / 2 ^ lo % 2 ^ (hi + 1 - lo) := by
    unfold State.fld
    rw [hkept, bitsOf_masked _ _ _ h, bitsOf_eq_div]
  refine ⟨t.wstat off codeOk, ?_, hcode, ?_, ?_, ?_, ?_, ?_, ?_⟩
  · rw [exec_obsSelWrite, ← hoff, State.hostWrite_ready hready, hbody]
  · exact (hfld 5 0 (by decide)).trans (congrArg (· % 64) (Nat.div_one _))
  · exact hfld 13 8 (by decide)
  · exact hfld 17 16 (by decide)
  · rw [← hnow (by rw [howner]; decide)]
    unfold State.regNow
    rw [hkept, hreg, hwframe]
    rfl
  · rw [hwframe]
    show t.mem = s.mem
    rw [hframe]
  · rw [hwframe]
    show t.ctxs = s.ctxs
    rw [hframe]

/-! ### An update period of the pins (R388, R389) -/

theorem getLastD_map_and (e : List Bool) (live : Bool) : (e.map fun b => b && live).getLastD false = (e.getLastD false && live) := by
  induction e using List.reverseRecOn with
  | nil => rfl
  | append_singleton e b => simp

theorem any_map_and (e : List Bool) (live : Bool) : (e.map fun b => b && live).any id = (e.contains true && live) := by
  cases live <;> induction e <;> simp_all

theorem count_map_and (e : List Bool) (live : Bool) :
    (((e.map fun b => b && live).filter id).length % 2 == 1) = (live && decide (e.count true % 2 = 1)) := by
  have hcount : ((e.map fun b => b && live).filter id).length = if live then e.count true else 0 := by
    cases live with
    | false => simp
    | true =>
      rw [List.count_eq_countP, List.countP_eq_length_filter]
      simp
      rfl
  rw [hcount]
  cases live with
  | false => rfl
  | true => simp [beq_eq_decide]

theorem exec_obsUpdatePeriod (s : State) (samples : List (List Bool)) :
    exec (.obsUpdatePeriod samples) s = .next { s with obs := { s.obs with pins := BitVec.ofNat 16 ((List.range 16).foldl (fun v p =>
      v + b2n (s.fldNow 0x0F0000 0 0 == 1 && s.pinValue p (samples.getD p []) (s.obs.pins.getLsbD p)) * 2 ^ p) 0) } } := rfl

/-- A pin after an update period. -/
theorem pin_of_period (f : Nat → Bool) (p : Fin 16) :
    (BitVec.ofNat 16 ((List.range 16).foldl (fun v p => v + b2n (f p) * 2 ^ p) 0)).getLsbD p = f p := by
  rw [BitVec.getLsbD_ofNat, (testBit_foldl_bits f 16 p).1]
  simp

theorem obsUpdatePeriod_does (s : State) (samples : List (List Bool)) : ∃ t, exec (.obsUpdatePeriod samples) s = .next t ∧
    t = { s with obs := { s.obs with pins := t.obs.pins } } ∧
    (s.fldNow 0x0F0000 0 0 = 0 → t.obs.pins = 0) ∧
    (s.fldNow 0x0F0000 0 0 = 1 → ∀ p : Fin 16, ∀ off live e, off = 0x0F0100 + 4 * p.val →
      live = s.obsSignal (s.fldNow off 13 8) (s.fldNow off 5 0) → e = samples.getD p.val [] →
      (s.fldNow off 17 16 = 0 → t.obs.pins.getLsbD p = (e.getLastD false && live)) ∧
      (s.fldNow off 17 16 = 1 → t.obs.pins.getLsbD p = (e.contains true && live)) ∧
      (s.fldNow off 17 16 = 2 → t.obs.pins.getLsbD p =
        (s.obs.pins.getLsbD p ^^ (live && decide (e.count true % 2 = 1))))) := by
  refine ⟨_, exec_obsUpdatePeriod s samples, rfl, fun hoff => ?_, fun hon p off live e hp hlive he => ?_⟩
  · refine BitVec.eq_of_getLsbD_eq fun i hi => ?_
    have hpin := pin_of_period (fun p => s.fldNow 0x0F0000 0 0 == 1 && s.pinValue p (samples.getD p []) (s.obs.pins.getLsbD p)) ⟨i, hi⟩
    refine hpin.trans ?_
    rw [hoff, BitVec.ofNat_eq_ofNat, BitVec.getLsbD_zero]
    rfl
  · have hpin := pin_of_period (fun p => s.fldNow 0x0F0000 0 0 == 1 && s.pinValue p (samples.getD p []) (s.obs.pins.getLsbD p)) p
    rw [hon] at hpin ⊢
    have hvalue : (BitVec.ofNat 16 ((List.range 16).foldl (fun v p => v + b2n ((1 == 1) && s.pinValue p (samples.getD p [])
        (s.obs.pins.getLsbD p)) * 2 ^ p) 0)).getLsbD p = s.pinValue p e (s.obs.pins.getLsbD p) := by
      rw [he]
      exact hpin
    refine ⟨fun hmode => hvalue.trans ?_, fun hmode => hvalue.trans ?_, fun hmode => hvalue.trans ?_⟩ <;>
      unfold State.pinValue <;> dsimp only <;> rw [← hp, hmode, ← hlive]
    · exact getLastD_map_and e live
    · exact any_map_and e live
    · exact congrArg (s.obs.pins.getLsbD p ^^ ·) (count_map_and e live)

/-- Settles O39: the selections are live writes, and a pin is a bit of the number that the period makes. -/
theorem observationPort : Obligations.ObservationPort := by
  refine ⟨fun s p v off hoff hready => ?_, obsUpdatePeriod_does⟩
  exact ⟨fun hv => by subst hoff; exact obsSelWrite_refused hready hv, fun hv => obsSelWrite_accepted hoff hready hv⟩

end Sys2Proof.Machine
end

section
/-! PROOF. The superperiod boundary (R299, R316, R390, R391), the adoption of live registers (R364, R365) and the read pointers of the
rings (R177, R345). -/

namespace Sys2Proof.Machine

open Safety

/-! ### Adoption of live registers -/

/-- An index that a filter leaves out of a table reads as an unlisted one. -/
theorem Tab.get_filter_none {α : Type} {d : α} {k : Nat} {p : Nat × α → Bool} (h : ∀ a, p (k, a) = false) (t : Tab α) :
    Tab.get d (t.filter p) k = d := by
  induction t with
  | nil => rfl
  | cons e t ih =>
    obtain ⟨i, a⟩ := e
    by_cases hp : p (i, a) = true
    · have hi : i ≠ k := by
        rintro rfl
        rw [h a] at hp
        cases hp
      rw [List.filter_cons_of_pos hp]
      exact (if_neg hi).trans ih
    · rw [List.filter_cons_of_neg hp]
      exact ih

/-- The registers that a group reads are in force once its fields have left the table of waiting writes. -/
theorem State.regNow_of_adopted {s : State} {u off : Nat} (lag : Tab (Option Word)) (hlag : s.lag = lag.filter fun e => decide (ownerOf e.1 ≠ u))
    (h : ownerOf off = u) : s.regNow off = s.reg off := by
  unfold State.regNow
  rw [hlag, Tab.get_filter_none (fun _ => by rw [h]; simp)]
  rfl

/-- The bits of a register after a field of it is written. -/
theorem State.setFld_bit (s : State) (off : Nat) {hi lo : Nat} (v i : Nat) (hh : hi < 32) (hl : lo ≤ hi) :
    bitOf ((s.setFld off hi lo v).reg off).toNat i = if lo ≤ i ∧ i ≤ hi then v.testBit (i - lo) else bitOf (s.reg off).toNat i := by
  unfold bitOf State.setFld
  rw [State.setReg_reg_same, BitVec.toNat_ofNat, Nat.mod_eq_of_lt (putBits_lt _ _ _ _ _ (BitVec.isLt _) hh (by omega)),
    testBit_putBits _ _ _ _ _ (by omega)]

theorem State.setFld_eq (s : State) (off hi lo v : Nat) : s.setFld off hi lo v = { s with regs := (s.setFld off hi lo v).regs } := rfl

/-- The adoption bits: a group's bit is set, with DONE when it is the last. -/
theorem State.setAdopt_does (s : State) {u : Nat} (hu : u < 15) :
    bitOf ((s.setAdopt u).reg 0x1080).toNat u = true ∧
    ((∀ k < 15, k ≠ u → bitOf (s.reg 0x1080).toNat k = true) → bitOf ((s.setAdopt u).reg 0x1080).toNat 31 = true) ∧
    (∀ o, o ≠ 0x1080 → (s.setAdopt u).reg o = s.reg o) ∧ s.setAdopt u = { s with regs := (s.setAdopt u).regs } := by
  have hset (i : Nat) : bitOf ((s.setFld 0x1080 u u 1).reg 0x1080).toNat i = (decide (i = u) || bitOf (s.reg 0x1080).toNat i) := by
    rw [State.setFld_bit _ _ _ _ (by omega) (Nat.le_refl u)]
    by_cases h : i = u
    · subst h
      simp
    · rw [if_neg (by omega)]
      simp [h]
  have hlast (i : Nat) := State.setFld_bit (s.setFld 0x1080 u u 1) 0x1080 (hi := 31) (lo := 31) 1 i (by decide) (by decide)
  unfold State.setAdopt
  dsimp only
  split
  · refine ⟨?_, fun _ => ?_, fun o ho => ?_, State.setFld_eq _ _ _ _ _⟩
    · rw [hlast, if_neg (by omega), hset]
      simp
    · rw [hlast, if_pos (by omega)]
      rfl
    · rw [State.setFld_reg_other _ _ _ _ ho, State.setFld_reg_other _ _ _ _ ho]
  · next hnot =>
    refine ⟨by rw [hset]; simp, fun hall => absurd ?_ hnot,
      fun o ho => State.setFld_reg_other _ _ _ _ ho, rfl⟩
    refine Nat.eq_of_testBit_eq fun k => ?_
    have hones : (0x7FFF : Nat).testBit k = decide (k < 15) := Nat.testBit_two_pow_sub_one 15 k
    rw [State.fld, testBit_bitsOf, hones, Nat.zero_add]
    by_cases hk : k < 15
    · have hbit := hset k
      unfold bitOf at hbit
      rw [hbit, decide_eq_true hk, Bool.true_and]
      by_cases hku : k = u
      · rw [decide_eq_true hku, Bool.true_or]
      · rw [← bitOf, hall k hk hku, Bool.or_true]
    · rw [decide_eq_false hk, Bool.false_and]

/-- What a group adopts beside its fields: the waiting writes of sync objects, or the marks of queues. -/
structure Adopted (s t : State) : Prop where
  frame : t = { s with sync := t.sync, syncWr := t.syncWr, queues := t.queues, regs := t.regs }
  reg : ∀ o, o < 0x2000 → t.reg o = s.reg o

theorem Adopted.refl (s : State) : Adopted s s := ⟨rfl, fun _ _ => rfl⟩

theorem Adopted.trans {s t u : State} (h : Adopted s t) (h' : Adopted t u) : Adopted s u := by
  obtain ⟨heq, hreg⟩ := h
  obtain ⟨heq', hreg'⟩ := h'
  exact ⟨heq'.trans (congrArg (fun x : State => { x with sync := u.sync, syncWr := u.syncWr, queues := u.queues, regs := u.regs }) heq),
    fun o ho => (hreg' o ho).trans (hreg o ho)⟩

theorem adopted_setReg (s : State) {o : Nat} (v : Word) (h : 0x2000 ≤ o) : Adopted s (s.setReg o v) :=
  ⟨rfl, fun o' ho' => State.setReg_reg_other s v (by omega)⟩

theorem adopted_adoptMarks (s : State) (q : Nat) : Adopted s (s.adoptMarks q) := by
  have hflag (p : Prop) [Decidable p] (t : State) : Adopted t (if p then t.raiseFlag 11 1 else t) := by
    split
    · exact (adopted_setReg t _ (by decide)).trans (adopted_setReg _ _ (by decide))
    · exact .refl t
  have hqueue (x : Queue) : Adopted s (s.setQueue q x) := ⟨rfl, fun _ _ => rfl⟩
  unfold State.adoptMarks
  exact (hqueue _).trans ((hflag _ _).trans (hflag _ _))

theorem adopted_adoptQueues (s : State) : Adopted s s.adoptQueues := by
  unfold State.adoptQueues
  generalize List.map _ _ = l
  induction l generalizing s with
  | nil => exact .refl s
  | cons q l ih => exact (adopted_adoptMarks s q).trans (ih _)

theorem adopted_adoptSync (s : State) : Adopted s s.adoptSync := by
  rw [State.adoptSync_eq]
  exact ⟨rfl, fun _ _ => rfl⟩

/-- A group at its packet boundary: every field that it reads is in force, and its adoption bit is set. -/
theorem State.adopt_does (s : State) {u : Nat} (hu : u < 15) :
    (∀ off, ownerOf off = u → (s.adopt u).regNow off = (s.adopt u).reg off) ∧
    (∀ o, o ≠ 0x1080 → o < 0x2000 → (s.adopt u).reg o = s.reg o) ∧
    bitOf ((s.adopt u).reg 0x1080).toNat u = true ∧
    (bitOf (s.reg 0x1080).toNat u = false → (∀ k < 15, k ≠ u → bitOf (s.reg 0x1080).toNat k = true) →
      bitOf ((s.adopt u).reg 0x1080).toNat 31 = true) ∧
    (u = 1 → (s.adopt u).syncWr = []) ∧
    s.adopt u = { s with lag := s.lag.filter fun e => decide (ownerOf e.1 ≠ u), sync := (s.adopt u).sync, syncWr := (s.adopt u).syncWr,
                         queues := (s.adopt u).queues, regs := (s.adopt u).regs } := by
  unfold State.adopt
  extract_lets t t1
  have h1 : Adopted t t1 := by
    show Adopted t (if u = 1 then t.adoptSync else if u = 8 then t.adoptQueues else t)
    split
    · exact adopted_adoptSync t
    · split
      · exact adopted_adoptQueues t
      · exact .refl t
  have hwr : u = 1 → t1.syncWr = [] := by
    rintro rfl
    show t.adoptSync.syncWr = []
    rw [State.adoptSync_eq]
  obtain ⟨hframe, hreg⟩ := h1
  have hlag : t1.lag = s.lag.filter fun e => decide (ownerOf e.1 ≠ u) := by rw [hframe]
  clear_value t1
  obtain ⟨hbit, hdone, hother, hset⟩ := t1.setAdopt_does hu
  split
  · next hb =>
    refine ⟨fun off ho => State.regNow_of_adopted s.lag hlag ho, fun o _ ho => hreg o ho, ?_, fun h => ?_, hwr, ?_⟩
    · rw [hreg _ (by decide)]
      exact hb
    · rw [h] at hb
      cases hb
    · rw [hframe]
  · refine ⟨fun off ho => State.regNow_of_adopted s.lag ?_ ho, fun o ho ho' => (hother o ho).trans (hreg o ho'), hbit, fun _ hall => ?_,
      fun h => ?_, ?_⟩
    · rw [hset]
      exact hlag
    · refine hdone fun k hk hne => ?_
      rw [hreg _ (by decide)]
      exact hall k hk hne
    · rw [hset]
      exact hwr h
    · rw [hset, hframe]

theorem exec_liveAdopt (s : State) (u : Fin 15) : exec (.liveAdopt u) s = .next (if u.val = 14 then s else s.adopt u.val) := rfl

/-! ### The read pointers of the two rings -/

/-- A read pointer that would leave more entries than the ring has slots is refused, and any other is written. -/
theorem hostWrite_pointer {s : State} {off wr n : Nat} {v : Word} {body : State → Byte × State} (hready : HostReady s off)
    (hoff : 0x3024 < off) (hbody : body s = if n < (wr + 8192 - bitsOf v.toNat 12 0) % 8192 then (codeBounds, s)
      else (codeOk, s.liveWrite off (BitVec.ofNat 32 (bitsOf v.toNat 12 0)))) :
    (n < (wr + 8192 - v.toNat % 8192) % 8192 → ∃ t, s.hostWrite off body = t ∧ WriteCode t off codeBounds ∧
      t = { acked s with regs := t.regs } ∧ t.reg off = s.reg off) ∧
    ((wr + 8192 - v.toNat % 8192) % 8192 ≤ n → ∃ t, s.hostWrite off body = t ∧ WriteCode t off codeOk ∧
      (t.reg off).toNat = v.toNat % 8192 ∧ t.mem = s.mem ∧ t.ctxs = s.ctxs) := by
  have hpointer : bitsOf v.toNat 12 0 = v.toNat % 8192 := rfl
  rw [hpointer] at hbody
  refine ⟨fun h => ?_, fun h => ?_⟩
  · rw [if_pos h] at hbody
    exact ⟨_, rfl, State.hostWrite_refused hready hbody ⟨by omega, by omega⟩⟩
  · rw [if_neg (by omega)] at hbody
    obtain ⟨hframe, hreg, -, -⟩ := liveWrite_written s (BitVec.ofNat 32 (v.toNat % 8192)) (off := off) (by omega)
    obtain ⟨hcode, hkept, hwframe⟩ := State.wstat_does (s.liveWrite off (BitVec.ofNat 32 (v.toNat % 8192))) off codeOk
    rw [State.hostWrite_ready hready, hbody]
    refine ⟨_, rfl, hcode, ?_, ?_, ?_⟩
    · rw [hkept off (by omega) (.inl rfl), hreg, BitVec.toNat_ofNat, Nat.mod_eq_of_lt (by omega)]
    · rw [hwframe]
      show (s.liveWrite off _).mem = s.mem
      rw [hframe]
    · rw [hwframe]
      show (s.liveWrite off _).ctxs = s.ctxs
      rw [hframe]

theorem exec_histRdWrite (s : State) (v : Word) : exec (.histRdWrite v) s = .next (s.hostWrite 0x070020 fun t => t.histRd v) := rfl

theorem exec_obhRdWrite (s : State) (v : Word) : exec (.obhRdWrite v) s = .next (s.hostWrite 0x0E0120 fun t => t.obhRd v) := rfl

/-- Settles O42: adoption empties the group's part of the table of waiting writes, and the pointers are live writes. -/
theorem liveRegisters : Obligations.LiveRegisters := by
  refine ⟨fun s u => ⟨fun hu => ?_, fun hu => ?_⟩, fun s v i off wr n hready hrow => ?_⟩
  · rw [exec_liveAdopt, hu]
    rfl
  · have hne : u.val ≠ 14 := fun h => hu (Fin.ext h)
    obtain ⟨hnow, hreg, hbit, hdone, hsync, hframe⟩ := s.adopt_does u.isLt
    refine ⟨s.adopt u.val, by rw [exec_liveAdopt, if_neg hne], fun off ho _ _ => hnow off ho, hreg, hbit, hdone, hsync, ?_, ?_⟩
    · rw [hframe]
    · rw [hframe]
  · rcases hrow with ⟨rfl, rfl, hwr, hn⟩ | ⟨rfl, rfl, hwr, hn⟩
    · have hp := hostWrite_pointer (wr := wr) (n := n) (v := v) (body := fun t => t.histRd v) hready (by decide) (by rw [hwr, hn]; rfl)
      simpa only [exec_histRdWrite, Host.Outcome.next.injEq] using hp
    · have hp := hostWrite_pointer (wr := wr) (n := n) (v := v) (body := fun t => t.obhRd v) hready (by decide) (by rw [hwr, hn]; rfl)
      simpa only [exec_obhRdWrite, Host.Outcome.next.injEq] using hp

end Sys2Proof.Machine
end

section
/-! PROOF. The superperiod boundary and the measurement window (R299, R316, R390, R391). -/

namespace Sys2Proof.Machine

open Safety

theorem Tab.get_map_range {α : Type} (d : α) (f : Nat → α) {n k : Nat} (h : k < n) :
    Tab.get d ((List.range n).map fun m => (m, f m)) k = f k := by
  have hall (l : List Nat) (hl : k ∈ l) : Tab.get d (l.map fun m => (m, f m)) k = f k := by
    induction l with
    | nil => cases hl
    | cons a l ih =>
      by_cases ha : a = k
      · subst ha
        exact if_pos rfl
      · exact (if_neg ha).trans (ih ((List.mem_cons.1 hl).resolve_left (Ne.symm ha)))
  exact hall _ (List.mem_range.2 h)

/-- The credit of a port grows by its share of the superperiod, to at most 4096 bytes (R299). -/
theorem State.gainCredit_does (s : State) :
    (∀ m < 40, Tab.get 0 s.gainCredit.mp.rdCredit m ≤ 4096 ∧
      Min.min 4096 (Tab.get 0 s.mp.rdCredit m) ≤ Tab.get 0 s.gainCredit.mp.rdCredit m ∧
      Tab.get 0 s.gainCredit.mp.wrCredit m ≤ 4096 ∧
      Min.min 4096 (Tab.get 0 s.mp.wrCredit m) ≤ Tab.get 0 s.gainCredit.mp.wrCredit m) ∧
    s.gainCredit = { s with mp := s.gainCredit.mp } := by
  refine ⟨fun m hm => ?_, rfl⟩
  unfold State.gainCredit
  dsimp only
  rw [Tab.get_map_range _ _ hm, Tab.get_map_range _ _ hm]
  omega

theorem State.measure_running {s : State} (h : s.obs.run = true) (k n : Nat) :
    s.measure k n = { s with obs := { s.obs with cnt := Tab.upd 0 s.obs.cnt k fun v => v + n } } := if_pos h

theorem State.measure_stopped {s : State} (h : s.obs.run = false) (k n : Nat) : s.measure k n = s := by
  unfold State.measure
  rw [h]
  rfl

theorem Tab.get_upd_same {α : Type} [DecidableEq α] (d : α) (t : Tab α) (k : Nat) (f : α → α) :
    Tab.get d (Tab.upd d t k f) k = f (Tab.get d t k) := Tab.get_set_same _ _ _ _

theorem Tab.get_upd_other {α : Type} [DecidableEq α] (d : α) (t : Tab α) {k j : Nat} (f : α → α) (h : j ≠ k) :
    Tab.get d (Tab.upd d t k f) j = Tab.get d t j := Tab.get_set_other _ _ _ h

/-- The measurement window at a superperiod boundary (R391). -/
theorem State.window_does (s : State) :
    (s.obs.arm = 1 → s.window.obs = { s.obs with arm := 0, run := true, cnt := [] }) ∧
    (s.obs.arm = 2 → s.obs.run = true → s.window.obs.run = false ∧ s.window.obs.arm = 0 ∧
      Tab.get 0 s.window.obs.cnt 0 = Tab.get 0 s.obs.cnt 0 + 1) ∧
    (s.obs.arm = 0 → s.obs.run = true → s.window.obs.run = true ∧ Tab.get 0 s.window.obs.cnt 0 = Tab.get 0 s.obs.cnt 0 + 1 ∧
      ∀ k, k ≠ 0 → Tab.get 0 s.window.obs.cnt k = Tab.get 0 s.obs.cnt k) ∧
    (s.obs.arm = 0 → s.obs.run = false → s.window.obs = s.obs) ∧ s.window = { s with obs := s.window.obs } := by
  refine ⟨fun harm => ?_, fun harm hrun => ?_, fun harm hrun => ?_, fun harm hrun => ?_, ?_⟩
  · simp only [State.window, harm]
  · simp only [State.window, harm, State.measure_running hrun]
    exact ⟨trivial, trivial, Tab.get_upd_same _ _ _ _⟩
  · simp only [State.window, harm, State.measure_running hrun]
    exact ⟨hrun, Tab.get_upd_same _ _ _ _, fun k hk => Tab.get_upd_other _ _ _ hk⟩
  · simp only [State.window, harm, State.measure_stopped hrun]
  · have hmeasure : s.measure 0 1 = { s with obs := (s.measure 0 1).obs } := by
      unfold State.measure
      split <;> rfl
    unfold State.window
    split
    · rfl
    · exact congrArg (fun t : State => { t with obs := { (s.measure 0 1).obs with arm := 0, run := false } }) hmeasure
    · exact hmeasure

/-- The observation port adopts its selections, and nothing beside its part of the waiting writes and its adoption bit changes. -/
theorem State.adopt_observation (s : State) :
    (∀ off, ownerOf off = 14 → (s.adopt 14).regNow off = (s.adopt 14).reg off) ∧ (∀ o, o ≠ 0x1080 → (s.adopt 14).reg o = s.reg o) ∧
    s.adopt 14 = { s with lag := s.lag.filter fun e => decide (ownerOf e.1 ≠ 14), regs := (s.adopt 14).regs } := by
  have hnow := (s.adopt_does (u := 14) (by decide)).1
  have hadopt : s.adopt 14 = if bitOf (s.reg 0x1080).toNat 14 then { s with lag := s.lag.filter fun e => decide (ownerOf e.1 ≠ 14) }
      else ({ s with lag := s.lag.filter fun e => decide (ownerOf e.1 ≠ 14) } : State).setAdopt 14 := rfl
  refine ⟨hnow, ?_⟩
  rw [hadopt]
  split
  · exact ⟨fun _ _ => rfl, rfl⟩
  · obtain ⟨-, -, hreg, hset⟩ := ({ s with lag := s.lag.filter fun e => decide (ownerOf e.1 ≠ 14) } : State).setAdopt_does (u := 14)
      (by decide)
    exact ⟨fun o ho => hreg o ho, hset⟩

theorem exec_superperiodBoundary {s : State} (hserved : s.served = true) : exec .superperiodBoundary s =
    .next (((({ s with spcnt := s.spcnt + 1, pins := { s.pins with spmOut := true } } : State).gainCredit).adopt 14).window) := by
  show Host.Outcome.next (if !s.served then _ else _) = _
  rw [hserved]
  rfl

theorem superperiodBoundary_does {s : State} (hserved : s.served = true) :
    ∃ t, exec .superperiodBoundary s = .next t ∧ t.spcnt = s.spcnt + 1 ∧
    (∀ m < 40, Tab.get 0 t.mp.rdCredit m ≤ 4096 ∧ Min.min 4096 (Tab.get 0 s.mp.rdCredit m) ≤ Tab.get 0 t.mp.rdCredit m ∧
      Tab.get 0 t.mp.wrCredit m ≤ 4096 ∧ Min.min 4096 (Tab.get 0 s.mp.wrCredit m) ≤ Tab.get 0 t.mp.wrCredit m) ∧
    (∀ p : Fin 16, t.regNow (0x0F0100 + 4 * p.val) = s.reg (0x0F0100 + 4 * p.val)) ∧
    (s.obs.arm = 1 → t.obs = { s.obs with arm := 0, run := true, cnt := [] }) ∧
    (s.obs.arm = 2 → s.obs.run = true → t.obs.run = false ∧ t.obs.arm = 0 ∧
      Tab.get 0 t.obs.cnt 0 = Tab.get 0 s.obs.cnt 0 + 1) ∧
    (s.obs.arm = 0 → s.obs.run = true → t.obs.run = true ∧ Tab.get 0 t.obs.cnt 0 = Tab.get 0 s.obs.cnt 0 + 1 ∧
      ∀ k, k ≠ 0 → Tab.get 0 t.obs.cnt k = Tab.get 0 s.obs.cnt k) ∧
    (s.obs.arm = 0 → s.obs.run = false → t.obs = s.obs) ∧
    t = { s with spcnt := t.spcnt, mp := t.mp, lag := t.lag, regs := t.regs, obs := t.obs, pins := { s.pins with spmOut := true } } := by
  generalize hu : ({ s with spcnt := s.spcnt + 1, pins := { s.pins with spmOut := true } } : State) = u
  obtain ⟨hcredit, hgain⟩ := u.gainCredit_does
  obtain ⟨hnow, hreg, hadopt⟩ := u.gainCredit.adopt_observation
  have hregs (o : Nat) (ho : o ≠ 0x1080) : (u.gainCredit.adopt 14).reg o = s.reg o := by
    rw [hreg o ho, hgain, ← hu]
    rfl
  generalize hv : u.gainCredit = v at hcredit hgain hadopt hnow hregs
  generalize hw : v.adopt 14 = w at hadopt hnow hregs
  have hmp : w.mp = v.mp := by rw [hadopt]
  have hobs : w.obs = s.obs := by rw [hadopt, hgain, ← hu]
  obtain ⟨hstart, hstop, hcounts, hidle, hwindow⟩ := w.window_does
  rw [hobs] at hstart hstop hcounts hidle
  refine ⟨w.window, by rw [exec_superperiodBoundary hserved, hu, hv, hw], ?_, fun m hm => ?_, fun p => ?_, hstart, hstop, hcounts, hidle, ?_⟩
  · rw [hwindow, hadopt, hgain, ← hu]
  · rw [show w.window.mp = v.mp by rw [hwindow]; exact hmp]
    have hm' := hcredit m hm
    rw [← hu] at hm'
    exact hm'
  · have howner := (selection_fields p).2.2.2
    rw [← hregs _ (by omega), ← hnow _ howner, hwindow]
    rfl
  · rw [hwindow, hadopt, hgain, ← hu]

theorem superperiodBoundary_unserved {s : State} (hserved : s.served = false) : exec .superperiodBoundary s = .next s := by
  show Host.Outcome.next (if !s.served then _ else _) = _
  rw [hserved]
  rfl

/-! ### START and STOP of the window (R391) -/

/-- A host write that changes the observation port's state alone. -/
theorem hostWrite_obs {s : State} {off : Nat} {o : Observe} {body : State → Byte × State} (hready : HostReady s off)
    (hbody : body s = (codeOk, { s with obs := o })) :
    ∃ t, s.hostWrite off body = t ∧ WriteCode t off codeOk ∧ t = { acked s with regs := t.regs, obs := o } := by
  obtain ⟨hcode, -, hframe⟩ := State.wstat_does { s with obs := o } off codeOk
  exact ⟨_, by rw [State.hostWrite_ready hready, hbody], hcode, hframe⟩

theorem exec_mwinStart (s : State) : exec .mwinStart s = .next (s.hostWrite 0x0F0200 fun t => t.mwinWrite 1) := rfl

theorem exec_mwinStop (s : State) : exec .mwinStop s = .next (s.hostWrite 0x0F0200 fun t => t.mwinWrite 2) := rfl

theorem State.mwinWrite_stop (s : State) :
    s.mwinWrite 2 = (codeOk, { s with obs := { s.obs with arm := if s.obs.run = true then 2 else s.obs.arm } }) := by
  show (if s.obs.run = true then (codeOk, { s with obs := { s.obs with arm := 2 } }) else (codeOk, s)) = _
  split <;> rfl

/-- Settles O40: the credits, the adoption and the window each change a part of the state of their own. -/
theorem superperiodBoundary : Obligations.SuperperiodBoundary := by
  refine ⟨fun s h => superperiodBoundary_unserved h, fun s h => superperiodBoundary_does h, fun s hready => ⟨?_, ?_⟩⟩
  · obtain ⟨t, ht, hdoes⟩ := hostWrite_obs (o := { s.obs with arm := 1 }) (body := fun t => t.mwinWrite 1) hready rfl
    exact ⟨t, by rw [exec_mwinStart, ht], hdoes⟩
  · obtain ⟨t, ht, hdoes⟩ := hostWrite_obs (body := fun t => t.mwinWrite 2) hready s.mwinWrite_stop
    exact ⟨t, by rw [exec_mwinStop, ht], hdoes⟩

end Sys2Proof.Machine
end

section
/-! PROOF. The non-volatile store (R327, R334), RELEASE and FORGET (R332, R333), and markers (R319). -/

namespace Sys2Proof.Machine

open Safety

/-! ### The store's answers (R325, R327) -/

theorem exec_nvsCommandDone (s : State) (r : Word) : exec (.nvsCommandDone r) s = .next (if s.reading then
    { s with kick := { s.kick with img := Tab.set 0#32 s.kick.img s.kick.rd r, rd := s.kick.rd + 1 } }
    else match s.kick.nvsq with
    | [] => s
    | (w, v) :: l => { s with kick := { s.kick with nvs := Tab.set 0#32 s.kick.nvs w v, nvsq := l } }) := rfl

theorem nvsCommandDone_reads {s : State} (r : Word) (h : s.reading = true) : exec (.nvsCommandDone r) s =
    .next { s with kick := { s.kick with img := Tab.set 0 s.kick.img s.kick.rd r, rd := s.kick.rd + 1 } } := by
  rw [exec_nvsCommandDone, if_pos h]
  rfl

theorem nvs_idle {s : State} (r : Word) (h : s.reading = false) (hq : s.kick.nvsq = []) :
    exec (.nvsCommandDone r) s = .next s ∧ exec .nvsTimeout s = .next s := by
  constructor
  · rw [exec_nvsCommandDone, h, hq]
    rfl
  · show Host.Outcome.next (if s.reading then _ else match s.kick.nvsq with | [] => s | _ :: l => _) = _
    rw [h, hq]
    rfl

theorem nvsCommandDone_writes {s : State} {w : Nat} {v : Word} {l : List (Nat × Word)} (r : Word) (hq : s.kick.nvsq = (w, v) :: l)
    (h : s.reading = false) : ∃ t, exec (.nvsCommandDone r) s = .next t ∧ Tab.get 0 t.kick.nvs w = v ∧
      (∀ k, k ≠ w → Tab.get 0 t.kick.nvs k = Tab.get 0 s.kick.nvs k) ∧ t.kick.nvsq = l ∧
      t = { s with kick := { s.kick with nvs := t.kick.nvs, nvsq := l } } := by
  refine ⟨{ s with kick := { s.kick with nvs := Tab.set 0#32 s.kick.nvs w v, nvsq := l } }, ?_, Tab.get_set_same _ _ _ _,
    fun k hk => Tab.get_set_other _ _ _ hk, rfl, rfl⟩
  rw [exec_nvsCommandDone, h, hq]
  rfl

/-- K0 reads the image during kickoff alone. -/
theorem State.not_reading {s : State} (h : s.kick.st ≠ 1) : s.reading = false := by
  unfold State.reading
  rw [decide_eq_false h]
  rfl

theorem nvsTimeout_inService {s : State} {e : Nat × Word} {l : List (Nat × Word)} (hq : s.kick.nvsq = e :: l) (hst : s.kick.st ≠ 1) :
    exec .nvsTimeout s = .next { s with kick := { s.kick with persist := false, wrerr := true, nvsq := [] } } := by
  have hexec : exec .nvsTimeout s = execNvsTimeout s := rfl
  rw [hexec]
  unfold execNvsTimeout
  rw [State.not_reading hst, hq]
  dsimp only
  rw [if_neg (by decide), if_pos hst]
  rfl

/-! ### Words of the image (R330, R334) -/

theorem State.setImg_img (s : State) (w : Nat) (v : Word) (k : Nat) : (s.setImg w v).img k = if w = k then v else s.img k := by
  by_cases h : w = k
  · subst h
    rw [if_pos rfl]
    exact Tab.get_set_same _ _ _ _
  · rw [if_neg h]
    exact Tab.get_set_other _ _ _ (Ne.symm h)

theorem State.setImgs_img (s : State) (l : List (Nat × Word)) (k : Nat) :
    (s.setImgs l).img k = l.foldl (fun v p => if p.1 = k then p.2 else v) (s.img k) := by
  induction l generalizing s with
  | nil => rfl
  | cons p l ih =>
    rw [List.foldl_cons, ← State.setImg_img]
    exact ih _

theorem State.setImgs_eq (s : State) (l : List (Nat × Word)) : s.setImgs l = { s with kick := (s.setImgs l).kick } := by
  induction l generalizing s with
  | nil => rfl
  | cons p l ih =>
    have hstep := ih (s.setImg p.1 p.2)
    exact hstep.trans (congrArg (fun k : Kickoff => { s with kick := k }) rfl)

theorem State.logEntry_eq (s : State) (e : LogEnt) : s.logEntry e = { s with kick := (s.logEntry e).kick } := State.setImgs_eq _ _

theorem fieldLe_words (f : Nat → Nat) : fieldLe ((List.range 16).flatMap fun j => natLe 4 (f j)) 6 1 = f 1 / 65536 % 256 := by
  have hrange : List.range 16 = 0 :: 1 :: (List.range 14).map (· + 2) := rfl
  rw [hrange]
  simp only [List.flatMap_cons, natLe, fieldLe, leNat, List.cons_append, List.nil_append, List.drop_succ_cons, List.drop_zero,
    List.take_succ_cons, List.take_zero, BitVec.toNat_ofNat]
  omega

theorem leNat_entry (q k b : Nat) (c : Byte) (l : List Byte) :
    leNat (((natLe 4 q ++ (natLe 2 k ++ (natLe 1 b ++ ([c] ++ l)))).drop 4).take 4) / 65536 % 256 = b % 256 := by
  simp only [natLe, leNat, List.cons_append, List.nil_append, List.drop_succ_cons, List.drop_zero, List.take_succ_cons, List.take_zero,
    BitVec.toNat_ofNat]
  omega

/-- The step and outcome of the first log entry stand in its byte 6. -/
theorem State.logEntry_first {s : State} (e : LogEnt) (h : s.newestLog = none) :
    fieldLe ((s.logEntry e).logBytes 0) 6 1 = (e.step % 16 + 16 * e.outcome) % 256 := by
  unfold State.logBytes
  rw [fieldLe_words fun j => ((s.logEntry e).img (imgLog + 16 * 0 + j)).toNat]
  unfold State.logEntry
  rw [h]
  dsimp only
  rw [State.setImgs_img]
  generalize crc32 _ = crc
  have hothers (w : Nat → Word) (v x y : Word) : List.foldl (fun v (p : Nat × Word) => if p.1 = imgLog + 16 * 0 + 1 then p.2 else v) v
      (((List.range 14).map fun j => (imgLog + 16 * 0 + 1 + j, w j)) ++ [(imgLog + 16 * 0 + 15, x), (imgLog + 16 * 0, y)]) = w 0 := by
    rfl
  have hmod (n : Nat) : n % 2 ^ 32 / 65536 % 256 = n / 65536 % 256 := by omega
  rw [hothers, BitVec.toNat_ofNat, hmod]
  simp only [List.append_assoc]
  exact leNat_entry _ _ _ _ _

/-! ### RELEASE and FORGET (R332, R333) -/

/-- A host write that changes the Referee's kickoff state alone. -/
theorem hostWrite_kick {s : State} {off : Nat} {k : Kickoff} {body : State → Byte × State} (hready : HostReady s off)
    (hbody : body s = (codeOk, { s with kick := k })) :
    ∃ t, s.hostWrite off body = t ∧ WriteCode t off codeOk ∧ t = { acked s with regs := t.regs, kick := k } := by
  obtain ⟨hcode, -, hframe⟩ := State.wstat_does { s with kick := k } off codeOk
  exact ⟨_, by rw [State.hostWrite_ready hready, hbody], hcode, hframe⟩

/-- A host write that is refused changes the write status alone. -/
theorem hostWrite_offside {s : State} {off : Nat} {body : State → Byte × State} (hready : HostReady s off)
    (hbody : body s = (codeOffside, s)) :
    ∃ t, s.hostWrite off body = t ∧ WriteCode t off codeOffside ∧ t = { acked s with regs := t.regs } := by
  obtain ⟨hcode, -, hframe⟩ := State.wstat_does s off codeOffside
  exact ⟨_, by rw [State.hostWrite_ready hready, hbody], hcode, hframe⟩

theorem exec_kctlRelease (s : State) : exec .kctlRelease s = .next (s.hostWrite 0x0E000C State.kctlRelease) := rfl

theorem exec_kctlForget (s : State) : exec .kctlForget s = .next (s.hostWrite 0x0E000C State.kctlForget) := rfl

theorem kctl_commands {s : State} (hready : HostReady s 0x0E000C) :
    (s.kick.st = 4 → ∃ t, exec .kctlRelease s = .next t ∧ WriteCode t 0x0E000C codeOk ∧
      t = { acked s with regs := t.regs, kick := { s.kick with st := 2 } }) ∧
    (s.kick.st ≠ 4 → ∃ t, exec .kctlRelease s = .next t ∧ WriteCode t 0x0E000C codeOffside ∧ t = { acked s with regs := t.regs }) ∧
    (s.kick.st = 1 → ∃ t, exec .kctlForget s = .next t ∧ WriteCode t 0x0E000C codeOffside ∧ t = { acked s with regs := t.regs }) ∧
    (s.kick.st ≠ 1 → ∃ t, exec .kctlForget s = .next t ∧ WriteCode t 0x0E000C codeOk ∧
      (s.newestLog = none → fieldLe (t.logBytes 0) 6 1 = 15 + 16 * 6) ∧ t = { acked s with regs := t.regs, kick := t.kick }) := by
  refine ⟨fun h => ?_, fun h => ?_, fun h => ?_, fun h => ?_⟩
  · obtain ⟨t, ht, hdoes⟩ := hostWrite_kick (k := { s.kick with st := 2 }) (body := State.kctlRelease) hready (if_pos h)
    exact ⟨t, by rw [exec_kctlRelease, ht], hdoes⟩
  · obtain ⟨t, ht, hdoes⟩ := hostWrite_offside (body := State.kctlRelease) hready (if_neg h)
    exact ⟨t, by rw [exec_kctlRelease, ht], hdoes⟩
  · obtain ⟨t, ht, hdoes⟩ := hostWrite_offside (body := State.kctlForget) hready (if_pos h)
    exact ⟨t, by rw [exec_kctlForget, ht], hdoes⟩
  · have hbody : s.kctlForget = (codeOk, { s with kick := (s.logEntry ⟨15, 6, 0, 0, 0, 0, []⟩).kick }) := by
      rw [← State.logEntry_eq]
      exact if_neg h
    obtain ⟨t, ht, hcode, hframe⟩ := hostWrite_kick (body := State.kctlForget) hready hbody
    have hkick : t.kick = (s.logEntry ⟨15, 6, 0, 0, 0, 0, []⟩).kick := by rw [hframe]
    refine ⟨t, by rw [exec_kctlForget, ht], hcode, fun hnone => ?_, by rw [hkick]; exact hframe⟩
    have hbytes : t.logBytes 0 = (s.logEntry ⟨15, 6, 0, 0, 0, 0, []⟩).logBytes 0 := by
      unfold State.logBytes State.img
      rw [hkick]
    rw [hbytes]
    exact State.logEntry_first _ hnone

/-! ### Writes of image words (R334) -/

theorem exec_refImgWrite (s : State) (w : Fin 2048) (v : Word) :
    exec (.refImgWrite w v) s = .next (s.hostWrite (0x0E8000 + 4 * w.val) fun t => t.imgWrite w.val v) := rfl

/-- The store after a word of the image and the words that waited before it. -/
theorem State.setImg_flushNvs (s : State) (w : Nat) (v : Word) :
    ((s.setImg w v).flushNvs).img w = v ∧ (∀ k, k ≠ w → ((s.setImg w v).flushNvs).img k = s.img k) ∧
    (s.kick.persist = true → Tab.get 0 ((s.setImg w v).flushNvs).kick.nvs w = v ∧ ((s.setImg w v).flushNvs).kick.nvsq = []) := by
  have himg (k : Nat) : ((s.setImg w v).flushNvs).img k = (s.setImg w v).img k := rfl
  refine ⟨by rw [himg, State.setImg_img, if_pos rfl], fun k hk => by rw [himg, State.setImg_img, if_neg (Ne.symm hk)], fun hp => ⟨?_, rfl⟩⟩
  unfold State.flushNvs State.setImg
  dsimp only
  rw [if_pos hp, List.foldl_append]
  exact Tab.get_set_same _ _ _ _

theorem refImgWrite_does {s : State} (w : Fin 2048) (v : Word) (hready : HostReady s (0x0E8000 + 4 * w.val)) :
    ((128 ≤ w.val ∧ w.val < 256) ∨ (16 ≤ w.val ∧ w.val < 128 ∧ s.kick.st = 4) →
      ∃ t, exec (.refImgWrite w v) s = .next t ∧ WriteCode t (0x0E8000 + 4 * w.val) codeOk ∧ t.img w = v ∧
        (∀ k, k ≠ w.val → t.img k = s.img k) ∧ (s.kick.persist = true → Tab.get 0 t.kick.nvs w.val = v ∧ t.kick.nvsq = []) ∧
        t = { acked s with regs := t.regs, kick := t.kick }) ∧
    (¬ ((128 ≤ w.val ∧ w.val < 256) ∨ (16 ≤ w.val ∧ w.val < 128 ∧ s.kick.st = 4)) →
      ∃ t, exec (.refImgWrite w v) s = .next t ∧ WriteCode t (0x0E8000 + 4 * w.val) codeOffside ∧ t = { acked s with regs := t.regs }) := by
  refine ⟨fun h => ?_, fun h => ?_⟩
  · have hbody : s.imgWrite w.val v = (codeOk, { s with kick := ((s.setImg w.val v).flushNvs).kick }) := if_pos h
    obtain ⟨t, ht, hcode, hframe⟩ := hostWrite_kick (body := fun t => t.imgWrite w.val v) hready hbody
    have hkick : t.kick = ((s.setImg w.val v).flushNvs).kick := by rw [hframe]
    have himg (k : Nat) : t.img k = ((s.setImg w.val v).flushNvs).img k := congrArg (fun x : Kickoff => Tab.get 0#32 x.img k) hkick
    obtain ⟨hword, hothers, hnvs⟩ := s.setImg_flushNvs w.val v
    exact ⟨t, by rw [exec_refImgWrite, ht], hcode, (himg _).trans hword, fun k hk => (himg k).trans (hothers k hk),
      fun hp => by rw [hkick]; exact hnvs hp, by rw [hkick]; exact hframe⟩
  · obtain ⟨t, ht, hdoes⟩ := hostWrite_offside (body := fun t => t.imgWrite w.val v) hready (if_neg h)
    exact ⟨t, by rw [exec_refImgWrite, ht], hdoes⟩

/-! ### Markers (R319) -/

theorem State.bump_eq (s : State) (off n : Nat) : s.bump off n = { s with regs := (s.bump off n).regs } := rfl

theorem exec_spmMarker (s : State) (early : BitVec 7) : exec (.spmMarker early) s = .next
    (if !s.follows ∨ !s.kick.aligned ∨ early.toNat = Min.min 79 (s.fld 0x106C 7 1) then s
     else (({ s with kick := { s.kick with spmok := false } } : State).bump 0x1070 1).raiseFlag 16 1) := rfl

theorem spmMarker_does {s : State} (early : BitVec 7) (hf : s.follows = true) (ha : s.kick.aligned = true) :
    (early.toNat = Min.min 79 (s.fld 0x106C 7 1) → exec (.spmMarker early) s = .next s) ∧
    (early.toNat ≠ Min.min 79 (s.fld 0x106C 7 1) → ∃ t, exec (.spmMarker early) s = .next t ∧ t.kick.spmok = false ∧
      t.reg 0x1070 = s.reg 0x1070 + 1 ∧ t.fld 0x2000 16 16 = 1 ∧ t = { s with regs := t.regs, kick := { s.kick with spmok := false } }) := by
  rw [exec_spmMarker, hf, ha]
  refine ⟨fun h => ?_, fun h => ?_⟩
  · rw [if_pos (.inr (.inr h))]
  · rw [if_neg (by simpa using h)]
    obtain ⟨hflag, -, -, hother, hframe⟩ :=
      (({ s with kick := { s.kick with spmok := false } } : State).bump 0x1070 1).raiseFlag_does 16 1 (by decide)
    have hbumped (u : State) (r : Tab (Option Word)) (hu : u = { s with regs := u.regs, kick := { s.kick with spmok := false } }) :
        ({ u with regs := r } : State) = { s with regs := r, kick := { s.kick with spmok := false } } := by rw [hu]
    refine ⟨_, rfl, by rw [hframe]; rfl, ?_, hflag, hframe.trans (hbumped _ _ (State.bump_eq _ _ _))⟩
    rw [hother _ (by decide) (by decide), State.bump_reg_same]
    rfl

/-- Settles O47: each part changes the Referee's kickoff state alone, or registers beside it. -/
theorem storeAndKickoffRegisters : Obligations.StoreAndKickoffRegisters := by
  refine ⟨fun s r => ⟨nvsCommandDone_reads r, nvs_idle r⟩, fun s r w v l hq => ⟨nvsCommandDone_writes r hq, nvsTimeout_inService hq⟩,
    fun s => kctl_commands, fun s w v => refImgWrite_does w v, fun s early => spmMarker_does early⟩

end Sys2Proof.Machine
end

section
/-! PROOF. What the traffic of the memory port leaves unchanged (R296 to R306). -/

namespace Sys2Proof.Machine

open Safety

/-- The port `p` with what the issue of requests changes taken from `q`: queues, flights, credit and the marks of lost lines. -/
def MemPort.issued (p q : MemPort) : MemPort :=
  { p with rq := q.rq, holdq := q.holdq, flights := q.flights, rdCredit := q.rdCredit, wrCredit := q.wrCredit, poison := q.poison,
           cured := q.cured }

/-- The issue of requests changes queues, flights, credit and the marks of lost lines in the memory port, the request pins and the
measurement counters, and nothing else. -/
structure IssueFrame (s t : State) : Prop where
  state : t = { s with mp := t.mp, pins := t.pins, obs := t.obs }
  port : t.mp = s.mp.issued t.mp

theorem IssueFrame.refl (s : State) : IssueFrame s s := ⟨rfl, rfl⟩

theorem IssueFrame.trans {s t u : State} (h : IssueFrame s t) (k : IssueFrame t u) : IssueFrame s u where
  state := k.state.trans (congrArg (fun x : State => { x with mp := u.mp, pins := u.pins, obs := u.obs }) h.state)
  port := k.port.trans (congrArg (fun x : MemPort => x.issued u.mp) h.port :)

theorem State.cure_issue (s : State) (l : Nat) : IssueFrame s (s.cure l) := by
  unfold State.cure
  split
  · exact ⟨rfl, rfl⟩
  · exact IssueFrame.refl s

theorem State.measure_issue (s : State) (k n : Nat) : IssueFrame s (s.measure k n) := by
  unfold State.measure
  split
  · exact ⟨rfl, rfl⟩
  · exact IssueFrame.refl s

theorem State.sendReq_issue (s : State) (c : Nat) (r : MemReq) (tag : Nat) : IssueFrame s (s.sendReq c r tag) := by
  have hcure : IssueFrame s (if fullWrite r then s.cure r.line.toNat else s) := by
    split
    · exact s.cure_issue _
    · exact .refl s
  have hread (t : State) : IssueFrame t (if r.op = .write then t else t.measure 4 1) := by
    split
    · exact .refl t
    · exact t.measure_issue 4 1
  have hwrite (t : State) : IssueFrame t (if r.op = .read then t else t.measure 5 1) := by
    split
    · exact .refl t
    · exact t.measure_issue 5 1
  exact (hcure.trans ((hread _).trans (hwrite _))).trans ⟨rfl, rfl⟩

theorem State.spend_issue (s : State) (m : Nat) (r : MemReq) : IssueFrame s (s.spend m r) := ⟨rfl, rfl⟩

theorem State.issueReqs_issue (s : State) (m n : Nat) : IssueFrame s (s.issueReqs m n) := by
  induction n generalizing s with
  | zero => exact .refl s
  | succ n ih =>
    unfold State.issueReqs
    split
    · next held c r tag _ _ =>
      have hsend (t : State) : IssueFrame t (State.issueReqs ((t.spend m r).sendReq c r tag) m n) :=
        (t.spend_issue m r).trans ((State.sendReq_issue _ c r tag).trans (ih _))
      refine IssueFrame.trans (t := if held then _ else _) ?_ (hsend _)
      cases held
      · exact ⟨rfl, rfl⟩
      · exact ⟨rfl, rfl⟩
    · exact .refl s

theorem State.issuePort_issue (s : State) (m : Nat) : IssueFrame s (s.issuePort m) := by
  unfold State.issuePort
  split
  · exact .refl s
  · exact s.issueReqs_issue _ _

theorem State.issuePorts_issue (s : State) (l : List Nat) : IssueFrame s (l.foldl State.issuePort s) := by
  induction l generalizing s with
  | nil => exact .refl s
  | cons m l ih => exact (s.issuePort_issue m).trans (ih _)

/-- With no request waiting in a unit, a run of the ports only issues. -/
theorem State.memRun_issue {s : State} (h : s.mp.wait = []) : IssueFrame s s.memRun := by
  have hports := s.issuePorts_issue (List.range 40)
  unfold State.memRun
  split
  · exact .refl s
  · generalize (List.range 40).foldl State.issuePort s = t at hports
    have hwait : t.mp.wait = s.mp.wait := (congrArg MemPort.wait hports.port :)
    have hretry : t.retryWait = t := if_pos (hwait.trans h)
    rw [hretry]
    exact hports

/-! ### Acceptance -/

/-- The port `p` with what acceptance of requests changes taken from `q`: what issue changes, the requests that wait, and the record of
a lost read. -/
def MemPort.accepted (p q : MemPort) : MemPort :=
  { p.issued q with wait := q.wait, lostPending := q.lostPending, lostAddr := q.lostAddr, lostHalves := q.lostHalves }

/-- What acceptance and issue of requests may change: the contents of the stacks, the queues and lost-line marks of the memory port, the
reports and registers of a lost read, the request pins and the measurement counters. -/
structure TrafficFrame (s t : State) : Prop where
  state : t = { s with mem := t.mem, mp := t.mp, pins := t.pins, obs := t.obs, regs := t.regs, ref := { s.ref with faults := t.ref.faults } }
  port : t.mp = s.mp.accepted t.mp

theorem TrafficFrame.refl (s : State) : TrafficFrame s s := ⟨rfl, rfl⟩

theorem TrafficFrame.trans {s t u : State} (h : TrafficFrame s t) (k : TrafficFrame t u) : TrafficFrame s u where
  state := k.state.trans (congrArg (fun x : State => { x with
    mem := u.mem, mp := u.mp, pins := u.pins, obs := u.obs, regs := u.regs, ref := { x.ref with faults := u.ref.faults } }) h.state)
  port := k.port.trans (congrArg (fun x : MemPort => x.accepted u.mp) h.port :)

theorem IssueFrame.traffic {s t : State} (h : IssueFrame s t) : TrafficFrame s t where
  state := by
    have hmem : t.mem = s.mem := (congrArg State.mem h.state :)
    have hregs : t.regs = s.regs := (congrArg State.regs h.state :)
    have href : t.ref = s.ref := (congrArg State.ref h.state :)
    rw [hmem, hregs, href]
    exact h.state
  port := by
    have hwait : t.mp.wait = s.mp.wait := (congrArg MemPort.wait h.port :)
    have hpending : t.mp.lostPending = s.mp.lostPending := (congrArg MemPort.lostPending h.port :)
    have haddr : t.mp.lostAddr = s.mp.lostAddr := (congrArg MemPort.lostAddr h.port :)
    have hhalves : t.mp.lostHalves = s.mp.lostHalves := (congrArg MemPort.lostHalves h.port :)
    unfold MemPort.accepted
    rw [hwait, hpending, haddr, hhalves]
    exact h.port

/-- What a request changes when it is carried out: the stacks' contents and the marks of lost lines. -/
structure EffectFrame (s t : State) : Prop where
  state : t = { s with mem := t.mem, mp := t.mp }
  port : t.mp = { s.mp with poison := t.mp.poison, cured := t.mp.cured }

theorem EffectFrame.refl (s : State) : EffectFrame s s := ⟨rfl, rfl⟩

theorem EffectFrame.trans {s t u : State} (h : EffectFrame s t) (k : EffectFrame t u) : EffectFrame s u where
  state := k.state.trans (congrArg (fun x : State => { x with mem := u.mem, mp := u.mp }) h.state)
  port := k.port.trans (congrArg (fun x : MemPort => { x with poison := u.mp.poison, cured := u.mp.cured }) h.port)

theorem EffectFrame.traffic {s t : State} (h : EffectFrame s t) : TrafficFrame s t where
  state := by
    have hpins : t.pins = s.pins := (congrArg State.pins h.state :)
    have hobs : t.obs = s.obs := (congrArg State.obs h.state :)
    have hregs : t.regs = s.regs := (congrArg State.regs h.state :)
    have href : t.ref = s.ref := (congrArg State.ref h.state :)
    rw [hpins, hobs, hregs, href]
    exact h.state
  port := by
    rw [h.port]
    rfl

theorem EffectFrame.foldl {α : Type} {f : State → α → State} (h : ∀ t a, EffectFrame t (f t a)) (l : List α) (s : State) :
    EffectFrame s (l.foldl f s) := by
  induction l generalizing s with
  | nil => exact .refl s
  | cons a l ih => exact (h s a).trans (ih _)

theorem State.setByte_effect (s : State) (a : Nat) (v : Byte) : EffectFrame s (s.setByte a v) := ⟨rfl, rfl⟩

theorem State.setNum_effect (s : State) (a n v : Nat) : EffectFrame s (s.setNum a n v) := ⟨rfl, rfl⟩

theorem State.cure_effect (s : State) (l : Nat) : EffectFrame s (s.cure l) := by
  unfold State.cure
  split
  · exact ⟨rfl, rfl⟩
  · exact .refl s

theorem State.writeEnabled_effect (s : State) (a : Nat) (l : List Byte) (e : List Bool) : EffectFrame s (s.writeEnabled a l e) := by
  induction l generalizing s a e with
  | nil => exact .refl s
  | cons b l ih =>
    cases e with
    | nil => exact .refl s
    | cons x e =>
      refine EffectFrame.trans (t := if x then s.setByte a b else s) ?_ (ih _ _ _)
      cases x
      · exact .refl s
      · exact s.setByte_effect a b

theorem State.addEnabled_effect (s : State) (r : MemReq) : EffectFrame s (s.addEnabled r) := by
  refine EffectFrame.foldl (fun t j => ?_) _ s
  split
  · exact t.setNum_effect _ _ _
  · exact .refl t

theorem State.carryOut_effect (s : State) (r : MemReq) : EffectFrame s (s.carryOut r) := by
  have hwrite := s.writeEnabled_effect (reqAddr r) r.data r.enable
  unfold State.carryOut
  split
  · exact .refl s
  · split
    · exact hwrite.trans (State.cure_effect _ _)
    · exact hwrite
  · split
    · exact .refl s
    · exact s.addEnabled_effect r

theorem State.lostRead_traffic (s : State) (l : Nat) (h : Option Half) : TrafficFrame s (s.lostRead l h) := by
  have hbump : TrafficFrame s (s.bump 0x0D0038 1) := ⟨rfl, rfl⟩
  have hrecord (t : State) : TrafficFrame t (if t.mp.lostPending then t
      else ({ t with mp := { t.mp with lostPending := true, lostAddr := 256 * l } } : State).raiseInt 4) := by
    split
    · exact .refl t
    · exact ⟨rfl, rfl⟩
  refine (hbump.trans (hrecord _)).trans ?_
  cases h with
  | none => exact ⟨rfl, rfl⟩
  | some h => exact ⟨rfl, rfl⟩

theorem State.memAccept_traffic {s t : State} {r : MemReq} (h : s.memAccept r = some t) : TrafficFrame s t := by
  unfold State.memAccept at h
  dsimp only at h
  have hcarry := (s.carryOut_effect r).traffic
  split at h
  · cases h
    split
    · exact .refl s
    · exact s.lostRead_traffic _ _
  · split at h
    · split at h
      · cases h
        exact hcarry.trans ⟨rfl, rfl⟩
      · cases h
    · cases h
      refine TrafficFrame.trans ?_ (State.issuePort_issue _ _).traffic
      exact hcarry.trans ⟨rfl, rfl⟩

theorem State.memRequest_traffic (s : State) (r : MemReq) : TrafficFrame s (s.memRequest r) := by
  unfold State.memRequest
  dsimp only
  split
  · exact ⟨rfl, rfl⟩
  · split
    · next t ht => exact State.memAccept_traffic ht
    · exact ⟨rfl, rfl⟩

theorem State.retryWait_traffic (s : State) : TrafficFrame s s.retryWait := by
  have hfold (l : List MemReq) (t : State) : TrafficFrame t (l.foldl State.memRequest t) := by
    induction l generalizing t with
    | nil => exact .refl t
    | cons r l ih => exact (t.memRequest_traffic r).trans (ih _)
  unfold State.retryWait
  split
  · exact .refl s
  · refine TrafficFrame.trans ?_ (hfold _ _)
    exact ⟨rfl, rfl⟩

theorem State.memRun_traffic (s : State) : TrafficFrame s s.memRun := by
  unfold State.memRun
  split
  · exact .refl s
  · exact (s.issuePorts_issue _).traffic.trans (State.retryWait_traffic _)

theorem State.memRun_idle {s : State} (hrq : s.mp.rq = []) (hholdq : s.mp.holdq = []) (hwait : s.mp.wait = []) : s.memRun = s :=
  if_pos ⟨hrq, hholdq, hwait⟩

end Sys2Proof.Machine
end

section
/-! PROOF. Takeover of a failed channel by the spare, and MEM_RESUME (R304 to R306). -/

namespace Sys2Proof.Machine

open Safety

/-- A lost read changes the record of lost reads in the memory port, registers and the fault reports, and nothing else. -/
structure LostFrame (s t : State) : Prop where
  state : t = { s with mp := t.mp, regs := t.regs, ref := { s.ref with faults := t.ref.faults } }
  port : t.mp = { s.mp with lostPending := t.mp.lostPending, lostAddr := t.mp.lostAddr, lostHalves := t.mp.lostHalves }

theorem LostFrame.refl (s : State) : LostFrame s s := ⟨rfl, rfl⟩

theorem LostFrame.trans {s t u : State} (h : LostFrame s t) (k : LostFrame t u) : LostFrame s u where
  state := k.state.trans (congrArg (fun x : State =>
    { x with mp := u.mp, regs := u.regs, ref := { x.ref with faults := u.ref.faults } }) h.state)
  port := k.port.trans (congrArg (fun x : MemPort =>
    { x with lostPending := u.mp.lostPending, lostAddr := u.mp.lostAddr, lostHalves := u.mp.lostHalves }) h.port)

theorem State.lostRead_frame (s : State) (l : Nat) (h : Option Half) : LostFrame s (s.lostRead l h) := by
  have hbump : LostFrame s (s.bump 0x0D0038 1) := ⟨rfl, rfl⟩
  have hrecord (t : State) : LostFrame t (if t.mp.lostPending then t
      else ({ t with mp := { t.mp with lostPending := true, lostAddr := 256 * l } } : State).raiseInt 4) := by
    split
    · exact .refl t
    · exact ⟨rfl, rfl⟩
  refine (hbump.trans (hrecord _)).trans ?_
  cases h with
  | none => exact ⟨rfl, rfl⟩
  | some h => exact ⟨rfl, rfl⟩

theorem State.lostReads_frame (l : List (Nat × MemReq)) (s : State) :
    LostFrame s (l.foldl (fun t e => t.lostRead e.2.line.toNat e.2.half) s) := by
  induction l generalizing s with
  | nil => exact .refl s
  | cons e l ih => exact (s.lostRead_frame _ _).trans (ih _)

/-! ### The commands for the controllers (R313) -/

/-- A maintenance command as it was given, before its tag. -/
def Maint.given (m : Maint) : Maint := { m with tag := none }

/-- Sending gives the command at the front a tag and puts it on the request pins. -/
theorem State.maintSend_does (s : State) : s.maintSend.mp.maint.map Maint.given = s.mp.maint.map Maint.given ∧
    s.maintSend = { s with mp := { s.mp with maint := s.maintSend.mp.maint }, pins := s.maintSend.pins } := by
  unfold State.maintSend
  split
  · next m l hm =>
    dsimp only
    split
    · refine ⟨?_, rfl⟩
      rw [hm]
      rfl
    · exact ⟨rfl, rfl⟩
  · exact ⟨rfl, rfl⟩

theorem State.maintAdd_does (s : State) (m : Maint) : (∃ tag, { m with tag := tag } ∈ (s.maintAdd m).mp.maint) ∧
    s.maintAdd m = { s with mp := { s.mp with maint := (s.maintAdd m).mp.maint }, pins := (s.maintAdd m).pins } := by
  unfold State.maintAdd
  dsimp only
  generalize hl : s.mp.maint.filter _ ++ [m] ++ s.mp.maint.filter _ = l
  have hm : m ∈ l := by
    rw [← hl]
    exact List.mem_append_left _ (List.mem_append_right _ List.mem_cons_self)
  obtain ⟨hgiven, hframe⟩ := State.maintSend_does ({ s with mp := { s.mp with maint := l } } : State)
  refine ⟨?_, hframe⟩
  have hmem : m.given ∈ ({ s with mp := { s.mp with maint := l } } : State).maintSend.mp.maint.map Maint.given := by
    rw [hgiven]
    exact List.mem_map_of_mem hm
  obtain ⟨x, hx, hxm⟩ := List.mem_map.1 hmem
  have hsame : { m with tag := x.tag } = x := (congrArg (fun y : Maint => { y with tag := x.tag }) hxm :).symm
  exact ⟨x.tag, hsame ▸ hx⟩

/-! ### Takeover -/

theorem State.setStack_stack_same (s : State) (k : Nat) (x : Stack) : (s.setStack k x).stack k = x := Tab.get_set_same _ _ _ _

theorem State.setStack_stack_other (s : State) {k j : Nat} (x : Stack) (h : j ≠ k) : (s.setStack k x).stack j = s.stack j :=
  Tab.get_set_other _ _ _ h

theorem State.logEvent_eq (s : State) (cause : Byte) (item : BitVec 16) :
    s.logEvent cause item = { s with kick := (s.logEvent cause item).kick } := State.logEntry_eq _ _

theorem State.reports_eq (s : State) (f : Half → FaultRep) (l : List Half) :
    l.foldl (fun t h => t.report (f h)) s = { s with ref := { s.ref with faults := s.ref.faults ++ l.map f } } := by
  induction l generalizing s with
  | nil =>
    rw [List.map_nil, List.append_nil]
    rfl
  | cons h l ih =>
    rw [List.foldl_cons, ih, List.map_cons, ← List.singleton_append, ← List.append_assoc]
    rfl

theorem State.loseChan_lost (s : State) (c : Nat) : c ∈ (s.loseChan c).mp.lostCh := by
  show c ∈ if s.mp.lostCh.contains c then s.mp.lostCh else s.mp.lostCh ++ [c]
  split
  · next h => exact List.contains_iff_mem.1 h
  · exact List.mem_append_right _ List.mem_cons_self

/-- The stack with its spare in the channel's place, the channel's contents lost (R304). -/
def State.spareTaken (s : State) (c : Nat) : State :=
  (s.setStack (c / 32) { s.stack (c / 32) with st := 2, spare := c % 32, spareReady := false }).loseChan c

theorem State.spareTaken_does (s : State) (c : Nat) :
    (s.spareTaken c).stack (c / 32) = { s.stack (c / 32) with st := 2, spare := c % 32, spareReady := false } ∧
    (∀ j, j ≠ c / 32 → (s.spareTaken c).stack j = s.stack j) ∧ c ∈ (s.spareTaken c).mp.lostCh ∧
    s.spareTaken c = { s with mp := (s.spareTaken c).mp } ∧ (s.spareTaken c).mp.maint = s.mp.maint := by
  have hlose (t : State) (j : Nat) : (t.loseChan c).stack j = t.stack j := rfl
  unfold State.spareTaken
  exact ⟨(hlose _ _).trans (State.setStack_stack_same _ _ _), fun j hj => (hlose _ j).trans (State.setStack_stack_other _ _ hj),
    State.loseChan_lost _ _, rfl, rfl⟩

/-- The reports of a takeover: the spare's channel for every half with work in flight (R304). -/
def State.takeoverReports (s : State) (c : Nat) : List FaultRep :=
  s.halvesInFlight.map fun h => ⟨0x0D, some h, itemPc (c / 32) (c % 32), 0xFFFF, 0, false⟩

theorem State.spareFor_eq (s : State) (c : Nat) : ∃ k : Kickoff, s.spareFor c = { s.spareTaken c with
    mp := { (s.spareTaken c).mp with retraining := (s.spareTaken c).mp.retraining.erase c }
    kick := k
    ref := { (s.spareTaken c).ref with faults := (s.spareTaken c).ref.faults ++ s.takeoverReports c } } := by
  have hfor : s.spareFor c = s.halvesInFlight.foldl
      (fun t h => t.report ⟨0x0D, some h, itemPc (c / 32) (c % 32), 0xFFFF, 0, false⟩)
      ((({ s.spareTaken c with mp := { (s.spareTaken c).mp with retraining := (s.spareTaken c).mp.retraining.erase c } } : State).setImg
        (imgStanding + 9 + c / 32) (BitVec.ofNat 32 (c % 32 + 2 ^ 31))).logEvent 0 (itemPc (c / 32) (c % 32))) := rfl
  rw [hfor, State.reports_eq, State.logEvent_eq]
  generalize s.spareTaken c = v
  exact ⟨_, rfl⟩

/-- The spare of a stack takes a channel over. -/
theorem State.spareFor_does (s : State) (c : Nat) :
    (s.spareFor c).stack (c / 32) = { s.stack (c / 32) with st := 2, spare := c % 32, spareReady := false } ∧
    (∀ j, j ≠ c / 32 → (s.spareFor c).stack j = s.stack j) ∧ c ∈ (s.spareFor c).mp.lostCh ∧
    (s.spareFor c).ref.faults = s.ref.faults ++ s.takeoverReports c ∧
    (s.spareFor c).mp.maint = s.mp.maint ∧ (s.spareFor c).mem = s.mem ∧ (s.spareFor c).ctxs = s.ctxs := by
  obtain ⟨k, hfor⟩ := s.spareFor_eq c
  obtain ⟨hsame, hother, hlost, hframe, hmaint⟩ := s.spareTaken_does c
  have href : (s.spareTaken c).ref = s.ref := (congrArg State.ref hframe :)
  rw [hfor, href]
  exact ⟨hsame, hother, hlost, rfl, hmaint, (congrArg State.mem hframe :), (congrArg State.ctxs hframe :)⟩

theorem State.takeOver_spare {s : State} {c : Nat} (hdead : c ∉ s.mp.dead) (hst : (s.stack (c / 32)).st = 1)
    (hspare : (s.stack (c / 32)).noSpare = false) : s.takeOver c =
      (s.spareFor c).maintAdd ⟨false, c / 32, c % 32, 0x30, BitVec.ofNat 32 (c % 32), 0, false, none⟩ := by
  unfold State.takeOver
  dsimp only
  rw [if_neg (fun h => hdead (List.contains_iff_mem.1 h)), hspare, hst]
  rfl

/-- The state in which a channel has failed for good: the stack LOST, the channel dead and its requests gone (R306). -/
def State.channelDead (s : State) (c : Nat) : State :=
  let s1 := (s.setStack (c / 32) { s.stack (c / 32) with st := 3 }).loseChan c
  { s1 with mp := { s1.mp with dead := s1.mp.dead ++ [c], retraining := s1.mp.retraining.erase c
                               rq := s1.mp.rq.filter fun e => decide (e.1 ≠ c)
                               holdq := s1.mp.holdq.filter fun e => decide (e.1 ≠ c) } }

theorem State.takeOver_lost {s : State} {c : Nat} (hdead : c ∉ s.mp.dead)
    (h : 2 ≤ (s.stack (c / 32)).st ∨ (s.stack (c / 32)).noSpare = true) : s.takeOver c =
      ((((s.mp.rq ++ s.mp.holdq).filter fun e => decide (e.1 = c) && decide (e.2.op ≠ .write)).foldl
        (fun t e => t.lostRead e.2.line.toNat e.2.half) (s.channelDead c)).raiseFlag 17 1).raiseInt 4 := by
  unfold State.takeOver
  dsimp only
  rw [if_neg (fun h => hdead (List.contains_iff_mem.1 h))]
  have hst : 2 ≤ if (s.stack (c / 32)).noSpare then 3 else (s.stack (c / 32)).st := by
    split
    · omega
    · next hspare => exact h.resolve_right hspare
  split
  · next h1 => omega
  · next h0 => omega
  · rfl

theorem exec_channelFailed (s : State) (ch : Fin 640) : exec (.channelFailed ch) s = .next (s.takeOver ch.val) := rfl

theorem channelFailed_spare {s : State} {c : Nat} (hdead : c ∉ s.mp.dead) (hst : (s.stack (c / 32)).st = 1)
    (hspare : (s.stack (c / 32)).noSpare = false) :
    (s.takeOver c).stack (c / 32) = ⟨2, c % 32, false, false⟩ ∧ (∀ j, j ≠ c / 32 → (s.takeOver c).stack j = s.stack j) ∧
    c ∈ (s.takeOver c).mp.lostCh ∧
    (∃ tag, (⟨false, c / 32, c % 32, 0x30, BitVec.ofNat 32 (c % 32), 0, false, tag⟩ : Maint) ∈ (s.takeOver c).mp.maint) ∧
    (s.takeOver c).ref.faults = s.ref.faults ++ s.takeoverReports c ∧
    (s.takeOver c).mem = s.mem ∧ (s.takeOver c).ctxs = s.ctxs := by
  rw [State.takeOver_spare hdead hst hspare]
  obtain ⟨hsame, hother, hlost, hfaults, -, hmem, hctxs⟩ := s.spareFor_does c
  generalize s.spareFor c = t at hsame hother hlost hfaults hmem hctxs
  obtain ⟨hadded, hadd⟩ := t.maintAdd_does ⟨false, c / 32, c % 32, 0x30, BitVec.ofNat 32 (c % 32), 0, false, none⟩
  generalize t.maintAdd _ = u at hadded hadd
  have hstack (j : Nat) : u.stack j = t.stack j := (congrArg (fun x : State => x.stack j) hadd :)
  refine ⟨?_, fun j hj => (hstack j).trans (hother j hj), ?_, hadded, ?_, ?_, ?_⟩
  · rw [hstack, hsame]
    exact congrArg (fun b => (⟨2, c % 32, false, b⟩ : Stack)) hspare
  · rw [hadd]
    exact hlost
  · rw [hadd]
    exact hfaults
  · rw [hadd]
    exact hmem
  · rw [hadd]
    exact hctxs

theorem channelFailed_lost {s : State} {c : Nat} (hdead : c ∉ s.mp.dead)
    (h : 2 ≤ (s.stack (c / 32)).st ∨ (s.stack (c / 32)).noSpare = true) :
    ((s.takeOver c).stack (c / 32)).st = 3 ∧ (∀ j, j ≠ c / 32 → (s.takeOver c).stack j = s.stack j) ∧ c ∈ (s.takeOver c).mp.dead ∧
    (∀ e ∈ (s.takeOver c).mp.holdq, e.1 ≠ c) ∧ (∀ e ∈ (s.takeOver c).mp.rq, e.1 ≠ c) ∧
    (s.takeOver c).fld 0x2000 17 17 = 1 ∧ (s.takeOver c).fld 0x2800 4 4 = 1 ∧ (s.takeOver c).mem = s.mem ∧
    (s.takeOver c).ctxs = s.ctxs := by
  rw [State.takeOver_lost hdead h]
  have hlost := State.lostReads_frame ((s.mp.rq ++ s.mp.holdq).filter fun e => decide (e.1 = c) && decide (e.2.op ≠ .write))
    (s.channelDead c)
  generalize List.foldl _ (s.channelDead c) _ = t at hlost
  obtain ⟨hflag, -, -, -, hraise⟩ := t.raiseFlag_does 17 1 (by decide)
  generalize t.raiseFlag 17 1 = u at hflag hraise
  have hport : u.mp = t.mp := (congrArg State.mp hraise :)
  have hstack (j : Nat) : (u.raiseInt 4).stack j = (s.channelDead c).stack j := by
    show Tab.get Stack.reset u.mp.stk j = _
    rw [hport, hlost.port]
    rfl
  have hmp : (u.raiseInt 4).mp = t.mp := hport
  have hdeadStack (j : Nat) : (s.channelDead c).stack j = (s.setStack (c / 32) { s.stack (c / 32) with st := 3 }).stack j := by
    unfold State.channelDead
    generalize s.setStack (c / 32) { s.stack (c / 32) with st := 3 } = v
    rfl
  have hgone (l : List (Nat × MemReq)) : ∀ e ∈ l.filter fun e => decide (e.1 ≠ c), e.1 ≠ c := fun e he =>
    of_decide_eq_true (List.mem_filter.1 he).2
  refine ⟨?_, fun j hj => ?_, ?_, ?_, ?_, ?_, State.setFld_fld_same _ _ _ _ _ (by decide) (by decide), ?_, ?_⟩
  · rw [hstack, hdeadStack, State.setStack_stack_same]
  · rw [hstack, hdeadStack]
    exact State.setStack_stack_other s _ hj
  · rw [hmp, hlost.port]
    exact List.mem_append_right _ List.mem_cons_self
  · rw [hmp, hlost.port]
    exact hgone s.mp.holdq
  · rw [hmp, hlost.port]
    exact hgone s.mp.rq
  · exact (State.setFld_fld_other u 4 4 1 17 17 (by decide)).trans hflag
  · have hmem : u.mem = t.mem := (congrArg State.mem hraise :)
    exact hmem.trans (congrArg State.mem hlost.state :)
  · have hctxs : u.ctxs = t.ctxs := (congrArg State.ctxs hraise :)
    exact hctxs.trans (congrArg State.ctxs hlost.state :)

theorem spareReady_does {s : State} {k : Fin 20} (hst : 2 ≤ (s.stack k).st) (hready : (s.stack k).spareReady = false) :
    ∃ t, exec (.spareReady k) s = .next t ∧ t.stack k = { s.stack k with spareReady := true } ∧
      (∀ j, j ≠ k.val → t.stack j = s.stack j) ∧ (s.mp.wait = [] → t.mem = s.mem) ∧ t.ctxs = s.ctxs := by
  have hexec : exec (.spareReady k) s = .next (if 2 ≤ (s.stack k).st ∧ (!(s.stack k).spareReady) = true then
      (s.setStack k { s.stack k with spareReady := true }).memRun else s) := rfl
  rw [hexec, if_pos ⟨hst, by rw [hready]; rfl⟩]
  have hframe := (s.setStack k { s.stack k with spareReady := true }).memRun_traffic
  have hissue (h : s.mp.wait = []) := State.memRun_issue (s := s.setStack k { s.stack k with spareReady := true }) h
  have hsame := s.setStack_stack_same k { s.stack k with spareReady := true }
  have hother (j : Nat) (hj : j ≠ k.val) := s.setStack_stack_other { s.stack k with spareReady := true } hj
  generalize hu : s.setStack k { s.stack k with spareReady := true } = u at hframe hissue hsame hother
  have hstack (j : Nat) : u.memRun.stack j = u.stack j := (congrArg (fun p : MemPort => Tab.get Stack.reset p.stk j) hframe.port :)
  refine ⟨u.memRun, rfl, (hstack _).trans hsame, fun j hj => (hstack j).trans (hother j hj), fun hwait => ?_, ?_⟩
  · have hmem : u.memRun.mem = u.mem := (congrArg State.mem (hissue hwait).state :)
    rw [hmem, ← hu]
    rfl
  · have hctxs : u.memRun.ctxs = u.ctxs := (congrArg State.ctxs hframe.state :)
    rw [hctxs, ← hu]
    rfl

/-- Settles O37: the failed channel's stack decides between the spare and the loss; a lost read and the run of the ports have frames of
their own. -/
theorem takeoverAndResume : Obligations.TakeoverAndResume := by
  unfold Obligations.TakeoverAndResume
  refine ⟨fun s ch k hk hdead => ?_, fun s k hst hready => spareReady_does hst hready, fun s hready => ?_⟩
  · subst hk
    exact ⟨fun hst hspare => ⟨_, exec_channelFailed s ch, channelFailed_spare hdead hst hspare⟩,
      fun h => ⟨_, exec_channelFailed s ch, channelFailed_lost hdead h⟩⟩
  · obtain ⟨hcode, -, hframe⟩ := State.wstat_does s.memResume 0x0D001C codeOk
    exact ⟨_, congrArg Host.Outcome.next (State.hostWrite_ready hready fun t => (codeOk, t.memResume)), hcode, hframe⟩

end Sys2Proof.Machine
end

section
/-! PROOF. Maintenance commands and the controllers' answers (R308, R309, R313). -/

namespace Sys2Proof.Machine

open Safety

theorem lowest_maint (a b c : Bool) : lowest [(a, codeOffside), (b, codeOffside), (c, codeFormat)] =
    if a || b then some codeOffside else if c then some codeFormat else none := by
  cases a <;> cases b <;> cases c <;> rfl

/-- The commands that the host may give (R313). -/
theorem maint_exec {s : State} {st : BitVec 5} {pc : BitVec 6} {i : Instr} {op : Byte}
    (h : i = .maintMarginT st pc ∧ op = 0x01 ∨ i = .maintMarginV st pc ∧ op = 0x02 ∨ i = .maintRowq st pc ∧ op = 0x10 ∨
      i = .maintRemap st pc ∧ op = 0x11 ∨ i = .maintCread st pc ∧ op = 0x20 ∨ i = .maintCwrite st pc ∧ op = 0x21 ∨
      i = .maintTakeover st pc ∧ op = 0x30) : exec i s = .next (s.hostMaint st pc op.toNat) ∧ maintListed op.toNat = true := by
  rcases h with ⟨rfl, rfl⟩ | ⟨rfl, rfl⟩ | ⟨rfl, rfl⟩ | ⟨rfl, rfl⟩ | ⟨rfl, rfl⟩ | ⟨rfl, rfl⟩ | ⟨rfl, rfl⟩
  all_goals exact ⟨rfl, rfl⟩

theorem maintAnyState_iff (op : Byte) : maintAnyState op.toNat = true ↔ op = 0x10 ∨ op = 0x20 := by
  have hnat (k : Byte) : op.toNat = k.toNat ↔ op = k := BitVec.toNat_inj
  unfold maintAnyState
  rw [Bool.or_eq_true, decide_eq_true_iff, decide_eq_true_iff]
  exact or_congr (hnat 0x10#8) (hnat 0x20#8)

theorem maint_allowed {s : State} {op : Byte} (h : op = 0x10 ∨ op = 0x20 ∨ s.engine = 3) :
    ¬ (!maintAnyState op.toNat && !(decide (s.engine = 1) || decide (s.engine = 3))) = true := by
  rcases h with h | h | h
  · rw [(maintAnyState_iff op).2 (Or.inl h)]
    exact Bool.false_ne_true
  · rw [(maintAnyState_iff op).2 (Or.inr h)]
    exact Bool.false_ne_true
  · rw [decide_eq_true h, Bool.or_true, Bool.not_true, Bool.and_false]
    exact Bool.false_ne_true

theorem hostInProgress {s : State} : s.mp.maint.any (·.host) = false ↔ ∀ m ∈ s.mp.maint, m.host = false := by
  rw [List.any_eq_false]
  exact forall₂_congr fun m _ => Bool.eq_false_iff.symm

/-- A refused maintenance command leaves its code, and changes nothing else. -/
theorem hostMaint_refused {s : State} (hready : HostReady s 0x0D2000) {st : BitVec 5} {pc : BitVec 6} {op : Nat} {k : Byte}
    (h : s.maintGo st.toNat pc.toNat op = (k, s.maintCode k)) : WriteCode (s.hostMaint st pc op) 0x0D2000 k ∧
      (s.hostMaint st pc op).fld 0x0D200C 7 0 = k.toNat ∧
      s.hostMaint st pc op = { acked s with regs := (s.hostMaint st pc op).regs } := by
  have hwrite : s.hostMaint st pc op = (s.maintCode k).wstat 0x0D2000 k := by
    unfold State.hostMaint
    rw [State.hostWrite_ready hready, h]
  rw [hwrite]
  obtain ⟨hcode, hregs, hframe⟩ := State.wstat_does (s.maintCode k) 0x0D2000 k
  have hfld : (s.maintCode k).fld 0x0D200C 7 0 = k.toNat := by
    unfold State.maintCode
    rw [State.setFld_fld_same _ _ _ _ _ (by decide) (by decide)]
    exact Nat.mod_eq_of_lt k.isLt
  refine ⟨hcode, ?_, hframe⟩
  unfold State.fld at hfld ⊢
  rw [hregs _ (by decide) (Or.inr (by decide))]
  exact hfld

/-- A maintenance command of the host stands behind all others. -/
theorem State.maintAdd_host {s : State} {m : Maint} (hm : m.host = true) :
    (s.maintAdd m).mp.maint.map Maint.given = (s.mp.maint ++ [m]).map Maint.given := by
  have hfirst : (s.mp.maint.filter fun x => m.host || !x.host || x.tag.isSome) = s.mp.maint :=
    List.filter_eq_self.2 fun x _ => by rw [hm]; rfl
  have hlast : (s.mp.maint.filter fun x => !(m.host || !x.host || x.tag.isSome)) = [] :=
    List.filter_eq_nil_iff.2 fun x _ => by rw [hm]; exact Bool.false_ne_true
  unfold State.maintAdd
  dsimp only
  rw [hfirst, hlast, List.append_nil]
  exact (State.maintSend_does _).1

/-- The command that the host gives (R313). -/
def State.hostCommand (s : State) (st : BitVec 5) (pc : BitVec 6) (op : Byte) : Maint :=
  ⟨true, st.toNat, pc.toNat, op, s.reg 0x0D2004, if op = 0x21 then s.reg 0x0D2008 else 0, false, none⟩

theorem State.maintGo_eq {s : State} (st : BitVec 5) (pc : BitVec 6) {op : Byte} (hlisted : maintListed op.toNat = true) :
    s.maintGo st.toNat pc.toNat op.toNat =
      if s.mp.maint.any (·.host) || (!maintAnyState op.toNat && !(decide (s.engine = 1) || decide (s.engine = 3))) then
        (codeOffside, s.maintCode codeOffside)
      else if decide (32 < pc.toNat) || decide (19 < st.toNat) then (codeFormat, s.maintCode codeFormat)
      else (codeOk, (s.liveWrite 0x0D2000 (BitVec.ofNat 32 (st.toNat + pc.toNat * 32 + op.toNat * 65536))).maintAdd
        (s.hostCommand st pc op)) := by
  have hop : BitVec.ofNat 8 op.toNat = op := by rw [BitVec.ofNat_toNat, BitVec.setWidth_eq]
  have hwrite : (op.toNat = 0x21) = (op = 0x21) := propext (BitVec.toNat_inj (y := 0x21#8))
  unfold State.maintGo State.hostCommand
  dsimp only
  rw [lowest_maint, hlisted, Bool.true_and, Bool.not_true, Bool.false_or, hop]
  simp only [hwrite]
  by_cases h : (s.mp.maint.any (·.host) || (!maintAnyState op.toNat && !(decide (s.engine = 1) || decide (s.engine = 3)))) = true
  · rw [if_pos h, if_pos h]
  · rw [if_neg h, if_neg h]
    by_cases hbad : (decide (32 < pc.toNat) || decide (19 < st.toNat)) = true
    · rw [if_pos hbad, if_pos hbad]
    · rw [if_neg hbad, if_neg hbad]

theorem hostMaint_accepted {s : State} (hready : HostReady s 0x0D2000) {st : BitVec 5} {pc : BitVec 6} {op : Byte}
    (hlisted : maintListed op.toNat = true) (hnone : ∀ m ∈ s.mp.maint, m.host = false) (hstate : op = 0x10 ∨ op = 0x20 ∨ s.engine = 3)
    (hpc : pc.toNat ≤ 32) (hst : st.toNat ≤ 19) : ∃ t, s.hostMaint st pc op.toNat = t ∧ WriteCode t 0x0D2000 codeOk ∧
      t.mem = s.mem ∧ t.ctxs = s.ctxs ∧ t.mp = { s.mp with maint := t.mp.maint } ∧
      t.mp.maint.map Maint.given = (s.mp.maint ++ [s.hostCommand st pc op]).map Maint.given := by
  have hexists : ¬ (decide (32 < pc.toNat) || decide (19 < st.toNat)) = true := by
    rw [Bool.or_eq_true, decide_eq_true_iff, decide_eq_true_iff]
    omega
  have hgo := State.maintGo_eq (s := s) st pc hlisted
  rw [hostInProgress.2 hnone, Bool.false_or, if_neg (maint_allowed hstate), if_neg hexists] at hgo
  have hlive := (liveWrite_written s (off := 0x0D2000) (BitVec.ofNat 32 (st.toNat + pc.toNat * 32 + op.toNat * 65536)) (by decide)).frame
  generalize s.liveWrite 0x0D2000 _ = u at hgo hlive
  have hmaint : u.mp = s.mp := (congrArg State.mp hlive :)
  have hadded := State.maintAdd_host (s := u) (m := s.hostCommand st pc op) rfl
  obtain ⟨-, hframe⟩ := u.maintAdd_does (s.hostCommand st pc op)
  obtain ⟨hcode, -, hstatus⟩ := State.wstat_does (u.maintAdd (s.hostCommand st pc op)) 0x0D2000 codeOk
  refine ⟨_, rfl, ?_⟩
  unfold State.hostMaint
  rw [State.hostWrite_ready hready, hgo]
  have hadd : (u.maintAdd (s.hostCommand st pc op)).mp = { s.mp with maint := (u.maintAdd (s.hostCommand st pc op)).mp.maint } := by
    rw [← hmaint]
    exact (congrArg State.mp hframe :)
  rw [hmaint] at hadded
  dsimp only
  generalize u.maintAdd (s.hostCommand st pc op) = w at hadded hframe hcode hstatus hadd
  have hmp : (w.wstat 0x0D2000 codeOk).mp = w.mp := (congrArg State.mp hstatus :)
  rw [hmp]
  refine ⟨hcode, ?_, ?_, hadd, hadded⟩
  · have h1 : (w.wstat 0x0D2000 codeOk).mem = w.mem := (congrArg State.mem hstatus :)
    have h2 : w.mem = u.mem := (congrArg State.mem hframe :)
    exact h1.trans (h2.trans (congrArg State.mem hlive :))
  · have h1 : (w.wstat 0x0D2000 codeOk).ctxs = w.ctxs := (congrArg State.ctxs hstatus :)
    have h2 : w.ctxs = u.ctxs := (congrArg State.ctxs hframe :)
    exact h1.trans (h2.trans (congrArg State.ctxs hlive :))

theorem hostMaint_offside {s : State} (hready : HostReady s 0x0D2000) {st : BitVec 5} {pc : BitVec 6} {op : Byte}
    (hlisted : maintListed op.toNat = true)
    (h : (∃ m ∈ s.mp.maint, m.host = true) ∨ op ≠ 0x10 ∧ op ≠ 0x20 ∧ s.engine ≠ 1 ∧ s.engine ≠ 3) :
    ∃ t, s.hostMaint st pc op.toNat = t ∧ WriteCode t 0x0D2000 codeOffside ∧ t.fld 0x0D200C 7 0 = 1 ∧
      t = { acked s with regs := t.regs } := by
  refine ⟨_, rfl, hostMaint_refused hready ((State.maintGo_eq st pc hlisted).trans (if_pos ?_))⟩
  rcases h with h | ⟨h10, h20, h1, h3⟩
  · rw [List.any_eq_true.2 h, Bool.true_or]
  · have hany : maintAnyState op.toNat = false := Bool.eq_false_iff.2 fun hany => ((maintAnyState_iff op).1 hany).elim h10 h20
    rw [hany, decide_eq_false h1, decide_eq_false h3]
    exact Bool.or_true _

theorem hostMaint_format {s : State} (hready : HostReady s 0x0D2000) {st : BitVec 5} {pc : BitVec 6} {op : Byte}
    (hlisted : maintListed op.toNat = true) (hnone : ∀ m ∈ s.mp.maint, m.host = false) (hstate : op = 0x10 ∨ op = 0x20 ∨ s.engine = 3)
    (hbad : 32 < pc.toNat ∨ 19 < st.toNat) :
    ∃ t, s.hostMaint st pc op.toNat = t ∧ WriteCode t 0x0D2000 codeFormat ∧ t.fld 0x0D200C 7 0 = 8 ∧
      t = { acked s with regs := t.regs } := by
  refine ⟨_, rfl, hostMaint_refused hready ?_⟩
  rw [State.maintGo_eq st pc hlisted, hostInProgress.2 hnone, Bool.false_or, if_neg (maint_allowed hstate)]
  refine if_pos ?_
  rw [Bool.or_eq_true, decide_eq_true_iff, decide_eq_true_iff]
  exact hbad

/-! ### The controller's answer -/

/-- The maintenance command at the front has been taken from the list. -/
def State.maintTaken (s : State) (l : List Maint) : State := { s with mp := { s.mp with maint := l } }

theorem exec_maintResult {s : State} {m : Maint} {l : List Maint} (v : Word) (hm : s.mp.maint = m :: l) :
    exec (.maintResult v) s = .next ((if m.host then (((s.maintTaken l).maintDone m v).setReg 0x0D2008
      (if m.op = 0x21#8 ∨ m.op = 0x30#8 then 0 else v)).maintCode codeOk else (s.maintTaken l).maintDone m v).maintSend.memRun) := by
  have hexec : exec (.maintResult v) s = execMaintResult v s := rfl
  rw [hexec]
  unfold execMaintResult
  rw [hm]
  rfl

/-- Sending the next command, with no request at the ports. -/
theorem State.maintNext_does {s : State} (hholdq : s.mp.holdq = []) (hrq : s.mp.rq = []) (hwait : s.mp.wait = []) :
    s.maintSend.memRun.mp.maint.map Maint.given = s.mp.maint.map Maint.given ∧
    s.maintSend.memRun = { s with mp := { s.mp with maint := s.maintSend.memRun.mp.maint }, pins := s.maintSend.memRun.pins } := by
  obtain ⟨hgiven, hframe⟩ := s.maintSend_does
  have hrun : s.maintSend.memRun = s.maintSend := by
    refine State.memRun_idle ?_ ?_ ?_
    · rw [hframe]
      exact hrq
    · rw [hframe]
      exact hholdq
    · rw [hframe]
      exact hwait
  rw [hrun]
  exact ⟨hgiven, hframe⟩

theorem maintResult_host {s : State} {m : Maint} {l : List Maint} (v : Word) (hm : s.mp.maint = m :: l) (hholdq : s.mp.holdq = [])
    (hrq : s.mp.rq = []) (hwait : s.mp.wait = []) (hhost : m.host = true) (hop : m.op ∈ [0x01#8, 0x02#8, 0x10#8, 0x20#8, 0x21#8]) :
    ∃ t, exec (.maintResult v) s = .next t ∧ t.reg 0x0D2008 = (if m.op = 0x21#8 then 0 else v) ∧ t.fld 0x0D200C 7 0 = 0 ∧
      (∀ o, o ≠ 0x0D2008 → o ≠ 0x0D200C → t.reg o = s.reg o) ∧ t.mp.maint.map Maint.given = l.map Maint.given ∧
      t = { s with mp := { s.mp with maint := t.mp.maint }, regs := t.regs, pins := t.pins } := by
  have hne (k : Byte) (hk : k ∉ [0x01#8, 0x02#8, 0x10#8, 0x20#8, 0x21#8]) : m.op ≠ k := fun h => hk (h ▸ hop)
  have hdone : (s.maintTaken l).maintDone m v = s.maintTaken l := by
    unfold State.maintDone
    rw [if_neg (hne _ (by decide)), if_neg fun h => hne 0x30#8 (by decide) h.2.1]
  have hvalue : (if m.op = 0x21#8 ∨ m.op = 0x30#8 then 0 else v) = if m.op = 0x21#8 then 0 else v :=
    if_congr (or_iff_left (hne _ (by decide))) rfl rfl
  rw [exec_maintResult v hm, hdone, if_pos hhost, hvalue]
  generalize hw : (if m.op = 0x21#8 then 0 else v) = w
  have hreg : (((s.maintTaken l).setReg 0x0D2008 w).maintCode codeOk).reg 0x0D2008 = w :=
    (State.setFld_reg_other _ _ _ _ (by decide)).trans (State.setReg_reg_same _ _ _)
  have hfld : (((s.maintTaken l).setReg 0x0D2008 w).maintCode codeOk).fld 0x0D200C 7 0 = 0 :=
    State.setFld_fld_same _ _ _ _ _ (by decide) (by decide)
  have hothers (o : Nat) (h1 : o ≠ 0x0D2008) (h2 : o ≠ 0x0D200C) :
      (((s.maintTaken l).setReg 0x0D2008 w).maintCode codeOk).reg o = s.reg o :=
    (State.setFld_reg_other _ _ _ _ h2).trans (State.setReg_reg_other _ _ h1)
  have hframe : ((s.maintTaken l).setReg 0x0D2008 w).maintCode codeOk =
    { s with mp := { s.mp with maint := l }, regs := (((s.maintTaken l).setReg 0x0D2008 w).maintCode codeOk).regs } := State.setFld_eq _ _ _ _ _
  generalize ((s.maintTaken l).setReg 0x0D2008 w).maintCode codeOk = u at hreg hfld hothers hframe
  have hmp : u.mp = { s.mp with maint := l } := (congrArg State.mp hframe :)
  obtain ⟨hgiven, hnext⟩ := State.maintNext_does (s := u) (by rw [hmp]; exact hholdq) (by rw [hmp]; exact hrq) (by rw [hmp]; exact hwait)
  generalize u.maintSend.memRun = t at hgiven hnext
  have hregs (o : Nat) : t.reg o = u.reg o := (congrArg (fun x : State => x.reg o) hnext :)
  refine ⟨t, rfl, (hregs _).trans hreg, ?_, fun o h1 h2 => (hregs o).trans (hothers o h1 h2), ?_, ?_⟩
  · unfold State.fld at hfld ⊢
    rw [hregs]
    exact hfld
  · rw [hgiven, hmp]
  · have hregsSame : t.regs = u.regs := (congrArg State.regs hnext :)
    rw [hregsSame]
    refine hnext.trans ?_
    rw [hmp]
    exact congrArg (fun x : State => { x with mp := { s.mp with maint := t.mp.maint }, pins := t.pins }) hframe

/-- The mark of one poisoned line. -/
def State.poisonLine (s : State) (l : Nat) : State :=
  { s with mp := { s.mp with poison := Tab.set false s.mp.poison l true, cured := Tab.set false s.mp.cured l false } }

theorem State.poisonLines_does (s : State) (l : List Nat) : (∀ n ∈ l, Tab.get false (l.foldl State.poisonLine s).mp.poison n = true) ∧
    l.foldl State.poisonLine s = { s with mp := { s.mp with
      poison := (l.foldl State.poisonLine s).mp.poison, cured := (l.foldl State.poisonLine s).mp.cured } } := by
  induction l using List.reverseRecOn with
  | nil => exact ⟨fun n hn => (nomatch hn), rfl⟩
  | append_singleton l k ih =>
    obtain ⟨hpoison, hframe⟩ := ih
    rw [List.foldl_append, List.foldl_cons, List.foldl_nil]
    generalize l.foldl State.poisonLine s = t at hpoison hframe
    have hset : (t.poisonLine k).mp.poison = Tab.set false t.mp.poison k true := rfl
    refine ⟨fun n hn => ?_, ?_⟩
    · by_cases hnk : n = k
      · rw [hset, hnk]
        exact Tab.get_set_same _ _ _ _
      · rw [hset]
        refine (Tab.get_set_other _ _ _ hnk).trans (hpoison n ?_)
        exact (List.mem_append.1 hn).resolve_right fun h => hnk (List.mem_singleton.1 h)
    · exact congrArg (fun x : State => { x with mp := { x.mp with
        poison := Tab.set false t.mp.poison k true, cured := Tab.set false t.mp.cured k false } }) hframe

theorem State.poisonUnit_does (s : State) (c u : Nat) :
    (∀ n ∈ s.unitLineNos c u, Tab.get false (s.poisonUnit c u).mp.poison n = true) ∧
    s.poisonUnit c u = { s with mp := { s.mp with poison := (s.poisonUnit c u).mp.poison, cured := (s.poisonUnit c u).mp.cured } } :=
  s.poisonLines_does (s.unitLineNos c u)

/-- The effect of a REMAP of a row unit whose spares are not exhausted. -/
theorem State.remapDone_does {s : State} {m : Maint} {v : Word} {c : Nat} (hc : s.chanOf m.stack m.pc = some c)
    (hv : v.getLsbD 10 = false) : (s.remapDone m v).reg 0x0D0034 = s.reg 0x0D0034 + 1 ∧
      (v.getLsbD 0 = true → m.keep = false →
        ∀ n ∈ s.unitLineNos c (m.arg.toNat % 2 ^ 20), Tab.get false (s.remapDone m v).mp.poison n = true) ∧
      (v.getLsbD 0 = false ∨ m.keep = true → (s.remapDone m v).mp.poison = s.mp.poison) ∧
      s.remapDone m v = { s with regs := (s.remapDone m v).regs, mp := { s.mp with
        poison := (s.remapDone m v).mp.poison, cured := (s.remapDone m v).mp.cured } } := by
  have hcount := s.bump_reg_same 0x0D0034 1
  have hbump := s.bump_eq 0x0D0034 1
  have hlines (u : Nat) : (s.bump 0x0D0034 1).unitLineNos c u = s.unitLineNos c u := rfl
  have hunit : bitsOf m.arg.toNat 19 0 = m.arg.toNat % 2 ^ 20 := by
    rw [bitsOf_eq_div]
    exact congrArg (· % 2 ^ 20) (Nat.div_one _)
  have hdone : s.remapDone m v = (match s.chanOf m.stack m.pc with
      | none => s.bump 0x0D0034 1
      | some c => let t := if v.getLsbD 0 && !m.keep then (s.bump 0x0D0034 1).poisonUnit c (bitsOf m.arg.toNat 19 0) else s.bump 0x0D0034 1
        if v.getLsbD 10 then t.quarantine c (bitsOf m.arg.toNat 19 0) else t) := rfl
  rw [hdone, hc, hunit]
  generalize s.bump 0x0D0034 1 = t at hcount hbump hlines
  rw [hv]
  dsimp only
  rw [if_neg Bool.false_ne_true]
  have hmp : t.mp = s.mp := (congrArg State.mp hbump :)
  cases hdo : (v.getLsbD 0 && !m.keep)
  · rw [if_neg Bool.false_ne_true]
    refine ⟨hcount, fun h0 hkeep => ?_, fun _ => congrArg MemPort.poison hmp, ?_⟩
    · rw [h0, hkeep] at hdo
      cases hdo
    · rw [hmp]
      exact hbump
  · rw [if_pos rfl]
    obtain ⟨hpoison, hframe⟩ := t.poisonUnit_does c (m.arg.toNat % 2 ^ 20)
    rw [hlines] at hpoison
    generalize t.poisonUnit c (m.arg.toNat % 2 ^ 20) = u at hpoison hframe
    have hregs : u.regs = t.regs := (congrArg State.regs hframe :)
    refine ⟨(congrArg (fun x : State => x.reg 0x0D0034) hframe :).trans hcount, fun _ _ => hpoison, fun h => ?_, ?_⟩
    · rcases h with h | h <;> rw [h] at hdo
      · cases hdo
      · rw [Bool.not_true, Bool.and_false] at hdo
        cases hdo
    · rw [hregs, ← hmp]
      exact hframe.trans (congrArg (fun x : State => { x with mp := { t.mp with poison := u.mp.poison, cured := u.mp.cured } }) hbump)

theorem maintResult_remap {s : State} {m : Maint} {l : List Maint} (v : Word) (hm : s.mp.maint = m :: l) (hholdq : s.mp.holdq = [])
    (hrq : s.mp.rq = []) (hwait : s.mp.wait = []) {c : Nat} (hhost : m.host = false) (hop : m.op = 0x11#8)
    (hc : s.chanOf m.stack m.pc = some c) (hv : v.getLsbD 10 = false) :
    ∃ t, exec (.maintResult v) s = .next t ∧ t.reg 0x0D0034 = s.reg 0x0D0034 + 1 ∧ t.mp.maint.map Maint.given = l.map Maint.given ∧
      (v.getLsbD 0 = true → m.keep = false → ∀ n ∈ s.unitLineNos c (m.arg.toNat % 2 ^ 20), Tab.get false t.mp.poison n = true) ∧
      (v.getLsbD 0 = false ∨ m.keep = true → t.mp.poison = s.mp.poison) ∧ t.mem = s.mem ∧ t.ctxs = s.ctxs := by
  have hdone : (s.maintTaken l).maintDone m v = (s.maintTaken l).remapDone m v := if_pos hop
  obtain ⟨hcount, hpoison, hkept, hframe⟩ := State.remapDone_does (s := s.maintTaken l) (m := m) (v := v) hc hv
  rw [exec_maintResult v hm, hdone, hhost, if_neg Bool.false_ne_true]
  generalize (s.maintTaken l).remapDone m v = u at hcount hpoison hkept hframe
  have hmp : u.mp = { s.mp with maint := l, poison := u.mp.poison, cured := u.mp.cured } := (congrArg State.mp hframe :)
  obtain ⟨hgiven, hnext⟩ := State.maintNext_does (s := u) (by rw [hmp]; exact hholdq) (by rw [hmp]; exact hrq) (by rw [hmp]; exact hwait)
  generalize u.maintSend.memRun = t at hgiven hnext
  have htp : t.mp.poison = u.mp.poison := (congrArg (fun x : State => x.mp.poison) hnext :)
  refine ⟨t, rfl, (congrArg (fun x : State => x.reg 0x0D0034) hnext :).trans hcount, ?_, ?_, ?_, ?_, ?_⟩
  · rw [hgiven, hmp]
  · rw [htp]
    exact hpoison
  · rw [htp]
    exact hkept
  · exact (congrArg State.mem hnext :).trans (congrArg State.mem hframe :)
  · exact (congrArg State.ctxs hnext :).trans (congrArg State.ctxs hframe :)

/-- Settles O38: the checks of a command in the order of their codes, and the answer to the command at the front. -/
theorem maintenanceCommands : Obligations.MaintenanceCommands := by
  unfold Obligations.MaintenanceCommands
  refine ⟨fun s st pc i op hready hop => ?_, fun s m l v hm hholdq hrq hwait => ?_⟩
  · obtain ⟨hexec, hlisted⟩ := maint_exec (s := s) hop
    rw [hexec]
    refine ⟨fun hnone hstate hpc hst => ?_, fun h => ?_, fun hnone hstate hbad => ?_⟩
    · obtain ⟨t, ht, hdoes⟩ := hostMaint_accepted hready hlisted hnone hstate hpc hst
      exact ⟨t, congrArg _ ht, hdoes⟩
    · obtain ⟨t, ht, hdoes⟩ := hostMaint_offside (st := st) (pc := pc) hready hlisted h
      exact ⟨t, congrArg _ ht, hdoes⟩
    · obtain ⟨t, ht, hdoes⟩ := hostMaint_format hready hlisted hnone hstate hbad
      exact ⟨t, congrArg _ ht, hdoes⟩
  · exact ⟨fun hhost hop => maintResult_host v hm hholdq hrq hwait hhost hop,
      fun c hhost hop hc hv => maintResult_remap v hm hholdq hrq hwait hhost hop hc hv⟩

end Sys2Proof.Machine
end

section
/-! PROOF. Retraining holds requests (R302, R303). -/

namespace Sys2Proof.Machine

open Safety

theorem State.contains_false {l : List Nat} {c : Nat} (h : c ∉ l) : l.contains c = false :=
  Bool.eq_false_iff.2 fun hc => h (List.contains_iff_mem.1 hc)

theorem exec_retrainStart {s : State} {ch : Fin 640} (hst : s.kick.st ≠ 0) (hidle : ch.val ∉ s.mp.retraining) (hdead : ch.val ∉ s.mp.dead) :
    exec (.retrainStart ch) s =
      .next (({ s with mp := { s.mp with retraining := s.mp.retraining ++ [ch.val] } } : State).bump 0x0D002C 1) := by
  have hworks : ¬ (decide (s.kick.st = 0) || s.mp.retraining.contains ch.val || s.mp.dead.contains ch.val) = true := by
    rw [decide_eq_false hst, State.contains_false hidle, State.contains_false hdead]
    exact Bool.false_ne_true
  exact congrArg Host.Outcome.next (if_neg hworks)

theorem retrainStart_does {s : State} {ch : Fin 640} (hst : s.kick.st ≠ 0) (hidle : ch.val ∉ s.mp.retraining)
    (hdead : ch.val ∉ s.mp.dead) : ∃ t, exec (.retrainStart ch) s = .next t ∧
      t.mp = { s.mp with retraining := s.mp.retraining ++ [ch.val] } ∧ t.reg 0x0D002C = s.reg 0x0D002C + 1 ∧
      (∀ o, o ≠ 0x0D002C → t.reg o = s.reg o) ∧ t = { s with mp := t.mp, regs := t.regs } ∧ t.holds ch = true := by
  refine ⟨_, exec_retrainStart hst hidle hdead, rfl, State.bump_reg_same _ _ _, fun o ho => State.bump_reg_other _ _ ho, rfl, ?_⟩
  have hretrains : (s.mp.retraining ++ [ch.val]).contains ch.val = true :=
    List.contains_iff_mem.2 (List.mem_append_right _ List.mem_cons_self)
  unfold State.holds State.blocked
  refine Bool.or_eq_true_iff.2 (Or.inl (Bool.or_eq_true_iff.2 (Or.inl (Bool.or_eq_true_iff.2 (Or.inl hretrains)))))

/-! ### Requests to a channel that holds (R302) -/

theorem exec_memRequestIssue {s : State} {r : MemReq} (hok : r.ok = true) (hin : r.line.toNat < s.mp.nlines * 640)
    (hadd : r.op = .add → s.ordered = false) : exec (.memRequestIssue r) s = .next (s.memRequest r) := by
  have hexec : exec (.memRequestIssue r) s = execMemRequestIssue r s := rfl
  have hdone : ¬ (!r.ok || (decide (r.op = .add) && s.ordered)) = true := by
    rw [hok, Bool.not_true, Bool.false_or, Bool.and_eq_true, decide_eq_true_iff]
    exact fun h => Bool.false_ne_true ((hadd h.1).symm.trans h.2)
  rw [hexec]
  unfold execMemRequestIssue
  rw [if_neg (by omega), if_neg hdone]

/-- A unit with no earlier request waiting gives its request to the port. -/
theorem State.memRequest_first {s : State} {r : MemReq} (h : ∀ x ∈ s.mp.wait, x.unit ≠ r.unit) : s.memRequest r =
    (s.memAccept r).getD { s with mp := { s.mp with wait := s.mp.wait ++ [r] } } := by
  have hfirst : ¬ (s.mp.wait.any fun x => decide (x.unit = r.unit)) = true := by
    rw [List.any_eq_true]
    exact fun ⟨x, hx, hxr⟩ => h x hx (of_decide_eq_true hxr)
  unfold State.memRequest
  dsimp only
  rw [if_neg hfirst]
  cases s.memAccept r
  · rfl
  · rfl

theorem State.memAccept_holds {s : State} {r : MemReq} {c : Nat} (hc : lineChan r.line.toNat = c) (hdead : c ∉ s.mp.dead)
    (hholds : s.holds c = true) : s.memAccept r =
      if s.heldBytes c + reqHold r ≤ holdShare r then
        some { s.carryOut r with mp := { (s.carryOut r).mp with holdq := (s.carryOut r).mp.holdq ++ [(c, r)] } }
      else none := by
  unfold State.memAccept
  dsimp only
  rw [hc, State.contains_false hdead, if_neg Bool.false_ne_true, hholds, Bool.true_or, if_pos rfl]

theorem memRequest_held {s : State} {r : MemReq} {ch : Fin 640} (hok : r.ok = true) (hc : lineChan r.line.toNat = ch.val)
    (hin : r.line.toNat < s.mp.nlines * 640) (hadd : r.op = .add → s.ordered = false) (hdead : ch.val ∉ s.mp.dead)
    (hholds : s.holds ch = true) (hfirst : ∀ x ∈ s.mp.wait, x.unit ≠ r.unit) :
    (s.heldBytes ch + reqHold r ≤ (if r.recv = true then 65536 else 49152) →
      ∃ t, exec (.memRequestIssue r) s = .next t ∧ t.mp.holdq = s.mp.holdq ++ [(ch.val, r)] ∧ t.mp.flights = s.mp.flights ∧
        t.mp.wait = s.mp.wait ∧ t.mp.rq = s.mp.rq ∧ t.mem = (s.carryOut r).mem ∧ t = { s with mem := t.mem, mp := t.mp }) ∧
    ((if r.recv = true then 65536 else 49152) < s.heldBytes ch + reqHold r →
      exec (.memRequestIssue r) s = .next { s with mp := { s.mp with wait := s.mp.wait ++ [r] } }) := by
  rw [exec_memRequestIssue hok hin hadd, State.memRequest_first hfirst, State.memAccept_holds hc hdead hholds]
  refine ⟨fun hroom => ?_, fun hfull => ?_⟩
  · have hshare : s.heldBytes ch + reqHold r ≤ holdShare r := hroom
    rw [if_pos hshare]
    obtain ⟨hstate, hport⟩ := s.carryOut_effect r
    generalize s.carryOut r = t at hstate hport
    refine ⟨_, rfl, ?_, ?_, ?_, ?_, rfl, ?_⟩
    · exact congrArg (· ++ [(ch.val, r)]) (congrArg MemPort.holdq hport :)
    · exact (congrArg MemPort.flights hport :)
    · exact (congrArg MemPort.wait hport :)
    · exact (congrArg MemPort.rq hport :)
    · exact congrArg (fun x : State => { x with mp := { t.mp with holdq := t.mp.holdq ++ [(ch.val, r)] } }) hstate
  · have hshare : ¬ s.heldBytes ch + reqHold r ≤ holdShare r := Nat.not_le.2 hfull
    rw [if_neg hshare, Option.getD_none]

/-! ### The end of retraining (R303) -/

/-- A request that goes out is in flight; of the rest of the port only the marks of lost lines may change. -/
theorem State.sendReq_port (s : State) (c : Nat) (r : MemReq) (tag : Nat) : (s.sendReq c r tag).mp = { s.mp with
    flights := s.mp.flights ++ [⟨portOfChan c, BitVec.ofNat 8 tag, c, r⟩]
    poison := (s.sendReq c r tag).mp.poison
    cured := (s.sendReq c r tag).mp.cured } := by
  have hmeasure (t : State) (k n : Nat) : (t.measure k n).mp = t.mp := by
    unfold State.measure
    split
    · rfl
    · rfl
  have hcure : (if fullWrite r then s.cure r.line.toNat else s).mp = { s.mp with
      poison := (if fullWrite r then s.cure r.line.toNat else s).mp.poison
      cured := (if fullWrite r then s.cure r.line.toNat else s).mp.cured } := by
    split
    · exact (s.cure_effect _).port
    · rfl
  have hcounted (t : State) : (if r.op = .read then (if r.op = .write then t else t.measure 4 1)
      else (if r.op = .write then t else t.measure 4 1).measure 5 1).mp = t.mp := by
    cases r.op
    · exact hmeasure t 4 1
    · exact hmeasure t 5 1
    · exact (hmeasure _ 5 1).trans (hmeasure t 4 1)
  generalize hu : (if fullWrite r then s.cure r.line.toNat else s) = u at hcure
  have hsent : (s.sendReq c r tag).mp = { u.mp with flights := u.mp.flights ++ [⟨portOfChan c, BitVec.ofNat 8 tag, c, r⟩] } := by
    rw [← hcounted u, ← hu]
    rfl
  rw [hsent, hcure]

/-- Ports run one after the other: with work for one of them alone, its run is all that happens. -/
theorem foldl_one {f : State → Nat → State} {s t : State} {m : Nat} (hm : f s m = t) (hother : ∀ a, a ≠ m → f s a = s)
    (hdone : ∀ a, f t a = t) (l : List Nat) (h : m ∈ l) : l.foldl f s = t := by
  have hrest (l : List Nat) : l.foldl f t = t := by
    induction l with
    | nil => rfl
    | cons a l ih => rw [List.foldl_cons, hdone, ih]
  induction l with
  | nil => cases h
  | cons a l ih =>
    rw [List.foldl_cons]
    by_cases ha : a = m
    · rw [ha, hm, hrest]
    · rw [hother a ha]
      exact ih ((List.mem_cons.1 h).resolve_left (Ne.symm ha))

theorem State.issuePort_empty {s : State} (hrq : s.mp.rq = []) (hholdq : s.mp.holdq = []) (m : Nat) : s.issuePort m = s :=
  if_pos ⟨hrq, hholdq⟩

/-- The fronts of a port with one held request. -/
theorem State.fronts_held {s : State} {c : Nat} {r : MemReq} (hrq : s.mp.rq = []) (hholdq : s.mp.holdq = [(c, r)])
    (hblocked : s.blocked c = false) (hbusy : s.unitBusy c r.line.toNat = false) (m : Nat) :
    s.fronts m = if portOfChan c = m then [(true, c, r)] else [] := by
  unfold State.fronts
  dsimp only
  rw [hrq, hholdq]
  by_cases h : portOfChan c = m
  · simp [h, hblocked, hbusy]
  · simp [h]

theorem State.issueReqs_none {s : State} {m : Nat} (h : s.nextReq m = none) (n : Nat) : s.issueReqs m n = s := by
  cases n with
  | zero => rfl
  | succ n =>
    unfold State.issueReqs
    rw [h]

theorem State.nextReq_none {s : State} {m : Nat} (h : ∀ f ∈ s.fronts m, s.hasCredit m f.2.2 = false) : s.nextReq m = none := by
  have hready : ((s.fronts m).filter fun f => s.hasCredit m f.2.2) = [] :=
    List.filter_eq_nil_iff.2 fun f hf => by rw [h f hf]; exact Bool.false_ne_true
  unfold State.nextReq
  dsimp only
  rw [hready]
  rfl

theorem State.nextReq_single {s : State} {m c : Nat} {r : MemReq} {held : Bool} (h : s.fronts m = [(held, c, r)])
    (hcredit : s.hasCredit m r = true) : s.nextReq m = some (held, c, r) := by
  unfold State.nextReq
  rw [h]
  simp only [List.filter_cons, List.filter_nil, hcredit, if_true, List.find?_cons, List.find?_nil, List.head?_cons]
  cases r.recv
  · rfl
  · rfl

theorem State.issueReqs_one {s : State} {m c tag : Nat} {r : MemReq} {held : Bool} (hnext : s.nextReq m = some (held, c, r))
    (htag : s.freeTag m = some tag) : s.issueReqs m 1 =
      ((if held then ({ s with mp := { s.mp with holdq := s.mp.holdq.erase (c, r) } } : State)
        else { s with mp := { s.mp with rq := s.mp.rq.erase (c, r) } }).spend m r).sendReq c r tag := by
  unfold State.issueReqs
  rw [hnext, htag]
  rfl

/-- One held request, with credit and a tag and nothing else at the ports, goes out. -/
theorem State.memRun_held {s : State} {c tag : Nat} {r : MemReq} (hc : c < 640) (hrq : s.mp.rq = []) (hwait : s.mp.wait = [])
    (hholdq : s.mp.holdq = [(c, r)]) (hblocked : s.blocked c = false) (hbusy : s.unitBusy c r.line.toNat = false)
    (hcredit : s.hasCredit (portOfChan c) r = true) (htag : s.freeTag (portOfChan c) = some tag) :
    s.memRun.mp.holdq = [] ∧ s.memRun.mp.flights = s.mp.flights ++ [⟨portOfChan c, BitVec.ofNat 8 tag, c, r⟩] := by
  have hfronts := State.fronts_held hrq hholdq hblocked hbusy
  have hports : ¬ (s.mp.rq = [] ∧ s.mp.holdq = []) := by simp [hholdq]
  have hfuel : s.mp.rq.length + s.mp.holdq.length = 1 := by rw [hrq, hholdq]; rfl
  have hissue (m : Nat) : s.issuePort m = s.issueReqs m 1 := (if_neg hports).trans (congrArg (s.issueReqs m) hfuel)
  have hsend := State.issueReqs_one (State.nextReq_single ((hfronts _).trans (if_pos rfl)) hcredit) htag
  rw [if_pos rfl, hholdq, List.erase_cons_head] at hsend
  generalize htdef : (State.spend _ (portOfChan c) r).sendReq c r tag = t at hsend
  have hport := State.sendReq_port (({ s with mp := { s.mp with holdq := [] } } : State).spend (portOfChan c) r) c r tag
  rw [htdef] at hport
  have htrq : t.mp.rq = [] := (congrArg MemPort.rq hport :).trans hrq
  have htholdq : t.mp.holdq = [] := (congrArg MemPort.holdq hport :)
  have htwait : t.mp.wait = [] := (congrArg MemPort.wait hport :).trans hwait
  have hother (a : Nat) (ha : a ≠ portOfChan c) : s.issuePort a = s := by
    have hnone : s.fronts a = [] := (hfronts a).trans (if_neg (Ne.symm ha))
    rw [hissue]
    exact State.issueReqs_none (State.nextReq_none (by rw [hnone]; exact fun f hf => (nomatch hf))) 1
  have hmem : portOfChan c ∈ List.range 40 := List.mem_range.2 (by unfold portOfChan; omega)
  have hrun : s.memRun = t := by
    unfold State.memRun
    rw [if_neg fun h => hports ⟨h.1, h.2.1⟩, foldl_one ((hissue _).trans hsend) hother (State.issuePort_empty htrq htholdq) _ hmem]
    exact if_pos htwait
  rw [hrun]
  exact ⟨htholdq, (congrArg MemPort.flights hport :)⟩

theorem retrainDone_does {s : State} {ch : Fin 640} (hretrains : ch.val ∈ s.mp.retraining) :
    ∃ t, exec (.retrainDone ch) s = .next t ∧ t.mp.retraining = s.mp.retraining.erase ch.val ∧
      t.ctxs = s.ctxs ∧ (s.mp.wait = [] → t.mem = s.mem) ∧
      (∀ r tag, s.mp.retraining = [ch.val] → s.onSpare ch = false → s.inMaint ch = false → s.mp.rq = [] → s.mp.wait = [] →
        s.mp.holdq = [(ch.val, r)] → s.unitBusy ch r.line.toNat = false → s.hasCredit (portOfChan ch) r = true →
        s.freeTag (portOfChan ch) = some tag →
        t.mp.holdq = [] ∧ t.mp.flights = s.mp.flights ++ [⟨portOfChan ch, BitVec.ofNat 8 tag, ch.val, r⟩]) := by
  have hexec : exec (.retrainDone ch) s =
      .next ({ s with mp := { s.mp with retraining := s.mp.retraining.erase ch.val } } : State).memRun :=
    congrArg Host.Outcome.next (if_pos (List.contains_iff_mem.2 hretrains))
  have hframe := State.memRun_traffic { s with mp := { s.mp with retraining := s.mp.retraining.erase ch.val } }
  refine ⟨_, hexec, (congrArg MemPort.retraining hframe.port :), (congrArg State.ctxs hframe.state :), fun hwait => ?_,
    fun r tag hone hspare hmaint hrq hwait hholdq hbusy hcredit htag => ?_⟩
  · exact (congrArg State.mem (State.memRun_issue (s := { s with mp := { s.mp with retraining := s.mp.retraining.erase ch.val } }) hwait).state :)
  · refine State.memRun_held (s := { s with mp := { s.mp with retraining := s.mp.retraining.erase ch.val } }) ch.isLt hrq hwait hholdq ?_ hbusy
      hcredit htag
    show ((s.mp.retraining.erase ch.val).contains ch.val || (s.onSpare ch && !(s.stack (ch.val / 32)).spareReady) || s.inMaint ch) = false
    rw [hone, hspare, hmaint, List.erase_cons_head]
    rfl

/-- Settles O36: a channel that retrains holds, so that its requests enter the hold queue; the end of retraining runs the ports. -/
theorem retrainingHolds : Obligations.RetrainingHolds := by
  unfold Obligations.RetrainingHolds
  refine fun s ch => ⟨fun hst hidle hdead => retrainStart_does hst hidle hdead,
    fun r hok hc hin hadd hdead hholds hfirst => memRequest_held hok hc hin hadd hdead hholds hfirst, fun hwait => ?_,
    fun h => retrainDone_does h, fun h => ?_, fun h => ⟨_, ?_, exec_channelFailed s ch⟩⟩
  · have hstall : s.stallMemory = s.bump 0x0D0030 1 := if_neg hwait
    rw [hstall]
    exact ⟨State.bump_reg_same _ _ _, rfl⟩
  · exact congrArg Host.Outcome.next (if_neg fun hc => h (List.contains_iff_mem.1 hc))
  · exact congrArg Host.Outcome.next (if_pos (List.contains_iff_mem.2 h))

end Sys2Proof.Machine
end

section
/-! PROOF. Memory requests and the controllers' answers (R293, R296 to R301, R305). -/

namespace Sys2Proof.Machine

open Safety

/-! ### Bytes and numbers of the stacks -/

theorem bytesRead_congr {m k : Tab Byte} (n : Nat) : ∀ a, (∀ i < n, Tab.get 0#8 m (a + i) = Tab.get 0#8 k (a + i)) →
    bytesRead m a n = bytesRead k a n := by
  induction n with
  | zero => exact fun _ _ => rfl
  | succ n ih =>
    intro a h
    have hrest : bytesRead m (a + 1) n = bytesRead k (a + 1) n := ih (a + 1) fun i hi => by
      have hi' := h (i + 1) (by omega)
      rwa [← Nat.add_assoc, Nat.add_right_comm] at hi'
    exact congrArg₂ List.cons (h 0 (by omega)) hrest

theorem State.num_congr {s t : State} {a n : Nat} (h : ∀ i < n, t.byte (a + i) = s.byte (a + i)) : t.num a n = s.num a n :=
  congrArg leNat (bytesRead_congr n a h)

theorem natLe_length (n v : Nat) : (natLe n v).length = n := by
  induction n generalizing v with
  | zero => rfl
  | succ n ih => exact congrArg (· + 1) (ih _)

theorem leNat_natLe (n v : Nat) : leNat (natLe n v) = v % 256 ^ n := by
  induction n generalizing v with
  | zero => exact (Nat.mod_one v).symm
  | succ n ih =>
    have hstep : leNat (natLe (n + 1) v) = v % 256 + 256 * leNat (natLe n (v / 256)) := congrArg (· + _) (BitVec.toNat_ofNat _ _)
    rw [hstep, ih, Nat.pow_succ, Nat.mul_comm (256 ^ n) 256, Nat.mod_mul]

theorem State.setNum_byte_outside (s : State) (v : Nat) {a n b : Nat} (h : b < a ∨ a + n ≤ b) : (s.setNum a n v).byte b = s.byte b :=
  bytesWrite_get_outside _ _ _ _ (by rw [natLe_length]; exact h)

theorem bytesRead_getElem? (m : Tab Byte) (n : Nat) :
    ∀ a i, (bytesRead m a n)[i]? = if i < n then some (Tab.get 0#8 m (a + i)) else none := by
  induction n with
  | zero => exact fun a i => (if_neg (Nat.not_lt_zero i)).symm
  | succ n ih =>
    intro a i
    cases i with
    | zero => rfl
    | succ i =>
      refine (ih (a + 1) i).trans ?_
      rw [Nat.add_right_comm, Nat.add_assoc]
      exact if_congr Nat.succ_lt_succ_iff.symm rfl rfl

theorem bytesRead_bytesWrite (l : List Byte) (m : Tab Byte) (a : Nat) : bytesRead (bytesWrite m a l) a l.length = l := by
  refine List.ext_getElem? fun i => ?_
  rw [bytesRead_getElem?]
  split
  · next hi =>
    exact (congrArg some (bytesWrite_get_inside l m a (List.getElem?_eq_getElem hi))).trans (List.getElem?_eq_getElem hi).symm
  · next hi => exact (List.getElem?_eq_none (Nat.le_of_not_lt hi)).symm

theorem State.num_setNum_same (s : State) (a n v : Nat) : (s.setNum a n v).num a n = v % 256 ^ n := by
  have hread := bytesRead_bytesWrite (natLe n v) s.mem a
  rw [natLe_length] at hread
  exact (congrArg leNat hread).trans (leNat_natLe n v)

theorem State.writeEnabled_byte (s : State) (a b : Nat) (l : List Byte) (e : List Bool) (h : e.length = l.length) :
    (s.writeEnabled a l e).byte b = if a ≤ b ∧ e.getD (b - a) false = true then l.getD (b - a) 0 else s.byte b := by
  induction l generalizing s a e with
  | nil =>
    rw [List.length_eq_zero_iff.1 h]
    exact (if_neg fun hb => Bool.false_ne_true hb.2).symm
  | cons x l ih =>
    cases e with
    | nil => cases h
    | cons d e =>
      have hrest := ih (if d then s.setByte a x else s) (a + 1) e (Nat.succ.inj h)
      refine Eq.trans hrest ?_
      rcases Nat.lt_trichotomy b a with hb | hb | hb
      · rw [if_neg (show ¬ (a + 1 ≤ b ∧ _) by omega), if_neg (show ¬ (a ≤ b ∧ _) by omega)]
        cases d
        · rfl
        · exact State.setByte_byte_other _ _ (by omega)
      · subst hb
        rw [if_neg (show ¬ (b + 1 ≤ b ∧ _) by omega), Nat.sub_self, List.getD_cons_zero, List.getD_cons_zero]
        cases d
        · exact (if_neg fun h : b ≤ b ∧ false = true => Bool.false_ne_true h.2).symm
        · rw [if_pos (show b ≤ b ∧ true = true from ⟨Nat.le_refl b, rfl⟩)]
          exact State.setByte_byte_same _ _ _
      · have hsub : b - a = b - (a + 1) + 1 := by omega
        have hkept : (if d then s.setByte a x else s).byte b = s.byte b := by
          cases d
          · rfl
          · exact State.setByte_byte_other _ _ (by omega)
        rw [hsub, List.getD_cons_succ, List.getD_cons_succ, hkept]
        exact if_congr (and_congr_left fun _ => ⟨fun _ => by omega, fun _ => by omega⟩) rfl rfl

/-- One element of a memory-side add (R301). -/
def State.addOne (r : MemReq) (s : State) (j : Nat) : State :=
  if r.enable.getD (j * addSize r.fmt) false then
    s.setNum (reqAddr r + j * addSize r.fmt) (addSize r.fmt) (addElem r.fmt (s.num (reqAddr r + j * addSize r.fmt) (addSize r.fmt))
      (leNat ((r.data.drop (j * addSize r.fmt)).take (addSize r.fmt))))
  else s

/-- The element `j` after a memory-side add, `v` being what it was. -/
def addedElem (r : MemReq) (j v : Nat) : Nat :=
  if r.enable.getD (j * addSize r.fmt) false = true then
    addElem r.fmt v (leNat ((r.data.drop (j * addSize r.fmt)).take (addSize r.fmt))) % 2 ^ (8 * addSize r.fmt)
  else v

theorem State.addOne_byte (r : MemReq) (s : State) (j : Nat) {b : Nat}
    (h : b < reqAddr r + j * addSize r.fmt ∨ reqAddr r + (j + 1) * addSize r.fmt ≤ b) : (s.addOne r j).byte b = s.byte b := by
  unfold State.addOne
  split
  · refine State.setNum_byte_outside _ _ ?_
    rw [Nat.add_assoc, ← Nat.succ_mul]
    exact h
  · rfl

theorem State.addOne_num (r : MemReq) (s : State) (j : Nat) : (s.addOne r j).num (reqAddr r + j * addSize r.fmt) (addSize r.fmt) =
    addedElem r j (s.num (reqAddr r + j * addSize r.fmt) (addSize r.fmt)) := by
  unfold State.addOne addedElem
  split
  · rw [State.num_setNum_same, Nat.pow_mul]
  · rfl

/-- The first `k` elements of a memory-side add. -/
theorem State.addSome_does (r : MemReq) (s : State) (k : Nat) :
    (∀ b, b < reqAddr r ∨ reqAddr r + k * addSize r.fmt ≤ b → ((List.range k).foldl (State.addOne r) s).byte b = s.byte b) ∧
    (∀ j < k, ((List.range k).foldl (State.addOne r) s).num (reqAddr r + j * addSize r.fmt) (addSize r.fmt) =
      addedElem r j (s.num (reqAddr r + j * addSize r.fmt) (addSize r.fmt))) := by
  induction k with
  | zero => exact ⟨fun _ _ => rfl, fun j hj => absurd hj (Nat.not_lt_zero j)⟩
  | succ k ih =>
    obtain ⟨hbytes, hnums⟩ := ih
    rw [List.range_succ, List.foldl_append, List.foldl_cons, List.foldl_nil]
    generalize (List.range k).foldl (State.addOne r) s = t at hbytes hnums
    have hle : k * addSize r.fmt ≤ (k + 1) * addSize r.fmt := Nat.mul_le_mul_right _ (Nat.le_succ k)
    refine ⟨fun b hb => ?_, fun j hj => ?_⟩
    · rw [State.addOne_byte r t k (by omega)]
      exact hbytes b (by omega)
    · rcases Nat.lt_or_eq_of_le (Nat.lt_succ_iff.1 hj) with hjk | hjk
      · rw [← hnums j hjk]
        have hbefore : (j + 1) * addSize r.fmt ≤ k * addSize r.fmt := Nat.mul_le_mul_right _ hjk
        rw [Nat.succ_mul] at hbefore
        exact State.num_congr fun i hi => State.addOne_byte r t k (Or.inl (by omega))
      · subst hjk
        rw [State.addOne_num]
        exact congrArg (addedElem r j) (State.num_congr fun i hi => hbytes _ (Or.inr (by omega)))

theorem State.carryOut_mem (s : State) {r : MemReq} (hok : r.ok = true) :
    (r.op = .read → (s.carryOut r).mem = s.mem) ∧
    (r.op = .write → ∀ a, (s.carryOut r).byte a = if reqAddr r ≤ a ∧ r.enable.getD (a - reqAddr r) false = true then
      r.data.getD (a - reqAddr r) 0 else s.byte a) ∧
    (r.op = .add → (∀ a, a < reqAddr r ∨ reqAddr r + reqBytes r ≤ a → (s.carryOut r).byte a = s.byte a) ∧
      (s.lineLost r.line.toNat = true → (s.carryOut r).mem = s.mem) ∧
      (s.lineLost r.line.toNat = false → ∀ j < reqBytes r / addSize r.fmt,
        (s.carryOut r).num (reqAddr r + j * addSize r.fmt) (addSize r.fmt) =
          addedElem r j (s.num (reqAddr r + j * addSize r.fmt) (addSize r.fmt)))) := by
  have hlength : r.op = .write → r.enable.length = r.data.length := by
    intro hop
    unfold MemReq.ok at hok
    rw [hop] at hok
    simp only [Bool.and_eq_true, decide_eq_true_eq] at hok
    exact hok.1.2.2
  have hcure (t : State) (l : Nat) : (t.cure l).mem = t.mem := by
    unfold State.cure
    split
    · rfl
    · rfl
  refine ⟨fun hop => ?_, fun hop a => ?_, fun hop => ?_⟩
  · unfold State.carryOut
    rw [hop]
  · unfold State.carryOut
    rw [hop]
    rw [← State.writeEnabled_byte s (reqAddr r) a r.data r.enable (hlength hop)]
    dsimp only
    split
    · exact congrArg (Tab.get 0#8 · a) (hcure _ _)
    · rfl
  · have hcarry : s.carryOut r = if s.lineLost r.line.toNat then s else s.addEnabled r := by
      unfold State.carryOut
      rw [hop]
    have hall : s.addEnabled r = (List.range (reqBytes r / addSize r.fmt)).foldl (State.addOne r) s := rfl
    obtain ⟨hbytes, hnums⟩ := State.addSome_does r s (reqBytes r / addSize r.fmt)
    rw [hcarry, hall]
    have hfit : reqBytes r / addSize r.fmt * addSize r.fmt ≤ reqBytes r := Nat.div_mul_le_self _ _
    refine ⟨fun a ha => ?_, fun hlost => ?_, fun hkept => ?_⟩
    · split
      · rfl
      · exact hbytes a (by omega)
    · rw [if_pos hlost]
    · rw [hkept]
      exact hnums

end Sys2Proof.Machine
end

section
/-! PROOF. The issue of requests and the controllers' answers (R296 to R300, R305). -/

namespace Sys2Proof.Machine

open Safety

/-- The state after a request has been accepted, before its port issues. -/
def State.queued (s : State) (c : Nat) (r : MemReq) : State :=
  { s.carryOut r with mp := { (s.carryOut r).mp with rq := (s.carryOut r).mp.rq ++ [(c, r)] } }

theorem State.queued_does (s : State) (c : Nat) (r : MemReq) : (s.queued c r).mp = { s.mp with
    rq := s.mp.rq ++ [(c, r)], poison := (s.queued c r).mp.poison, cured := (s.queued c r).mp.cured } ∧
    s.queued c r = { s with mem := (s.carryOut r).mem, mp := (s.queued c r).mp } := by
  obtain ⟨hstate, hport⟩ := s.carryOut_effect r
  unfold State.queued
  generalize s.carryOut r = t at hstate hport
  have hrq : t.mp.rq = s.mp.rq := (congrArg MemPort.rq hport :)
  constructor
  · dsimp only
    rw [hrq]
    exact congrArg (fun p : MemPort => { p with rq := s.mp.rq ++ [(c, r)] }) hport
  · exact congrArg (fun x : State => { x with mp := { t.mp with rq := t.mp.rq ++ [(c, r)] } }) hstate

theorem State.memAccept_queued {s : State} {r : MemReq} {c : Nat} (hc : c = lineChan r.line.toNat) (hdead : c ∉ s.mp.dead)
    (hholds : s.holds c = false) (hbusy : s.unitBusy c r.line.toNat = false) :
    s.memAccept r = some ((s.queued c r).issuePort (portOfChan c)) := by
  unfold State.memAccept
  dsimp only
  rw [← hc, State.contains_false hdead, if_neg Bool.false_ne_true, hholds, hbusy, Bool.false_or, if_neg Bool.false_ne_true]
  rfl

theorem State.blocked_of_holds {s : State} {c : Nat} (h : s.holds c = false) : s.blocked c = false :=
  (Bool.or_eq_false_iff.1 h).1

/-- The fronts of the port of the one request that waits there. -/
theorem State.fronts_queued {s : State} {c : Nat} {r : MemReq} (hrq : s.mp.rq = [(c, r)]) (hholdq : s.mp.holdq = [])
    (hblocked : s.blocked c = false) : s.fronts (portOfChan c) = [(false, c, r)] := by
  unfold State.fronts
  dsimp only
  rw [hrq, hholdq]
  simp [hblocked]

/-- A port with one request, which has credit and a tag. -/
theorem State.issuePort_sends {s : State} {c tag : Nat} {r : MemReq} (hrq : s.mp.rq = [(c, r)]) (hholdq : s.mp.holdq = [])
    (hblocked : s.blocked c = false) (hcredit : s.hasCredit (portOfChan c) r = true) (htag : s.freeTag (portOfChan c) = some tag) :
    (s.issuePort (portOfChan c)).mp.flights = s.mp.flights ++ [⟨portOfChan c, BitVec.ofNat 8 tag, c, r⟩] ∧
    (s.issuePort (portOfChan c)).mp.rq = [] ∧
    Tab.get 0 (s.issuePort (portOfChan c)).mp.rdCredit (portOfChan c) =
      Tab.get 0 s.mp.rdCredit (portOfChan c) - (if r.op = .write then 0 else reqBytes r) ∧
    Tab.get 0 (s.issuePort (portOfChan c)).mp.wrCredit (portOfChan c) =
      Tab.get 0 s.mp.wrCredit (portOfChan c) - (if r.op = .read then 0 else reqBytes r) := by
  have hports : ¬ (s.mp.rq = [] ∧ s.mp.holdq = []) := by simp [hrq]
  have hfuel : s.mp.rq.length + s.mp.holdq.length = 1 := by rw [hrq, hholdq]; rfl
  have hissue : s.issuePort (portOfChan c) = s.issueReqs (portOfChan c) 1 :=
    (if_neg hports).trans (congrArg (s.issueReqs _) hfuel)
  have hsend := State.issueReqs_one (State.nextReq_single (State.fronts_queued hrq hholdq hblocked) hcredit) htag
  rw [if_neg Bool.false_ne_true, hrq, List.erase_cons_head] at hsend
  have hport := State.sendReq_port (({ s with mp := { s.mp with rq := [] } } : State).spend (portOfChan c) r) c r tag
  rw [hissue, hsend, hport]
  refine ⟨rfl, rfl, ?_, ?_⟩
  · show Tab.get 0 (if r.op = .write then s.mp.rdCredit else Tab.upd 0 s.mp.rdCredit (portOfChan c) fun v => v - reqBytes r) _ = _
    split
    · rfl
    · exact Tab.get_upd_same _ _ _ _
  · show Tab.get 0 (if r.op = .read then s.mp.wrCredit else Tab.upd 0 s.mp.wrCredit (portOfChan c) fun v => v - reqBytes r) _ = _
    split
    · rfl
    · exact Tab.get_upd_same _ _ _ _

/-- A port with one request, which has no credit. -/
theorem State.issuePort_waits {s : State} {c : Nat} {r : MemReq} (hrq : s.mp.rq = [(c, r)]) (hholdq : s.mp.holdq = [])
    (hblocked : s.blocked c = false) (hcredit : s.hasCredit (portOfChan c) r = false) : s.issuePort (portOfChan c) = s := by
  have hnone : s.nextReq (portOfChan c) = none := by
    refine State.nextReq_none ?_
    rw [State.fronts_queued hrq hholdq hblocked]
    intro f hf
    rw [List.mem_singleton.1 hf]
    exact hcredit
  unfold State.issuePort
  split
  · rfl
  · exact State.issueReqs_none hnone _

/-- The effect of a request on the stacks (R297, R301, R305). -/
def RequestEffect (s t : State) (r : MemReq) : Prop :=
  (r.op = .read → t.mem = s.mem) ∧
  (r.op = .write → ∀ a, t.byte a = if reqAddr r ≤ a ∧ r.enable.getD (a - reqAddr r) false = true then
    r.data.getD (a - reqAddr r) 0 else s.byte a) ∧
  (r.op = .add → (∀ a, a < reqAddr r ∨ reqAddr r + reqBytes r ≤ a → t.byte a = s.byte a) ∧
    (s.lineLost r.line.toNat = true → t.mem = s.mem) ∧
    (s.lineLost r.line.toNat = false → ∀ j < reqBytes r / addSize r.fmt,
      t.num (reqAddr r + j * addSize r.fmt) (addSize r.fmt) = addedElem r j (s.num (reqAddr r + j * addSize r.fmt) (addSize r.fmt))))

theorem requestEffect_of_mem {s t u : State} {r : MemReq} (h : RequestEffect s u r) (hmem : t.mem = u.mem) : RequestEffect s t r := by
  have hbyte (a : Nat) : t.byte a = u.byte a := congrArg (Tab.get 0#8 · a) hmem
  have hnum (a n : Nat) : t.num a n = u.num a n := congrArg (loadLe · a n) hmem
  obtain ⟨hread, hwrite, hadd⟩ := h
  refine ⟨fun hop => hmem.trans (hread hop), fun hop a => (hbyte a).trans (hwrite hop a), fun hop => ?_⟩
  obtain ⟨hout, hlost, hkept⟩ := hadd hop
  exact ⟨fun a ha => (hbyte a).trans (hout a ha), fun h => hmem.trans (hlost h), fun h j hj => (hnum _ _).trans (hkept h j hj)⟩

theorem memRequest_accepted {s : State} {r : MemReq} {c : Nat} (hok : r.ok = true) (hc : c = lineChan r.line.toNat)
    (hin : r.line.toNat < s.mp.nlines * 640) (hadd : r.op = .add → s.ordered = false) (hdead : c ∉ s.mp.dead)
    (hholds : s.holds c = false) (hbusy : s.unitBusy c r.line.toNat = false) (hfirst : ∀ x ∈ s.mp.wait, x.unit ≠ r.unit) :
    ∃ t, exec (.memRequestIssue r) s = .next t ∧ t.mp.wait = s.mp.wait ∧ RequestEffect s t r ∧
      (∀ tag, s.mp.rq = [] → s.mp.holdq = [] → s.hasCredit (portOfChan c) r = true → s.freeTag (portOfChan c) = some tag →
        t.mp.flights = s.mp.flights ++ [⟨portOfChan c, BitVec.ofNat 8 tag, c, r⟩] ∧ t.mp.rq = [] ∧
        Tab.get 0 t.mp.rdCredit (portOfChan c) = Tab.get 0 s.mp.rdCredit (portOfChan c) - (if r.op = .write then 0 else reqBytes r) ∧
        Tab.get 0 t.mp.wrCredit (portOfChan c) = Tab.get 0 s.mp.wrCredit (portOfChan c) - (if r.op = .read then 0 else reqBytes r)) ∧
      (s.mp.rq = [] → s.mp.holdq = [] → s.hasCredit (portOfChan c) r = false → t.mp.flights = s.mp.flights ∧ t.mp.rq = [(c, r)]) ∧
      t = { s with mem := t.mem, mp := t.mp, pins := t.pins, obs := t.obs } := by
  rw [exec_memRequestIssue hok hin hadd, State.memRequest_first hfirst, State.memAccept_queued hc hdead hholds hbusy, Option.getD_some]
  have heffect : RequestEffect s (s.carryOut r) r := s.carryOut_mem hok
  obtain ⟨hport, hstate⟩ := s.queued_does c r
  have hmem : (s.queued c r).mem = (s.carryOut r).mem := (congrArg State.mem hstate :)
  replace heffect := requestEffect_of_mem heffect hmem
  rw [← hmem] at hstate
  clear hmem
  generalize s.queued c r = u at hport hstate heffect
  obtain ⟨hissued, hkept⟩ := u.issuePort_issue (portOfChan c)
  have hblocked : u.blocked c = false := by
    rw [← State.blocked_of_holds hholds]
    unfold State.blocked State.inMaint State.physPc State.onSpare State.stack
    rw [hport]
  have hcredit : u.hasCredit (portOfChan c) r = s.hasCredit (portOfChan c) r := by
    unfold State.hasCredit
    rw [hport]
  have htag : u.freeTag (portOfChan c) = s.freeTag (portOfChan c) := by
    unfold State.freeTag
    rw [hport]
  refine ⟨_, rfl, (congrArg MemPort.wait hkept :).trans (congrArg MemPort.wait hport :), ?_, fun tag hrq hholdq hhas hfree => ?_,
    fun hrq hholdq hnone => ?_, ?_⟩
  · exact requestEffect_of_mem heffect (congrArg State.mem hissued :)
  · have hone : u.mp.rq = [(c, r)] := (congrArg MemPort.rq hport :).trans (congrArg (· ++ [(c, r)]) hrq)
    have hsend := State.issuePort_sends hone ((congrArg MemPort.holdq hport :).trans hholdq) hblocked (hcredit.trans hhas) (htag.trans hfree)
    have hflights : u.mp.flights = s.mp.flights := (congrArg MemPort.flights hport :)
    have hrd : u.mp.rdCredit = s.mp.rdCredit := (congrArg MemPort.rdCredit hport :)
    have hwr : u.mp.wrCredit = s.mp.wrCredit := (congrArg MemPort.wrCredit hport :)
    rw [hflights, hrd, hwr] at hsend
    exact hsend
  · have hone : u.mp.rq = [(c, r)] := (congrArg MemPort.rq hport :).trans (congrArg (· ++ [(c, r)]) hrq)
    have hsame := State.issuePort_waits hone ((congrArg MemPort.holdq hport :).trans hholdq) hblocked (hcredit.trans hnone)
    rw [hsame]
    exact ⟨(congrArg MemPort.flights hport :), hone⟩
  · have hmem : (u.issuePort (portOfChan c)).mem = u.mem := (congrArg State.mem hissued :)
    rw [hmem]
    exact hissued.trans (congrArg (fun x : State => { x with
      mp := (u.issuePort (portOfChan c)).mp, pins := (u.issuePort (portOfChan c)).pins, obs := (u.issuePort (portOfChan c)).obs }) hstate)

/-! ### The next request of a port (R300) -/

/-- The entries of a list that are the first of their key and whose key no other list has. -/
def firsts {α : Type} (same : α → α → Bool) (bad : α → Bool) (l : List α) : List α :=
  l.foldl (fun acc e => if acc.any (fun x => same x e) || bad e then acc else acc ++ [e]) []

theorem firsts_concat {α : Type} (same : α → α → Bool) (bad : α → Bool) (l : List α) (k : α) : firsts same bad (l ++ [k]) =
    if (firsts same bad l).any (fun x => same x k) || bad k then firsts same bad l else firsts same bad l ++ [k] := by
  unfold firsts
  rw [List.foldl_append]
  rfl

theorem firsts_covers {α : Type} {same : α → α → Bool} {bad : α → Bool} (hself : ∀ e, same e e = true) (l : List α) :
    ∀ e ∈ l, bad e = false → (firsts same bad l).any (fun x => same x e) = true := by
  induction l using List.reverseRecOn with
  | nil => exact fun e he => (nomatch he)
  | append_singleton l k ih =>
    intro e he hbad
    rw [firsts_concat]
    rcases List.mem_append.1 he with he | he
    · split
      · exact ih e he hbad
      · rw [List.any_append, ih e he hbad, Bool.true_or]
    · rw [List.mem_singleton.1 he] at hbad ⊢
      split
      · next h => exact (Bool.or_eq_true_iff.1 h).resolve_right (Bool.eq_false_iff.1 hbad)
      · simp [hself k]

theorem firsts_find {α : Type} {same : α → α → Bool} {bad : α → Bool} (hself : ∀ e, same e e = true)
    (hcongr : ∀ x e, same x e = true → bad x = bad e ∧ ∀ y, same y x = same y e) (l : List α) :
    ∀ e ∈ firsts same bad l, l.find? (fun x => same x e) = some e := by
  induction l using List.reverseRecOn with
  | nil => exact fun e he => (nomatch he)
  | append_singleton l k ih =>
    intro e he
    rw [firsts_concat] at he
    rw [List.find?_append]
    split at he
    · rw [ih e he]
      rfl
    · next hnew =>
      rcases List.mem_append.1 he with he | he
      · rw [ih e he]
        rfl
      · rw [List.mem_singleton.1 he]
        have hnew' := Bool.or_eq_false_iff.1 (Bool.eq_false_iff.2 hnew)
        have hnone : l.find? (fun x => same x k) = none := by
          refine List.find?_eq_none.2 fun x hx hxk => ?_
          obtain ⟨hbad, hsame⟩ := hcongr x k hxk
          have hany := firsts_covers hself l x hx (hbad.trans hnew'.2)
          simp only [hsame] at hany
          exact Bool.false_ne_true (hnew'.1.symm.trans hany)
        rw [hnone]
        simp [hself k]

/-- A request of the port, to a channel that does not hold. -/
def State.mine (s : State) (m : Nat) (e : Nat × MemReq) : Bool := decide (portOfChan e.1 = m) && !s.blocked e.1

/-- The fronts of the accepted requests: the first of each channel and class. -/
def State.rqFronts (s : State) (m : Nat) : List (Nat × MemReq) :=
  firsts (fun x e => decide (x.1 = e.1) && decide (x.2.recv = e.2.recv)) (fun _ => false) (s.mp.rq.filter (s.mine m))

/-- The fronts of the held requests: the first of each channel of which no accepted request is left. -/
def State.holdFronts (s : State) (m : Nat) : List (Nat × MemReq) :=
  firsts (fun x e => decide (x.1 = e.1)) (fun e => (s.rqFronts m).any fun x => decide (x.1 = e.1))
    ((s.mp.holdq.filter (s.mine m)).filter fun e => !s.unitBusy e.1 e.2.line.toNat)

theorem State.fronts_eq (s : State) (m : Nat) :
    s.fronts m = (s.holdFronts m).map (fun e => (true, e)) ++ (s.rqFronts m).map fun e => (false, e) := by
  unfold State.holdFronts State.rqFronts firsts
  simp only [Bool.or_false]
  rfl

theorem State.mine_of_mem {s : State} {m : Nat} {l : List (Nat × MemReq)} {e : Nat × MemReq} (h : e ∈ l.filter (s.mine m)) :
    portOfChan e.1 = m ∧ s.blocked e.1 = false := by
  have hmine := (List.mem_filter.1 h).2
  unfold State.mine at hmine
  rw [Bool.and_eq_true, decide_eq_true_iff, Bool.not_eq_true'] at hmine
  exact hmine

/-- Of requests to one channel either all or none belong to a port that may issue them. -/
theorem State.mine_congr {s : State} {m : Nat} {x e : Nat × MemReq} (h : x.1 = e.1) : s.mine m x = s.mine m e := by
  unfold State.mine
  rw [h]

theorem firsts_mem {α : Type} {same : α → α → Bool} {bad : α → Bool} (hself : ∀ e, same e e = true)
    (hcongr : ∀ x e, same x e = true → bad x = bad e ∧ ∀ y, same y x = same y e) {l : List α} {e : α} (h : e ∈ firsts same bad l) : e ∈ l :=
  List.mem_of_find?_eq_some (firsts_find hself hcongr l e h)

theorem State.rqFronts_first {s : State} {m : Nat} {e : Nat × MemReq} (h : e ∈ s.rqFronts m) :
    portOfChan e.1 = m ∧ s.blocked e.1 = false ∧
    s.mp.rq.find? (fun x => decide (x.1 = e.1) && decide (x.2.recv = e.2.recv)) = some e := by
  have hfind := firsts_find (by simp) (by simp +contextual) _ e h
  have hmem := List.mem_of_find?_eq_some hfind
  obtain ⟨hport, hblocked⟩ := State.mine_of_mem hmem
  refine ⟨hport, hblocked, ?_⟩
  rw [List.find?_filter] at hfind
  rw [← hfind]
  refine congrArg (fun p => s.mp.rq.find? p) (funext fun x => ?_)
  by_cases hx : x.1 = e.1
  · rw [State.mine_congr hx, (List.mem_filter.1 hmem).2]
    simp
  · simp [hx]

theorem State.holdFronts_first {s : State} {m : Nat} {e : Nat × MemReq} (h : e ∈ s.holdFronts m) :
    portOfChan e.1 = m ∧ s.blocked e.1 = false ∧
    s.mp.holdq.find? (fun x => decide (x.1 = e.1) && !s.unitBusy x.1 x.2.line.toNat) = some e := by
  have hfind := firsts_find (by simp) (by simp +contextual) _ e h
  have hmem := (List.mem_filter.1 (List.mem_of_find?_eq_some hfind)).1
  obtain ⟨hport, hblocked⟩ := State.mine_of_mem hmem
  refine ⟨hport, hblocked, ?_⟩
  rw [List.find?_filter, List.find?_filter] at hfind
  rw [← hfind]
  refine congrArg (fun p => s.mp.holdq.find? p) (funext fun x => ?_)
  by_cases hx : x.1 = e.1
  · rw [State.mine_congr hx, (List.mem_filter.1 hmem).2]
    simp [hx]
  · simp [hx]

theorem nextReq_does {s : State} {m c : Nat} {held : Bool} {r : MemReq} (h : s.nextReq m = some (held, c, r)) :
    s.hasCredit m r = true ∧ s.blocked c = false ∧ portOfChan c = m ∧
    (held = false → s.mp.rq.find? (fun e => decide (e.1 = c) && decide (e.2.recv = r.recv)) = some (c, r)) ∧
    (held = true → s.mp.holdq.find? (fun e => decide (e.1 = c) && !s.unitBusy e.1 e.2.line.toNat) = some (c, r)) ∧
    (r.recv = false → ∀ f ∈ s.fronts m, s.hasCredit m f.2.2 = true → f.2.2.recv = false) := by
  unfold State.nextReq at h
  dsimp only at h
  have hready : (held, c, r) ∈ (s.fronts m).filter fun f => s.hasCredit m f.2.2 := by
    rcases Option.or_eq_some_iff.1 h with h | ⟨-, h⟩
    · exact List.mem_of_find?_eq_some h
    · exact List.mem_of_head? h
  have hrecv : r.recv = false → ∀ f ∈ s.fronts m, s.hasCredit m f.2.2 = true → f.2.2.recv = false := by
    intro hr f hf hcredit
    rcases Option.or_eq_some_iff.1 h with h | ⟨h, -⟩
    · exact absurd ((List.find?_some h).symm.trans hr) (by simp)
    · exact Bool.eq_false_iff.2 (List.find?_eq_none.1 h f (List.mem_filter.2 ⟨hf, hcredit⟩))
  obtain ⟨hfront, hcredit⟩ := List.mem_filter.1 hready
  rw [State.fronts_eq] at hfront
  rcases List.mem_append.1 hfront with hin | hin
  · obtain ⟨e, he, heq⟩ := List.mem_map.1 hin
    cases heq
    obtain ⟨hport, hblocked, hfirst⟩ := State.holdFronts_first he
    exact ⟨hcredit, hblocked, hport, fun hheld => (nomatch hheld), fun _ => hfirst, hrecv⟩
  · obtain ⟨e, he, heq⟩ := List.mem_map.1 hin
    cases heq
    obtain ⟨hport, hblocked, hfirst⟩ := State.rqFronts_first he
    exact ⟨hcredit, hblocked, hport, fun _ => hfirst, fun hheld => (nomatch hheld), hrecv⟩

/-! ### The controller's answer (R297, R305) -/

/-- The first lost read since MEM_RESUME is recorded with its address. -/
def State.recordLost (s : State) (l : Nat) : State :=
  if s.mp.lostPending then s
  else ({ s with mp := { s.mp with lostPending := true, lostAddr := 256 * l } } : State).raiseInt 4

/-- The half of a lost read is among the halves that wait for MEM_RESUME. -/
def State.recordHalf (s : State) (h : Option Half) : State :=
  { s with mp := { s.mp with lostHalves := h.elim s.mp.lostHalves fun h =>
    if s.mp.lostHalves.contains h then s.mp.lostHalves else h :: s.mp.lostHalves } }

theorem State.lostRead_eq (s : State) (l : Nat) (h : Option Half) : s.lostRead l h =
    (((s.bump 0x0D0038 1).recordLost l).recordHalf h).report ⟨0x0A, h, 0, 0xFFFF, BitVec.ofNat 64 (256 * l), false⟩ := by
  cases h
  · rfl
  · rfl

theorem State.recordLost_does (s : State) (l : Nat) : (s.recordLost l).reg 0x0D0038 = s.reg 0x0D0038 ∧
    (s.recordLost l).mp.lostPending = true ∧
    (s.mp.lostPending = false → (s.recordLost l).mp.lostAddr = 256 * l ∧ (s.recordLost l).fld 0x2800 4 4 = 1) ∧
    (s.mp.lostPending = true → (s.recordLost l).mp.lostAddr = s.mp.lostAddr) ∧ (s.recordLost l).ref = s.ref := by
  unfold State.recordLost
  cases hpending : s.mp.lostPending
  · rw [if_neg Bool.false_ne_true]
    exact ⟨State.setFld_reg_other ({ s with mp := { s.mp with lostPending := true, lostAddr := 256 * l } } : State) 4 4 1 (by decide), rfl,
      fun _ => ⟨rfl, State.setFld_fld_same ({ s with mp := { s.mp with lostPending := true, lostAddr := 256 * l } } : State) _ _ _ _
        (by decide) (by decide)⟩, fun h => (nomatch h), rfl⟩
  · rw [if_pos rfl]
    exact ⟨rfl, hpending, fun h => (nomatch h), fun _ => rfl, rfl⟩

/-- What a lost read counts, records and reports (R305). -/
theorem State.lostRead_does (s : State) (l : Nat) (h : Option Half) :
    (s.lostRead l h).reg 0x0D0038 = s.reg 0x0D0038 + 1 ∧ (s.lostRead l h).mp.lostPending = true ∧
    (s.mp.lostPending = false → (s.lostRead l h).mp.lostAddr = 256 * l ∧ (s.lostRead l h).fld 0x2800 4 4 = 1) ∧
    (s.mp.lostPending = true → (s.lostRead l h).mp.lostAddr = s.mp.lostAddr) ∧
    (s.lostRead l h).ref = { s.ref with faults := s.ref.faults ++ [⟨0x0A, h, 0, 0xFFFF, BitVec.ofNat 64 (256 * l), false⟩] } := by
  rw [State.lostRead_eq]
  have hcount := s.bump_reg_same 0x0D0038 1
  have hbump := s.bump_eq 0x0D0038 1
  generalize s.bump 0x0D0038 1 = t at hcount hbump
  obtain ⟨hreg, hpending, hfirst, hlater, href⟩ := t.recordLost_does l
  generalize t.recordLost l = u at hreg hpending hfirst hlater href
  have hmp : t.mp = s.mp := (congrArg State.mp hbump :)
  rw [hmp] at hfirst hlater
  refine ⟨hreg.trans hcount, hpending, hfirst, hlater, ?_⟩
  have hrefs : u.ref = s.ref := href.trans (congrArg State.ref hbump :)
  rw [← hrefs]
  rfl

theorem exec_memResponse {s : State} {m : Fin 40} {tag : Byte} {f : Flight} (status : BitVec 2)
    (hf : s.mp.flights.find? (fun f => decide (f.port = m.val) && decide (f.tag = tag)) = some f) :
    exec (.memResponse m tag status) s = .next ((if f.req.op ≠ .write ∧ (s.lineLost f.req.line.toNat ∨ status = 3) then
        ({ s with mp := { s.mp with flights := s.mp.flights.erase f } } : State).lostRead f.req.line.toNat f.req.half
      else if status = 1 then
        ({ s with mp := { s.mp with flights := s.mp.flights.erase f } } : State).corrected f.ch (f.req.line.toNat / 640 / 8)
      else if status = 2 then
        ({ s with mp := { s.mp with flights := s.mp.flights.erase f } } : State).uncorrectable f (f.req.line.toNat / 640 / 8)
      else { s with mp := { s.mp with flights := s.mp.flights.erase f } }).maintSend.memRun) := by
  have hexec : exec (.memResponse m tag status) s = execMemResponse m tag status s := rfl
  rw [hexec]
  unfold execMemResponse
  rw [hf]
  rfl

theorem State.maintSend_none {s : State} (h : s.mp.maint = []) : s.maintSend = s := by
  unfold State.maintSend
  rw [h]

theorem memResponse_done {s : State} {m : Fin 40} {tag : Byte} {f : Flight} (hrq : s.mp.rq = []) (hholdq : s.mp.holdq = [])
    (hwait : s.mp.wait = []) (hmaint : s.mp.maint = [])
    (hf : s.mp.flights.find? (fun f => decide (f.port = m.val) && decide (f.tag = tag)) = some f)
    (h : f.req.op = .write ∨ s.lineLost f.req.line.toNat = false) :
    exec (.memResponse m tag 0) s = .next { s with mp := { s.mp with flights := s.mp.flights.erase f } } := by
  have hkept : ¬ (f.req.op ≠ .write ∧ (s.lineLost f.req.line.toNat = true ∨ (0 : BitVec 2) = 3)) := by
    rintro ⟨hop, hlost | hstatus⟩
    · exact Bool.false_ne_true ((h.resolve_left hop).symm.trans hlost)
    · exact absurd hstatus (by decide)
  rw [exec_memResponse 0 hf, if_neg hkept, if_neg (by decide), if_neg (by decide)]
  have hsend := State.maintSend_none (s := { s with mp := { s.mp with flights := s.mp.flights.erase f } }) hmaint
  exact congrArg Host.Outcome.next ((congrArg State.memRun hsend).trans (State.memRun_idle hrq hholdq hwait))

theorem memResponse_lost {s : State} {m : Fin 40} {tag : Byte} {status : BitVec 2} {f : Flight} (hrq : s.mp.rq = [])
    (hholdq : s.mp.holdq = []) (hwait : s.mp.wait = []) (hmaint : s.mp.maint = [])
    (hf : s.mp.flights.find? (fun f => decide (f.port = m.val) && decide (f.tag = tag)) = some f) (hop : f.req.op ≠ .write)
    (hlost : s.lineLost f.req.line.toNat = true ∨ status = 3) :
    ∃ t, exec (.memResponse m tag status) s = .next t ∧ t.mp.flights = s.mp.flights.erase f ∧
      t.reg 0x0D0038 = s.reg 0x0D0038 + 1 ∧ t.mp.lostPending = true ∧
      (s.mp.lostPending = false → t.mp.lostAddr = 256 * f.req.line.toNat ∧ t.fld 0x2800 4 4 = 1) ∧
      (s.mp.lostPending = true → t.mp.lostAddr = s.mp.lostAddr) ∧
      t.ref = { s.ref with faults := s.ref.faults ++
        [⟨0x0A, f.req.half, 0, 0xFFFF, BitVec.ofNat 64 (256 * f.req.line.toNat), false⟩] } ∧
      t = { s with mp := t.mp, regs := t.regs, ref := t.ref } := by
  rw [exec_memResponse status hf, if_pos ⟨hop, hlost⟩]
  generalize hu : ({ s with mp := { s.mp with flights := s.mp.flights.erase f } } : State) = u
  obtain ⟨hstate, hport⟩ := u.lostRead_frame f.req.line.toNat f.req.half
  obtain ⟨hcount, hpending, hfirst, hlater, href⟩ := u.lostRead_does f.req.line.toNat f.req.half
  generalize u.lostRead f.req.line.toNat f.req.half = t at hstate hport hcount hpending hfirst hlater href
  subst hu
  have hrun : t.maintSend.memRun = t := by
    rw [State.maintSend_none ((congrArg MemPort.maint hport :).trans hmaint)]
    exact State.memRun_idle ((congrArg MemPort.rq hport :).trans hrq) ((congrArg MemPort.holdq hport :).trans hholdq)
      ((congrArg MemPort.wait hport :).trans hwait)
  rw [hrun]
  refine ⟨t, rfl, (congrArg MemPort.flights hport :), hcount, hpending, hfirst, hlater, href, ?_⟩
  have hsame : { s.ref with faults := t.ref.faults } = t.ref := by
    rw [href]
  rw [← hsame]
  exact hstate

/-- Settles O35: acceptance, the choice of the port, and the answer that ends a request. -/
theorem memoryTraffic : Obligations.MemoryTraffic := by
  unfold Obligations.MemoryTraffic
  refine ⟨fun s r c m hok hc hm => ⟨fun hbeyond => if_pos hbeyond, fun hin hadd hdead hholds hbusy hfirst => ?_⟩,
    fun s m held c r h => nextReq_does h, fun s m tag status f hrq hholdq hwait hmaint hf => ⟨fun h hstatus => ?_, fun hop hlost => ?_⟩⟩
  · subst hm
    obtain ⟨t, ht, hwait, ⟨hread, hwrite, hadded⟩, hrest⟩ := memRequest_accepted hok hc hin hadd hdead hholds hbusy hfirst
    exact ⟨t, ht, hwait, hread, hwrite, hadded, hrest⟩
  · subst hstatus
    exact memResponse_done hrq hholdq hwait hmaint hf h
  · exact memResponse_lost hrq hholdq hwait hmaint hf hop hlost

end Sys2Proof.Machine
end

section
/-! PROOF. Failures in kickoff (R325, R331, R332). -/

namespace Sys2Proof.Machine

open Safety

/-! ### Log entries and the policy -/

theorem State.setImgs_kick (s : State) (l : List (Nat × Word)) :
    (s.setImgs l).kick = { s.kick with img := (s.setImgs l).kick.img, nvsq := (s.setImgs l).kick.nvsq } := by
  induction l generalizing s with
  | nil => rfl
  | cons p l ih => exact (ih (s.setImg p.1 p.2)).trans rfl

/-- A log entry changes the on-block image and the words that wait for the store. -/
theorem State.logEntry_kick (s : State) (e : LogEnt) :
    (s.logEntry e).kick = { s.kick with img := (s.logEntry e).kick.img, nvsq := (s.logEntry e).kick.nvsq } := State.setImgs_kick _ _

/-- The action of the policy for a failure (R331): the first until the failure has repeated often enough. -/
def State.action (s : State) (n : Nat) (cause : Byte) (item : BitVec 16) : Nat :=
  if s.repeats n cause item < (s.policyFor n cause).2.2 then (s.policyFor n cause).1 else (s.policyFor n cause).2.1

/-- The log entry of an action that passes. -/
def State.actionEntry (s : State) (n : Nat) (f : KFail) (outcome : Nat) : State :=
  s.logEntry ⟨n, outcome, f.cause, f.item, s.action n f.cause f.item, Min.min (s.repeats n f.cause f.item) 255, []⟩

theorem State.actionEntry_st (s : State) (n : Nat) (f : KFail) (outcome : Nat) : (s.actionEntry n f outcome).kick.st = s.kick.st :=
  (congrArg Kickoff.st (s.logEntry_kick _) :)

theorem State.kFail_eq {s : State} (n : Nat) (f : KFail) (canSkip canAlter : Bool) (h : s.kick.st = 1) :
    s.kFail n f canSkip canAlter =
      if s.action n f.cause f.item = 1 ∧ canSkip then (1, s.actionEntry n f 2)
      else if s.action n f.cause f.item = 2 ∧ canAlter then
        (if f.retryOk then (2, s.actionEntry n f 3) else (0, s.stopKick n f 2 (s.repeats n f.cause f.item)))
      else (0, s.stopKick n f 3 (s.repeats n f.cause f.item)) := by
  unfold State.kFail
  rw [if_neg (by omega)]
  rfl

/-- Kickoff has stopped at a step, with cause and item, and has raised its interrupt (R332). -/
structure Stopped (s t : State) (n : Nat) (f : KFail) : Prop where
  st : t.kick.st = 3
  step : t.kick.stopStep = n
  cause : t.kick.cause = f.cause
  item : t.kick.item = f.item
  int : t.fld 0x2800 0 0 = 1
  frame : t = { s with kick := t.kick, regs := t.regs }
  kick : t.kick.tried = s.kick.tried

theorem State.stopKick_stopped (s : State) (n : Nat) (f : KFail) (action rpt : Nat) : Stopped s (s.stopKick n f action rpt) n f := by
  unfold State.stopKick
  dsimp only
  have hframe := s.logEntry_eq ⟨n, 4, f.cause, f.item, action, Min.min rpt 255, []⟩
  have htried := (congrArg Kickoff.tried (s.logEntry_kick ⟨n, 4, f.cause, f.item, action, Min.min rpt 255, []⟩) :)
  generalize s.logEntry _ = t at hframe htried
  have hkick := congrArg (fun x : State => { x with kick := { t.kick with st := 3, stopStep := n, cause := f.cause, item := f.item } }) hframe
  dsimp only at hkick
  rw [hkick]
  exact ⟨rfl, rfl, rfl, rfl, State.setFld_fld_same _ _ _ _ _ (by decide) (by decide), rfl, htried⟩

/-- A failure whose action the step does not offer, or whose run fails, stops kickoff. -/
theorem State.kFail_stops {s : State} {n : Nat} {f : KFail} {canSkip canAlter : Bool} (hst : s.kick.st = 1)
    (hskip : canSkip = false ∨ s.action n f.cause f.item ≠ 1)
    (halter : canAlter = false ∨ s.action n f.cause f.item ≠ 2 ∨ f.retryOk = false) :
    (s.kFail n f canSkip canAlter).1 = 0 ∧ Stopped s (s.kFail n f canSkip canAlter).2 n f := by
  have hnoSkip : ¬ (s.action n f.cause f.item = 1 ∧ canSkip = true) := by
    rintro ⟨hact, hcan⟩
    exact hskip.elim (fun h => Bool.false_ne_true (h.symm.trans hcan)) (fun h => h hact)
  rw [State.kFail_eq n f canSkip canAlter hst, if_neg hnoSkip]
  split
  · next hact =>
    have hretry : f.retryOk = false := by
      rcases halter with h | h | h
      · exact absurd (h.symm.trans hact.2) Bool.false_ne_true
      · exact absurd hact.1 h
      · exact h
    rw [hretry]
    exact ⟨rfl, s.stopKick_stopped _ _ _ _⟩
  · exact ⟨rfl, s.stopKick_stopped _ _ _ _⟩

theorem State.kFail_alters {s : State} {n : Nat} {f : KFail} {canSkip : Bool} (hst : s.kick.st = 1)
    (hact : s.action n f.cause f.item = 2) (hretry : f.retryOk = true) :
    ∃ t, s.kFail n f canSkip true = (2, t) ∧ t.kick.st = 1 ∧ t = { s with kick := t.kick } := by
  refine ⟨s.actionEntry n f 3, ?_, (s.actionEntry_st n f 3).trans hst, s.logEntry_eq _⟩
  rw [State.kFail_eq n f canSkip true hst, if_neg (by omega), if_pos ⟨hact, rfl⟩, if_pos hretry]

theorem State.kFail_skips {s : State} {n : Nat} {f : KFail} {canAlter : Bool} (hst : s.kick.st = 1)
    (hact : s.action n f.cause f.item = 1) :
    ∃ t, s.kFail n f true canAlter = (1, t) ∧ t.kick.st = 1 ∧ t = { s with kick := t.kick } := by
  refine ⟨s.actionEntry n f 2, ?_, (s.actionEntry_st n f 2).trans hst, s.logEntry_eq _⟩
  rw [State.kFail_eq n f true canAlter hst, if_pos ⟨hact, rfl⟩]

theorem State.kReady_iff {s : State} {n : Nat} : s.kReady n = true ↔ s.kick.st = 1 ∧ s.kick.step = n ∧ s.kick.nvsq = [] := by
  unfold State.kReady
  rw [Bool.and_eq_true, Bool.and_eq_true, decide_eq_true_iff, decide_eq_true_iff, List.isEmpty_iff, and_assoc]

theorem State.kPass_stopped {s : State} (n : Nat) (repaired : Bool) (detail : List Byte) (h : s.kick.st ≠ 1) :
    s.kPass n repaired detail = s := if_pos h

theorem State.readAndCount_done {s : State} (h : s.kick.note = 1) : s.readAndCount = s := if_pos h

theorem State.lateLock_none {s : State} (h : s.kick.lockMiss = none) : s.lateLock = s := by
  unfold State.lateLock
  rw [h]

theorem State.not_answered {s : State} (cause : Byte) (h : s.kick.tried = []) : s.answered cause = false := by
  unfold State.answered
  rw [h]
  rfl

theorem State.not_reading_counted {s : State} (h : s.kick.note = 1) : s.reading = false := by
  unfold State.reading
  rw [h]
  simp

/-! ### The failures -/

theorem kickoffK0_noReference {s : State} {i : K0In} (hready : s.kReady 0 = true) (htried : s.kick.tried = []) (hnote : s.kick.note = 1)
    (hmiss : s.kick.lockMiss = none) (himage : s.kick.readImage = false) (hcount : i.count = 0) (hlock : i.lockTime.toNat ≤ 7812) :
    ∃ t, exec (.kickoffK0 i) s = .next t ∧ t.kick.st = 3 ∧ t.kick.stopStep = 0 ∧ t.kick.cause = 0x01 ∧ t.kick.item = 0 ∧
      t.fld 0x2800 0 0 = 1 ∧ t.kick.locked = false := by
  obtain ⟨hst, -, -⟩ := State.kReady_iff.1 hready
  obtain ⟨-, hstop⟩ := State.kFail_stops (s := s) (n := 0) (f := ⟨0x01, 0, false⟩) hst (Or.inl rfl) (Or.inl rfl)
  have hexec : exec (.kickoffK0 i) s = execKickoffK0 i s := rfl
  have hruns : ¬ ((!s.kReady 0) = true ∨ (s.reading = true ∧ i.readOk = true) ∨
      (7812 < i.lockTime.toNat ∧ (!s.answered 0x03) = true ∧ s.kick.lockMiss = none)) := by
    rw [hready, State.not_reading_counted hnote]
    simp
    omega
  rw [hexec]
  unfold execKickoffK0
  rw [if_neg hruns, State.not_answered _ htried, himage, State.readAndCount_done hnote]
  dsimp only
  simp only [Bool.false_eq_true, false_and, if_false]
  rw [State.lateLock_none hmiss, if_pos hcount]
  generalize (s.kFail 0 ⟨0x01, 0, false⟩ false false).2 = t at hstop
  rw [State.kPass_stopped _ _ _ (by rw [hstop.st]; decide)]
  exact ⟨_, rfl, hstop.st, hstop.step, hstop.cause, hstop.item, hstop.int, decide_eq_false (by rw [hstop.st]; decide)⟩

theorem kickoffK1_dividers {s : State} {i : K1In} (hready : s.kReady 1 = true) (hphase : i.phaseOk = false) (hretry : i.retryOk = false) :
    ∃ t, exec (.kickoffK1 i) s = .next t ∧ t.kick.st = 3 ∧ t.kick.stopStep = 1 ∧ t.kick.cause = 0x10 ∧ t.kick.item = 0 ∧
      t.fld 0x2800 0 0 = 1 ∧ t.spcnt = s.spcnt := by
  obtain ⟨hst, -, -⟩ := State.kReady_iff.1 hready
  obtain ⟨-, hstop⟩ := State.kFail_stops (s := s) (n := 1) (f := ⟨0x10, 0, i.retryOk⟩) (canAlter := true) hst (Or.inl rfl)
    (Or.inr (Or.inr hretry))
  have hexec : exec (.kickoffK1 i) s = execKickoffK1 i s := rfl
  rw [hexec]
  unfold execKickoffK1
  rw [hready, hphase]
  dsimp only
  simp only [Bool.not_true, Bool.false_eq_true, if_false]
  generalize (s.kFail 1 ⟨0x10, 0, i.retryOk⟩ false true).2 = t at hstop
  rw [if_pos (by rw [hstop.st]; decide)]
  exact ⟨t, rfl, hstop.st, hstop.step, hstop.cause, hstop.item, hstop.int, (congrArg State.spcnt hstop.frame :)⟩

/-- The start goes on without the marker. -/
def State.goAlone (s : State) : State := { s with kick := { s.kick with alone := true } }

theorem State.goAlone_follows (s : State) : s.goAlone.follows = false := Bool.and_false _

theorem State.goAlone_st (s : State) : s.goAlone.kick.st = s.kick.st := rfl

theorem exec_spmMarkerTimeout {s t : State} {a : Nat} (hready : s.kReady 1 = true) (hfollows : s.follows = true)
    (hfail : s.kFail 1 ⟨0x11, 0, true⟩ false true = (a, t)) :
    exec .spmMarkerTimeout s = .next (if a = 2 then t.goAlone else t) := by
  have hexec : exec .spmMarkerTimeout s = execSpmMarkerTimeout s := rfl
  have hruns : ¬ ((!s.kReady 1) = true ∨ (!s.follows) = true) := by
    rw [hready, hfollows]
    decide
  rw [hexec]
  unfold execSpmMarkerTimeout
  rw [if_neg hruns, hfail]
  rfl

theorem spmMarkerTimeout_does {s : State} (hready : s.kReady 1 = true) (hfollows : s.follows = true) :
    (s.action 1 0x11 0 = 2 → ∃ t, exec .spmMarkerTimeout s = .next t ∧ t.kick.st = 1 ∧ t.follows = false) ∧
    (s.action 1 0x11 0 ≠ 2 → ∃ t, exec .spmMarkerTimeout s = .next t ∧ t.kick.st = 3 ∧ t.kick.cause = 0x11 ∧ t.fld 0x2800 0 0 = 1) := by
  obtain ⟨hst, -, -⟩ := State.kReady_iff.1 hready
  refine ⟨fun hact => ?_, fun hact => ?_⟩
  · obtain ⟨t, hfail, htst, -⟩ := State.kFail_alters (s := s) (n := 1) (f := ⟨0x11, 0, true⟩) (canSkip := false) hst hact rfl
    exact ⟨t.goAlone, (exec_spmMarkerTimeout hready hfollows hfail).trans (congrArg _ (if_pos rfl)), t.goAlone_st.trans htst,
      t.goAlone_follows⟩
  · obtain ⟨hzero, hstop⟩ := State.kFail_stops (s := s) (n := 1) (f := ⟨0x11, 0, true⟩) (canSkip := false) (canAlter := true) hst
      (Or.inl rfl) (Or.inr (Or.inl hact))
    generalize hfail : s.kFail 1 ⟨0x11, 0, true⟩ false true = p at hzero hstop
    obtain ⟨a, t⟩ := p
    have ha : a = 0 := hzero
    subst ha
    exact ⟨t, (exec_spmMarkerTimeout hready hfollows hfail).trans (congrArg _ (if_neg (by decide))), hstop.st, hstop.cause, hstop.int⟩

theorem exec_pllLockTimeout {s : State} (ok : Bool) (hready : s.kReady 0 = true) (htried : s.kick.tried = []) (hnote : s.kick.note = 1) :
    exec (.pllLockTimeout ok) s = .next (((s.kFail 0 ⟨0x03, 0, ok⟩ false true).2).answer 0x03) := by
  have hexec : exec (.pllLockTimeout ok) s = execPllLockTimeout ok s := rfl
  rw [hexec]
  unfold execPllLockTimeout
  rw [hready, State.not_answered _ htried, State.not_reading_counted hnote, State.readAndCount_done hnote]
  rfl

theorem pllLockTimeout_does {s : State} (ok : Bool) (hready : s.kReady 0 = true) (htried : s.kick.tried = []) (hnote : s.kick.note = 1) :
    (s.action 0 0x03 0 = 2 → ok = true → ∃ t, exec (.pllLockTimeout ok) s = .next t ∧ t.kick.st = 1 ∧ t.answered 0x03 = true) ∧
    (s.action 0 0x03 0 ≠ 2 ∨ ok = false → ∃ t, exec (.pllLockTimeout ok) s = .next t ∧ t.kick.st = 3 ∧ t.kick.cause = 0x03 ∧
      t.fld 0x2800 0 0 = 1) := by
  obtain ⟨hst, -, -⟩ := State.kReady_iff.1 hready
  rw [exec_pllLockTimeout ok hready htried hnote]
  refine ⟨fun hact hok => ?_, fun h => ?_⟩
  · obtain ⟨t, hfail, htst, -⟩ := State.kFail_alters (s := s) (n := 0) (f := ⟨0x03, 0, ok⟩) (canSkip := false) hst hact hok
    rw [hfail]
    exact ⟨_, rfl, htst, List.contains_iff_mem.2 (List.mem_append_right _ List.mem_cons_self)⟩
  · obtain ⟨-, hstop⟩ := State.kFail_stops (s := s) (n := 0) (f := ⟨0x03, 0, ok⟩) (canAlter := true) hst (Or.inl rfl) (Or.inr h)
    exact ⟨_, rfl, hstop.st, hstop.cause, hstop.int⟩

theorem linkPartnerTimeout_does {s : State} {l : Fin 64} {item : BitVec 16} (hready : s.kReady 5 = true) (hl : l.val < s.nLink)
    (hport : (s.port l.val).st = 0) (hitem : item = BitVec.ofNat 16 (0x4000 + l.val)) :
    (s.action 5 0x53 item = 1 → ∃ t, exec (.linkPartnerTimeout l) s = .next t ∧ t.kick.st = 1 ∧ (t.port l).st = 5) ∧
    (s.action 5 0x53 item ≠ 1 → ∃ t, exec (.linkPartnerTimeout l) s = .next t ∧ t.kick.st = 3 ∧ t.kick.cause = 0x53 ∧
      t.kick.item = item) := by
  obtain ⟨hst, -, -⟩ := State.kReady_iff.1 hready
  have hruns : ¬ ((!s.kReady 5) = true ∨ s.nLink ≤ l.val ∨ (s.port l.val).st ≠ 0) := by
    rw [hready, hport]
    simp
    omega
  have hexec : exec (.linkPartnerTimeout l) s = .next (if (s.kFail 5 ⟨0x53, item, false⟩ true false).1 = 1 then
      (s.kFail 5 ⟨0x53, item, false⟩ true false).2.setPort l.val
        { (s.kFail 5 ⟨0x53, item, false⟩ true false).2.port l.val with st := 5 }
      else (s.kFail 5 ⟨0x53, item, false⟩ true false).2) := by
    rw [hitem]
    exact congrArg Host.Outcome.next (if_neg hruns)
  rw [hexec]
  refine ⟨fun hact => ?_, fun hact => ?_⟩
  · obtain ⟨t, hfail, htst, -⟩ := State.kFail_skips (s := s) (n := 5) (f := ⟨0x53, item, false⟩) (canAlter := false) hst hact
    rw [hfail, if_pos rfl]
    exact ⟨_, rfl, htst, congrArg Port.st (State.setPort_port_same _ _ _)⟩
  · obtain ⟨hzero, hstop⟩ := State.kFail_stops (s := s) (n := 5) (f := ⟨0x53, item, false⟩) (canSkip := true) (canAlter := false) hst
      (Or.inr hact) (Or.inl rfl)
    rw [if_neg (by rw [hzero]; decide)]
    exact ⟨_, rfl, hstop.st, hstop.cause, hstop.item⟩

/-- Settles O46: the action of the policy decides between a stop and what the step's action does. -/
theorem kickoffFailures : Obligations.KickoffFailures := by
  unfold Obligations.KickoffFailures
  intro s act hst hnvsq htried hnote hmiss hact
  have hready {n : Nat} (hstep : s.kick.step = n) : s.kReady n = true := State.kReady_iff.2 ⟨hst, hstep, hnvsq⟩
  have haction (cause : Byte) (n : Nat) (item : BitVec 16) : act cause n item = s.action n cause item := hact cause n item
  refine ⟨fun i hstep himage hcount hlock => kickoffK0_noReference (hready hstep) htried hnote hmiss himage hcount hlock,
    fun i hstep hphase hretry => kickoffK1_dividers (hready hstep) hphase hretry, fun hstep hfollows => ?_, fun ok hstep => ?_,
    fun l item hstep hl hport hitem => ?_⟩
  · rw [haction]
    exact spmMarkerTimeout_does (hready hstep) hfollows
  · rw [haction]
    exact pllLockTimeout_does ok (hready hstep) htried hnote
  · rw [haction]
    exact linkPartnerTimeout_does (hready hstep) hl hport hitem

end Sys2Proof.Machine
end

section
/-! PROOF. Resets (R318, R321 to R323). -/

namespace Sys2Proof.Machine

open Safety

/-- An index that a filter keeps reads as before. -/
theorem Tab.get_filter_kept {α : Type} {d : α} {k : Nat} {p : Nat × α → Bool} (h : ∀ a, p (k, a) = true) (t : Tab α) :
    Tab.get d (t.filter p) k = Tab.get d t k := by
  induction t with
  | nil => rfl
  | cons e t ih =>
    obtain ⟨i, a⟩ := e
    by_cases hi : i = k
    · subst hi
      rw [List.filter_cons_of_pos (h a)]
      exact (if_pos rfl).trans (if_pos rfl).symm
    · have hcons : Tab.get d ((i, a) :: t) k = Tab.get d t k := if_neg hi
      rw [hcons, ← ih]
      cases hp : p (i, a)
      · rw [List.filter_cons_of_neg (by rw [hp]; exact Bool.false_ne_true)]
      · rw [List.filter_cons_of_pos hp]
        exact if_neg hi

/-- A word write that a reset interrupts may or may not have taken place; nothing else changes. -/
theorem State.tearWrite_eq (s : State) : s.tearWrite = { s with
    free := s.tearWrite.free, kick := { s.kick with nvsq := s.tearWrite.kick.nvsq, nvs := s.tearWrite.kick.nvs } } := by
  unfold State.tearWrite
  split
  · rfl
  · rfl

theorem State.tearWrite_idle {s : State} (h : s.kick.nvsq = []) : s.tearWrite = s := by
  unfold State.tearWrite
  rw [h]

/-- What a reset leaves (R321): the stacks, and at a warm reset the on-block image and the registers that R321 names. -/
structure WasReset (warm : Bool) (s t : State) : Prop where
  st : t.kick.st = 0
  read : t.kick.readImage = !warm
  img : t.kick.img = if warm then s.kick.img else []
  frame : t = { State.reset with pending := s.pending, gradeB := s.gradeB, mem := s.mem, regs := t.regs, free := t.free, kick := t.kick }
  kept : warm = true → ∀ o ∈ warmKept, t.reg o = s.reg o
  others : ∀ o, o ∉ warmKept → t.reg o = State.reset.reg o
  cold : warm = false → t.regs = []

theorem State.toReset_does (s : State) (warm : Bool) : WasReset warm s (s.toReset warm) := by
  unfold State.toReset
  rw [State.tearWrite_eq]
  dsimp only
  generalize s.tearWrite.free = f
  generalize s.tearWrite.kick = k
  refine ⟨rfl, rfl, rfl, rfl, fun hwarm o ho => ?_, fun o ho => ?_, fun hcold => ?_⟩
  · rw [hwarm]
    exact congrArg (·.getD (resetAt o)) (Tab.get_filter_kept (p := fun e => warmKept.contains e.1)
      (fun _ => List.contains_iff_mem.2 ho) s.regs)
  · cases warm
    · rfl
    · exact congrArg (·.getD (resetAt o)) (Tab.get_filter_none (p := fun e => warmKept.contains e.1)
        (fun _ => State.contains_false ho) s.regs)
  · rw [hcold]
    rfl

theorem powerOnReset_does (s : State) : ∃ t, exec .powerOnReset s = .next t ∧ t.kick.st = 0 ∧ t.kick.power = true ∧
    t.kick.readImage = true ∧ t.kick.img = [] ∧
    t = { State.reset with pending := s.pending, gradeB := s.gradeB, mem := s.mem, free := t.free, kick := t.kick } ∧
    (s.kick.nvsq = [] → t.kick.nvs = s.kick.nvs) := by
  have hexec : exec .powerOnReset s = .next { s.toReset false with
    kick := { (s.toReset false).kick with power := true, warm := s.kick.warm } } := rfl
  have htorn : (s.toReset false).kick.nvs = s.tearWrite.kick.nvs := rfl
  have hnvs : s.kick.nvsq = [] → (s.toReset false).kick.nvs = s.kick.nvs := fun h => by
    rw [htorn, State.tearWrite_idle h]
  obtain ⟨hst, hread, himg, hframe, -, -, hregs⟩ := s.toReset_does false
  rw [hexec]
  generalize s.toReset false = t at hnvs hst hread himg hframe hregs
  refine ⟨_, rfl, hst, rfl, hread, himg, ?_, hnvs⟩
  rw [hregs rfl] at hframe
  exact congrArg (fun x : State => { x with kick := { t.kick with power := true, warm := s.kick.warm } }) hframe

theorem warmReset_does {s : State} (h : s.kick.st ≠ 0) : ∃ t, exec .warmReset s = .next t ∧ t.kick.st = 0 ∧ t.kick.warm = true ∧
    t.kick.readImage = false ∧ t.kick.img = s.kick.img ∧ (∀ o ∈ warmKept, t.reg o = s.reg o) ∧
    (∀ o, o ∉ warmKept → t.reg o = State.reset.reg o) ∧
    t = { State.reset with pending := s.pending, gradeB := s.gradeB, mem := s.mem, regs := t.regs, free := t.free, kick := t.kick } := by
  have hexec : exec .warmReset s = .next { (if s.kick.st = 0 then s else s.toReset true) with
    kick := { (if s.kick.st = 0 then s else s.toReset true).kick with power := s.kick.power, warm := true } } := rfl
  obtain ⟨hst, hread, himg, hframe, hkept, hothers, -⟩ := s.toReset_does true
  rw [hexec, if_neg h]
  generalize s.toReset true = t at hst hread himg hframe hkept hothers
  exact ⟨_, rfl, hst, rfl, hread, himg, hkept rfl, hothers,
    congrArg (fun x : State => { x with kick := { t.kick with power := s.kick.power, warm := true } }) hframe⟩

theorem warmReset_inReset {s : State} (h : s.kick.st = 0) : exec .warmReset s = .next { s with kick := { s.kick with warm := true } } := by
  have hexec : exec .warmReset s = .next { (if s.kick.st = 0 then s else s.toReset true) with
    kick := { (if s.kick.st = 0 then s else s.toReset true).kick with power := s.kick.power, warm := true } } := rfl
  rw [hexec, if_pos h]

theorem exec_resetRelease (s : State) (p w : Bool) : exec (.resetRelease p w) s =
    .next (if s.kick.st = 0 ∧ (!(s.kick.power && !p)) = true ∧ (!(s.kick.warm && !w)) = true then
      ({ s with kick := { s.kick with power := s.kick.power && !p, warm := s.kick.warm && !w } } : State).begin
      else { s with kick := { s.kick with power := s.kick.power && !p, warm := s.kick.warm && !w } }) := rfl

theorem resetRelease_inReset {s : State} (p w : Bool) (h : s.kick.st = 0) : ∃ t, exec (.resetRelease p w) s = .next t ∧
    t = { s with kick := t.kick } ∧ t.kick.power = (s.kick.power && !p) ∧ t.kick.warm = (s.kick.warm && !w) ∧
    (t.kick.power = false ∧ t.kick.warm = false → t.kick.st = 1 ∧ t.kick.step = 0) ∧
    (t.kick.power = true ∨ t.kick.warm = true → t.kick.st = 0) := by
  rw [exec_resetRelease]
  generalize (s.kick.power && !p) = a
  generalize (s.kick.warm && !w) = b
  by_cases hab : a = false ∧ b = false
  · obtain ⟨rfl, rfl⟩ := hab
    rw [if_pos ⟨h, rfl, rfl⟩]
    exact ⟨_, rfl, rfl, rfl, rfl, fun _ => ⟨rfl, rfl⟩, fun hhigh => hhigh.elim (fun h => nomatch h) (fun h => nomatch h)⟩
  · rw [if_neg fun hlow => hab ⟨Bool.not_eq_true' a ▸ hlow.2.1, Bool.not_eq_true' b ▸ hlow.2.2⟩]
    exact ⟨_, rfl, rfl, rfl, rfl, fun hlow => absurd hlow hab, fun _ => h⟩

/-- The engine starts as from a warm reset. -/
theorem State.warmStart_does (s : State) : (s.toReset true).begin.kick.st = 1 ∧ (s.toReset true).begin.kick.step = 0 ∧
    (s.toReset true).begin.kick.readImage = false ∧ (s.toReset true).begin.kick.img = s.kick.img ∧
    (s.toReset true).begin.mem = s.mem ∧ (s.toReset true).begin.ctxs = [] ∧
    (∀ o ∈ warmKept, (s.toReset true).begin.reg o = s.reg o) ∧
    (∀ o, o ∉ warmKept → (s.toReset true).begin.reg o = State.reset.reg o) := by
  obtain ⟨-, hread, himg, hframe, hkept, hothers, -⟩ := s.toReset_does true
  generalize s.toReset true = t at hread himg hframe hkept hothers
  exact ⟨rfl, rfl, hread, himg, (congrArg State.mem hframe :), (congrArg State.ctxs hframe :), hkept rfl, hothers⟩

theorem State.reg_congr {s t : State} (h : t.regs = s.regs) (o : Nat) : t.reg o = s.reg o := by
  unfold State.reg
  rw [h]

theorem State.flushNvs_regs (s : State) : s.flushNvs.regs = s.regs := rfl

theorem State.flushNvs_mem (s : State) : s.flushNvs.mem = s.mem := rfl

theorem State.flushNvs_img (s : State) : s.flushNvs.kick.img = s.kick.img := rfl

theorem lockLoss_does {s : State} (h : 2 ≤ s.kick.st) : ∃ t, exec .lockLoss s = .next t ∧ t.kick.st = 1 ∧ t.kick.step = 0 ∧
    t.kick.img = (s.logEvent 0x05 0).kick.img ∧ t.mem = s.mem ∧ t.ctxs = [] ∧ (∀ o ∈ warmKept, t.reg o = s.reg o) := by
  have hexec : exec .lockLoss s = .next (((s.logEvent 0x05 0).flushNvs).toReset true).begin :=
    congrArg Host.Outcome.next (if_neg (Nat.not_lt.2 h))
  have hlog := s.logEvent_eq 0x05 0
  have hmem : (s.logEvent 0x05 0).mem = s.mem := (congrArg State.mem hlog :)
  have hregs : (s.logEvent 0x05 0).regs = s.regs := (congrArg State.regs hlog :)
  obtain ⟨hst, hstep, -, himg, hkept, hctxs, hregsKept, -⟩ := (s.logEvent 0x05 0).flushNvs.warmStart_does
  exact ⟨_, hexec, hst, hstep, himg.trans (State.flushNvs_img _), hkept.trans ((State.flushNvs_mem _).trans hmem), hctxs,
    fun o ho => (hregsKept o ho).trans (State.reg_congr ((State.flushNvs_regs _).trans hregs) o)⟩

/-- Settles O44: a reset tears at most the waiting word of the store, and starts from the reset state. -/
theorem resets : Obligations.Resets := by
  unfold Obligations.Resets
  refine fun s => ⟨powerOnReset_does s, fun h => warmReset_does h, fun h => warmReset_inReset h, fun p w h => ?_,
    fun p w h => resetRelease_inReset p w h, fun h => ?_, fun h => ?_, fun h => lockLoss_does h, fun h => ?_⟩
  · rw [exec_resetRelease, if_neg fun hlow => h hlow.1]
  · exact ⟨_, congrArg Host.Outcome.next (if_pos h), s.warmStart_does⟩
  · exact congrArg Host.Outcome.next (if_neg (by rw [h]; exact Bool.false_ne_true))
  · exact congrArg Host.Outcome.next (if_pos h)

end Sys2Proof.Machine
end

section
/-! PROOF. What the sending of frames changes (R254 to R256). -/

namespace Sys2Proof.Machine

open Safety

/-- Frames that leave change the frame queues of the ports, the rotation pointer, the frames that wait and the receive store, and
nothing else. -/
structure FramesLeave (s t : State) : Prop where
  state : t = { s with vol := t.vol }
  vol : t.vol = { s.vol with ports := t.vol.ports, rot := t.vol.rot, stuck := t.vol.stuck, rx := t.vol.rx }
  port : ∀ l, t.port l = { s.port l with txq := (t.port l).txq }

theorem FramesLeave.refl (s : State) : FramesLeave s s := ⟨rfl, rfl, fun _ => rfl⟩

theorem FramesLeave.trans {s t u : State} (h : FramesLeave s t) (k : FramesLeave t u) : FramesLeave s u where
  state := k.state.trans (congrArg (fun x : State => { x with vol := u.vol }) h.state)
  vol := k.vol.trans (congrArg (fun x : Volley =>
    { x with ports := u.vol.ports, rot := u.vol.rot, stuck := u.vol.stuck, rx := u.vol.rx }) h.vol)
  port l := (k.port l).trans (congrArg (fun x : Port => { x with txq := (u.port l).txq }) (h.port l))

theorem State.stick_leaves (s : State) (f : Frame) : FramesLeave s (s.stick f) := ⟨rfl, rfl, fun _ => rfl⟩

theorem State.spray_leaves (s : State) (f : Frame) : FramesLeave s (s.spray f) := by
  unfold State.spray
  split
  · exact s.stick_leaves f
  · next l _ =>
    dsimp only
    split
    · exact s.stick_leaves f
    · refine ⟨rfl, rfl, fun k => ?_⟩
      have hport (p : Port) (r : Nat) (j : Nat) : State.port ({ s.setPort l p with vol := { (s.setPort l p).vol with rot := r } }) j =
          (s.setPort l p).port j := rfl
      rw [hport]
      by_cases hk : k = l
      · rw [hk, State.setPort_port_same]
      · rw [State.setPort_port_other _ _ hk]

theorem State.sendFrame_leaves (s : State) (f : Frame) : FramesLeave s (s.sendFrame f) := by
  unfold State.sendFrame
  split
  · exact s.spray_leaves f
  · split
    · exact s.stick_leaves f
    · exact ⟨rfl, rfl, fun _ => rfl⟩

theorem State.sendFrames_leave (s : State) (fs : List Frame) : FramesLeave s (s.sendFrames fs) := by
  unfold State.sendFrames
  induction fs generalizing s with
  | nil => exact .refl s
  | cons f fs ih => exact (s.sendFrame_leaves f).trans (ih _)

/-! ### Ways of a frame -/

theorem State.sendFrame_loops {s : State} {f : Frame} (hdest : f.dest = s.chip) (hroom : s.loopFull f.cells = false) :
    s.sendFrame f = { s with vol := { s.vol with rx := s.vol.rx ++ [(none, f)] } } := by
  unfold State.sendFrame
  rw [if_neg (fun h => h hdest), hroom]
  rfl

theorem State.sendFrame_sticks {s : State} {f : Frame} (hdest : f.dest ≠ s.chip) (hnone : s.eligible f = []) :
    s.sendFrame f = s.stick f := by
  have hshort : s.shortest (s.eligible f) = none := by rw [hnone]; rfl
  unfold State.sendFrame State.spray
  rw [if_pos hdest, hshort]

theorem State.sendFrame_sprays {s : State} {f : Frame} {l : Nat} (hdest : f.dest ≠ s.chip) (hl : s.shortest (s.eligible f) = some l)
    (hroom : (s.port l).queued + f.cells ≤ 1024) : s.sendFrame f =
      { s.setPort l { s.port l with txq := (s.port l).txq ++ [f] } with
        vol := { (s.setPort l { s.port l with txq := (s.port l).txq ++ [f] }).vol with rot := (l + 1) % s.nLink } } := by
  unfold State.sendFrame State.spray
  rw [if_pos hdest, hl]
  dsimp only
  rw [if_neg (by omega)]

end Sys2Proof.Machine
end

section
/-! PROOF. Kickoff steps that pass: K0 to K4 (R316, R324 to R326). -/

namespace Sys2Proof.Machine

open Safety

/-! ### A step that passes -/

/-- A log entry leaves the words of the image before the log. -/
theorem State.logEntry_img {s : State} (e : LogEnt) {w : Nat} (hw : w < 256) : (s.logEntry e).img w = s.img w := by
  have hskip (l : List (Nat × Word)) (h : ∀ p ∈ l, 256 ≤ p.1) (v : Word) : l.foldl (fun v p => if p.1 = w then p.2 else v) v = v := by
    induction l generalizing v with
    | nil => rfl
    | cons p l ih =>
      have hp := h p List.mem_cons_self
      rw [List.foldl_cons, if_neg (by omega)]
      exact ih (fun q hq => h q (List.mem_cons_of_mem _ hq)) v
  unfold State.logEntry
  dsimp only
  rw [State.setImgs_img]
  refine hskip _ (fun p hp => ?_) _
  rcases List.mem_append.1 hp with hp | hp
  · obtain ⟨j, -, rfl⟩ := List.mem_map.1 hp
    dsimp only [imgLog]
    omega
  · simp only [List.mem_cons, List.not_mem_nil, or_false] at hp
    rcases hp with rfl | rfl
    · dsimp only [imgLog]
      omega
    · dsimp only [imgLog]
      omega

/-- What a state with a passed step shows. -/
structure Passed (s t : State) (n : Nat) : Prop where
  st : t.kick.st = 1
  step : t.kick.step = n + 1
  kick : t.kick = { s.kick with img := t.kick.img, nvsq := t.kick.nvsq, step := n + 1, tried := [], note := 0 }
  frame : t = { s with kick := t.kick }
  img : ∀ w < 256, t.img w = s.img w

/-- The next step may begin. -/
def State.stepDone (s : State) (n : Nat) : State := { s with kick := { s.kick with step := n + 1, tried := [], note := 0 } }

theorem State.stepDone_passed {s t : State} (n : Nat) (hst : s.kick.st = 1)
    (hkick : t.kick = { s.kick with img := t.kick.img, nvsq := t.kick.nvsq }) (hframe : t = { s with kick := t.kick })
    (himg : ∀ w < 256, t.img w = s.img w) : Passed s (t.stepDone n) n := by
  refine ⟨(congrArg Kickoff.st hkick :).trans hst, rfl, ?_, ?_, himg⟩
  · exact congrArg (fun k : Kickoff => { k with step := n + 1, tried := [], note := 0 }) hkick
  · exact congrArg (fun x : State => { x with kick := { t.kick with step := n + 1, tried := [], note := 0 } }) hframe

/-- A step that passes has its entry in the log. -/
theorem State.kPass_eq {s : State} (n : Nat) (repaired : Bool) (detail : List Byte) (h : s.kick.st = 1) :
    s.kPass n repaired detail = (s.logEntry ⟨n, b2n repaired, 0, 0, 0, 0, detail⟩).stepDone n := by
  unfold State.kPass
  rw [if_neg (by omega)]
  rfl

theorem State.kPass_passed {s : State} (n : Nat) (repaired : Bool) (detail : List Byte) (h : s.kick.st = 1) :
    Passed s (s.kPass n repaired detail) n := by
  rw [State.kPass_eq n repaired detail h]
  exact State.stepDone_passed n h (s.logEntry_kick _) (s.logEntry_eq _) fun w hw => State.logEntry_img _ hw

/-! ### K0 and K1 -/

/-- The step has counted its run. -/
def State.noted (s : State) : State := { s with kick := { s.kick with note := 1 } }

theorem State.takeMarks_img (s : State) (w : Nat) : s.takeMarks.noted.img w = s.img w := rfl

theorem State.takeMarks_does (s : State) : s.takeMarks.noted.kick.st = s.kick.st ∧ s.takeMarks.noted.kick.lockMiss = s.kick.lockMiss ∧
    s.takeMarks.noted = { s with kick := s.takeMarks.noted.kick } := ⟨rfl, rfl, rfl⟩

theorem State.setImg_does (s : State) (w : Nat) (v : Word) : (s.setImg w v).kick.st = s.kick.st ∧
    (s.setImg w v).kick.lockMiss = s.kick.lockMiss ∧ s.setImg w v = { s with kick := (s.setImg w v).kick } := ⟨rfl, rfl, rfl⟩

/-- The image is counted, and the marks of the record are taken. -/
def State.counted (s : State) : State :=
  (s.setImg 2 (BitVec.ofNat 32 (putBits (s.img 2).toNat 15 0 (s.kickCount + 1)))).takeMarks.noted

theorem State.readAndCount_sound {s : State} (hnote : s.kick.note = 0) (hok : s.imgOk = true) : s.readAndCount = s.counted := by
  unfold State.readAndCount
  rw [if_neg (by omega), if_pos hok]
  rfl

theorem State.counted_does (s : State) : s.counted.kickCount = (s.kickCount + 1) % 65536 ∧ s.counted.kick.st = s.kick.st ∧
    s.counted.kick.lockMiss = s.kick.lockMiss ∧ s.counted = { s with kick := s.counted.kick } := by
  unfold State.counted
  generalize hv : BitVec.ofNat 32 (putBits (s.img 2).toNat 15 0 (s.kickCount + 1)) = v
  obtain ⟨hst, hmiss, hframe⟩ := s.setImg_does 2 v
  have himg := (s.setImg_img 2 v 2).trans (if_pos rfl)
  obtain ⟨hst', hmiss', hframe'⟩ := (s.setImg 2 v).takeMarks_does
  have hmarks := ((s.setImg 2 v).takeMarks_img 2).trans himg
  refine ⟨?_, hst'.trans hst, hmiss'.trans hmiss, ?_⟩
  · unfold State.kickCount at hv ⊢
    rw [hmarks, ← hv, BitVec.toNat_ofNat,
      Nat.mod_eq_of_lt (putBits_lt _ 15 0 _ 32 (BitVec.isLt _) (by decide) (by decide))]
    exact bitsOf_putBits_same _ 15 0 _
  · exact hframe'.trans (congrArg (fun x : State => { x with kick := (s.setImg 2 v).takeMarks.noted.kick }) hframe)

theorem kickoffK0_passes {s : State} {i : K0In} (hready : s.kReady 0 = true) (htried : s.kick.tried = []) (hnote : s.kick.note = 0)
    (hmiss : s.kick.lockMiss = none) (himage : s.kick.readImage = false) (hok : s.imgOk = true) (hcount : i.count ≠ 0)
    (hlow : 154687500 ≤ i.hertz) (hhigh : i.hertz ≤ 157812500) (hlock : i.lockTime.toNat ≤ 7812) :
    ∃ t, exec (.kickoffK0 i) s = .next t ∧ t.kick.st = 1 ∧ t.kick.step = 1 ∧ t.kick.locked = true ∧
      t.kickCount = (s.kickCount + 1) % 65536 ∧ t = { s with kick := t.kick } := by
  obtain ⟨hst, -, -⟩ := State.kReady_iff.1 hready
  obtain ⟨hcounted, htst, htmiss, hframe⟩ := s.counted_does
  have hreading : s.reading = false := by
    unfold State.reading
    rw [himage]
    simp
  have hruns : ¬ ((!s.kReady 0) = true ∨ (s.reading = true ∧ i.readOk = true) ∨
      (7812 < i.lockTime.toNat ∧ (!s.answered 0x03) = true ∧ s.kick.lockMiss = none)) := by
    rw [hready, hreading]
    simp
    omega
  have hrange : ¬ (i.hertz < 154687500 ∨ 157812500 < i.hertz) := by omega
  have hexec : exec (.kickoffK0 i) s = execKickoffK0 i s := rfl
  rw [hexec]
  unfold execKickoffK0
  rw [if_neg hruns, State.not_answered _ htried, himage, State.readAndCount_sound hnote hok]
  dsimp only
  simp only [Bool.false_eq_true, false_and, if_false]
  rw [State.lateLock_none (htmiss.trans hmiss), if_neg hcount, if_neg hrange]
  obtain ⟨hpst, hstep, -, hpframe, himg⟩ :=
    State.kPass_passed 0 false (natLe 4 (if s.counted.answered 0xFE = true then 1 else i.count.toNat) ++ natLe 4 i.lockTime.toNat)
      (htst.trans hst)
  generalize s.counted.kPass 0 false _ = t at hpst hstep hpframe himg
  have hkickCount : t.kickCount = s.counted.kickCount := congrArg (fun w : Word => bitsOf w.toNat 15 0) (himg 2 (by decide))
  refine ⟨_, rfl, hpst, hstep, decide_eq_true hpst, hkickCount.trans hcounted, ?_⟩
  rw [hframe] at hpframe
  exact congrArg (fun x : State => { x with kick := { t.kick with locked := decide (t.kick.st = 1), readImage := false } }) hpframe

theorem kickoffK1_passes {s : State} {i : K1In} (hready : s.kReady 1 = true) (hphase : i.phaseOk = true) :
    ∃ t, exec (.kickoffK1 i) s = .next t ∧ t.kick.st = 1 ∧ t.kick.step = 2 ∧ t.kick.aligned = true ∧ t.served = true ∧ t.spcnt = 0 ∧
      t = { s with kick := t.kick, spcnt := t.spcnt } := by
  obtain ⟨hst, -, -⟩ := State.kReady_iff.1 hready
  have hexec : exec (.kickoffK1 i) s = execKickoffK1 i s := rfl
  rw [hexec]
  unfold execKickoffK1
  rw [hready, hphase]
  dsimp only
  simp only [Bool.not_true, Bool.false_eq_true, if_false, if_true]
  rw [if_neg (by omega)]
  obtain ⟨hpst, hstep, -, hframe, -⟩ := State.kPass_passed 1 false [] hst
  generalize s.kPass 1 false [] = t at hpst hstep hframe
  refine ⟨_, rfl, hpst, hstep, rfl, ?_, rfl, ?_⟩
  · show (decide (t.kick.st ≠ 0) && true) = true
    rw [hpst]
    rfl
  · exact congrArg (fun x : State => { x with spcnt := 0, kick := { t.kick with aligned := true, spmok := t.follows } }) hframe

/-! ### K2 and K3 -/

theorem kickoffK2_passes {s : State} (hready : s.kReady 2 = true) : ∃ t, exec (.kickoffK2 []) s = .next t ∧ t.kick.st = 1 ∧
    t.kick.step = 3 ∧ t = { s with kick := t.kick } := by
  obtain ⟨hst, -, -⟩ := State.kReady_iff.1 hready
  have hexec : exec (.kickoffK2 []) s = .next (s.kPass 2 false []) :=
    congrArg Host.Outcome.next (if_neg (by rw [hready]; exact Bool.false_ne_true))
  have hpass := State.kPass_passed 2 false [] hst
  exact ⟨_, hexec, hpass.st, hpass.step, hpass.frame⟩

theorem State.unmarked {s : State} (h : s.kick.marks = []) (w u : Nat) : s.marked w u = false := by
  unfold State.marked
  rw [h]
  exact Nat.zero_testBit _

/-- With no unit marked every logical index holds its own unit. -/
theorem State.assign_unmarked {s : State} (h : s.kick.marks = []) (w bench n : Nat) (free : List Nat) :
    s.assign w bench n free = some [] := by
  induction n with
  | zero => rfl
  | succ n ih =>
    unfold State.assign
    rw [ih, State.unmarked h]
    rfl

theorem State.assignClasses_unmarked {s : State} (h : s.kick.marks = []) (l : List (Nat × Nat × Nat × Nat × Nat)) :
    l.foldl State.assignClass (false, s) = (false, s) := by
  induction l with
  | nil => rfl
  | cons c l ih =>
    obtain ⟨cls, n, bench, k, w⟩ := c
    have hclass : State.assignClass (false, s) (cls, n, bench, k, w) = (false, s) := by
      unfold State.assignClass
      dsimp only
      rw [State.assign_unmarked h]
      split
      · rfl
      · rfl
    rw [List.foldl_cons, hclass, ih]

theorem kickoffK3_passes {s : State} (hready : s.kReady 3 = true) (hmarks : s.kick.marks = []) : ∃ t,
    exec (.kickoffK3 []) s = .next t ∧ t.kick.st = 1 ∧ t.kick.step = 4 ∧ t.ref.phys = s.ref.phys ∧ t = { s with kick := t.kick } := by
  obtain ⟨hst, -, -⟩ := State.kReady_iff.1 hready
  have hexec : exec (.kickoffK3 []) s = .next (s.kPass 3 (decide (s.ref.phys ≠ [])) []) := by
    have hraw : exec (.kickoffK3 []) s = execKickoffK3 [] s := rfl
    rw [hraw]
    unfold execKickoffK3
    rw [hready, Bool.not_true, if_neg Bool.false_ne_true, List.foldl_nil, State.assignClasses_unmarked hmarks s.unitClasses]
    dsimp only
    rw [State.assignClasses_unmarked hmarks s.unitClasses]
  have hpass := State.kPass_passed 3 (decide (s.ref.phys ≠ [])) [] hst
  exact ⟨_, hexec, hpass.st, hpass.step, (congrArg (fun x : State => x.ref.phys) hpass.frame :), hpass.frame⟩

/-! ### K4 -/

/-- Stack `k` enters service on its own channels. -/
def State.enterStack (s : State) (k : Nat) : State := s.setStack k ⟨1, 0, false, false⟩

/-- Of the whole block the stacks' states alone differ. -/
def StacksOnly (s t : State) : Prop := t = { s with mp := { s.mp with stk := t.mp.stk } }

theorem StacksOnly.trans {s t u : State} (h : StacksOnly s t) (k : StacksOnly t u) : StacksOnly s u :=
  Eq.trans k (congrArg (fun x : State => { x with mp := { x.mp with stk := u.mp.stk } }) h)

theorem State.enterStack_same (s : State) (k : Nat) : (s.enterStack k).stack k = ⟨1, 0, false, false⟩ := State.setStack_stack_same _ _ _

theorem State.enterStack_other (s : State) {k j : Nat} (h : j ≠ k) : (s.enterStack k).stack j = s.stack j :=
  State.setStack_stack_other _ _ h

theorem State.enterStack_only (s : State) (k : Nat) : StacksOnly s (s.enterStack k) := rfl

theorem State.enterStacks_does (s : State) (n : Nat) :
    (∀ k < n, ((List.range n).foldl State.enterStack s).stack k = ⟨1, 0, false, false⟩) ∧
    StacksOnly s ((List.range n).foldl State.enterStack s) := by
  induction n with
  | zero => exact ⟨fun k hk => absurd hk (Nat.not_lt_zero k), rfl⟩
  | succ n ih =>
    obtain ⟨hstacks, hframe⟩ := ih
    rw [List.range_succ, List.foldl_append, List.foldl_cons, List.foldl_nil]
    refine ⟨fun k hk => ?_, hframe.trans (State.enterStack_only _ n)⟩
    by_cases hkn : k = n
    · rw [hkn]
      exact State.enterStack_same _ _
    · exact (State.enterStack_other _ hkn).trans (hstacks k (by omega))

/-- With no stack recorded as taken over, every stack enters service. -/
theorem State.startStacks_clean {s : State} (himg : ∀ w, 16 ≤ w → w < 128 → s.img w = 0) (hlost : s.kick.lostStk = []) :
    s.startStacks = { (List.range 20).foldl State.enterStack s with
      kick := { ((List.range 20).foldl State.enterStack s).kick with lostStk := [] } } := by
  have hfold (n : Nat) (hn : n ≤ 20) : (List.range n).foldl (fun t k =>
      if bitOf (t.img (imgStanding + 9 + k)).toNat 31 then
        (t.setStack k ⟨1, 0, false, false⟩).spareAtStart k (bitsOf (t.img (imgStanding + 9 + k)).toNat 4 0)
      else t.setStack k ⟨1, 0, false, false⟩) s = (List.range n).foldl State.enterStack s := by
    induction n with
    | zero => rfl
    | succ n ih =>
      rw [List.range_succ, List.foldl_append, List.foldl_append, ih (by omega)]
      obtain ⟨-, hframe⟩ := s.enterStacks_does n
      have hword : ((List.range n).foldl State.enterStack s).img (imgStanding + 9 + n) = 0 := by
        have hsame : ((List.range n).foldl State.enterStack s).kick = s.kick := (congrArg State.kick hframe :)
        unfold State.img
        rw [hsame]
        exact himg _ (by unfold imgStanding; omega) (by unfold imgStanding; omega)
      rw [List.foldl_cons, List.foldl_nil, hword]
      exact if_neg (by decide)
  unfold State.startStacks
  rw [hlost, List.foldl_nil]
  dsimp only
  rw [hfold 20 (Nat.le_refl 20)]

theorem kickoffK4_passes {s : State} {i : K4In} {n : Nat} (hready : s.kReady 4 = true)
    (himg : ∀ w, 16 ≤ w → w < 128 → s.img w = 0) (hlost : s.kick.lostStk = []) (hlines : i.lines = List.replicate 20 n)
    (hfails : i.fails = []) (hmargin : ∀ k < 20, s.marginLow i k = false) (hquar : s.quarList.length < 256) :
    ∃ t, exec (.kickoffK4 i) s = .next t ∧ t.kick.st = 1 ∧ t.kick.step = 5 ∧ t.mp.nlines = n % 2 ^ 23 ∧
      (∀ k < 20, t.stack k = ⟨1, 0, false, false⟩) ∧ t = { s with kick := t.kick, mp := t.mp } := by
  obtain ⟨hst, -, -⟩ := State.kReady_iff.1 hready
  obtain ⟨hstacks, hframe⟩ := s.enterStacks_does 20
  have hlow : (List.range 20).filter (fun k => s.marginLow i k && !(i.fails.any fun f => decide (f.item.toNat % 4096 / 33 = k))) = [] :=
    List.filter_eq_nil_iff.2 fun k hk => by
      rw [hmargin k (List.mem_range.1 hk)]
      exact Bool.false_ne_true
  have hsame : (i.lines.all fun x => decide (x = i.lines.headD 0)) = true := by
    rw [hlines]
    exact List.all_eq_true.2 fun x hx => decide_eq_true (List.eq_of_mem_replicate hx)
  have hhead : i.lines.headD 0 = n := by
    rw [hlines]
    rfl
  have hexec : exec (.kickoffK4 i) s = execKickoffK4 i s := rfl
  rw [hexec]
  unfold execKickoffK4
  rw [hready]
  dsimp only
  rw [hlow, hsame, hhead, hfails, State.startStacks_clean himg hlost]
  simp only [Bool.not_true, Bool.false_eq_true, if_false, if_true, List.map_nil, List.filter_nil, List.append_nil, List.foldl_nil]
  generalize (List.range 20).foldl State.enterStack s = u at hstacks hframe
  have hquarSame : ({ u with kick := { u.kick with lostStk := [] }, mp := { u.mp with nlines := n % 2 ^ 23 } } : State).quarList =
      s.quarList := by
    have hkick : u.kick = s.kick := (congrArg State.kick hframe :)
    unfold State.quarList State.quarEntry State.img
    dsimp only
    rw [hkick]
  have hustk (k : Nat) : State.stack ({ u with kick := { u.kick with lostStk := [] }, mp := { u.mp with nlines := n % 2 ^ 23 } }) k =
      u.stack k := rfl
  have huframe : ({ u with kick := { u.kick with lostStk := [] }, mp := { u.mp with nlines := n % 2 ^ 23 } } : State) =
      { s with kick := { u.kick with lostStk := [] }, mp := { u.mp with nlines := n % 2 ^ 23 } } :=
    congrArg (fun x : State => { x with kick := { u.kick with lostStk := [] }, mp := { u.mp with nlines := n % 2 ^ 23 } }) hframe
  have hust : u.kick.st = 1 := (congrArg (fun x : State => x.kick.st) hframe :).trans hst
  rw [hquarSame, if_pos hquar]
  generalize hv : ({ u with kick := { u.kick with lostStk := [] }, mp := { u.mp with nlines := n % 2 ^ 23 } } : State) = v at hustk huframe
  have hvst : v.kick.st = 1 := by
    rw [← hv]
    exact hust
  have hvlines : v.mp.nlines = n % 2 ^ 23 := by
    rw [← hv]
  have hvframe : v = { s with kick := v.kick, mp := v.mp } := by
    refine huframe.trans ?_
    rw [← hv]
  have hpass := State.kPass_passed 4 false ((List.range 20).flatMap fun k => [i.marginT.getD k 0, i.marginV.getD k 0]) hvst
  refine ⟨_, rfl, hpass.st, hpass.step, ?_, fun k hk => ?_, ?_⟩
  · exact (congrArg (fun x : State => x.mp.nlines) hpass.frame :).trans hvlines
  · exact (congrArg (fun x : State => x.stack k) hpass.frame :).trans ((hustk k).trans (hstacks k hk))
  · have hmp : (v.kPass 4 false ((List.range 20).flatMap fun k => [i.marginT.getD k 0, i.marginV.getD k 0])).mp = v.mp :=
      (congrArg State.mp hpass.frame :)
    rw [hmp]
    exact hpass.frame.trans (congrArg (fun x : State => { x with kick := (v.kPass 4 false
      ((List.range 20).flatMap fun k => [i.marginT.getD k 0, i.marginV.getD k 0])).kick }) hvframe)

end Sys2Proof.Machine
end

section
/-! PROOF. Kickoff steps that pass: K5 to K8 (R319, R324 to R326). -/

namespace Sys2Proof.Machine

open Safety

/-! ### K5 -/

/-- A report of kickoff K5 without a failure. -/
def K5In.clean (n : DWord) : K5In := ⟨[], [], n⟩

theorem State.badLanes_none {s : State} {n : DWord} {p : Nat} (h : s.img (imgStanding + 29 + p) = 0) :
    s.badLanes (K5In.clean n) p = [] := by
  unfold State.badLanes
  rw [h]
  exact List.filter_eq_nil_iff.2 fun j _ => by
    rw [show bitOf (0 : Word).toNat j = false from Nat.zero_testBit _]
    simp [K5In.clean]

theorem State.markLanes_none (s : State) (p : Nat) : s.markLanes p [] = s := by
  unfold State.markLanes
  exact if_pos (by rw [List.foldl_nil, BitVec.ofNat_toNat, BitVec.setWidth_eq])

/-- A port without failed lanes enters service on 16 of its lanes. -/
def Port.fresh : Port := { Port.reset with lanes := 16, lmap := remapLanes (List.range 18) (List.range 16), grants := 1792 }

theorem State.servePort_sound (s : State) {l : Nat} (hl : l < 64) :
    s.servePort l l [] false false = (s.setPort l Port.fresh).portState l 2 := by
  have hlanes : (remapLanes (List.range 18) (List.range 16)).length = 16 := by decide
  have hgood : (List.range 18).filter (fun j => !([] : List Nat).contains j) = List.range 18 := List.filter_eq_self.2 fun j _ => rfl
  unfold State.servePort Port.fresh
  dsimp only
  rw [State.markLanes_none, hgood, if_neg Bool.false_ne_true, if_neg Bool.false_ne_true, if_neg (by omega), hlanes, if_neg Bool.false_ne_true]
  rfl

/-- What the training of ports changes: the ports, with the frames that tell of them, and the link interrupt. -/
structure Trained (s t : State) : Prop where
  frame : t = { s with vol := t.vol, regs := t.regs }
  reg : ∀ o, o ≠ 0x2800 → t.reg o = s.reg o

theorem Trained.refl (s : State) : Trained s s := ⟨rfl, fun _ _ => rfl⟩

theorem Trained.trans {s t u : State} (h : Trained s t) (k : Trained t u) : Trained s u where
  frame := k.frame.trans (congrArg (fun x : State => { x with vol := u.vol, regs := u.regs }) h.frame)
  reg o ho := (k.reg o ho).trans (h.reg o ho)

theorem FramesLeave.trained {s t : State} (h : FramesLeave s t) : Trained s t where
  frame := by
    have hregs : t.regs = s.regs := (congrArg State.regs h.state :)
    rw [hregs]
    exact h.state
  reg o _ := State.reg_congr (congrArg State.regs h.state :) o

theorem State.setPort_trained (s : State) (l : Nat) (p : Port) : Trained s (s.setPort l p) := ⟨rfl, fun _ _ => rfl⟩

theorem State.raiseInt_trained (s : State) (b : Nat) : Trained s (s.raiseInt b) :=
  ⟨rfl, fun _ ho => State.setFld_reg_other s b b 1 ho⟩

/-- A fresh port enters service. -/
theorem State.enterService_does (s : State) (l : Nat) : Trained s ((s.setPort l Port.fresh).portState l 2) ∧
    ((s.setPort l Port.fresh).portState l 2).port l = { Port.fresh with st := 2, txq := (((s.setPort l Port.fresh).portState l 2).port l).txq } ∧
    ∀ k, k ≠ l → ((s.setPort l Port.fresh).portState l 2).port k = { s.port k with txq := (((s.setPort l Port.fresh).portState l 2).port k).txq } := by
  have hfresh := s.setPort_port_same l Port.fresh
  have hstate : (s.setPort l Port.fresh).portState l 2 =
      (((s.setPort l Port.fresh).setPort l { Port.fresh with st := 2 }).raiseInt 8).sendPstate := by
    have hup : ((((s.setPort l Port.fresh).setPort l { Port.fresh with st := 2 }).raiseInt 8).port l).up = true :=
      congrArg Port.up (State.setPort_port_same (s.setPort l Port.fresh) l { Port.fresh with st := 2 })
    unfold State.portState
    rw [hfresh]
    dsimp only
    rw [if_neg (by decide), hup, if_neg (by decide)]
  rw [hstate]
  have hsame : (((s.setPort l Port.fresh).setPort l { Port.fresh with st := 2 }).raiseInt 8).port l = { Port.fresh with st := 2 } :=
    State.setPort_port_same (s.setPort l Port.fresh) l _
  have hother (k : Nat) (hk : k ≠ l) : (((s.setPort l Port.fresh).setPort l { Port.fresh with st := 2 }).raiseInt 8).port k = s.port k :=
    (State.setPort_port_other (s.setPort l Port.fresh) _ hk).trans (State.setPort_port_other s _ hk)
  have htrained : Trained s (((s.setPort l Port.fresh).setPort l { Port.fresh with st := 2 }).raiseInt 8) :=
    ((s.setPort_trained l Port.fresh).trans (State.setPort_trained _ l _)).trans (State.raiseInt_trained _ 8)
  generalize ((s.setPort l Port.fresh).setPort l { Port.fresh with st := 2 }).raiseInt 8 = u at hsame hother htrained
  have hsend : FramesLeave u u.sendPstate := u.sendFrames_leave _
  refine ⟨htrained.trans hsend.trained, ?_, fun k hk => ?_⟩
  · refine (hsend.port l).trans ?_
    rw [hsame]
  · refine (hsend.port k).trans ?_
    rw [hother k hk]

/-- A port of a clean report trains. -/
theorem State.trainPort_clean {s : State} {n : DWord} {l k : Nat} (hst : s.kick.st = 1) (hport : (s.port l).st = 0)
    (hmarks : s.kick.marks = []) (himg : ∀ w, 16 ≤ w → w < 128 → s.img w = 0) (hl : l < 64) :
    State.trainPort (K5In.clean n) l (k + 1) s = (s.setPort l Port.fresh).portState l 2 := by
  have hbad := State.badLanes_none (s := s) (n := n) (p := l) (himg _ (by unfold imgStanding; omega) (by unfold imgStanding; omega))
  unfold State.trainPort
  rw [if_neg (by omega), State.unmarked hmarks]
  dsimp only
  rw [if_neg Bool.false_ne_true]
  dsimp only
  rw [hbad]
  exact s.servePort_sound hl

/-- The first `k` ports of a clean report have trained. -/
def State.trainedPorts (s : State) (n : DWord) (k : Nat) : State :=
  (List.range k).foldl (fun t l => State.trainPort (K5In.clean n) l 6 t) s

theorem State.trainPorts_clean {s : State} (n : DWord) (hst : s.kick.st = 1) (hmarks : s.kick.marks = [])
    (himg : ∀ w, 16 ≤ w → w < 128 → s.img w = 0) (k : Nat) (hk : k ≤ 64) (hports : ∀ l < k, (s.port l).st = 0) :
    Trained s (s.trainedPorts n k) ∧ (∀ l < k, ((s.trainedPorts n k).port l).st = 2 ∧ ((s.trainedPorts n k).port l).lanes = 16 ∧
      ((s.trainedPorts n k).port l).spare = none) ∧ ∀ l, k ≤ l → ((s.trainedPorts n k).port l).st = (s.port l).st := by
  induction k with
  | zero => exact ⟨.refl s, fun l hl => absurd hl (Nat.not_lt_zero l), fun _ _ => rfl⟩
  | succ k ih =>
    obtain ⟨htrained, hdone, hrest⟩ := ih (by omega) fun l hl => hports l (by omega)
    have hstep : s.trainedPorts n (k + 1) = State.trainPort (K5In.clean n) k 6 (s.trainedPorts n k) := by
      unfold State.trainedPorts
      rw [List.range_succ, List.foldl_append]
      rfl
    have hkick : (s.trainedPorts n k).kick = s.kick := (congrArg State.kick htrained.frame :)
    have hwords : ∀ w, 16 ≤ w → w < 128 → (s.trainedPorts n k).img w = 0 := by
      unfold State.img at himg ⊢
      rw [hkick]
      exact himg
    rw [hstep, State.trainPort_clean (by rw [hkick]; exact hst) ((hrest k (Nat.le_refl k)).trans (hports k (by omega)))
      (by rw [hkick]; exact hmarks) hwords (by omega)]
    obtain ⟨hentered, hsame, hother⟩ := (s.trainedPorts n k).enterService_does k
    refine ⟨htrained.trans hentered, fun l hl => ?_, fun l hl => ?_⟩
    · by_cases hlk : l = k
      · rw [hlk, hsame]
        exact ⟨rfl, rfl, rfl⟩
      · rw [hother l hlk]
        exact hdone l (by omega)
    · rw [hother l (by omega)]
      exact hrest l (by omega)

theorem State.follows_congr {s t : State} (h : Trained s t) : t.follows = s.follows := by
  have hkick : t.kick = s.kick := (congrArg State.kick h.frame :)
  unfold State.follows State.fld
  rw [hkick, h.reg _ (by decide)]

/-- A follower takes the count of its partner when the port of the pair is up (R319). -/
def State.partnerCount (s : State) (n : DWord) : State :=
  if s.follows ∧ (s.port (s.fld 0x0B0014 5 0)).up then { s with spcnt := n } else s

theorem exec_kickoffK5 {s : State} (n : DWord) (hready : s.kReady 5 = true) : ∃ repaired, exec (.kickoffK5 (K5In.clean n)) s =
    .next (((s.trainedPorts n s.nLink).partnerCount n).kPass 5 repaired []) := by
  have hexec : exec (.kickoffK5 (K5In.clean n)) s = execKickoffK5 (K5In.clean n) s := rfl
  rw [hexec]
  unfold execKickoffK5
  rw [hready, Bool.not_true, if_neg Bool.false_ne_true]
  exact ⟨_, rfl⟩

theorem State.partnerCount_does (s : State) (n : DWord) : s.partnerCount n = { s with spcnt := (s.partnerCount n).spcnt } ∧
    (s.follows = false → (s.partnerCount n).spcnt = s.spcnt) ∧
    (s.follows = true → (s.port (s.fld 0x0B0014 5 0)).up = true → (s.partnerCount n).spcnt = n) := by
  unfold State.partnerCount
  split
  · next h => exact ⟨rfl, fun hf => absurd (hf.symm.trans h.1) Bool.false_ne_true, fun _ _ => rfl⟩
  · next h => exact ⟨rfl, fun _ => rfl, fun hf hup => absurd ⟨hf, hup⟩ h⟩

theorem kickoffK5_passes {s : State} (n : DWord) (hready : s.kReady 5 = true) (hmarks : s.kick.marks = [])
    (himg : ∀ w, 16 ≤ w → w < 128 → s.img w = 0) (hports : ∀ l, l < s.nLink → (s.port l).st = 0) :
    ∃ t, exec (.kickoffK5 (K5In.clean n)) s = .next t ∧ t.kick.st = 1 ∧ t.kick.step = 6 ∧ (s.follows = false → t.spcnt = s.spcnt) ∧
      (s.follows = true → s.fld 0x0B0014 5 0 < s.nLink → t.spcnt = n) ∧
      (∀ l, l < s.nLink → (t.port l).st = 2 ∧ (t.port l).lanes = 16 ∧ (t.port l).spare = none) ∧ t.mem = s.mem := by
  obtain ⟨hst, -, -⟩ := State.kReady_iff.1 hready
  have hlinks : s.nLink ≤ 64 := by
    unfold State.nLink
    split
    · decide
    · decide
  obtain ⟨repaired, hexec⟩ := exec_kickoffK5 n hready
  obtain ⟨htrained, hdone, -⟩ := State.trainPorts_clean n hst hmarks himg s.nLink hlinks hports
  have hfollows := State.follows_congr htrained
  have hfld : (s.trainedPorts n s.nLink).fld 0x0B0014 5 0 = s.fld 0x0B0014 5 0 :=
    congrArg (fun w : Word => bitsOf w.toNat 5 0) (htrained.reg 0x0B0014 (by decide))
  have hspcnt : (s.trainedPorts n s.nLink).spcnt = s.spcnt := (congrArg State.spcnt htrained.frame :)
  have hmem : (s.trainedPorts n s.nLink).mem = s.mem := (congrArg State.mem htrained.frame :)
  have hkick : (s.trainedPorts n s.nLink).kick = s.kick := (congrArg State.kick htrained.frame :)
  obtain ⟨hcount, halone, hpaired⟩ := (s.trainedPorts n s.nLink).partnerCount_does n
  have hcountSt : ((s.trainedPorts n s.nLink).partnerCount n).kick.st = 1 := by
    rw [hcount, hkick]
    exact hst
  have hpass := State.kPass_passed 5 repaired [] hcountSt
  have hpassSp : (((s.trainedPorts n s.nLink).partnerCount n).kPass 5 repaired []).spcnt =
      ((s.trainedPorts n s.nLink).partnerCount n).spcnt := (congrArg State.spcnt hpass.frame :)
  have hport (l : Nat) : (((s.trainedPorts n s.nLink).partnerCount n).kPass 5 repaired []).port l = (s.trainedPorts n s.nLink).port l :=
    (congrArg (fun x : State => x.port l) hpass.frame :).trans (congrArg (fun x : State => x.port l) hcount :)
  refine ⟨_, hexec, hpass.st, hpass.step, fun hf => ?_, fun hf hl => ?_, fun l hl => ?_, ?_⟩
  · rw [hpassSp, halone (hfollows.trans hf), hspcnt]
  · rw [hpassSp]
    refine hpaired (hfollows.trans hf) ?_
    rw [hfld]
    obtain ⟨hup, -, -⟩ := hdone _ hl
    unfold Port.up
    rw [hup]
    rfl
  · rw [hport]
    exact hdone l hl
  · exact (congrArg State.mem hpass.frame :).trans ((congrArg State.mem hcount :).trans hmem)

/-! ### K6 to K8 -/

/-- The tables of the ROM are loaded, and the behaviour identity stands in its register. -/
def State.romLoaded (s : State) : State := ({ s with tbl := { s.tbl with rom := true } } : State).setReg 0x10 Config.behaviourId

theorem kickoffK6_passes {s : State} (hready : s.kReady 6 = true) : ∃ t, exec (.kickoffK6 []) s = .next t ∧ t.kick.st = 1 ∧
    t.kick.step = 7 ∧ t.reg 0x10 = Config.behaviourId ∧ t.tbl.rom = true ∧ (∀ o, o ≠ 0x10 → t.reg o = s.reg o) ∧
    t = { s with kick := t.kick, tbl := { s.tbl with rom := true }, regs := t.regs } := by
  obtain ⟨hst, -, -⟩ := State.kReady_iff.1 hready
  have hexec : exec (.kickoffK6 []) s = .next (s.romLoaded.kPass 6 false (natLe 8 vendorDigest.toNat ++ natLe 4 Config.behaviourId.toNat)) := by
    have hraw : exec (.kickoffK6 []) s = execKickoffK6 [] s := rfl
    rw [hraw]
    unfold execKickoffK6
    rw [hready, Bool.not_true, if_neg Bool.false_ne_true, List.foldl_nil, if_neg (by omega)]
    rfl
  rw [hexec]
  generalize natLe 8 vendorDigest.toNat ++ natLe 4 Config.behaviourId.toNat = detail
  have hpass := State.kPass_passed (s := s.romLoaded) 6 false detail hst
  have hframe : s.romLoaded = { s with tbl := { s.tbl with rom := true }, regs := s.romLoaded.regs } := rfl
  have hsame : s.romLoaded.reg 0x10 = Config.behaviourId := State.setReg_reg_same _ _ _
  have hother (o : Nat) (ho : o ≠ 0x10) : s.romLoaded.reg o = s.reg o :=
    State.setReg_reg_other ({ s with tbl := { s.tbl with rom := true } } : State) _ ho
  have hregs : (s.romLoaded.kPass 6 false detail).regs = s.romLoaded.regs := (congrArg State.regs hpass.frame :)
  refine ⟨_, rfl, hpass.st, hpass.step, (State.reg_congr hregs _).trans hsame, (congrArg (fun x : State => x.tbl.rom) hpass.frame :),
    fun o ho => (State.reg_congr hregs o).trans (hother o ho), ?_⟩
  rw [hregs]
  exact hpass.frame.trans (congrArg (fun x : State => { x with kick := (s.romLoaded.kPass 6 false detail).kick }) hframe)

/-- The default contents are written. -/
def State.defaulted (s : State) : State :=
  ({ s with tbl := s.tbl.defaults, queues := [], pools := [], slots := [], sync := [] } : State).newProgramDigest

theorem kickoffK7_passes {s : State} (hready : s.kReady 7 = true) : ∃ t, exec (.kickoffK7 []) s = .next t ∧ t.kick.st = 1 ∧
    t.kick.step = 8 ∧ t.tbl = s.tbl.defaults ∧ t.queues = [] ∧ t.pools = [] ∧ t.slots = [] ∧ t.sync = [] ∧ t.mem = s.mem := by
  obtain ⟨hst, -, -⟩ := State.kReady_iff.1 hready
  have hexec : exec (.kickoffK7 []) s = .next (s.defaulted.kPass 7 false []) := by
    have hraw : exec (.kickoffK7 []) s = execKickoffK7 [] s := rfl
    rw [hraw]
    unfold execKickoffK7
    rw [hready, Bool.not_true, if_neg Bool.false_ne_true, List.foldl_nil, if_neg (by omega)]
    rfl
  obtain ⟨htbl, hqueues, hpools, hslots, hsync, hmem, hkick⟩ : s.defaulted.tbl = s.tbl.defaults ∧ s.defaulted.queues = [] ∧
      s.defaulted.pools = [] ∧ s.defaulted.slots = [] ∧ s.defaulted.sync = [] ∧ s.defaulted.mem = s.mem ∧ s.defaulted.kick = s.kick :=
    ⟨rfl, rfl, rfl, rfl, rfl, rfl, rfl⟩
  have hpass := State.kPass_passed (s := s.defaulted) 7 false [] (by rw [hkick]; exact hst)
  exact ⟨_, hexec, hpass.st, hpass.step, (congrArg State.tbl hpass.frame :).trans htbl, (congrArg State.queues hpass.frame :).trans hqueues,
    (congrArg State.pools hpass.frame :).trans hpools, (congrArg State.slots hpass.frame :).trans hslots,
    (congrArg State.sync hpass.frame :).trans hsync, (congrArg State.mem hpass.frame :).trans hmem⟩

theorem kickoffK8_passes {s : State} (hready : s.kReady 8 = true) : ∃ t, exec .kickoffK8 s = .next t ∧ t.kick.step = 8 ∧
    t.kick.st = (if s.fld 0x0E000C 0 0 = 1 then 4 else 2) ∧ t.fld 0x2800 0 0 = 1 ∧ t = { s with kick := t.kick, regs := t.regs } := by
  obtain ⟨hst, -, -⟩ := State.kReady_iff.1 hready
  have hpass := State.kPass_passed 8 false [] hst
  have hexec : exec .kickoffK8 s = .next (({ s.kPass 8 false [] with
      kick := { (s.kPass 8 false []).kick with st := if s.fld 0x0E000C 0 0 = 1 then 4 else 2, step := 8 } } : State).raiseInt 0) :=
    congrArg Host.Outcome.next (if_neg (by rw [hready]; exact Bool.false_ne_true))
  have hkick := congrArg (fun x : State => { x with
    kick := { (s.kPass 8 false []).kick with st := if s.fld 0x0E000C 0 0 = 1 then 4 else 2, step := 8 } }) hpass.frame
  dsimp only at hkick
  rw [hexec, hkick]
  exact ⟨_, rfl, rfl, rfl, State.setFld_fld_same _ _ _ _ _ (by decide) (by decide), rfl⟩

/-- Settles O45: each step without a failure ends in its passing, whose entry changes the log alone. -/
theorem kickoffPasses : Obligations.KickoffPasses := by
  unfold Obligations.KickoffPasses
  intro s hst hnvsq htried hnote himg hmarks hlost hmiss
  have hready {n : Nat} (hstep : s.kick.step = n) : s.kReady n = true := State.kReady_iff.2 ⟨hst, hstep, hnvsq⟩
  exact ⟨fun i hstep himage hok hcount hlow hhigh hlock =>
      kickoffK0_passes (hready hstep) htried hnote hmiss himage hok hcount hlow hhigh hlock,
    fun i hstep hphase => kickoffK1_passes (hready hstep) hphase, fun hstep => kickoffK2_passes (hready hstep),
    fun hstep => kickoffK3_passes (hready hstep) hmarks,
    fun i n hstep hlines hfails hmargin hquar => kickoffK4_passes (hready hstep) himg hlost hlines hfails hmargin hquar,
    fun n hstep hports => kickoffK5_passes n (hready hstep) hmarks himg hports, fun hstep => kickoffK6_passes (hready hstep),
    fun hstep => kickoffK7_passes (hready hstep), fun hstep => kickoffK8_passes (hready hstep)⟩

end Sys2Proof.Machine
end

section
/-! PROOF. REMOTE.SIGNAL (R52, R60, R250, R254 to R256). -/

namespace Sys2Proof.Machine

open Safety

/-- A state whose ports, links and chip number are those of another. -/
structure SameLinks (s t : State) : Prop where
  ports : t.vol.ports = s.vol.ports
  rot : t.vol.rot = s.vol.rot
  reach : t.vol.reach = s.vol.reach
  rx : t.vol.rx = s.vol.rx
  stuck : t.vol.stuck = s.vol.stuck
  grade : t.gradeB = s.gradeB
  chip : t.chip = s.chip

theorem SameLinks.port {s t : State} (h : SameLinks s t) (l : Nat) : t.port l = s.port l := congrArg (Tab.get Port.reset · l) h.ports

theorem SameLinks.eligible {s t : State} (h : SameLinks s t) (f : Frame) : t.eligible f = s.eligible f := by
  unfold State.eligible State.nLink State.reach
  rw [h.grade, h.rot, h.reach]
  exact congrArg (fun p => List.filter p _) (funext fun l => by rw [h.port])

theorem SameLinks.shortest {s t : State} (h : SameLinks s t) (ls : List Nat) : t.shortest ls = s.shortest ls := by
  induction ls with
  | nil => rfl
  | cons l ls ih =>
    unfold State.shortest
    rw [ih]
    cases s.shortest ls with
    | none => rfl
    | some m =>
      dsimp only
      rw [h.port, h.port]

theorem SameLinks.loopFull {s t : State} (h : SameLinks s t) (n : Nat) : t.loopFull n = s.loopFull n := by
  unfold State.loopFull
  rw [h.rx, h.stuck, h.chip]

theorem SameLinks.signalFrame {s t : State} (h : SameLinks s t) (g : SigOut) : t.signalFrame g = s.signalFrame g := by
  unfold State.signalFrame State.inlineFrame
  rw [h.chip]

/-- What REMOTE.SIGNAL does beside sending its frame: it awaits its acknowledgement, and its context goes on. -/
def State.awaitAck (s : State) (c : Ctx) (g : SigOut) : State :=
  ({ s with vol := { s.vol with sigs := s.vol.sigs ++ [g], sigSeq := s.vol.sigSeq + 1 } } : State).setCtx c ((s.ctx c).after (s.ctx c).pc)

/-- Beside the order of issue, the registers and the caches of the sequencers an instruction changes its contexts and the exchange. -/
def ExchangeFrame (s t : State) : Prop :=
  t = { s with ctxs := t.ctxs, regs := t.regs, icache := t.icache, lastIssue := t.lastIssue, stood := t.stood, slow := t.slow, vol := t.vol }

theorem State.awaitAck_frame (s : State) (c : Ctx) (g : SigOut) : ExchangeFrame s ((s.noteIssue c).awaitAck c g) := rfl

theorem State.awaitAck_links (s : State) (c : Ctx) (g : SigOut) : SameLinks s ((s.noteIssue c).awaitAck c g) :=
  ⟨rfl, rfl, rfl, rfl, rfl, rfl, State.noteIssue_fld s c (by decide) 12 0⟩

/-- What REMOTE.SIGNAL does in the state with its issue noted. -/
def remoteSignalBody (c : Ctx) (f : Fields) (t : State) : State :=
  let x := t.ctx c
  let d := (x.xr f.srcA).toNat % 8192
  if t.sysSize ≤ d then t.retire c codeBounds
  else
    let g : SigOut := ⟨t.vol.sigSeq, c, x.pc, d, bitsOf f.imm.toNat 14 0, sAmount f⟩
    let t : State := { t with vol := { t.vol with sigs := t.vol.sigs ++ [g], sigSeq := t.vol.sigSeq + 1 } }
    (t.setCtx c (x.after x.pc)).sendFrame (t.signalFrame g)

theorem exec_remoteSignal (s : State) (c : Ctx) (f : Fields) : exec (.remoteSignal c f) s =
    .next (s.localOp c (.remoteSignal c f) f [bitsOf f.imm.toNat 14 0] false (remoteSignalBody c f)) := rfl

theorem State.noteIssue_sysSize (s : State) (c : Ctx) : (s.noteIssue c).sysSize = s.sysSize := State.noteIssue_fld s c (by decide) 13 0

theorem remoteSignalBody_sends {s : State} {c : Ctx} {f : Fields} {d : Nat} {g : SigOut} (hd : d = ((s.ctx c).xr f.srcA).toNat % 8192)
    (hg : g = ⟨s.vol.sigSeq, c, (s.ctx c).pc, d, f.imm.toNat % 32768, f.imm.toNat / 32768⟩) (hin : d < s.sysSize) :
    remoteSignalBody c f (s.noteIssue c) = ((s.noteIssue c).awaitAck c g).sendFrame (s.signalFrame g) := by
  have hobj : bitsOf f.imm.toNat 14 0 = f.imm.toNat % 32768 := by
    rw [bitsOf_eq_div]
    omega
  have hbounds : ¬ (s.noteIssue c).sysSize ≤ (((s.noteIssue c).ctx c).xr f.srcA).toNat % 8192 := by
    rw [State.noteIssue_sysSize, State.noteIssue_ctx, ← hd]
    omega
  have hframe := (s.awaitAck_links c g).signalFrame g
  unfold remoteSignalBody
  dsimp only
  rw [if_neg hbounds, hobj, sAmount_eq]
  rw [← hframe, hg, hd]
  rfl

theorem remoteSignal_does {s : State} {c : Ctx} {f : Fields} {d : Nat} {g : SigOut} (hj : Journals s c)
    (hi : Issues s c (.remoteSignal c f)) (hd : d = ((s.ctx c).xr f.srcA).toNat % 8192)
    (hg : g = ⟨s.vol.sigSeq, c, (s.ctx c).pc, d, f.imm.toNat % 32768, f.imm.toNat / 32768⟩) (hin : d < s.sysSize) :
    ∃ t, exec (.remoteSignal c f) s = .next t ∧
      t.vol.sigs = s.vol.sigs ++ [g] ∧ t.vol.sigSeq = s.vol.sigSeq + 1 ∧ t.remoteOpen c = true ∧
      t.ctx c = (s.ctx c).after (s.ctx c).pc ∧ (∀ e, e ≠ c.val → t.ctx e = s.ctx e) ∧
      (d = s.chip → s.loopFull 1 = false → t.vol.rx = s.vol.rx ++ [(none, s.signalFrame g)]) ∧
      (d ≠ s.chip → s.eligible (s.signalFrame g) = [] → t.vol.stuck = s.vol.stuck ++ [s.signalFrame g]) ∧
      (∀ l, d ≠ s.chip → s.shortest (s.eligible (s.signalFrame g)) = some l → (s.port l).queued < 1024 →
        (t.port l).txq = (s.port l).txq ++ [s.signalFrame g] ∧ ∀ m, m ≠ l → t.port m = s.port m) ∧
      t = { s with ctxs := t.ctxs, regs := t.regs, icache := t.icache, lastIssue := t.lastIssue, stood := t.stood, slow := t.slow,
                   vol := t.vol, ref := { s.ref with journal := t.ref.journal, jpos := t.ref.jpos } } := by
  have hlinks := s.awaitAck_links c g
  have hdest : (s.signalFrame g).dest = d := by
    rw [hg]
    rfl
  have hcells : (s.signalFrame g).cells = 1 := rfl
  obtain ⟨hsigs, hseq, hctx, hstate⟩ : ((s.noteIssue c).awaitAck c g).vol.sigs = s.vol.sigs ++ [g] ∧
      ((s.noteIssue c).awaitAck c g).vol.sigSeq = s.vol.sigSeq + 1 ∧
      ((s.noteIssue c).awaitAck c g).ctx c = (s.ctx c).after (s.ctx c).pc ∧
      ExchangeFrame s ((s.noteIssue c).awaitAck c g) :=
    ⟨rfl, rfl, State.setCtx_ctx_same _ _ _, s.awaitAck_frame c g⟩
  have hothers (e : Nat) (he : e ≠ c.val) : ((s.noteIssue c).awaitAck c g).ctx e = s.ctx e := State.setCtx_ctx_other _ _ he
  have hbody := remoteSignalBody_sends hd hg hin
  generalize (s.noteIssue c).awaitAck c g = v at hlinks hsigs hseq hctx hstate hothers hbody
  have hleaves := v.sendFrame_leaves (s.signalFrame g)
  have href : (v.sendFrame (s.signalFrame g)).ref = s.ref := (congrArg State.ref hleaves.state :).trans (congrArg State.ref hstate :)
  obtain ⟨t, ht, -, htframe⟩ := localOp_does (f := f) [bitsOf f.imm.toNat 14 0] false hi rfl hj hbody href
  have htvol : t.vol = (v.sendFrame (s.signalFrame g)).vol := (congrArg State.vol htframe :)
  have htctxs : t.ctxs = v.ctxs := (congrArg State.ctxs htframe :).trans (congrArg State.ctxs hleaves.state :)
  have htctx (e : Nat) : t.ctx e = v.ctx e := congrArg (fun x => Tab.get Context.reset x e) htctxs
  have htport (l : Nat) : t.port l = (v.sendFrame (s.signalFrame g)).port l := congrArg (fun x : Volley => Tab.get Port.reset x.ports l) htvol
  have htsigs : t.vol.sigs = s.vol.sigs ++ [g] := by
    rw [htvol]
    exact (congrArg Volley.sigs hleaves.vol :).trans hsigs
  refine ⟨t, congrArg Host.Outcome.next ht, htsigs, ?_, ?_, (htctx c).trans hctx, fun e he => (htctx e).trans (hothers e he), ?_, ?_, ?_, ?_⟩
  · rw [htvol]
    exact (congrArg Volley.sigSeq hleaves.vol :).trans hseq
  · unfold State.remoteOpen
    rw [htsigs, List.any_eq_true]
    exact ⟨g, List.mem_append_right _ List.mem_cons_self, by rw [hg]; exact decide_eq_true rfl⟩
  · intro hchip hroom
    rw [htvol, State.sendFrame_loops (by rw [hdest, hlinks.chip]; exact hchip) (by rw [hcells, hlinks.loopFull]; exact hroom)]
    exact congrArg (· ++ [(none, s.signalFrame g)]) hlinks.rx
  · intro hchip hnone
    rw [htvol, State.sendFrame_sticks (by rw [hdest, hlinks.chip]; exact hchip) (by rw [hlinks.eligible]; exact hnone)]
    exact congrArg (· ++ [s.signalFrame g]) hlinks.stuck
  · intro l hchip hl hroom
    have hsend := State.sendFrame_sprays (s := v) (f := s.signalFrame g) (l := l) (by rw [hdest, hlinks.chip]; exact hchip)
      (by rw [hlinks.eligible, hlinks.shortest]; exact hl) (by rw [hlinks.port, hcells]; omega)
    have hport (k : Nat) : t.port k = (v.setPort l { v.port l with txq := (v.port l).txq ++ [s.signalFrame g] }).port k := by
      rw [htport, hsend]
      rfl
    refine ⟨?_, fun m hm => ?_⟩
    · rw [hport, State.setPort_port_same, hlinks.port]
    · rw [hport, State.setPort_port_other _ _ hm, hlinks.port]
  · have hframe := htframe.trans (congrArg (fun x : State => { x with ref := { s.ref with journal := t.ref.journal, jpos := t.ref.jpos } })
      (hleaves.state.trans (congrArg (fun x : State => { x with vol := (v.sendFrame (s.signalFrame g)).vol }) hstate)))
    have hregs : t.regs = v.regs := (congrArg State.regs hframe :)
    have hicache : t.icache = v.icache := (congrArg State.icache hframe :)
    have hlast : t.lastIssue = v.lastIssue := (congrArg State.lastIssue hframe :)
    have hstood : t.stood = v.stood := (congrArg State.stood hframe :)
    have hslow : t.slow = v.slow := (congrArg State.slow hframe :)
    rw [htctxs, hregs, hicache, hlast, hstood, hslow, htvol]
    exact hframe

/-- Settles O15: beside the wait for the acknowledgement the frame of the signal leaves, on the way that its destination decides. -/
theorem remoteSignalSends : Obligations.RemoteSignalSends := by
  unfold Obligations.RemoteSignalSends
  intro s c f d g hj hi hd hg
  refine ⟨fun hin => remoteSignal_does hj hi hd hg hin, fun hout htrap => ?_⟩
  have hbounds : (s.noteIssue c).sysSize ≤ (((s.noteIssue c).ctx c).xr f.srcA).toNat % 8192 := by
    rw [State.noteIssue_sysSize, State.noteIssue_ctx, ← hd]
    exact hout
  have hbody : remoteSignalBody c f (s.noteIssue c) = (s.noteIssue c).retire c codeBounds := if_pos hbounds
  obtain ⟨t, ht, hdoes⟩ := localOp_retires (f := f) [bitsOf f.imm.toNat 14 0] false hi rfl hj hbody htrap
  exact ⟨t, congrArg Host.Outcome.next ht, hdoes⟩

end Sys2Proof.Machine
end

section
/-! PROOF. The end of a remote signal or a command in its context (R52, R57). -/

namespace Sys2Proof.Machine

open Safety

/-- Beside the registers and the Referee's state context `c` alone changes. -/
structure CtxOnly (c : Nat) (s t : State) : Prop where
  frame : t = { s with ctxs := t.ctxs, regs := t.regs, ref := t.ref }
  others : ∀ d, d ≠ c → t.ctx d = s.ctx d

theorem CtxOnly.refl (c : Nat) (s : State) : CtxOnly c s s := ⟨rfl, fun _ _ => rfl⟩

theorem CtxOnly.trans {c : Nat} {s t u : State} (h : CtxOnly c s t) (k : CtxOnly c t u) : CtxOnly c s u where
  frame := k.frame.trans (congrArg (fun x : State => { x with ctxs := u.ctxs, regs := u.regs, ref := u.ref }) h.frame)
  others d hd := (k.others d hd).trans (h.others d hd)

theorem State.setCtx_only (s : State) (c : Nat) (x : Context) : CtxOnly c s (s.setCtx c x) :=
  ⟨rfl, fun _ hd => State.setCtx_ctx_other _ _ hd⟩

theorem State.trap_only (s : State) (c pc : Nat) (p : Bool) : CtxOnly c s (s.trap c pc p) :=
  ⟨rfl, (s.trap_does c pc p).2.1⟩

theorem State.dropOpen_only (s : State) (c : Nat) : CtxOnly c s (s.dropOpen c) := by
  have heq := s.dropOpen_eq c
  refine ⟨?_, fun d _ => (congrArg (fun x : State => x.ctx d) heq :)⟩
  have hctxs : (s.dropOpen c).ctxs = s.ctxs := (congrArg State.ctxs heq :)
  have hregs : (s.dropOpen c).regs = s.regs := (congrArg State.regs heq :)
  rw [hctxs, hregs]
  exact heq

theorem State.drained_only (s : State) (c : Nat) : CtxOnly c s (s.drained c) := by
  unfold State.drained
  dsimp only
  split
  · exact .refl c s
  · split
    · exact .refl c s
    · exact s.setCtx_only c _
    · exact s.setCtx_only c _
    · exact s.setCtx_only c _

/-- The code of the last completion of a context that is not on its way to FREE stays when its way ends. -/
theorem State.drained_last {s : State} {c : Nat} (h : (s.ctx c).drain ≠ .toFree ∨ (s.ctx c).last = codeOk) :
    ((s.drained c).ctx c).last = (s.ctx c).last := by
  unfold State.drained
  dsimp only
  split
  · rfl
  · split
    · rfl
    · rw [State.setCtx_ctx_same]
    · next hfree =>
      have hok : (s.ctx c).last = codeOk := h.resolve_left fun hne => hne hfree
      exact (congrArg Context.last (State.setCtx_ctx_same s c _)).trans hok.symm
    · rw [State.setCtx_ctx_same]

/-- A context meets a trap of a completion while it runs, or later when it waits (R57). -/
def State.lateTrap (s : State) (c pc : Nat) (precise : Bool) : State :=
  match (s.ctx c).st with
  | .running =>
    if (s.ctx c).drain = .toHalted then s else (if (s.ctx c).drain = .toStepwait then s.dropOpen c else s).trap c pc precise
  | .waiting => s.setCtx c { s.ctx c with trapDue := true }
  | _ => s

theorem State.lateTrap_only (s : State) (c pc : Nat) (p : Bool) : CtxOnly c s (s.lateTrap c pc p) := by
  unfold State.lateTrap
  split
  · split
    · exact .refl c s
    · split
      · exact (s.dropOpen_only c).trans (State.trap_only _ c pc p)
      · exact s.trap_only c pc p
  · exact s.setCtx_only c _
  · exact .refl c s

/-- A late trap keeps the code of the last completion, and puts no context on its way to FREE. -/
theorem State.lateTrap_last (s : State) (c pc : Nat) (p : Bool) : ((s.lateTrap c pc p).ctx c).last = (s.ctx c).last ∧
    ((s.ctx c).drain ≠ .toFree → ((s.lateTrap c pc p).ctx c).drain ≠ .toFree) := by
  unfold State.lateTrap
  split
  · split
    · exact ⟨rfl, fun h => h⟩
    · split
      · have hctx : (s.dropOpen c).ctx c = s.ctx c := (congrArg (fun x : State => x.ctx c) (s.dropOpen_eq c) :)
        obtain ⟨htrap, -⟩ := (s.dropOpen c).trap_does c pc p
        rw [htrap, hctx]
        exact ⟨rfl, fun _ h => nomatch h⟩
      · obtain ⟨htrap, -⟩ := s.trap_does c pc p
        rw [htrap]
        exact ⟨rfl, fun _ h => nomatch h⟩
  · rw [State.setCtx_ctx_same]
    exact ⟨rfl, fun h => h⟩
  · exact ⟨rfl, fun h => h⟩

theorem Context.record_drain (x : Context) (k : Byte) (pc : Nat) : (x.record k pc).drain = x.drain := by
  unfold Context.record
  split
  · rfl
  · rfl

/-! ### The end of a remote signal -/

/-- The code of a remote signal is recorded, and its journal entry closed. -/
def State.recordRemote (s : State) (g : SigOut) (code : Byte) : State :=
  (s.setCtx g.c ((s.ctx g.c).record code g.pc)).closeRemote g.c g.seq ⟨code, 0⟩

theorem State.recordRemote_only (s : State) (g : SigOut) (code : Byte) : CtxOnly g.c s (s.recordRemote g code) :=
  ⟨rfl, fun _ hd => State.setCtx_ctx_other _ _ hd⟩

theorem State.recordRemote_ctx (s : State) (g : SigOut) (code : Byte) : (s.recordRemote g code).ctx g.c = (s.ctx g.c).record code g.pc :=
  State.setCtx_ctx_same _ _ _

/-- A remote signal has left the list of those that await their acknowledgement. -/
def State.dropSignal (s : State) (g : SigOut) : State := { s with vol := { s.vol with sigs := s.vol.sigs.erase g } }

theorem State.endRemote_eq {s : State} (g : SigOut) (code : Byte) (h : s.ref.replay = false) : s.endRemote g code =
    (if ((s.dropSignal g).recordRemote g code).trapOn g.c code then ((s.dropSignal g).recordRemote g code).lateTrap g.c g.pc true
      else (s.dropSignal g).recordRemote g code).drained g.c := by
  have hahead : (s.dropSignal g).aheadRemote g.c g.seq = false := by
    unfold State.aheadRemote
    rw [show (s.dropSignal g).ref.replay = false from h]
    rfl
  have hend : s.endRemote g code = if (s.dropSignal g).aheadRemote g.c g.seq then (s.dropSignal g).closeRemote g.c g.seq ⟨code, 0⟩ else
      (if !((s.dropSignal g).recordRemote g code).trapOn g.c code then (s.dropSignal g).recordRemote g code
        else ((s.dropSignal g).recordRemote g code).lateTrap g.c g.pc true).drained g.c := rfl
  rw [hend, hahead, if_neg Bool.false_ne_true]
  cases ((s.dropSignal g).recordRemote g code).trapOn g.c code
  · rfl
  · rfl

/-- A remote signal ends in its context. -/
theorem State.endRemote_does {s : State} (g : SigOut) (code : Byte) (h : s.ref.replay = false) :
    CtxOnly g.c (s.dropSignal g) (s.endRemote g code) ∧
    ((s.ctx g.c).drain ≠ .toFree ∨ code = codeOk → ((s.endRemote g code).ctx g.c).last = code) := by
  rw [State.endRemote_eq g code h]
  have hctx := (s.dropSignal g).recordRemote_ctx g code
  have hrecord := (s.dropSignal g).recordRemote_only g code
  have hsame : (s.dropSignal g).ctx g.c = s.ctx g.c := rfl
  rw [hsame] at hctx
  have hlast := (congrArg Context.last hctx).trans (Context.record_last _ _ _)
  have hdrain := (congrArg Context.drain hctx).trans (Context.record_drain _ _ _)
  split
  · have hlate := ((s.dropSignal g).recordRemote g code).lateTrap_only g.c g.pc true
    obtain ⟨hlateLast, hlateDrain⟩ := ((s.dropSignal g).recordRemote g code).lateTrap_last g.c g.pc true
    refine ⟨(hrecord.trans hlate).trans (State.drained_only _ _), fun hway => ?_⟩
    rw [State.drained_last ?_, hlateLast, hlast]
    rcases hway with hway | hway
    · exact Or.inl (hlateDrain (by rw [hdrain]; exact hway))
    · exact Or.inr (by rw [hlateLast, hlast, hway])
  · refine ⟨hrecord.trans (State.drained_only _ _), fun hway => ?_⟩
    rw [State.drained_last ?_, hlast]
    rcases hway with hway | hway
    · exact Or.inl (by rw [hdrain]; exact hway)
    · exact Or.inr (by rw [hlast, hway])

end Sys2Proof.Machine
end

section
/-! PROOF. Inline packets (R52, R250, R266, R270, R351, R352). -/

namespace Sys2Proof.Machine

open Safety

/-- The volley state `v` with ports, rotation pointer, waiting frames and receive store taken from `w`. -/
def Volley.links (v w : Volley) : Volley := { v with ports := w.ports, rot := w.rot, stuck := w.stuck, rx := w.rx }

/-- Only the ports, the rotation pointer, the frames that wait and the receive store change. -/
structure LinksOnly (s t : State) : Prop where
  state : t = { s with vol := t.vol }
  vol : t.vol = s.vol.links t.vol

theorem LinksOnly.refl (s : State) : LinksOnly s s := ⟨rfl, rfl⟩

theorem LinksOnly.trans {s t u : State} (h : LinksOnly s t) (k : LinksOnly t u) : LinksOnly s u where
  state := k.state.trans (congrArg (fun x : State => { x with vol := u.vol }) h.state)
  vol := k.vol.trans (congrArg (fun x : Volley => x.links u.vol) h.vol :)

theorem FramesLeave.links {s t : State} (h : FramesLeave s t) : LinksOnly s t := ⟨h.state, h.vol⟩

theorem State.returnCells_links (s : State) (l : Option (Fin 64)) (n : Nat) : LinksOnly s (s.returnCells l n) := by
  cases l with
  | none => exact .refl s
  | some l => exact ⟨rfl, rfl⟩

theorem State.retryStuck_links (s : State) : LinksOnly s s.retryStuck := by
  unfold State.retryStuck
  split
  · exact .refl s
  · refine LinksOnly.trans (t := { s with vol := { s.vol with stuck := [] } }) ⟨rfl, rfl⟩ ?_
    exact (State.sendFrames_leave { s with vol := { s.vol with stuck := [] } } s.vol.stuck).links

theorem State.takeRx_links {s t : State} {kind : Nat} {f : Frame} (h : s.takeRx kind = some (f, t)) : LinksOnly s t := by
  unfold State.takeRx at h
  split at h
  · cases h
  · next r _ =>
    dsimp only at h
    have hpair := Option.some.inj h
    have ht := congrArg Prod.snd hpair
    dsimp only at ht
    rw [← ht]
    have htaken : LinksOnly s (({ s with vol := { s.vol with rx := s.vol.rx.erase r } } : State).returnCells r.1 r.2.cells) :=
      LinksOnly.trans (t := { s with vol := { s.vol with rx := s.vol.rx.erase r } }) ⟨rfl, rfl⟩ (State.returnCells_links _ _ _)
    split
    · exact htaken.trans (State.retryStuck_links _)
    · exact htaken

/-! ### SIGNAL_PACKET (R52, R266) -/

/-- What a signal packet does to the sync objects: `k` tells a new sequence (0) from one seen before and one too old. -/
def State.remoteAdd (s : State) (k v : Nat) : State :=
  if k ≠ 0 then s else if bitsOf v 14 0 < 28672 then s.bump 0x0B0064 1 else s.signal (bitsOf v 14 0) (bitsOf v 31 15)

/-- The window of an origin is written. -/
def State.setWindow (s : State) (o : Nat) (w : SigWin) : State :=
  { s with vol := { s.vol with wins := Tab.set SigWin.reset s.vol.wins o w } }

theorem exec_signalPacket {s t0 : State} {f : Frame} {k : Nat} {w : SigWin} (hrx : s.takeRx 3 = some (f, t0))
    (hwin : (Tab.get SigWin.reset t0.vol.wins f.origin).take (BitVec.ofNat 16 (fieldLe f.inline_ 4 2)) = (k, w)) :
    ∃ g, exec .signalPacket s = .next (((t0.setWindow f.origin w).remoteAdd k (fieldLe f.inline_ 0 4)).sendFrame g) := by
  have hexec : exec .signalPacket s = execSignalPacket s := rfl
  rw [hexec]
  unfold execSignalPacket
  rw [hrx]
  dsimp only
  rw [hwin]
  unfold State.remoteAdd
  simp only [decide_eq_true_eq]
  exact ⟨_, rfl⟩

theorem State.remoteAdd_does (s : State) (k v : Nat) :
    (k = 0 → 28672 ≤ bitsOf v 14 0 → (s.obj (bitsOf v 14 0)).cnt.toNat + bitsOf v 31 15 < 2 ^ 32 →
      ((s.remoteAdd k v).obj (bitsOf v 14 0)).cnt.toNat = (s.obj (bitsOf v 14 0)).cnt.toNat + bitsOf v 31 15 ∧
      ∀ m, m ≠ bitsOf v 14 0 → (s.remoteAdd k v).obj m = s.obj m) ∧
    (k = 0 → bitsOf v 14 0 < 28672 → (s.remoteAdd k v).sync = s.sync ∧ (s.remoteAdd k v).reg 0x0B0064 = s.reg 0x0B0064 + 1) ∧
    (k ≠ 0 → (s.remoteAdd k v).sync = s.sync) ∧ (s.remoteAdd k v).mem = s.mem ∧ (s.remoteAdd k v).vol = s.vol := by
  have hvol : (s.signal (bitsOf v 14 0) (bitsOf v 31 15)).vol = s.vol :=
    (congrArg State.vol (State.signal_eq s (bitsOf v 14 0) (bitsOf v 31 15)) :)
  unfold State.remoteAdd
  by_cases hk : k = 0
  · rw [if_neg (fun h => h hk)]
    by_cases hn : bitsOf v 14 0 < 28672
    · rw [if_pos hn]
      exact ⟨fun _ h => absurd hn (Nat.not_lt.2 h), fun _ _ => ⟨rfl, State.bump_reg_same _ _ _⟩, fun h => absurd hk h, rfl, rfl⟩
    · rw [if_neg hn]
      refine ⟨fun _ _ hfit => ?_, fun _ h => absurd h hn, fun h => absurd hk h, (s.signal_frame _ _).2, hvol⟩
      obtain ⟨hadd, -, hothers, -⟩ := s.signal_adds _ _ hfit
      exact ⟨hadd, hothers⟩
  · rw [if_pos hk]
    exact ⟨fun h => absurd h hk, fun h => absurd h hk, fun _ => rfl, rfl, rfl⟩

theorem signalPacket_does {s t0 : State} {f : Frame} {k n : Nat} {w : SigWin} (hrx : s.takeRx 3 = some (f, t0))
    (hn : n = fieldLe f.inline_ 0 4 % 32768)
    (hwin : (Tab.get SigWin.reset s.vol.wins f.origin).take (BitVec.ofNat 16 (fieldLe f.inline_ 4 2)) = (k, w)) :
    ∃ t, exec .signalPacket s = .next t ∧ Tab.get SigWin.reset t.vol.wins f.origin = w ∧
      (k = 0 → 28672 ≤ n → (s.obj n).cnt.toNat + bitsOf (fieldLe f.inline_ 0 4) 31 15 < 2 ^ 32 →
        (t.obj n).cnt.toNat = (s.obj n).cnt.toNat + bitsOf (fieldLe f.inline_ 0 4) 31 15 ∧ ∀ m, m ≠ n → t.obj m = s.obj m) ∧
      (k = 0 → n < 28672 → t.sync = s.sync ∧ t.reg 0x0B0064 = s.reg 0x0B0064 + 1) ∧ (k ≠ 0 → t.sync = s.sync) ∧ t.mem = s.mem := by
  have hobj : bitsOf (fieldLe f.inline_ 0 4) 14 0 = n := by
    rw [hn, bitsOf_eq_div]
    exact congrArg (· % 32768) (Nat.div_one _)
  have hlinks := State.takeRx_links hrx
  have hwins : t0.vol.wins = s.vol.wins := (congrArg Volley.wins hlinks.vol :)
  have hsync : t0.sync = s.sync := (congrArg State.sync hlinks.state :)
  have hregs : t0.regs = s.regs := (congrArg State.regs hlinks.state :)
  have hmem : t0.mem = s.mem := (congrArg State.mem hlinks.state :)
  rw [← hwins] at hwin
  obtain ⟨g, hexec⟩ := exec_signalPacket hrx hwin
  obtain ⟨hadd, hbad, hseen, haddMem, haddVol⟩ := (t0.setWindow f.origin w).remoteAdd_does k (fieldLe f.inline_ 0 4)
  have hwindow : Tab.get SigWin.reset ((t0.setWindow f.origin w).remoteAdd k (fieldLe f.inline_ 0 4)).vol.wins f.origin = w := by
    rw [haddVol]
    exact Tab.get_set_same _ _ _ _
  have hobjs (m : Nat) : (t0.setWindow f.origin w).obj m = s.obj m := congrArg (Tab.get SyncObj.reset · m) hsync
  have hreg (o : Nat) : (t0.setWindow f.origin w).reg o = s.reg o := State.reg_congr hregs o
  have hsyncs : (t0.setWindow f.origin w).sync = s.sync := hsync
  rw [hobj, hobjs] at hadd
  rw [hobj, hreg, hsyncs] at hbad
  rw [hsyncs] at hseen
  generalize (t0.setWindow f.origin w).remoteAdd k (fieldLe f.inline_ 0 4) = u at hexec hadd hbad hseen haddMem hwindow
  have hsend := u.sendFrame_leaves g
  have htobj (m : Nat) : (u.sendFrame g).obj m = u.obj m := (congrArg (fun x : State => x.obj m) hsend.state :)
  have htsync : (u.sendFrame g).sync = u.sync := (congrArg State.sync hsend.state :)
  have htregs : (u.sendFrame g).regs = u.regs := (congrArg State.regs hsend.state :)
  refine ⟨_, hexec, ?_, fun hk hin hfit => ?_, fun hk hlow => ?_, fun hk => htsync.trans (hseen hk), ?_⟩
  · rw [hsend.vol]
    exact hwindow
  · obtain ⟨hcnt, hothers⟩ := hadd hk hin hfit
    refine ⟨(congrArg (fun o : SyncObj => o.cnt.toNat) (htobj n)).trans hcnt, fun m hm => ?_⟩
    rw [htobj, hothers m hm, hobjs]
  · obtain ⟨hs, hr⟩ := hbad hk hlow
    exact ⟨htsync.trans hs, (State.reg_congr htregs _).trans hr⟩
  · exact (congrArg State.mem hsend.state :).trans (haddMem.trans hmem)

/-! ### SIGACK and the timeouts (R52, R67, R266) -/

theorem sigack_does {s t0 : State} {f : Frame} {g : SigOut} (hrx : s.takeRx 4 = some (f, t0)) (hreplay : s.ref.replay = false)
    (hg : s.vol.sigs.find? (fun g => decide (g.seq = BitVec.ofNat 16 (fieldLe f.inline_ 4 2)) && decide (g.dest = f.origin)) = some g) :
    ∃ t, exec .sigack s = .next t ∧ t.vol.sigs = s.vol.sigs.erase g ∧ (t.ctx g.c).last = codeOk ∧
      (∀ d, d ≠ g.c.val → t.ctx d = s.ctx d) := by
  have hlinks := State.takeRx_links hrx
  have hsigs : t0.vol.sigs = s.vol.sigs := (congrArg Volley.sigs hlinks.vol :)
  have hreplay0 : t0.ref.replay = false := (congrArg (fun x : State => x.ref.replay) hlinks.state :).trans hreplay
  have hctx (d : Nat) : t0.ctx d = s.ctx d := (congrArg (fun x : State => x.ctx d) hlinks.state :)
  have hexec : exec .sigack s = .next (t0.endRemote g codeOk) := by
    have hraw : exec .sigack s = execSigack s := rfl
    rw [hraw]
    unfold execSigack
    rw [hrx]
    dsimp only
    rw [hsigs, hg]
  obtain ⟨hends, hlast⟩ := t0.endRemote_does g codeOk hreplay0
  refine ⟨_, hexec, ?_, hlast (Or.inr rfl), fun d hd => (hends.others d hd).trans (hctx d)⟩
  exact (congrArg (fun x : State => x.vol.sigs) hends.frame :).trans (congrArg (·.erase g) hsigs)

theorem remoteSignalTimeout_does {s : State} {c : Ctx} {g : SigOut} (hreplay : s.ref.replay = false)
    (hg : s.vol.sigs.find? (fun g => decide (g.c = c)) = some g) : ∃ t, exec (.remoteSignalTimeout c) s = .next t ∧
      t.vol.sigs = s.vol.sigs.erase g ∧ ((s.ctx c).drain ≠ .toFree → (t.ctx c).last = codeTimeout) ∧
      (∀ d, d ≠ c.val → t.ctx d = s.ctx d) := by
  have hc : g.c = c := of_decide_eq_true (List.find?_some (p := fun g : SigOut => decide (g.c = c)) hg)
  subst hc
  have hexec : exec (.remoteSignalTimeout g.c) s = .next (s.endRemote g codeTimeout) := by
    have hraw : exec (.remoteSignalTimeout g.c) s = execRemoteSignalTimeout g.c s := rfl
    rw [hraw]
    unfold execRemoteSignalTimeout
    rw [hg]
  obtain ⟨hends, hlast⟩ := s.endRemote_does g codeTimeout hreplay
  exact ⟨_, hexec, (congrArg (fun x : State => x.vol.sigs) hends.frame :), fun h => hlast (Or.inl h), fun d hd => hends.others d hd⟩

theorem signalResendTimeout_does {s : State} {q : BitVec 16} {g : SigOut}
    (hg : s.vol.sigs.find? (fun g => decide (g.seq = q)) = some g) : ∃ t, exec (.signalResendTimeout q) s = .next t ∧
      t.reg 0x0B0058 = s.reg 0x0B0058 + 1 ∧ t.vol.sigs = s.vol.sigs ∧ t.ctxs = s.ctxs ∧
      (g.dest = s.chip → s.loopFull 1 = false → t.vol.rx = s.vol.rx ++ [(none, s.signalFrame g)]) := by
  have hexec : exec (.signalResendTimeout q) s = .next ((s.bump 0x0B0058 1).sendFrame (s.signalFrame g)) := by
    have hraw : exec (.signalResendTimeout q) s = execSignalResendTimeout q s := rfl
    rw [hraw]
    unfold execSignalResendTimeout
    rw [hg]
  have hcount := s.bump_reg_same 0x0B0058 1
  have hchip : (s.bump 0x0B0058 1).chip = s.chip :=
    congrArg (fun w : Word => bitsOf w.toNat 12 0) (s.bump_reg_other 1 (by decide : 0x0B0004 ≠ 0x0B0058))
  have hbump := s.bump_eq 0x0B0058 1
  generalize s.bump 0x0B0058 1 = u at hexec hcount hchip hbump
  have hsend := u.sendFrame_leaves (s.signalFrame g)
  have hvol : u.vol = s.vol := (congrArg State.vol hbump :)
  have hregs : (u.sendFrame (s.signalFrame g)).regs = u.regs := (congrArg State.regs hsend.state :)
  refine ⟨_, hexec, (State.reg_congr hregs _).trans hcount, ?_, ?_, fun hdest hroom => ?_⟩
  · exact (congrArg Volley.sigs hsend.vol :).trans (congrArg Volley.sigs hvol :)
  · exact (congrArg State.ctxs hsend.state :).trans (congrArg State.ctxs hbump :)
  · have hloop : u.loopFull (s.signalFrame g).cells = false := by
      have hsame : u.loopFull 1 = s.loopFull 1 := by
        unfold State.loopFull
        rw [hvol, hchip]
      exact hsame.trans hroom
    rw [State.sendFrame_loops (hdest.trans hchip.symm) hloop]
    exact congrArg (· ++ [(none, s.signalFrame g)]) (congrArg Volley.rx hvol)

/-! ### FAULTN, PSTATE and digests (R270, R351 to R353) -/

theorem faultnPacket_does {s t0 : State} {f : Frame} (hrx : s.takeRx 7 = some (f, t0)) : ∃ t, exec .faultnPacket s = .next t ∧
    t.mem = s.mem ∧
    t.ref.faults = (if fieldLe f.inline_ 0 2 = (s.batch f.half.val).toNat ∧ fieldLe f.inline_ 2 1 = (s.gen f.half.val).toNat then
      s.ref.faults ++ [⟨0x0E, some f.half, 0, 0xFFFF, 0, false⟩] else s.ref.faults) := by
  have hlinks := State.takeRx_links hrx
  have hregs : t0.regs = s.regs := (congrArg State.regs hlinks.state :)
  have href : t0.ref = s.ref := (congrArg State.ref hlinks.state :)
  have hmem : t0.mem = s.mem := (congrArg State.mem hlinks.state :)
  have hbatch : t0.batch f.half.val = s.batch f.half.val := by
    unfold State.batch State.fld
    rw [State.reg_congr hregs]
  have hgen : t0.gen f.half.val = s.gen f.half.val := by
    unfold State.gen
    rw [href]
  have hexec : exec .faultnPacket s = .next (
      if fieldLe f.inline_ 0 2 = (s.batch f.half.val).toNat ∧ fieldLe f.inline_ 2 1 = (s.gen f.half.val).toNat then
        t0.report ⟨0x0E, some f.half, 0, 0xFFFF, 0, false⟩ else t0) := by
    have hraw : exec .faultnPacket s = execFaultnPacket s := rfl
    rw [hraw]
    unfold execFaultnPacket
    rw [hrx]
    dsimp only
    rw [hbatch, hgen]
  refine ⟨_, hexec, ?_, ?_⟩
  · split
    · exact hmem
    · exact hmem
  · split
    · exact congrArg (fun r : Referee => r.faults ++ [⟨0x0E, some f.half, 0, 0xFFFF, 0, false⟩]) href
    · exact congrArg Referee.faults href

theorem pstatePacket_does {s t0 : State} {f : Frame} (hrx : s.takeRx 8 = some (f, t0)) : ∃ t, exec .pstatePacket s = .next t ∧
    t.reach f.origin = BitVec.ofNat 64 (fieldLe f.inline_ 0 8) ∧ (∀ d, d ≠ f.origin → t.reach d = s.reach d) ∧ t.mem = s.mem := by
  have hlinks := State.takeRx_links hrx
  have hreach : t0.vol.reach = s.vol.reach := (congrArg Volley.reach hlinks.vol :)
  have hmem : t0.mem = s.mem := (congrArg State.mem hlinks.state :)
  have hexec : exec .pstatePacket s = .next ({ t0 with vol := { t0.vol with
      reach := Tab.set 0xFFFFFFFFFFFFFFFF#64 t0.vol.reach f.origin (BitVec.ofNat 64 (fieldLe f.inline_ 0 8)) } } : State).retryStuck := by
    have hraw : exec .pstatePacket s = execPstatePacket s := rfl
    rw [hraw]
    unfold execPstatePacket
    rw [hrx]
  generalize hu : ({ t0 with vol := { t0.vol with
      reach := Tab.set 0xFFFFFFFFFFFFFFFF#64 t0.vol.reach f.origin (BitVec.ofNat 64 (fieldLe f.inline_ 0 8)) } } : State) = u at hexec
  have hretry := u.retryStuck_links
  have htreach (d : Nat) : u.retryStuck.reach d = u.reach d :=
    congrArg (Tab.get 0xFFFFFFFFFFFFFFFF#64 · d) (congrArg Volley.reach hretry.vol :)
  refine ⟨_, hexec, ?_, fun d hd => ?_, ?_⟩
  · rw [htreach, ← hu]
    exact Tab.get_set_same _ _ _ _
  · rw [htreach, ← hu]
    exact (Tab.get_set_other _ _ _ hd).trans (congrArg (Tab.get 0xFFFFFFFFFFFFFFFF#64 · d) hreach)
  · refine (congrArg State.mem hretry.state :).trans ?_
    rw [← hu]
    exact hmem

theorem digestPacket_does {s t0 : State} {f : Frame} (hrx : s.takeRx 9 = some (f, t0)) :
    (bitOf (fieldLe f.inline_ 9 1) 1 = true → exec .digestPacket s = .next t0) ∧
    (bitOf (fieldLe f.inline_ 9 1) 1 = false → s.ref.compares.length < 128 → (∀ e ∈ s.ref.compares, e.mine = false) →
      ∃ t, exec .digestPacket s = .next t ∧ t.mem = s.mem ∧ t.ref.compares = s.ref.compares ++
        [⟨false, BitVec.ofNat 64 (fieldLe f.inline_ 0 8), fieldLe f.inline_ 8 1, (BitVec.ofNat 1 (fieldLe f.inline_ 9 1)).toFin,
          BitVec.ofNat 32 (fieldLe f.inline_ 12 4), BitVec.ofNat 64 (fieldLe f.inline_ 16 8)⟩]) := by
  have hlinks := State.takeRx_links hrx
  have href : t0.ref = s.ref := (congrArg State.ref hlinks.state :)
  have hmem : t0.mem = s.mem := (congrArg State.mem hlinks.state :)
  have hexec : exec .digestPacket s = .next (if bitOf (fieldLe f.inline_ 9 1) 1 then t0
      else t0.compareEnter false ⟨BitVec.ofNat 64 (fieldLe f.inline_ 0 8), fieldLe f.inline_ 8 1,
        (BitVec.ofNat 1 (fieldLe f.inline_ 9 1)).toFin, BitVec.ofNat 32 (fieldLe f.inline_ 12 4),
        BitVec.ofNat 64 (fieldLe f.inline_ 16 8)⟩) := by
    have hraw : exec .digestPacket s = execDigestPacket s := rfl
    rw [hraw]
    unfold execDigestPacket
    rw [hrx]
  rw [hexec]
  refine ⟨fun hempty => by rw [if_pos hempty], fun hfull hroom hmine => ?_⟩
  rw [hfull, if_neg Bool.false_ne_true]
  have henter (d : Digest) : t0.compareEnter false d = { t0 with ref := { t0.ref with compares := t0.ref.compares ++ [⟨false, d⟩] } } := by
    have hnone : t0.ref.compares.find? (fun e => decide (e.mine ≠ false) && decide (e.d.step = d.step) && decide (e.d.unit = d.unit) &&
        decide (e.d.half = d.half)) = none := by
      refine List.find?_eq_none.2 fun e he => ?_
      rw [href] at he
      rw [hmine e he]
      simp
    unfold State.compareEnter
    dsimp only
    rw [hnone]
    dsimp only
    rw [href, if_neg (by omega)]
  rw [henter]
  exact ⟨_, rfl, hmem, congrArg (fun r : Referee => r.compares ++ _) href⟩

theorem pcPartnerTimeout_does {s : State} {q : DWord} {u : Fin 8} {h : Half} {e : Compare}
    (he : s.ref.compares.find? (fun e => decide (e.d.step = q) && decide (e.d.unit = u.val) && decide (e.d.half = h)) = some e) :
    ∃ t, exec (.pcPartnerTimeout q u h) s = .next t ∧ t.fld 0x2000 14 14 = 1 ∧
      t = { s with regs := t.regs, ref := { s.ref with compares := s.ref.compares.erase e } } := by
  have hexec : exec (.pcPartnerTimeout q u h) s =
      .next (({ s with ref := { s.ref with compares := s.ref.compares.erase e } } : State).raiseFlag 14 1) := by
    have hraw : exec (.pcPartnerTimeout q u h) s = execPcPartnerTimeout q u h s := rfl
    rw [hraw]
    unfold execPcPartnerTimeout
    rw [he]
  obtain ⟨hflag, -, -, -, hframe⟩ :=
    ({ s with ref := { s.ref with compares := s.ref.compares.erase e } } : State).raiseFlag_does 14 1 (by decide)
  exact ⟨_, hexec, hflag, hframe⟩

/-- Settles O53: a packet leaves the receive store, and has its effect beside the links. -/
theorem inlinePackets : Obligations.InlinePackets := by
  unfold Obligations.InlinePackets
  exact ⟨fun s t0 f k n w hrx hn hwin => signalPacket_does hrx hn hwin, fun s t0 f g hrx hreplay hg => sigack_does hrx hreplay hg,
    fun s g => ⟨fun c hreplay hg => remoteSignalTimeout_does hreplay hg, fun q hg => signalResendTimeout_does hg⟩,
    fun s t0 f hrx => faultnPacket_does hrx, fun s t0 f hrx => pstatePacket_does hrx, fun s t0 f hrx => digestPacket_does hrx,
    fun s q u h e he => pcPartnerTimeout_does he⟩

end Sys2Proof.Machine
end

section
/-! PROOF. Frames and control blocks that arrive at a link port (R244, R247, R248, R257). -/

namespace Sys2Proof.Machine

open Safety

/-! ### Two counted events -/

theorem State.tagError_does (s : State) : s.tagError.reg 0x0B0040 = s.reg 0x0B0040 + 1 ∧ s.tagError.fld 0x2000 12 12 = 1 ∧
    s.tagError = { s with regs := s.tagError.regs } := by
  obtain ⟨hflag, -, -, hregs, hframe⟩ := (s.bump 0x0B0040 1).raiseFlag_does 12 1 (by decide)
  refine ⟨?_, hflag, hframe.trans rfl⟩
  exact (hregs 0x0B0040 (by decide) (by decide)).trans (State.bump_reg_same s 0x0B0040 1)

theorem State.measure_eq (s : State) (k n : Nat) : s.measure k n = { s with obs := (s.measure k n).obs } := by
  unfold State.measure
  split <;> rfl

/-! ### FRAME_RECEIVE -/

/-- A received frame waits to be processed. -/
def State.keepRx (s : State) (l : Fin 64) (f : Frame) : State := { s with vol := { s.vol with rx := s.vol.rx ++ [(some l, f)] } }

/-- A frame past its CRC checks, before it is known whether it has come before: its sequence is no longer named or missing. -/
def Port.arrived (p : Port) (seq : BitVec 24) (n : Nat) : Port :=
  { p.came seq with
    naks := (p.came seq).naks.filter (fun x => decide (x ≠ seq)), missing := (p.came seq).missing.filter (fun x => decide (x ≠ seq))
    rxCells := (p.came seq).rxCells + n }

section
variable {s : State} {l : Fin 64} {bytes : List Byte} {f : Frame} {q : BitVec 24}

theorem exec_frameReceive (hup : (s.port l).up = true) (hlen : 64 ≤ bytes.length) (hmod : bytes.length % 64 = 0) :
    exec (.frameReceive l bytes) s = .next (
      if crc32 (bytes.take 60) ≠ fieldLe bytes 60 4 then
        s.setPort l.val ({ s.port l with rxSeq := (s.port l).rxSeq + 1 }.refuse (bytes.length / 64) (s.port l).rxSeq)
      else if decide (64 < bytes.length) && decide (crc32 ((bytes.drop 64).take (bytes.length - 68)) ≠
          fieldLe bytes (bytes.length - 4) 4) then
        s.setPort l.val (((s.port l).came (frameOf bytes).2).refuse (bytes.length / 64) (frameOf bytes).2)
      else if (s.port l).had (frameOf bytes).2 then
        ((s.setPort l.val ((s.port l).arrived (frameOf bytes).2 (bytes.length / 64))).bump 0x0B0048 1).returnCells (some l)
          (bytes.length / 64)
      else (s.setPort l.val ((s.port l).arrived (frameOf bytes).2 (bytes.length / 64))).takeFrame l bytes (frameOf bytes).1) := by
  have hraw : exec (.frameReceive l bytes) s = execFrameReceive l bytes s := rfl
  have hsound : (!(s.port l).up || decide (bytes.length < 64) || decide (bytes.length % 64 ≠ 0)) = false := by
    rw [hup, hmod, decide_eq_false (Nat.not_lt.2 hlen)]
    rfl
  rw [hraw]
  unfold execFrameReceive Port.arrived
  dsimp only
  rw [hsound, if_neg Bool.false_ne_true]

/-- A frame that fails a CRC is kept nowhere. -/
theorem Port.refuse_setPort (s : State) (l : Fin 64) (p : Port) (n : Nat) (seq : BitVec 24) :
    (s.setPort l.val (p.refuse n seq)).vol.rx = s.vol.rx ∧ ((s.setPort l.val (p.refuse n seq)).port l.val).rxSeq = p.rxSeq ∧
    ((s.setPort l.val (p.refuse n seq)).port l.val).naks = p.naks ++ [seq] ∧
    ((s.setPort l.val (p.refuse n seq)).port l.val).grants = p.grants + BitVec.ofNat 32 n ∧
    s.setPort l.val (p.refuse n seq) = { s with vol := (s.setPort l.val (p.refuse n seq)).vol } := by
  rw [State.setPort_port_same]
  exact ⟨rfl, rfl, rfl, rfl, rfl⟩

theorem Port.came_grants (p : Port) (seq : BitVec 24) : (p.came seq).grants = p.grants := by
  unfold Port.came
  dsimp only
  split <;> rfl

theorem Port.came_rxCells (p : Port) (seq : BitVec 24) : (p.came seq).rxCells = p.rxCells := by
  unfold Port.came
  dsimp only
  split <;> rfl

theorem Port.came_within (p : Port) (seq : BitVec 24) {n : Nat} (hn : n = (seq - p.rxSeq).toNat) (hlt : n < 2 ^ 23) :
    (p.came seq).rxSeq = seq + 1 ∧
    (p.came seq).naks = p.naks ++ (List.range n).map fun i => p.rxSeq + BitVec.ofNat 24 i := by
  subst hn
  unfold Port.came
  dsimp only
  rw [if_neg (Nat.not_le.2 hlt)]
  exact ⟨rfl, rfl⟩

theorem Port.came_behind (p : Port) (seq : BitVec 24) (h : 2 ^ 23 ≤ (seq - p.rxSeq).toNat) : p.came seq = p := by
  unfold Port.came
  dsimp only
  rw [if_pos h]

theorem Port.arrived_naks (p : Port) (seq : BitVec 24) (n : Nat) : seq ∉ (p.arrived seq n).naks := by
  unfold Port.arrived
  simp

/-- A duplicate frame is counted and its cells are granted anew. -/
theorem State.duplicate_does (s : State) (l : Fin 64) (p : Port) (n : Nat) :
    (((s.setPort l.val p).bump 0x0B0048 1).returnCells (some l) n).vol.rx = s.vol.rx ∧
    (((s.setPort l.val p).bump 0x0B0048 1).returnCells (some l) n).reg 0x0B0048 = s.reg 0x0B0048 + 1 ∧
    ((s.setPort l.val p).bump 0x0B0048 1).returnCells (some l) n =
      { s with vol := (((s.setPort l.val p).bump 0x0B0048 1).returnCells (some l) n).vol,
               regs := (((s.setPort l.val p).bump 0x0B0048 1).returnCells (some l) n).regs } :=
  ⟨rfl, State.bump_reg_same (s.setPort l.val p) _ _, rfl⟩

theorem State.fld_congr {s t : State} (h : t.regs = s.regs) (o hi lo : Nat) : t.fld o hi lo = s.fld o hi lo :=
  congrArg (fun w : Word => bitsOf w.toNat hi lo) (State.reg_congr h o)

/-- A frame whose header or tag does not fit is counted, flagged and dropped. -/
theorem State.misfit_does (s : State) (l : Fin 64) (p : Port) (n : Nat) :
    ((s.setPort l.val p).tagError.returnCells (some l) n).vol.rx = s.vol.rx ∧
    ((s.setPort l.val p).tagError.returnCells (some l) n).reg 0x0B0040 = s.reg 0x0B0040 + 1 ∧
    ((s.setPort l.val p).tagError.returnCells (some l) n).fld 0x2000 12 12 = 1 ∧
    (s.setPort l.val p).tagError.returnCells (some l) n =
      { s with vol := ((s.setPort l.val p).tagError.returnCells (some l) n).vol,
               regs := ((s.setPort l.val p).tagError.returnCells (some l) n).regs } := by
  obtain ⟨hcount, hflag, hframe⟩ := (s.setPort l.val p).tagError_does
  generalize (s.setPort l.val p).tagError = u at hcount hflag hframe
  have hregs : (u.returnCells (some l) n).regs = u.regs := rfl
  refine ⟨?_, (State.reg_congr hregs _).trans hcount, (State.fld_congr hregs _ _ _).trans hflag, ?_⟩
  · rw [hframe]
    rfl
  · rw [hframe]
    rfl

theorem State.takeFrame_misfit {t : State} (h : headerValid bytes = false ∨ f.dest ≠ t.chip ∨ f.tagBad = true) :
    t.takeFrame l bytes f = t.tagError.returnCells (some l) (bytes.length / 64) := by
  unfold State.takeFrame
  rw [if_pos]
  rcases h with h | h | h
  · rw [h]
    rfl
  · rw [decide_eq_true h, Bool.or_true, Bool.true_or]
  · rw [h, Bool.or_true]

theorem State.takeFrame_fits {t : State} (hvalid : headerValid bytes = true) (hdest : f.dest = t.chip) (htag : f.tagBad = false) :
    t.takeFrame l bytes f = if t.seenSegment f then (t.bump 0x0B0048 1).returnCells (some l) (bytes.length / 64) else
      (if f.kind = 1 ∨ f.kind = 2 then t.measure 2 f.data.length else t).keepRx l f := by
  unfold State.takeFrame
  rw [hvalid, htag, decide_eq_false (fun h => h hdest)]
  rfl

/-- A frame that is kept waits behind the others, and the gap before it is named. -/
theorem State.kept_does (s : State) (l : Fin 64) (f : Frame) (q : BitVec 24) (c : Nat) {t : State}
    (ht : t = ((if f.kind = 1 ∨ f.kind = 2 then (s.setPort l.val ((s.port l).arrived q c)).measure 2 f.data.length
      else s.setPort l.val ((s.port l).arrived q c)).keepRx l f)) :
    t.vol.rx = s.vol.rx ++ [(some l, f)] ∧ t.port l = (s.port l).arrived q c ∧ t = { s with vol := t.vol, obs := t.obs } := by
  have hsame : ∀ u : State, u = s.setPort l.val ((s.port l).arrived q c) ∨
      u = (s.setPort l.val ((s.port l).arrived q c)).measure 2 f.data.length →
      u = { s.setPort l.val ((s.port l).arrived q c) with obs := u.obs } := by
    rintro u (rfl | rfl)
    · rfl
    · exact State.measure_eq _ _ _
  have hu := hsame (if f.kind = 1 ∨ f.kind = 2 then (s.setPort l.val ((s.port l).arrived q c)).measure 2 f.data.length
    else s.setPort l.val ((s.port l).arrived q c)) (by
      split
      · exact Or.inr rfl
      · exact Or.inl rfl)
  rw [ht]
  generalize (if f.kind = 1 ∨ f.kind = 2 then (s.setPort l.val ((s.port l).arrived q c)).measure 2 f.data.length
    else s.setPort l.val ((s.port l).arrived q c)) = u at hu
  have hvol : u.vol = (s.setPort l.val ((s.port l).arrived q c)).vol := (congrArg State.vol hu :)
  have hrx : u.vol.rx = s.vol.rx := (congrArg Volley.rx hvol :)
  refine ⟨congrArg (· ++ [(some l, f)]) hrx, ?_, ?_⟩
  · exact (congrArg (fun v : Volley => Tab.get Port.reset v.ports l.val) hvol).trans (State.setPort_port_same _ _ _)
  · rw [hu]
    rfl

theorem frameReceive_headBad (hup : (s.port l).up = true) (hlen : 64 ≤ bytes.length) (hmod : bytes.length % 64 = 0)
    (hcrc : crc32 (bytes.take 60) ≠ fieldLe bytes 60 4) : ∃ t, exec (.frameReceive l bytes) s = .next t ∧ t.vol.rx = s.vol.rx ∧
      (t.port l).rxSeq = (s.port l).rxSeq + 1 ∧ (t.port l).naks = (s.port l).naks ++ [(s.port l).rxSeq] ∧
      (t.port l).grants = (s.port l).grants + BitVec.ofNat 32 (bytes.length / 64) ∧ t = { s with vol := t.vol } := by
  refine ⟨_, (exec_frameReceive hup hlen hmod).trans (congrArg Host.Outcome.next (if_pos hcrc)), ?_⟩
  exact Port.refuse_setPort s l { s.port l with rxSeq := (s.port l).rxSeq + 1 } (bytes.length / 64) (s.port l).rxSeq

/-- What becomes of a frame whose header is sound. -/
theorem exec_frameReceive_head {bad : Prop} (hup : (s.port l).up = true) (hlen : 64 ≤ bytes.length) (hmod : bytes.length % 64 = 0)
    (hcrc : crc32 (bytes.take 60) = fieldLe bytes 60 4) (hf : frameOf bytes = (f, q)) (hbad : bad ↔ 64 < bytes.length ∧
      crc32 ((bytes.drop 64).take (bytes.length - 68)) ≠ fieldLe bytes (bytes.length - 4) 4) :
    (bad → exec (.frameReceive l bytes) s = .next (s.setPort l.val (((s.port l).came q).refuse (bytes.length / 64) q))) ∧
    (¬ bad → (s.port l).had q = true → exec (.frameReceive l bytes) s =
      .next (((s.setPort l.val ((s.port l).arrived q (bytes.length / 64))).bump 0x0B0048 1).returnCells (some l) (bytes.length / 64))) ∧
    (¬ bad → (s.port l).had q = false → exec (.frameReceive l bytes) s =
      .next ((s.setPort l.val ((s.port l).arrived q (bytes.length / 64))).takeFrame l bytes f)) := by
  have hexec := exec_frameReceive hup hlen hmod
  rw [if_neg (fun h => h hcrc), hf] at hexec
  rw [hexec, hbad]
  generalize crc32 ((bytes.drop 64).take (bytes.length - 68)) = crc
  refine ⟨fun h => ?_, fun h hhad => ?_, fun h hhad => ?_⟩
  · rw [if_pos (by simpa using h)]
  · rw [if_neg (by simpa using h), hhad, if_pos rfl]
  · rw [if_neg (by simpa using h), hhad, if_neg Bool.false_ne_true]

theorem frameReceive_headGood {bad : Prop} (hup : (s.port l).up = true) (hlen : 64 ≤ bytes.length) (hmod : bytes.length % 64 = 0)
    (hcrc : crc32 (bytes.take 60) = fieldLe bytes 60 4) (hf : frameOf bytes = (f, q)) (hbad : bad ↔ 64 < bytes.length ∧
      crc32 ((bytes.drop 64).take (bytes.length - 68)) ≠ fieldLe bytes (bytes.length - 4) 4) :
    (bad → ∃ t, exec (.frameReceive l bytes) s = .next t ∧ t.vol.rx = s.vol.rx ∧ q ∈ (t.port l).naks ∧
      (t.port l).grants = (s.port l).grants + BitVec.ofNat 32 (bytes.length / 64) ∧ t = { s with vol := t.vol }) ∧
    (¬ bad → (s.port l).had q = true → ∃ t, exec (.frameReceive l bytes) s = .next t ∧ t.vol.rx = s.vol.rx ∧
      t.reg 0x0B0048 = s.reg 0x0B0048 + 1 ∧ t = { s with vol := t.vol, regs := t.regs }) ∧
    (¬ bad → (s.port l).had q = false → headerValid bytes = false ∨ f.dest ≠ s.chip ∨ f.tagBad = true →
      ∃ t, exec (.frameReceive l bytes) s = .next t ∧ t.vol.rx = s.vol.rx ∧ t.reg 0x0B0040 = s.reg 0x0B0040 + 1 ∧
        t.fld 0x2000 12 12 = 1 ∧ t = { s with vol := t.vol, regs := t.regs }) ∧
    (¬ bad → (s.port l).had q = false → headerValid bytes = true → f.dest = s.chip → f.tagBad = false →
      (s.seenSegment f = true → ∃ t, exec (.frameReceive l bytes) s = .next t ∧ t.vol.rx = s.vol.rx ∧
        t.reg 0x0B0048 = s.reg 0x0B0048 + 1 ∧ t = { s with vol := t.vol, regs := t.regs }) ∧
      (s.seenSegment f = false → ∃ t, exec (.frameReceive l bytes) s = .next t ∧ t.vol.rx = s.vol.rx ++ [(some l, f)] ∧
        (t.port l).rxCells = (s.port l).rxCells + bytes.length / 64 ∧
        (∀ n, n = (q - (s.port l).rxSeq).toNat → n < 2 ^ 23 → (t.port l).rxSeq = q + 1 ∧ (t.port l).naks =
          ((s.port l).naks ++ (List.range n).map fun i => (s.port l).rxSeq + BitVec.ofNat 24 i).filter fun x => decide (x ≠ q)) ∧
        (2 ^ 23 ≤ (q - (s.port l).rxSeq).toNat → (t.port l).rxSeq = (s.port l).rxSeq ∧ q ∉ (t.port l).naks) ∧
        t = { s with vol := t.vol, obs := t.obs })) := by
  obtain ⟨hrefused, hdup, hsound⟩ := exec_frameReceive_head hup hlen hmod hcrc hf hbad
  have hchip : (s.setPort l.val ((s.port l).arrived q (bytes.length / 64))).chip = s.chip := rfl
  have hseen : (s.setPort l.val ((s.port l).arrived q (bytes.length / 64))).seenSegment f = s.seenSegment f := rfl
  refine ⟨fun h => ?_, fun h hhad => ?_, fun h hhad hmisfit => ?_, fun h hhad hvalid hdest htag => ⟨fun hs => ?_, fun hs => ?_⟩⟩
  · obtain ⟨hrx, -, hnaks, hgrants, hframe⟩ := Port.refuse_setPort s l ((s.port l).came q) (bytes.length / 64) q
    refine ⟨_, hrefused h, hrx, ?_, hgrants.trans ?_, hframe⟩
    · rw [hnaks]
      exact List.mem_append_right _ List.mem_cons_self
    · rw [Port.came_grants]
  · exact ⟨_, hdup h hhad, s.duplicate_does l _ _⟩
  · refine ⟨_, (hsound h hhad).trans (congrArg Host.Outcome.next (State.takeFrame_misfit ?_)), s.misfit_does l _ _⟩
    rw [hchip]
    exact hmisfit
  · refine ⟨_, (hsound h hhad).trans (congrArg Host.Outcome.next ?_),
      s.duplicate_does l ((s.port l).arrived q (bytes.length / 64)) (bytes.length / 64)⟩
    rw [State.takeFrame_fits hvalid (hdest.trans hchip.symm) htag, hseen, hs, if_pos rfl]
  · have htaken := State.takeFrame_fits (l := l) hvalid (hdest.trans hchip.symm) htag
    rw [hseen, hs, if_neg Bool.false_ne_true] at htaken
    obtain ⟨hrx, hport, hframe⟩ := s.kept_does l f q (bytes.length / 64) htaken
    refine ⟨_, hsound h hhad, hrx, ?_, fun n hn hlt => ?_, fun hbehind => ?_, hframe⟩
    · rw [hport]
      exact congrArg (· + bytes.length / 64) (Port.came_rxCells _ _)
    · obtain ⟨hseq, hnaks⟩ := Port.came_within (s.port l) q hn hlt
      rw [hport]
      exact ⟨hseq, congrArg (List.filter fun x => decide (x ≠ q)) hnaks⟩
    · rw [hport]
      exact ⟨(congrArg Port.rxSeq (Port.came_behind (s.port l) q hbehind) :), Port.arrived_naks _ _ _⟩

/-! ### CONTROL_BLOCK_RECEIVE -/

theorem foldl_idle {α β : Type} {g : β → α → β} {xs : List α} {b : β} (h : ∀ x ∈ xs, g b x = b) : xs.foldl g b = b := by
  induction xs with
  | nil => rfl
  | cons x xs ih =>
    rw [List.foldl_cons, h x List.mem_cons_self]
    exact ih fun y hy => h y (List.mem_cons_of_mem _ hy)

theorem controlBlock_bad (hbad : bytes.length ≠ 160 ∨ bytes.take 8 ≠ ctlMarker ∨ crc32 (bytes.take 152) ≠ fieldLe bytes 152 4) :
    exec (.controlBlockReceive l bytes) s = .next s := by
  have hraw : exec (.controlBlockReceive l bytes) s = execControlBlockReceive l bytes s := rfl
  rw [hraw]
  unfold execControlBlockReceive
  dsimp only
  rw [if_pos]
  rcases hbad with h | h | h
  · rw [decide_eq_true h, Bool.or_true, Bool.true_or, Bool.true_or]
  · rw [decide_eq_true h, Bool.or_true, Bool.true_or]
  · rw [decide_eq_true h, Bool.or_true]

theorem controlBlock_good {ack : BitVec 24} (hup : (s.port l).up = true) (hack : ack = BitVec.ofNat 24 (fieldLe bytes 10 3))
    (hlen : bytes.length = 160) (hmark : bytes.take 8 = ctlMarker) (hcrc : crc32 (bytes.take 152) = fieldLe bytes 152 4)
    (hnone : ∀ i < 8, bitOf (fieldLe bytes (13 + 4 * i) 4) 31 = false) :
    exec (.controlBlockReceive l bytes) s = .next (s.setPort l.val { s.port l with
      retry := (s.port l).retry.filter (fun r => decide (2 ^ 23 ≤ (ack - r.seq).toNat))
      granted := BitVec.ofNat 32 (fieldLe bytes 45 4), partner := bytes.getD 49 0 }) := by
  have hraw : exec (.controlBlockReceive l bytes) s = execControlBlockReceive l bytes s := rfl
  rw [hraw]
  unfold execControlBlockReceive
  dsimp only
  have hsound : (!(s.port l.val).up || decide (bytes.length ≠ 160) || decide (bytes.take 8 ≠ ctlMarker) ||
      decide (crc32 (bytes.take 152) ≠ fieldLe bytes 152 4)) = false := by
    rw [hup, decide_eq_false (fun h => h hlen), decide_eq_false (fun h => h hmark), decide_eq_false (fun h => h hcrc)]
    rfl
  rw [hsound, if_neg Bool.false_ne_true, ← hack]
  refine congrArg Host.Outcome.next (foldl_idle fun i hi => ?_)
  rw [hnone i (List.mem_range.1 hi), if_neg Bool.false_ne_true]

end

/-- Settles O50: each way of a received frame, by its CRCs, its sequence, its header and whether its segment has come. -/
theorem framesArrive : Obligations.FramesArrive := by
  unfold Obligations.FramesArrive
  rintro s l bytes p rfl hup
  refine ⟨fun hlen hmod => ⟨frameReceive_headBad hup hlen hmod, fun hcrc f q bad hf hbad =>
    frameReceive_headGood hup hlen hmod hcrc hf hbad⟩, fun ack hack hlen hmark hcrc hnone => ?_, controlBlock_bad⟩
  refine ⟨_, controlBlock_good hup hack hlen hmark hcrc hnone, State.setPort_port_same _ _ _, fun m hm => ?_, rfl⟩
  exact State.setPort_port_other _ _ hm

end Sys2Proof.Machine
end

section
/-! PROOF. What the coming and going of pool buffers changes outside the pools (R234, R235). -/

namespace Sys2Proof.Machine

open Safety

/-- Beside the pools and memory, only the buffers reserved for Huddle and Volley change. -/
structure BufferFrame (s t : State) : Prop where
  state : t = { s with pools := t.pools, mem := t.mem, hud := t.hud, vol := t.vol }
  hud : t.hud = { s.hud with resv := t.hud.resv }
  vol : t.vol = { s.vol with resv := t.vol.resv }

theorem BufferFrame.refl (s : State) : BufferFrame s s := ⟨rfl, rfl, rfl⟩

theorem BufferFrame.trans {s t u : State} (h : BufferFrame s t) (k : BufferFrame t u) : BufferFrame s u where
  state := k.state.trans (congrArg (fun x : State => { x with pools := u.pools, mem := u.mem, hud := u.hud, vol := u.vol }) h.state)
  hud := k.hud.trans (congrArg (fun x : Huddle => { x with resv := u.hud.resv }) h.hud :)
  vol := k.vol.trans (congrArg (fun x : Volley => { x with resv := u.vol.resv }) h.vol :)

theorem State.poolTake_frame {s t : State} {n r i : Nat} {half : Option Half} (h : s.poolTake n r half = some (i, t)) :
    BufferFrame s t := by
  unfold State.poolTake at h
  dsimp only at h
  split at h
  · cases h
  · cases h
    exact ⟨rfl, rfl, rfl⟩

theorem State.poolTakes_frame {n r : Nat} {half : Option Half} (k : Nat) {s t : State} {l : List Nat}
    (h : s.poolTakes n r half k = some (l, t)) : BufferFrame s t := by
  induction k generalizing s l with
  | zero =>
    cases h
    exact .refl _
  | succ k ih =>
    unfold State.poolTakes at h
    split at h
    · cases h
    · next htake =>
      split at h
      · cases h
      · next hrest =>
        cases h
        exact (State.poolTake_frame htake).trans (ih hrest)

theorem State.serveWaiting_frame (n fuel : Nat) (s : State) : BufferFrame s (s.serveWaiting n fuel) := by
  induction fuel generalizing s with
  | zero => exact .refl s
  | succ fuel ih =>
    have hresv (t : State) (k r : Nat) (bs : List Nat) : BufferFrame t (if k = 0 then t
        else if r = 0 then { t with hud := { t.hud with resv := bs } } else { t with vol := { t.vol with resv := bs } }) := by
      split_ifs <;> exact ⟨rfl, rfl, rfl⟩
    unfold State.serveWaiting
    dsimp only
    split
    · exact .refl s
    · next r k l _ =>
      split
      · exact .refl s
      · split
        · exact .refl s
        · next htakes =>
          have hset : BufferFrame s (s.setPool n { s.pool n with waiting := l }) := ⟨rfl, rfl, rfl⟩
          exact hset.trans ((State.poolTakes_frame _ htakes).trans ((hresv _ _ _ _).trans (ih _)))

theorem State.poolGive_frame (s : State) (n r b : Nat) : BufferFrame s (s.poolGive n r b) := by
  unfold State.poolGive
  exact BufferFrame.trans (t := (s.setPool n _).bitmapByte n b) ⟨rfl, rfl, rfl⟩ (State.serveWaiting_frame _ _ _)

theorem BufferFrame.foldl {α : Type} {g : State → α → State} (hg : ∀ t a, BufferFrame t (g t a)) (xs : List α) (s : State) :
    BufferFrame s (xs.foldl g s) := by
  induction xs generalizing s with
  | nil => exact .refl s
  | cons x xs ih => exact (hg s x).trans (ih _)

/-! ### Send-list buffers (R251) -/

/-- What the return of send-list buffers changes: pools, memory, reserved buffers and the list of VOLLEYs. -/
structure SendBufFrame (s t : State) : Prop where
  state : t = { s with pools := t.pools, mem := t.mem, hud := t.hud, vol := t.vol }
  hud : t.hud = { s.hud with resv := t.hud.resv }
  vol : t.vol = { s.vol with resv := t.vol.resv, jobs := t.vol.jobs }

theorem BufferFrame.foldl_snd {α β : Type} {g : β × State → α → β × State} (hg : ∀ x a, BufferFrame x.2 (g x a).2) (xs : List α)
    (x : β × State) : BufferFrame x.2 (xs.foldl g x).2 := by
  induction xs generalizing x with
  | nil => exact .refl x.2
  | cons a xs ih => exact (hg x a).trans (ih _)

/-- One VOLLEY of the list: its idle buffers return, and it stays while it has any, or entries to build. -/
def freeJob (acc : List VJob × State) (j : VJob) : List VJob × State :=
  let per := acc.2.bufBytes j.pool / 256
  let idle (b : Nat × Nat) : Bool :=
    let e := (j.sent.drop (b.1 * per)).take per
    (decide (e.length = per) || decide (j.sent.length = j.total)) &&
      e.all fun x => match x with | some pid => !acc.2.waiting pid | none => true
  let t := (j.bufs.filter idle).foldl (fun t b => t.poolGive j.pool 1 b.2) acc.2
  let k : VJob := { j with bufs := j.bufs.filter fun b => !idle b }
  (if k.bufs = [] ∧ k.sent.length = k.total then acc.1 else acc.1 ++ [k], t)

theorem freeJob_frame (x : List VJob × State) (j : VJob) : BufferFrame x.2 (freeJob x j).2 := by
  unfold freeJob
  dsimp only
  exact BufferFrame.foldl (fun t (b : Nat × Nat) => t.poolGive_frame j.pool 1 b.2) _ x.2

theorem State.freeSendBufs_eq (s : State) : s.freeSendBufs = { (s.vol.jobs.foldl freeJob ([], s)).2 with
    vol := { (s.vol.jobs.foldl freeJob ([], s)).2.vol with jobs := (s.vol.jobs.foldl freeJob ([], s)).1 } } := rfl

theorem State.freeSendBufs_frame (s : State) : SendBufFrame s s.freeSendBufs := by
  have h := BufferFrame.foldl_snd freeJob_frame s.vol.jobs ([], s)
  rw [s.freeSendBufs_eq]
  generalize s.vol.jobs.foldl freeJob ([], s) = x at h
  obtain ⟨jobs, u⟩ := x
  refine ⟨?_, h.hud, ?_⟩
  · exact (congrArg (fun y : State => { y with vol := { u.vol with jobs := jobs } }) h.state).trans rfl
  · exact (congrArg (fun y : Volley => { y with jobs := jobs }) h.vol).trans rfl

theorem State.freeSendBufs_noJobs {s : State} (h : s.vol.jobs = []) : s.freeSendBufs = s := by
  unfold State.freeSendBufs
  rw [h]
  dsimp only [List.foldl_nil]
  rw [← h]

end Sys2Proof.Machine
end

section
/-! PROOF. What a link port sends next, and the timeout of a frame (R243, R244, R247, R255, R271). -/

namespace Sys2Proof.Machine

open Safety

section
variable {s : State} {l : Fin 64}

/-- The pins show bytes on the link of a port. -/
def State.showLink (s : State) (l : Nat) (bs : List Byte) : State := { s with pins := { s.pins with lnk := Tab.set [] s.pins.lnk l bs } }

theorem State.showLink_lnk (s : State) (l : Nat) (bs : List Byte) : Tab.get [] (s.showLink l bs).pins.lnk l = bs :=
  Tab.get_set_same _ _ _ _

/-- The frame that cell 639 of the pair-compare port carries, with the digests that wait behind it. -/
def State.digestNext (s : State) : Frame × List Digest :=
  match s.vol.digests with
  | d :: ds => (s.digestFrame d, ds)
  | [] => (s.emptyDigest, [])

/-- The digests that wait are those behind the one that is sent. -/
def State.digestTaken (s : State) : State := { s with vol := { s.vol with digests := s.digestNext.2 } }

/-- Only the volley state and the pins change. -/
def LinkSide (s t : State) : Prop := t = { s with vol := t.vol, pins := t.pins }

theorem LinkSide.trans {s t u : State} (h : LinkSide s t) (k : LinkSide t u) : LinkSide s u :=
  Eq.trans k (congrArg (fun x : State => { x with vol := u.vol, pins := u.pins }) h)

theorem State.setPort_side (s : State) (l : Nat) (p : Port) : LinkSide s (s.setPort l p) := rfl

theorem State.showLink_side (s : State) (l : Nat) (bs : List Byte) : LinkSide s (s.showLink l bs) := rfl

theorem State.digestTaken_side (s : State) : LinkSide s s.digestTaken := rfl

/-! ### Control blocks -/

theorem State.sendControl_eq (s : State) (l : Nat) : s.sendControl l = (s.setPort l
    { s.port l with naks := (s.port l).naks.drop 8, sf := (s.port l).sf + 1, cell := (s.port l).cell - 640 }).showLink l
      (s.controlBlock l) := rfl

theorem State.sendControl_does (s : State) (l : Fin 64) : Tab.get [] (s.sendControl l).pins.lnk l = s.controlBlock l ∧
    (s.sendControl l).port l = { s.port l with naks := (s.port l).naks.drop 8, sf := (s.port l).sf + 1, cell := (s.port l).cell - 640 } ∧
    (∀ m, m ≠ l.val → (s.sendControl l).port m = s.port m) ∧
    s.sendControl l = { s with vol := (s.sendControl l).vol, pins := (s.sendControl l).pins } := by
  rw [State.sendControl_eq]
  exact ⟨State.showLink_lnk _ _ _, State.setPort_port_same _ _ _, fun m hm => State.setPort_port_other s _ hm, rfl⟩

/-! ### Frames that leave -/

/-- A port has sent a new frame. -/
def Port.emitted (p : Port) (f : Frame) : Port :=
  { p with retry := p.retry ++ [⟨p.nextSeq, 1, false, f⟩], nextSeq := p.nextSeq + 1
           sent := p.sent + BitVec.ofNat 32 f.cells, cell := p.cell + f.cells }

theorem State.emitFrame_eq (s : State) (l : Nat) (f : Frame) : s.emitFrame l f =
    ((if f.kind = 1 ∨ f.kind = 2 then (s.setPort l ((s.port l).emitted f)).measure 1 f.data.length
      else s.setPort l ((s.port l).emitted f)).showLink l (f.wire (s.port l).nextSeq.toNat)) := rfl

/-- An inline packet leaves: the measured bytes stay. -/
theorem State.emitFrame_inline {f : Frame} (s : State) (l : Nat) (h1 : f.kind ≠ 1) (h2 : f.kind ≠ 2) :
    s.emitFrame l f = (s.setPort l ((s.port l).emitted f)).showLink l (f.wire (s.port l).nextSeq.toNat) := by
  rw [State.emitFrame_eq, if_neg (not_or.2 ⟨h1, h2⟩)]

theorem State.emitFrame_does (s : State) (l : Nat) (f : Frame) : Tab.get [] (s.emitFrame l f).pins.lnk l = f.wire (s.port l).nextSeq.toNat ∧
    (s.emitFrame l f).vol = (s.setPort l ((s.port l).emitted f)).vol ∧
    s.emitFrame l f = { s with vol := (s.emitFrame l f).vol, pins := (s.emitFrame l f).pins, obs := (s.emitFrame l f).obs } := by
  have hmeasured := State.measure_eq (s.setPort l ((s.port l).emitted f)) 1 f.data.length
  rw [State.emitFrame_eq]
  refine ⟨State.showLink_lnk _ _ _, ?_, ?_⟩
  · split
    · exact (congrArg State.vol hmeasured :)
    · rfl
  · split
    · rw [hmeasured]
      rfl
    · rfl

/-! ### The pair-compare channel (R271) -/

theorem State.sendDigest_eq (s : State) (l : Nat) (hcredit : 1 ≤ (s.port l).credit) (hroom : (s.port l).retryBytes + 64 ≤ 262144) :
    s.sendDigest l = (s.digestTaken.emitFrame l s.digestNext.1).setPort l
      { (s.digestTaken.emitFrame l s.digestNext.1).port l with cell := 640 } := by
  unfold State.sendDigest State.digestTaken State.digestNext
  dsimp only
  rw [if_neg (by omega)]
  cases h : s.vol.digests with
  | nil =>
    have hs : ({ s with vol := { s.vol with digests := [] } } : State) = s := by rw [← h]
    dsimp only
    rw [hs]
  | cons d ds => rfl

theorem State.digestNext_kind (s : State) : s.digestNext.1.kind = 9 := by
  unfold State.digestNext
  split <;> rfl

theorem State.sendDigest_does (s : State) (l : Fin 64) (hcredit : 1 ≤ (s.port l).credit)
    (hroom : (s.port l).retryBytes + 64 ≤ 262144) : ((s.sendDigest l).port l).nextSeq = (s.port l).nextSeq + 1 ∧
    (s.sendDigest l).vol.digests = s.digestNext.2 ∧
    Tab.get [] (s.sendDigest l).pins.lnk l = s.digestNext.1.wire (s.port l).nextSeq.toNat ∧
    (∀ m, m ≠ l.val → (s.sendDigest l).port m = s.port m) ∧
    LinkSide s (s.sendDigest l) := by
  have hkind := s.digestNext_kind
  have hemit := s.digestTaken.emitFrame_inline (f := s.digestNext.1) l (by omega) (by omega)
  have hport (m : Nat) : s.digestTaken.port m = s.port m := rfl
  rw [hport] at hemit
  rw [s.sendDigest_eq l hcredit hroom, hemit]
  generalize s.digestNext.1.wire (s.port l).nextSeq.toNat = bs
  generalize s.digestNext.1 = f
  have hdrive (u : State) (bs : List Byte) (m : Nat) : (u.showLink l bs).port m = u.port m := rfl
  refine ⟨?_, rfl, State.showLink_lnk _ _ _, fun m hm => ?_,
    s.digestTaken_side.trans ((State.setPort_side _ _ _).trans ((State.showLink_side _ _ _).trans (State.setPort_side _ _ _)))⟩
  · rw [State.setPort_port_same, hdrive, State.setPort_port_same]
    rfl
  · rw [State.setPort_port_other _ _ hm, hdrive, State.setPort_port_other _ _ hm, hport]

end

end Sys2Proof.Machine
end

section
/-! PROOF. FRAME_SEND and ACK_TIMEOUT (R247, R255). -/

namespace Sys2Proof.Machine

open Safety

/-! ### A frame is sent again -/

theorem State.resendFrame_eq (s : State) (l : Nat) (r : Retry) : s.resendFrame l r = ((s.setPort l { s.port l with
      retry := (s.port l).retry.map (fun x => if x = r then { r with tries := r.tries + 1, resend := false } else x)
      sent := (s.port l).sent + BitVec.ofNat 32 r.frame.cells
      cell := (s.port l).cell + r.frame.cells }).showLink l (r.frame.wire r.seq.toNat)).bump (0x0B1010 + 0x40 * l) 1 := rfl

theorem State.bump_parts (s : State) (o n : Nat) : (s.bump o n).vol = s.vol ∧ (s.bump o n).pins = s.pins := ⟨rfl, rfl⟩

theorem State.resendFrame_does (s : State) (l : Nat) (r : Retry) :
    Tab.get [] (s.resendFrame l r).pins.lnk l = r.frame.wire r.seq.toNat ∧
    (s.resendFrame l r).reg (0x0B1010 + 0x40 * l) = s.reg (0x0B1010 + 0x40 * l) + 1 ∧
    ((s.resendFrame l r).port l).nextSeq = (s.port l).nextSeq ∧
    ((s.resendFrame l r).port l).sent = (s.port l).sent + BitVec.ofNat 32 r.frame.cells ∧
    s.resendFrame l r = { s with vol := (s.resendFrame l r).vol, pins := (s.resendFrame l r).pins, regs := (s.resendFrame l r).regs } := by
  rw [State.resendFrame_eq]
  generalize r.frame.wire r.seq.toNat = bs
  generalize hp : ({ s.port l with
      retry := (s.port l).retry.map (fun x => if x = r then { r with tries := r.tries + 1, resend := false } else x)
      sent := (s.port l).sent + BitVec.ofNat 32 r.frame.cells
      cell := (s.port l).cell + r.frame.cells } : Port) = p
  have hport : (((s.setPort l p).showLink l bs).bump (0x0B1010 + 0x40 * l) 1).port l = p := State.setPort_port_same _ _ _
  obtain ⟨-, hpins⟩ := ((s.setPort l p).showLink l bs).bump_parts (0x0B1010 + 0x40 * l) 1
  refine ⟨?_, ?_, ?_, ?_, rfl⟩
  · rw [hpins]
    exact State.showLink_lnk _ _ _
  · exact State.bump_reg_same ((s.setPort l p).showLink l bs) _ _
  · rw [hport, ← hp]
  · rw [hport, ← hp]

/-! ### A new frame -/

/-- What the port sends next, by kind (R255). -/
theorem State.nextFrame_picks {s : State} {l : Nat} {f : Frame} (hslot : s.slotFree l f.cells = true)
    (h : (s.port l).pick (fun f => decide (3 ≤ f.kind)) = some f ∨
      (s.port l).pick (fun f => decide (3 ≤ f.kind)) = none ∧ ((s.port l).pick (fun f => decide (f.kind = 2)) = some f ∨
        (s.port l).pick (fun f => decide (f.kind = 2)) = none ∧ (s.port l).pick (fun f => decide (f.kind = 1)) = some f)) :
    s.nextFrame l = some f := by
  have hsome : (some f).filter (fun f => s.slotFree l f.cells) = some f := Option.filter_some_pos hslot
  unfold State.nextFrame
  dsimp only
  rcases h with h | ⟨h3, h | ⟨h2, h⟩⟩
  · rw [h, hsome]
  · rw [h3, h, hsome]
    rfl
  · rw [h3, h2, h, hsome]
    rfl

theorem State.nextFrame_none {s : State} {l : Nat} (h : (s.port l).txq = []) : s.nextFrame l = none := by
  unfold State.nextFrame Port.pick
  dsimp only
  rw [h]
  rfl

theorem State.retryStuck_none {s : State} (h : s.vol.stuck = []) : s.retryStuck = s := by
  unfold State.retryStuck
  rw [if_pos h]

/-- The state once a port has sent frame `f` of its queue, send-list buffers and waiting frames aside. -/
def State.emitQueued (s : State) (l : Nat) (f : Frame) : State :=
  (s.setPort l { s.port l with txq := (s.port l).txq.erase f }).emitFrame l f

theorem State.emitQueued_does (s : State) (l : Nat) (f : Frame) :
    Tab.get [] (s.emitQueued l f).pins.lnk l = f.wire (s.port l).nextSeq.toNat ∧
    (s.emitQueued l f).port l = { s.port l with txq := (s.port l).txq.erase f
                                                retry := (s.port l).retry ++ [⟨(s.port l).nextSeq, 1, false, f⟩]
                                                nextSeq := (s.port l).nextSeq + 1
                                                sent := (s.port l).sent + BitVec.ofNat 32 f.cells
                                                cell := (s.port l).cell + f.cells } ∧
    (∀ m, m ≠ l → (s.emitQueued l f).port m = s.port m) ∧ (s.emitQueued l f).vol.stuck = s.vol.stuck ∧
    (s.emitQueued l f).vol.jobs = s.vol.jobs ∧ (s.emitQueued l f).mem = s.mem ∧ (s.emitQueued l f).ctxs = s.ctxs := by
  generalize hp : ({ s.port l with txq := (s.port l).txq.erase f } : Port) = p
  have hqueued : s.emitQueued l f = (s.setPort l p).emitFrame l f := by rw [← hp]; rfl
  obtain ⟨hlink, hvol, hframe⟩ := (s.setPort l p).emitFrame_does l f
  rw [hqueued]
  rw [State.setPort_port_same] at hlink hvol
  generalize (s.setPort l p).emitFrame l f = u at hlink hvol hframe
  have hport (m : Nat) : u.port m = ((s.setPort l p).setPort l (p.emitted f)).port m :=
    congrArg (fun v : Volley => Tab.get Port.reset v.ports m) hvol
  refine ⟨hlink.trans ?_, ?_, fun m hm => ?_, (congrArg Volley.stuck hvol :), (congrArg Volley.jobs hvol :),
    (congrArg State.mem hframe :), (congrArg State.ctxs hframe :)⟩
  · rw [← hp]
  · rw [hport, State.setPort_port_same, ← hp]
    rfl
  · rw [hport, State.setPort_port_other _ _ hm, State.setPort_port_other _ _ hm]

/-- The return of send-list buffers and of frames that wait, after a frame has gone. -/
theorem State.settleSent_does (u : State) : u.freeSendBufs.retryStuck.pins = u.pins ∧ u.freeSendBufs.retryStuck.ctxs = u.ctxs ∧
    (u.vol.stuck = [] → ∀ m, u.freeSendBufs.retryStuck.port m = u.port m) ∧
    (u.vol.jobs = [] → u.freeSendBufs.retryStuck.mem = u.mem) := by
  have hfree := u.freeSendBufs_frame
  have hretry := u.freeSendBufs.retryStuck_links
  refine ⟨?_, ?_, fun hstuck m => ?_, fun hjobs => ?_⟩
  · exact (congrArg State.pins hretry.state :).trans (congrArg State.pins hfree.state :)
  · exact (congrArg State.ctxs hretry.state :).trans (congrArg State.ctxs hfree.state :)
  · rw [State.retryStuck_none ((congrArg Volley.stuck hfree.vol :).trans hstuck)]
    exact congrArg (Tab.get Port.reset · m) (congrArg Volley.ports hfree.vol :)
  · have hsame : u.freeSendBufs.mem = u.mem := congrArg State.mem (State.freeSendBufs_noJobs hjobs)
    exact (congrArg State.mem hretry.state :).trans hsame

/-! ### FRAME_SEND -/

/-- What a port sends with no frame to be sent again: its next new frame, or else what ends or fills the superframe. -/
def State.sendFresh (s : State) (l : Nat) : Option Frame → State
  | some f => (s.emitQueued l f).freeSendBufs.retryStuck
  | none => if s.pcPort l then s.sendDigest l else s.sendControl l

section
variable {s : State} {l : Fin 64}

theorem exec_frameSend_control (hup : (s.port l).up = true)
    (h : 640 ≤ (s.port l).cell ∨ ((s.port l).txq = [] ∧ (∀ r ∈ (s.port l).retry, r.resend = false) ∧ s.pcPort l = false)) :
    exec (.frameSend l) s = .next (s.sendControl l) := by
  have hraw : exec (.frameSend l) s = execFrameSend l s := rfl
  rw [hraw]
  unfold execFrameSend
  dsimp only
  rw [hup, if_neg (by decide)]
  by_cases hcell : 640 ≤ (s.port l).cell
  · rw [if_pos hcell]
  · obtain ⟨htxq, hretry, hpc⟩ := h.resolve_left hcell
    have hnone : (s.port l).retry.find? (·.resend) = none := List.find?_eq_none.2 fun r hr => by rw [hretry r hr]; exact Bool.false_ne_true
    rw [if_neg hcell, hnone]
    dsimp only
    rw [State.nextFrame_none htxq, hpc]
    rfl

theorem exec_frameSend_fresh (hup : (s.port l).up = true) (hcell : (s.port l).cell < 640)
    (hretry : ∀ r ∈ (s.port l).retry, r.resend = false) : exec (.frameSend l) s =
      .next (s.sendFresh l (s.nextFrame l)) := by
  have hraw : exec (.frameSend l) s = execFrameSend l s := rfl
  have hnone : (s.port l).retry.find? (·.resend) = none := List.find?_eq_none.2 fun r hr => by rw [hretry r hr]; exact Bool.false_ne_true
  rw [hraw]
  unfold execFrameSend
  dsimp only
  rw [hup, if_neg (by decide), if_neg (by omega), hnone]
  cases s.nextFrame l with
  | none => rfl
  | some f => rfl

theorem exec_frameSend_again {r : Retry} (hup : (s.port l).up = true) (hcell : (s.port l).cell < 640)
    (hr : (s.port l).retry.find? (·.resend) = some r) (hcredit : r.frame.cells ≤ (s.port l).credit)
    (hslot : s.slotFree l r.frame.cells = true) : exec (.frameSend l) s = .next (s.resendFrame l r) := by
  have hraw : exec (.frameSend l) s = execFrameSend l s := rfl
  rw [hraw]
  unfold execFrameSend
  dsimp only
  rw [hup, if_neg (by decide), if_neg (by omega), hr]
  dsimp only
  rw [if_pos ⟨hcredit, hslot⟩]

theorem frameSend_emits {f : Frame} (hup : (s.port l).up = true) (hcell : (s.port l).cell < 640)
    (hretry : ∀ r ∈ (s.port l).retry, r.resend = false) (hnext : s.nextFrame l = some f) :
    ∃ t, exec (.frameSend l) s = .next t ∧ Tab.get [] t.pins.lnk l = f.wire (s.port l).nextSeq.toNat ∧ t.ctxs = s.ctxs ∧
      (s.vol.stuck = [] → t.port l = { s.port l with txq := (s.port l).txq.erase f
                                                     retry := (s.port l).retry ++ [⟨(s.port l).nextSeq, 1, false, f⟩]
                                                     nextSeq := (s.port l).nextSeq + 1
                                                     sent := (s.port l).sent + BitVec.ofNat 32 f.cells
                                                     cell := (s.port l).cell + f.cells } ∧
        ∀ m, m ≠ l.val → t.port m = s.port m) ∧ (s.vol.jobs = [] → t.mem = s.mem) := by
  have hexec := exec_frameSend_fresh hup hcell hretry
  rw [hnext, State.sendFresh] at hexec
  obtain ⟨hlink, hport, hports, hstuck, hjobs, hmem, hctxs⟩ := s.emitQueued_does l f
  generalize s.emitQueued l f = u at hexec hlink hport hports hstuck hjobs hmem hctxs
  obtain ⟨hpinsKept, hctxsKept, hportsKept, hmemKept⟩ := u.settleSent_does
  refine ⟨_, hexec, ?_, hctxsKept.trans hctxs, fun h => ⟨?_, fun m hm => ?_⟩, fun h => ?_⟩
  · rw [hpinsKept]
    exact hlink
  · exact (hportsKept (hstuck.trans h) l).trans hport
  · exact (hportsKept (hstuck.trans h) m).trans (hports m hm)
  · exact (hmemKept (hjobs.trans h)).trans hmem

theorem frameSend_digest (hup : (s.port l).up = true) (hcell : (s.port l).cell < 640) (htxq : (s.port l).txq = [])
    (hretry : ∀ r ∈ (s.port l).retry, r.resend = false) (hpc : s.pcPort l = true) (hcredit : 1 ≤ (s.port l).credit)
    (hroom : (s.port l).retryBytes + 64 ≤ 262144) : ∃ t, exec (.frameSend l) s = .next t ∧
      (t.port l).nextSeq = (s.port l).nextSeq + 1 ∧
      (s.vol.digests = [] → Tab.get [] t.pins.lnk l = s.emptyDigest.wire (s.port l).nextSeq.toNat) ∧
      (∀ d ds, s.vol.digests = d :: ds → t.vol.digests = ds ∧
        Tab.get [] t.pins.lnk l = (s.digestFrame d).wire (s.port l).nextSeq.toNat) ∧
      (∀ m, m ≠ l.val → t.port m = s.port m) ∧ t = { s with vol := t.vol, pins := t.pins } := by
  have hexec := exec_frameSend_fresh hup hcell hretry
  rw [State.nextFrame_none htxq, State.sendFresh, hpc, if_pos rfl] at hexec
  obtain ⟨hseq, hdigests, hlink, hports, hside⟩ := s.sendDigest_does l hcredit hroom
  have hnext : s.digestNext = match s.vol.digests with | d :: ds => (s.digestFrame d, ds) | [] => (s.emptyDigest, []) := rfl
  generalize s.sendDigest l = u at hexec hseq hdigests hlink hports hside
  refine ⟨u, hexec, hseq, fun h => ?_, fun d ds h => ?_, hports, hside⟩
  · rw [h] at hnext
    rw [hlink, hnext]
  · rw [h] at hnext
    rw [hdigests, hlink, hnext]
    exact ⟨rfl, rfl⟩

end

/-! ### ACK_TIMEOUT -/

theorem State.shortest_mem {s : State} {ls : List Nat} {m : Nat} (h : s.shortest ls = some m) : m ∈ ls := by
  induction ls generalizing m with
  | nil => cases h
  | cons l ls ih =>
    unfold State.shortest at h
    split at h
    · cases h
      exact List.mem_cons_self
    · next k hk =>
      split at h
      · cases h
        exact List.mem_cons_self
      · cases h
        exact List.mem_cons_of_mem _ (ih hk)

/-- No frame is queued on a port out of service. -/
theorem State.sendFrame_portDown {s : State} {l : Nat} (f : Frame) (h : (s.port l).up = false) : (s.sendFrame f).port l = s.port l := by
  unfold State.sendFrame State.spray
  dsimp only
  split
  · split
    · rfl
    · next m hm =>
      split
      · rfl
      · have hne : l ≠ m := by
          rintro rfl
          have hup := List.of_mem_filter (State.shortest_mem hm)
          rw [h] at hup
          exact Bool.false_ne_true hup
        exact State.setPort_port_other s _ hne
  · split
    · rfl
    · rfl

theorem State.sendFrames_portDown {s : State} {l : Nat} (fs : List Frame) (h : (s.port l).up = false) :
    (fs.foldl State.sendFrame s).port l = s.port l := by
  induction fs generalizing s with
  | nil => rfl
  | cons f fs ih =>
    have hf := State.sendFrame_portDown f h
    exact (ih (hf ▸ h)).trans hf

theorem State.portDown_retrains (s : State) (l : Nat) (h : (s.port l).up = true) : ((s.portDown l 4).port l).st = 4 ∧
    ((s.portDown l 4).port l).retry = [] ∧ ((s.portDown l 4).port l).txq = [] := by
  have hst : (s.port l).restart.st ≠ 4 := by
    intro heq
    have hsame : (s.port l).st = 4 := heq
    unfold Port.up at h
    rw [hsame] at h
    exact absurd h (by decide)
  have hrestart : ((s.setPort l (s.port l).restart).portState l 4).port l = { (s.port l).restart with st := 4 } := by
    unfold State.portState
    dsimp only
    rw [State.setPort_port_same, if_neg hst]
    have hraised (u : State) : (u.raiseInt 8).port l = u.port l := rfl
    have hnow : (((s.setPort l (s.port l).restart).setPort l { (s.port l).restart with st := 4 }).raiseInt 8).port l =
        { (s.port l).restart with st := 4 } := (hraised _).trans (State.setPort_port_same _ _ _)
    split
    · exact hnow
    · unfold State.sendPstate State.sendFrames
      rw [State.sendFrames_portDown _ (by rw [hnow]; rfl)]
      exact hnow
  have hdown : (s.portDown l 4).port l = { (s.port l).restart with st := 4 } := by
    unfold State.portDown
    dsimp only
    rw [State.sendFrames_portDown _ (by rw [hrestart]; rfl)]
    exact hrestart
  rw [hdown]
  exact ⟨rfl, rfl, rfl⟩

theorem exec_ackTimeout {s : State} {l : Fin 64} {q : BitVec 24} {r : Retry} (hup : (s.port l).up = true)
    (hr : (s.port l).retry.find? (fun r => decide (r.seq = q)) = some r) : exec (.ackTimeout l q) s =
      .next (if 4 ≤ r.tries then s.portDown l 4 else s.setPort l { s.port l with
        retry := (s.port l).retry.map fun x => if x = r then { r with resend := true } else x }) := by
  have hraw : exec (.ackTimeout l q) s = execAckTimeout l q s := rfl
  rw [hraw]
  unfold execAckTimeout State.sendAgain
  dsimp only
  rw [hup, if_pos rfl, hr]

/-- Settles O49: what a port sends, in the order of its choices, and the timeout of a frame that it keeps. -/
theorem framesLeave : Obligations.FramesLeave := by
  unfold Obligations.FramesLeave
  rintro s l p rfl
  refine ⟨fun hdown => ?_, fun hup h => ?_, fun hup hcell htxq hretry hpc hcredit hroom => ?_, fun r hup hcell hr hcredit hslot => ?_,
    fun f hup hcell hretry hslot hpick => ?_, fun q r hup hr => ⟨fun htries => ?_, fun htries => ?_⟩⟩
  · have hraw : exec (.frameSend l) s = execFrameSend l s := rfl
    rw [hraw]
    unfold execFrameSend
    dsimp only
    rw [hdown, if_pos (by decide)]
  · exact ⟨_, exec_frameSend_control hup h, s.sendControl_does l⟩
  · exact frameSend_digest hup hcell htxq hretry hpc hcredit hroom
  · exact ⟨_, exec_frameSend_again hup hcell hr hcredit hslot, s.resendFrame_does l r⟩
  · exact frameSend_emits hup hcell hretry (State.nextFrame_picks hslot hpick)
  · refine ⟨_, (exec_ackTimeout hup hr).trans (congrArg Host.Outcome.next (if_neg (by omega))), State.setPort_port_same _ _ _,
      fun m hm => State.setPort_port_other s _ hm⟩
  · exact ⟨_, (exec_ackTimeout hup hr).trans (congrArg Host.Outcome.next (if_pos htries)), s.portDown_retrains l hup⟩

end Sys2Proof.Machine
end

section
/-! PROOF. The completion of a unit command (R41, R57, R115). -/

namespace Sys2Proof.Machine

open Safety

/-! ### What ADMIT and COMBINE do beside their completion (R177, R345) -/

/-- Only registers that hold no trap enables, memory with its lost lines, the admission block and the sync objects change. -/
structure EndFrame (s t : State) : Prop where
  state : t = { s with regs := t.regs, mem := t.mem, mp := t.mp, adm := t.adm, sync := t.sync }
  enables : ∀ c < 128, t.reg (ctxBase c + 0x38) = s.reg (ctxBase c + 0x38)

theorem EndFrame.refl (s : State) : EndFrame s s := ⟨rfl, fun _ _ => rfl⟩

theorem EndFrame.trans {s t u : State} (h : EndFrame s t) (k : EndFrame t u) : EndFrame s u where
  state := k.state.trans (congrArg (fun x : State =>
    { x with regs := u.regs, mem := u.mem, mp := u.mp, adm := u.adm, sync := u.sync }) h.state)
  enables c hc := (k.enables c hc).trans (h.enables c hc)

theorem ctxBase_ge (c : Nat) : 0x010000 ≤ ctxBase c := by
  unfold ctxBase
  omega

theorem ctxBase_lt {c : Nat} (h : c < 128) : ctxBase c + 0x38 < 0x020000 := by
  unfold ctxBase
  omega

theorem State.bump_ends {o : Nat} (s : State) (n : Nat) (h : o < 0x010000 ∨ 0x020000 ≤ o) : EndFrame s (s.bump o n) :=
  ⟨rfl, fun c hc => s.bump_reg_other _ (by have := ctxBase_ge c; have := ctxBase_lt hc; omega)⟩

theorem State.cure_ends (s : State) (n : Nat) : EndFrame s (s.cure n) := by
  unfold State.cure
  split
  · exact ⟨rfl, fun _ _ => rfl⟩
  · exact .refl s

theorem EndFrame.foldl {α : Type} {g : State → α → State} (hg : ∀ t a, EndFrame t (g t a)) (xs : List α) (s : State) :
    EndFrame s (xs.foldl g s) := by
  induction xs generalizing s with
  | nil => exact .refl s
  | cons x xs ih => exact (hg s x).trans (ih _)

theorem State.cureRange_ends (s : State) (a n : Nat) : EndFrame s (s.cureRange a n) := by
  unfold State.cureRange
  split
  · exact .refl s
  · exact EndFrame.foldl (fun t i => t.cure_ends _) _ s

theorem State.signal_ends (s : State) (n a : Nat) : EndFrame s (s.signal n a) := by
  have hmem : (s.signal n a).mem = s.mem := (congrArg State.mem (s.signal_eq n a) :)
  have hmp : (s.signal n a).mp = s.mp := (congrArg State.mp (s.signal_eq n a) :)
  have hadm : (s.signal n a).adm = s.adm := (congrArg State.adm (s.signal_eq n a) :)
  refine ⟨by rw [hmem, hmp, hadm]; exact s.signal_eq n a, fun c hc => ?_⟩
  have h1 := ctxBase_ge c
  rcases Nat.lt_or_ge ((s.obj n).cnt.toNat + a) (2 ^ 32) with h | h
  · obtain ⟨-, -, -, heq⟩ := s.signal_adds n a h
    rw [heq]
    rfl
  · obtain ⟨-, -, -, -, hregs, -⟩ := s.signal_saturates n a h
    exact hregs _ (by omega) (by omega)

theorem State.setFld_ends {o : Nat} (s : State) (hi lo v : Nat) (h : o < 0x010000 ∨ 0x020000 ≤ o) : EndFrame s (s.setFld o hi lo v) :=
  ⟨rfl, fun c hc => State.setFld_reg_other s _ _ _ (by have := ctxBase_ge c; have := ctxBase_lt hc; omega)⟩

theorem State.histogram_ends (s : State) (u : UCmd) : EndFrame s (s.histogram u) := by
  unfold State.histogram
  dsimp only
  split
  · exact .refl s
  · split
    · exact (s.bump_ends 1 (Or.inl (by decide))).trans ⟨rfl, fun _ _ => rfl⟩
    · have hslots (base : Nat) : EndFrame s ((s.histSlot u).foldl (fun t p => (t.setBytes (base + p.1) p.2).cureRange (base + p.1)
          p.2.length) s) := EndFrame.foldl (fun t (p : Nat × List Byte) =>
            EndFrame.trans (t := t.setBytes (base + p.1) p.2) ⟨rfl, fun _ _ => rfl⟩ (State.cureRange_ends _ _ _)) _ s
      have hif (t : State) (o : Nat) : EndFrame t (t.signalIf o) := by
        unfold State.signalIf
        split
        · exact t.signal_ends _ _
        · exact .refl t
      exact (hslots _).trans ((State.setFld_ends _ _ _ _ (Or.inr (by decide))).trans (hif _ _))

theorem State.outHeader_ends (s : State) (u : UCmd) : EndFrame s (s.outHeader u) := by
  unfold State.outHeader
  dsimp only
  split
  · exact .refl s
  · split
    · exact (s.bump_ends 1 (Or.inl (by decide))).trans ⟨rfl, fun _ _ => rfl⟩
    · have hset (a : Nat) (bs : List Byte) : EndFrame s (s.setBytes a bs) := ⟨rfl, fun _ _ => rfl⟩
      exact (hset _ _).trans (State.setFld_ends (o := 0x0E011C) _ _ _ _ (Or.inr (by decide)))

theorem State.atEnd_ends (s : State) (u : UCmd) (r : UResult) : EndFrame s (s.atEnd u r) := by
  unfold State.atEnd
  split
  · exact .refl s
  · split
    · exact s.histogram_ends u
    · exact s.outHeader_ends u
    · exact .refl s

theorem State.atEnd_bad {s : State} {u : UCmd} {r : UResult} (h : r.code ≠ codeOk) : s.atEnd u r = s := by
  unfold State.atEnd
  rw [if_pos h]

theorem State.atEnd_other {s : State} {u : UCmd} {r : UResult} (h : ∀ f c, u.op ≠ .admitRows c f ∧ u.op ≠ .reboundCombine c f) :
    s.atEnd u r = s := by
  unfold State.atEnd
  split
  · rfl
  · split
    · next hop => exact absurd hop (h _ _).1
    · next hop => exact absurd hop (h _ _).2
    · rfl

end Sys2Proof.Machine
end

section
/-! PROOF. The context's part of a completion (R41, R57). -/

namespace Sys2Proof.Machine

open Safety

/-! ### VEXT (R115) -/

theorem toNat_ofNat_putBits {w hi lo : Nat} (b : BitVec w) (x : Nat) (hhi : hi < w) (hlo : lo ≤ hi + 1) :
    (BitVec.ofNat w (putBits b.toNat hi lo x)).toNat = putBits b.toNat hi lo x := by
  rw [BitVec.toNat_ofNat, Nat.mod_eq_of_lt (putBits_lt _ _ _ _ w b.isLt hhi hlo)]

theorem descOf_withVext (b : Line) (n : Nat) : (descOf (withVext b n)).vext = n % 2 ^ 20 := by
  have hsame : (withVext b n).toNat = putBits b.toNat 407 388 n := toNat_ofNat_putBits b n (by decide) (by decide)
  unfold descOf
  dsimp only
  rw [hsame, bitsOf_putBits_same]

/-- VEXT of the destination slot takes the rows that a command has produced. -/
def State.takeVext (s : State) (u : UCmd) (r : UResult) : State :=
  if r.code = codeOk ∧ u.setsVext then (u.out.map fun n => s.setVext u u.destSlot n).getD s else s

theorem State.setVext_frame (s : State) (u : UCmd) (n m : Nat) : s.setVext u n m = { s with slots := (s.setVext u n m).slots } := by
  unfold State.setVext
  split <;> rfl

theorem State.takeVext_frame (s : State) (u : UCmd) (r : UResult) : s.takeVext u r = { s with slots := (s.takeVext u r).slots } := by
  unfold State.takeVext
  split
  · cases u.out with
    | none => rfl
    | some n => exact s.setVext_frame u _ n
  · rfl

theorem State.takeVext_bad {s : State} {u : UCmd} {r : UResult} (h : r.code ≠ codeOk) : s.takeVext u r = s := by
  unfold State.takeVext
  rw [if_neg (fun hok => h hok.1)]

theorem State.takeVext_does {s : State} {u : UCmd} {r : UResult} {n : Nat} (hok : r.code = codeOk) (hsets : u.setsVext = true)
    (hout : u.out = some n) (hrew : u.rew.contains u.destSlot = false) :
    (descOf ((s.takeVext u r).slot u.destSlot).bits).vext = n % 2 ^ 20 ∧ ∀ m, m ≠ u.destSlot → (s.takeVext u r).slot m = s.slot m := by
  have htake : s.takeVext u r = s.setSlot u.destSlot { s.slot u.destSlot with bits := withVext (s.slot u.destSlot).bits n } := by
    unfold State.takeVext
    rw [if_pos ⟨hok, hsets⟩, hout]
    show s.setVext u u.destSlot n = _
    unfold State.setVext
    rw [hrew]
    rfl
  rw [htake]
  refine ⟨?_, fun m hm => State.setSlot_slot_other _ _ hm⟩
  rw [State.setSlot_slot_same]
  exact descOf_withVext _ _

/-! ### Code and signal -/

/-- The code of a command is recorded in its context and its journal, and its completion-sync object is signalled. -/
def State.takeCode (s : State) (u : UCmd) (r : UResult) (y : Context) : State :=
  if u.sg && decide (r.code ≠ codeFault) then
    ((s.setCtx u.c (y.record r.code u.pc)).closeEntry u.c true u.serial r).signal (Tab.get 0 y.cs u.cs) 1
  else (s.setCtx u.c (y.record r.code u.pc)).closeEntry u.c true u.serial r

section
variable (s : State) (u : UCmd) (r : UResult) (y : Context)

theorem State.takeCode_frame : s.takeCode u r y = { s with
    ctxs := (s.takeCode u r y).ctxs, ref := (s.takeCode u r y).ref, sync := (s.takeCode u r y).sync, regs := (s.takeCode u r y).regs } := by
  unfold State.takeCode
  split
  · have h := State.signal_eq ((s.setCtx u.c (y.record r.code u.pc)).closeEntry u.c true u.serial r) (Tab.get 0 y.cs u.cs) 1
    generalize ((s.setCtx u.c (y.record r.code u.pc)).closeEntry u.c true u.serial r).signal (Tab.get 0 y.cs u.cs) 1 = t at h
    rw [h]
    rfl
  · rfl

theorem State.takeCode_ctxs : (s.takeCode u r y).ctxs = (s.setCtx u.c (y.record r.code u.pc)).ctxs := by
  unfold State.takeCode
  split
  · exact (State.signal_frame _ _ _).1
  · rfl

theorem State.takeCode_ctx : (s.takeCode u r y).ctx u.c = y.record r.code u.pc :=
  (congrArg (Tab.get Context.reset · u.c.val) (s.takeCode_ctxs u r y)).trans (State.setCtx_ctx_same _ _ _)

theorem State.takeCode_ctx_other {d : Nat} (h : d ≠ u.c.val) : (s.takeCode u r y).ctx d = s.ctx d :=
  (congrArg (Tab.get Context.reset · d) (s.takeCode_ctxs u r y)).trans (State.setCtx_ctx_other _ _ h)

theorem State.takeCode_trapOn (k : Byte) : (s.takeCode u r y).trapOn u.c k = s.trapOn u.c k := by
  have hends : EndFrame ((s.setCtx u.c (y.record r.code u.pc)).closeEntry u.c true u.serial r) (s.takeCode u r y) := by
    unfold State.takeCode
    split
    · exact State.signal_ends _ _ _
    · exact .refl _
  have hlag : (s.takeCode u r y).lag = s.lag := (congrArg State.lag (s.takeCode_frame u r y) :)
  have hreg : (s.takeCode u r y).reg (ctxBase u.c + 0x38) = s.reg (ctxBase u.c + 0x38) := hends.enables u.c u.c.isLt
  unfold State.trapOn State.regNow
  rw [hlag, hreg]

theorem State.takeCode_signals {o : Nat} (ho : o = Tab.get 0 y.cs u.cs) :
    (u.sg = true → r.code ≠ codeFault → (s.obj o).cnt ≠ 0xFFFFFFFF#32 → ((s.takeCode u r y).obj o).cnt = (s.obj o).cnt + 1) ∧
    (u.sg = false ∨ r.code = codeFault → (s.takeCode u r y).sync = s.sync) := by
  subst ho
  unfold State.takeCode
  have hobj : ((s.setCtx u.c (y.record r.code u.pc)).closeEntry u.c true u.serial r).obj (Tab.get 0 y.cs u.cs) =
      s.obj (Tab.get 0 y.cs u.cs) := rfl
  have hsync : ((s.setCtx u.c (y.record r.code u.pc)).closeEntry u.c true u.serial r).sync = s.sync := rfl
  generalize (s.setCtx u.c (y.record r.code u.pc)).closeEntry u.c true u.serial r = v at hobj hsync
  refine ⟨fun hsg hk hmax => ?_, fun h => ?_⟩
  · have hroom : (v.obj (Tab.get 0 y.cs u.cs)).cnt.toNat + 1 < 2 ^ 32 := by
      rw [hobj]
      have hne : (s.obj (Tab.get 0 y.cs u.cs)).cnt.toNat ≠ 0xFFFFFFFF := fun h => hmax (BitVec.eq_of_toNat_eq h)
      have hlt := (s.obj (Tab.get 0 y.cs u.cs)).cnt.isLt
      omega
    rw [hsg, decide_eq_true hk, Bool.and_true, if_pos rfl]
    obtain ⟨hcnt, -⟩ := v.signal_adds _ 1 hroom
    rw [← hobj]
    refine BitVec.eq_of_toNat_eq (hcnt.trans ?_)
    rw [BitVec.toNat_add]
    exact (Nat.mod_eq_of_lt hroom).symm
  · rw [if_neg]
    · exact hsync
    · rcases h with h | h
      · rw [h]
        exact Bool.false_ne_true
      · rw [decide_eq_false (fun hk => hk h), Bool.and_false]
        exact Bool.false_ne_true

end

end Sys2Proof.Machine
end

section
/-! PROOF. UNIT_COMMAND_COMPLETION (R41, R57). -/

namespace Sys2Proof.Machine

open Safety

/-! ### The release of a context -/

/-- An instruction's end reads the registers, the loops and the program counter alone. -/
theorem Context.after_congr {x y : Context} (pc : Nat) (hx : x.x = y.x) (hl : x.loops = y.loops) :
    (x.after pc).pc = (y.after pc).pc ∧ (x.after pc).loops = (y.after pc).loops ∧ (x.after pc).x = (y.after pc).x := by
  unfold Context.after Context.setX
  rw [hl]
  split
  · refine ⟨rfl, rfl, ?_⟩
    dsimp only
    split
    · exact hx
    · exact congrArg (Tab.set 0#64 · _ _) hx
  · exact ⟨rfl, rfl, hx⟩

theorem Context.after_kept (x : Context) (pc : Nat) : (x.after pc).st = x.st ∧ (x.after pc).wait = x.wait ∧
    (x.after pc).drain = x.drain ∧ (x.after pc).last = x.last := by
  rw [Context.after_eq]
  exact ⟨rfl, rfl, rfl, rfl⟩

theorem State.releaseWt_goes {s : State} {c : Nat} (hdrain : (s.ctx c).drain = .no) (hdue : (s.ctx c).trapDue = false) :
    s.releaseWt c false = s.setCtx c ({ s.ctx c with st := .running, wait := .nothing }.after (s.ctx c).pc) := by
  unfold State.releaseWt
  dsimp only
  rw [hdrain, hdue, if_pos rfl]
  rfl

theorem State.drained_stays {s : State} {c : Nat} (h : (s.ctx c).drain = .no) : s.drained c = s := by
  unfold State.drained
  dsimp only
  rw [h]
  split <;> rfl

/-- A context goes on, behind the command if it waited for it. -/
def State.proceed (s : State) (u : UCmd) : State :=
  if (s.ctx u.c).wait = .command u.serial then
    s.setCtx u.c ({ s.ctx u.c with st := .running, wait := .nothing }.after (s.ctx u.c).pc)
  else s

theorem State.proceed_frame (s : State) (u : UCmd) : s.proceed u = { s with ctxs := (s.proceed u).ctxs } := by
  unfold State.proceed
  split <;> rfl

theorem State.proceed_other (s : State) (u : UCmd) {d : Nat} (h : d ≠ u.c.val) : (s.proceed u).ctx d = s.ctx d := by
  unfold State.proceed
  split
  · exact State.setCtx_ctx_other _ _ h
  · rfl

/-- The context's value for xD, where the row returns one. -/
def UCmd.valued (u : UCmd) (r : UResult) (x : Context) : Context :=
  if returnsOf u.op = true ∧ r.code = codeOk then x.setX u.f.dst r.value else x

theorem UCmd.valued_kept (u : UCmd) (r : UResult) (x : Context) : (u.valued r x).drain = x.drain ∧
    (u.valued r x).trapDue = x.trapDue ∧ (u.valued r x).wait = x.wait ∧ (u.valued r x).st = x.st ∧ (u.valued r x).pc = x.pc ∧
    (u.valued r x).loops = x.loops ∧ (u.valued r x).cs = x.cs := by
  unfold UCmd.valued Context.setX
  split
  · split
    · exact ⟨rfl, rfl, rfl, rfl, rfl, rfl, rfl⟩
    · exact ⟨rfl, rfl, rfl, rfl, rfl, rfl, rfl⟩
  · exact ⟨rfl, rfl, rfl, rfl, rfl, rfl, rfl⟩

theorem Context.record_kept (x : Context) (k : Byte) (pc : Nat) : (x.record k pc).drain = x.drain ∧
    (x.record k pc).trapDue = x.trapDue ∧ (x.record k pc).wait = x.wait := by
  unfold Context.record
  split
  · exact ⟨rfl, rfl, rfl⟩
  · exact ⟨rfl, rfl, rfl⟩

section
variable {s : State} {u : UCmd} {r : UResult}

theorem State.completeCtx_goes (htrap : s.trapOn u.c r.code = false) (hdrain : (s.ctx u.c).drain = .no)
    (hdue : (s.ctx u.c).trapDue = false) : s.completeCtx u r = (s.takeCode u r (u.valued r (s.ctx u.c))).proceed u := by
  have hctx := s.takeCode_ctx u r (u.valued r (s.ctx u.c))
  have htrapped := (s.takeCode_trapOn u r (u.valued r (s.ctx u.c)) r.code).trans htrap
  obtain ⟨hvdrain, hvdue, -⟩ := u.valued_kept r (s.ctx u.c)
  obtain ⟨hrdrain, hrdue, -⟩ := (u.valued r (s.ctx u.c)).record_kept r.code u.pc
  have hd : ((s.takeCode u r (u.valued r (s.ctx u.c))).ctx u.c).drain = .no := by rw [hctx, hrdrain, hvdrain, hdrain]
  have ht : ((s.takeCode u r (u.valued r (s.ctx u.c))).ctx u.c).trapDue = false := by rw [hctx, hrdue, hvdue, hdue]
  have hraw : s.completeCtx u r = (if ((s.takeCode u r (u.valued r (s.ctx u.c))).ctx u.c).wait = .command u.serial then
      (s.takeCode u r (u.valued r (s.ctx u.c))).releaseWt u.c ((s.takeCode u r (u.valued r (s.ctx u.c))).trapOn u.c r.code)
      else if (s.takeCode u r (u.valued r (s.ctx u.c))).trapOn u.c r.code then
        (s.takeCode u r (u.valued r (s.ctx u.c))).lateTrap u.c ((s.takeCode u r (u.valued r (s.ctx u.c))).ctx u.c).pc false
      else s.takeCode u r (u.valued r (s.ctx u.c))).drained u.c := by
    have hvalued : (if returnsOf u.op && decide (r.code = codeOk) then (s.ctx u.c).setX u.f.dst r.value else s.ctx u.c) =
        u.valued r (s.ctx u.c) := by
      unfold UCmd.valued
      simp only [Bool.and_eq_true, decide_eq_true_eq]
    unfold State.completeCtx
    dsimp only
    rw [hvalued]
    rfl
  rw [hraw, htrapped, if_neg Bool.false_ne_true, State.releaseWt_goes hd ht]
  refine State.drained_stays (s := State.proceed _ u) ?_
  unfold State.proceed
  split
  · rw [State.setCtx_ctx_same, (Context.after_kept _ _).2.2.1]
    exact hd
  · exact hd

/-- The context once the command has completed. -/
theorem State.proceed_does {y : Context} (hy : s.ctx u.c = y.record r.code u.pc) : ((s.proceed u).ctx u.c).last = r.code ∧
    (y.wait = .command u.serial → ((s.proceed u).ctx u.c).st = .running ∧ ((s.proceed u).ctx u.c).wait = .nothing ∧
      ((s.proceed u).ctx u.c).pc = (y.after y.pc).pc ∧ ((s.proceed u).ctx u.c).loops = (y.after y.pc).loops ∧
      ∀ g, ((s.proceed u).ctx u.c).xr g = (y.after y.pc).xr g) ∧
    (y.wait ≠ .command u.serial → ((s.proceed u).ctx u.c).st = y.st ∧ ((s.proceed u).ctx u.c).wait = y.wait ∧
      ((s.proceed u).ctx u.c).pc = y.pc ∧ ((s.proceed u).ctx u.c).loops = y.loops ∧ ∀ g, ((s.proceed u).ctx u.c).xr g = y.xr g) := by
  obtain ⟨hlast, hpc, hst, hloops, hx, -⟩ := Context.record_does y r.code u.pc
  obtain ⟨-, -, hwait⟩ := y.record_kept r.code u.pc
  have hxr {a b : Context} (h : a.x = b.x) (g : Reg) : a.xr g = b.xr g := by
    unfold Context.xr
    rw [h]
  have hwaits : (s.ctx u.c).wait = y.wait := by rw [hy, hwait]
  unfold State.proceed
  rw [hwaits]
  by_cases h : y.wait = .command u.serial
  · rw [if_pos h, State.setCtx_ctx_same, hy]
    obtain ⟨hast, hawait, -, halast⟩ :=
      Context.after_kept { y.record r.code u.pc with st := .running, wait := .nothing } (y.record r.code u.pc).pc
    obtain ⟨hapc, haloops, hax⟩ := Context.after_congr (x := { y.record r.code u.pc with st := .running, wait := .nothing })
      (y := y) (y.record r.code u.pc).pc hx hloops
    refine ⟨halast.trans hlast, fun _ => ⟨hast, hawait, ?_, ?_, fun g => ?_⟩, fun hn => absurd h hn⟩
    · rw [hapc, hpc]
    · rw [haloops, hpc]
    · rw [hxr hax, hpc]
  · rw [if_neg h, hy]
    exact ⟨hlast, fun hn => absurd hn h, fun _ => ⟨hst, hwait, hpc, hloops, hxr hx⟩⟩

/-! ### The command leaves -/

/-- The command is gone. -/
def State.dropCmd (s : State) (u : UCmd) : State :=
  { s with ucmds := s.ucmds.filter fun v => !(decide (v.c = u.c) && decide (v.serial = u.serial)) }

theorem State.dropCmd_gone (s : State) (u : UCmd) : (s.dropCmd u).cmd u.c u.serial = none := by
  refine List.find?_eq_none.2 fun v hv => ?_
  have hne := List.of_mem_filter (p := fun v : UCmd => !(decide (v.c = u.c) && decide (v.serial = u.serial))) hv
  intro h
  rw [h] at hne
  exact Bool.false_ne_true hne

theorem State.complete_eq (h : s.ref.replay = false) : s.complete u r = ((s.takeVext u r).dropCmd u).completeCtx u r := by
  have hvext : (if r.code = codeOk ∧ u.setsVext then
      match u.out with
      | some n => s.setVext u u.destSlot n
      | none => s
      else s) = s.takeVext u r := by
    unfold State.takeVext
    cases u.out <;> rfl
  have hreplay : (s.takeVext u r).ref.replay = false := by
    rw [State.takeVext_frame]
    exact h
  have hahead : ((s.takeVext u r).dropCmd u).ahead u.c u.serial = false := by
    unfold State.ahead
    rw [show ((s.takeVext u r).dropCmd u).ref.replay = false from hreplay]
    rfl
  have hraw : s.complete u r = if ((s.takeVext u r).dropCmd u).ahead u.c u.serial then
      (if u.sg && decide (r.code ≠ codeFault) then
        (((s.takeVext u r).dropCmd u).closeEntry u.c true u.serial r).signal
          (Tab.get 0 ((((s.takeVext u r).dropCmd u).closeEntry u.c true u.serial r).ctx u.c).cs u.cs) 1
        else ((s.takeVext u r).dropCmd u).closeEntry u.c true u.serial r)
      else ((s.takeVext u r).dropCmd u).completeCtx u r := by
    rw [← hvext]
    rfl
  rw [hraw, hahead, if_neg Bool.false_ne_true]

theorem exec_unitCommandCompletion (hu : s.cmd u.c u.serial = some u) (hr : u.result = some r) :
    exec (.unitCommandCompletion u.c u.serial) s = .next ((s.atEnd u r).complete u r) := by
  have hraw : exec (.unitCommandCompletion u.c u.serial) s = execUnitCommandCompletion u.c u.serial s := rfl
  rw [hraw]
  unfold execUnitCommandCompletion
  dsimp only
  rw [hu]
  dsimp only
  rw [hr]
  have hnone : ((some r : Option UResult).isNone && s.isHead u) = false := rfl
  rw [hnone, if_neg Bool.false_ne_true, hu]
  dsimp only
  rw [hr]

end

/-! ### UNIT_COMMAND_COMPLETION -/

section
variable {s : State} {u : UCmd} {r : UResult}

/-- The state in which the context takes the completion: ADMIT's and COMBINE's own work done, VEXT written, the command gone. -/
def State.handed (s : State) (u : UCmd) (r : UResult) : State := ((s.atEnd u r).takeVext u r).dropCmd u

theorem State.handed_frame (s : State) (u : UCmd) (r : UResult) : s.handed u r = { (s.atEnd u r) with
    slots := (s.handed u r).slots, ucmds := (s.handed u r).ucmds } := by
  have hvext := (s.atEnd u r).takeVext_frame u r
  unfold State.handed
  generalize (s.atEnd u r).takeVext u r = v at hvext
  rw [hvext]
  rfl

theorem State.handed_ctx (s : State) (u : UCmd) (r : UResult) (d : Nat) : (s.handed u r).ctx d = s.ctx d :=
  (congrArg (fun x : State => x.ctx d) (s.handed_frame u r) :).trans (congrArg (fun x : State => x.ctx d) (s.atEnd_ends u r).state :)

theorem State.handed_trapOn (s : State) (u : UCmd) (r : UResult) (k : Byte) : (s.handed u r).trapOn u.c k = s.trapOn u.c k := by
  have hends := s.atEnd_ends u r
  have hlag : (s.handed u r).lag = s.lag :=
    (congrArg State.lag (s.handed_frame u r) :).trans (congrArg State.lag hends.state :)
  have hreg : (s.handed u r).reg (ctxBase u.c + 0x38) = s.reg (ctxBase u.c + 0x38) :=
    (congrArg (fun x : State => x.reg (ctxBase u.c + 0x38)) (s.handed_frame u r) :).trans (hends.enables u.c u.c.isLt)
  unfold State.trapOn State.regNow
  rw [hlag, hreg]

theorem exec_completion_goes (hu : s.cmd u.c u.serial = some u) (hr : u.result = some r) (hreplay : s.ref.replay = false)
    (htrap : s.trapOn u.c r.code = false) (hdrain : (s.ctx u.c).drain = .no) (hdue : (s.ctx u.c).trapDue = false) :
    exec (.unitCommandCompletion u.c u.serial) s =
      .next (((s.handed u r).takeCode u r (u.valued r (s.ctx u.c))).proceed u) := by
  have hctx := s.handed_ctx u r u.c
  have hreplayEnd : (s.atEnd u r).ref.replay = false := (congrArg (fun x : State => x.ref.replay) (s.atEnd_ends u r).state :).trans hreplay
  rw [exec_unitCommandCompletion hu hr, State.complete_eq hreplayEnd]
  have hgoes := State.completeCtx_goes (s := s.handed u r) (u := u) (r := r) ((s.handed_trapOn u r r.code).trans htrap)
    (by rw [hctx]; exact hdrain) (by rw [hctx]; exact hdue)
  rw [hctx] at hgoes
  exact congrArg Host.Outcome.next hgoes

end

/-- Settles O24: the command leaves, its code and value enter the context, and the context goes on. -/
theorem unitCommandsComplete : Obligations.UnitCommandsComplete := by
  unfold Obligations.UnitCommandsComplete
  intro s u r x y o hy hu hr hreplay htrap hdrain hdue hx ho
  subst hx
  have hvalued : u.valued r (s.ctx u.c) = y := hy.symm
  obtain ⟨-, -, hvwait, hvst, hvpc, hvloops, hvcs⟩ := u.valued_kept r (s.ctx u.c)
  rw [hvalued] at hvwait hvst hvpc hvloops hvcs
  have hexec := exec_completion_goes hu hr hreplay htrap hdrain hdue
  rw [hvalued] at hexec
  obtain ⟨hlast, hbehind, hason⟩ := State.proceed_does ((s.handed u r).takeCode_ctx u r y)
  have hgo := ((s.handed u r).takeCode u r y).proceed_frame u
  have hcode := (s.handed u r).takeCode_frame u r y
  have hucmds : (((s.handed u r).takeCode u r y).proceed u).ucmds = (s.handed u r).ucmds :=
    (congrArg State.ucmds hgo :).trans (congrArg State.ucmds hcode :)
  have hslots : (((s.handed u r).takeCode u r y).proceed u).slots = ((s.atEnd u r).takeVext u r).slots :=
    (congrArg State.slots hgo :).trans (congrArg State.slots hcode :)
  have hsync : (((s.handed u r).takeCode u r y).proceed u).sync = ((s.handed u r).takeCode u r y).sync := (congrArg State.sync hgo :)
  have hmem : (((s.handed u r).takeCode u r y).proceed u).mem = (s.handed u r).mem :=
    (congrArg State.mem hgo :).trans (congrArg State.mem hcode :)
  have hothers (d : Nat) (hd : d ≠ u.c.val) : (((s.handed u r).takeCode u r y).proceed u).ctx d = s.ctx d :=
    ((State.proceed_other _ u hd).trans (State.takeCode_ctx_other _ u r y hd)).trans (s.handed_ctx u r d)
  have hsignals := (s.handed u r).takeCode_signals u r y (o := o) (by rw [ho, hvcs])
  generalize ((s.handed u r).takeCode u r y).proceed u = t at hexec hlast hbehind hason hucmds hslots hsync hmem hothers
  refine ⟨t, hexec, ?_, fun v hv => ?_, hothers, hlast, fun hw => hbehind (hvwait.trans hw), fun hw => ?_, fun hbad => ?_,
    fun hop => ?_⟩
  · have hgone := ((s.atEnd u r).takeVext u r).dropCmd_gone u
    unfold State.cmd at hgone ⊢
    rw [hucmds]
    exact hgone
  · rw [hucmds] at hv
    have hvext := List.mem_of_mem_filter (p := fun v : UCmd => !(decide (v.c = u.c) && decide (v.serial = u.serial))) hv
    rw [State.takeVext_frame] at hvext
    have hend : (s.atEnd u r).ucmds = s.ucmds := (congrArg State.ucmds (s.atEnd_ends u r).state :)
    rw [← hend]
    exact hvext
  · obtain ⟨hst, hwait, hpc, hloops, hxr⟩ := hason (fun h => hw (hvwait.symm.trans h))
    exact ⟨hst.trans hvst, hwait.trans hvwait, hpc.trans hvpc, hloops.trans hvloops, hxr⟩
  · rw [hslots, State.takeVext_bad hbad, State.atEnd_bad hbad]
  · have hend : s.atEnd u r = s := State.atEnd_other hop
    have hhanded := s.handed_frame u r
    rw [hend] at hhanded hslots
    have hobj : (s.handed u r).obj o = s.obj o := (congrArg (fun x : State => x.obj o) hhanded :)
    have hsyncs : (s.handed u r).sync = s.sync := (congrArg State.sync hhanded :)
    rw [hobj, hsyncs] at hsignals
    obtain ⟨hadds, hstays⟩ := hsignals
    have htobj : t.obj o = ((s.handed u r).takeCode u r y).obj o := congrArg (Tab.get SyncObj.reset · o) hsync
    refine ⟨fun hsg hk hmax => ?_, fun h => hsync.trans (hstays h), hmem.trans (congrArg State.mem hhanded :),
      fun n hok hsets hout hrew => ?_⟩
    · rw [htobj]
      exact hadds hsg hk hmax
    · have hslot (m : Nat) : t.slot m = (s.takeVext u r).slot m := congrArg (Tab.get Slot.reset · m) hslots
      obtain ⟨hvext, hsame⟩ := State.takeVext_does (s := s) hok hsets hout hrew
      refine ⟨?_, fun m hm => (hslot m).trans (hsame m hm)⟩
      rw [hslot]
      exact hvext

end Sys2Proof.Machine
end

section
/-! PROOF. What the words that enter and leave a queue leave unchanged (R209 to R224). -/

namespace Sys2Proof.Machine

open Safety

/-- What no work of the queue storage touches: the contexts, the volley state but for reserved buffers, the banks of Huddle, the
registers of Volley and of Rebound and the count of malformed packets; and it loses no line. -/
structure QueueWork (s t : State) : Prop where
  ctxs : t.ctxs = s.ctxs
  vol : t.vol = { s.vol with resv := t.vol.resv }
  bankA : t.hud.bankA = s.hud.bankA
  bankB : t.hud.bankB = s.hud.bankB
  regs : ∀ o, 0x0B0000 ≤ o ∧ o < 0x0D0000 ∨ o = 0x090300 → t.reg o = s.reg o
  sound : s.mp.poison = [] → s.mp.lostCh = [] → t.mp.poison = [] ∧ t.mp.lostCh = []

theorem QueueWork.refl (s : State) : QueueWork s s := ⟨rfl, rfl, rfl, rfl, fun _ _ => rfl, fun h k => ⟨h, k⟩⟩

theorem QueueWork.trans {s t u : State} (h : QueueWork s t) (k : QueueWork t u) : QueueWork s u where
  ctxs := k.ctxs.trans h.ctxs
  vol := k.vol.trans (congrArg (fun x : Volley => { x with resv := u.vol.resv }) h.vol :)
  bankA := k.bankA.trans h.bankA
  bankB := k.bankB.trans h.bankB
  regs o ho := (k.regs o ho).trans (h.regs o ho)
  sound hp hl := (h.sound hp hl).elim k.sound

theorem QueueWork.foldl {α : Type} {g : State → α → State} (hg : ∀ t a, QueueWork t (g t a)) (xs : List α) (s : State) :
    QueueWork s (xs.foldl g s) := by
  induction xs generalizing s with
  | nil => exact .refl s
  | cons x xs ih => exact (hg s x).trans (ih _)

/-- A state that differs in what the queue storage may change, and in no lost line. -/
theorem queueWork_of_same {s t : State} (hctxs : t.ctxs = s.ctxs) (hvol : t.vol = s.vol) (hhud : t.hud = s.hud)
    (hregs : t.regs = s.regs) (hpoison : t.mp.poison = s.mp.poison) (hlost : t.mp.lostCh = s.mp.lostCh) : QueueWork s t :=
  ⟨hctxs, by rw [hvol], congrArg Huddle.bankA hhud, congrArg Huddle.bankB hhud, fun o _ => State.reg_congr hregs o,
    fun h k => ⟨hpoison.trans h, hlost.trans k⟩⟩

/-! ### Memory traffic -/

theorem State.cure_sound {s : State} (l : Nat) (hp : s.mp.poison = []) (hl : s.mp.lostCh = []) : s.cure l = s := by
  unfold State.cure State.lineLost
  rw [hp, hl]
  rfl

theorem State.cure_work (s : State) (l : Nat) : QueueWork s (s.cure l) := by
  have hissue := s.cure_issue l
  have hregs : (s.cure l).regs = s.regs := (congrArg State.regs hissue.state :)
  refine ⟨(congrArg State.ctxs hissue.state :), ?_, (congrArg (fun x : State => x.hud.bankA) hissue.state :),
    (congrArg (fun x : State => x.hud.bankB) hissue.state :), fun o _ => State.reg_congr hregs o, fun hp hl => ?_⟩
  · rw [show (s.cure l).vol = s.vol from (congrArg State.vol hissue.state :)]
  · rw [State.cure_sound l hp hl]
    exact ⟨hp, hl⟩

theorem State.measure_work (s : State) (k n : Nat) : QueueWork s (s.measure k n) := by
  rw [State.measure_eq]
  exact queueWork_of_same rfl rfl rfl rfl rfl rfl

theorem State.sendReq_work (s : State) (c : Nat) (r : MemReq) (tag : Nat) : QueueWork s (s.sendReq c r tag) := by
  have hcure : QueueWork s (if fullWrite r then s.cure r.line.toNat else s) := by
    split
    · exact s.cure_work _
    · exact .refl s
  have hread (t : State) : QueueWork t (if r.op = .write then t else t.measure 4 1) := by
    split
    · exact .refl t
    · exact t.measure_work 4 1
  have hwrite (t : State) : QueueWork t (if r.op = .read then t else t.measure 5 1) := by
    split
    · exact .refl t
    · exact t.measure_work 5 1
  exact (hcure.trans ((hread _).trans (hwrite _))).trans (queueWork_of_same rfl rfl rfl rfl rfl rfl)

theorem State.issueReqs_work (s : State) (m n : Nat) : QueueWork s (s.issueReqs m n) := by
  induction n generalizing s with
  | zero => exact .refl s
  | succ n ih =>
    unfold State.issueReqs
    split
    · next held c r tag _ _ =>
      have hspend (t : State) : QueueWork t (t.spend m r) := queueWork_of_same rfl rfl rfl rfl rfl rfl
      have hsend (t : State) : QueueWork t (State.issueReqs ((t.spend m r).sendReq c r tag) m n) :=
        (hspend t).trans ((State.sendReq_work _ c r tag).trans (ih _))
      refine QueueWork.trans (t := if held then _ else _) ?_ (hsend _)
      cases held
      · exact queueWork_of_same rfl rfl rfl rfl rfl rfl
      · exact queueWork_of_same rfl rfl rfl rfl rfl rfl
    · exact .refl s

theorem State.issuePort_work (s : State) (m : Nat) : QueueWork s (s.issuePort m) := by
  unfold State.issuePort
  split
  · exact .refl s
  · exact s.issueReqs_work _ _

theorem State.setNum_work (s : State) (a n v : Nat) : QueueWork s (s.setNum a n v) := queueWork_of_same rfl rfl rfl rfl rfl rfl

theorem State.writeEnabled_work (s : State) (a : Nat) (l : List Byte) (e : List Bool) : QueueWork s (s.writeEnabled a l e) := by
  have hstate := (s.writeEnabled_effect a l e).state
  have hmp : (s.writeEnabled a l e).mp = s.mp := by
    clear hstate
    induction l generalizing s a e with
    | nil => rfl
    | cons b l ih =>
      cases e with
      | nil => rfl
      | cons x e =>
        refine (ih (if x then s.setByte a b else s) (a + 1) e).trans ?_
        cases x <;> rfl
  exact queueWork_of_same (congrArg State.ctxs hstate :) (congrArg State.vol hstate :) (congrArg State.hud hstate :)
    (congrArg State.regs hstate :) (congrArg MemPort.poison hmp) (congrArg MemPort.lostCh hmp)

theorem State.carryOut_work (s : State) (r : MemReq) : QueueWork s (s.carryOut r) := by
  have hwrite := s.writeEnabled_work (reqAddr r) r.data r.enable
  unfold State.carryOut
  split
  · exact .refl s
  · split
    · exact hwrite.trans (State.cure_work _ _)
    · exact hwrite
  · split
    · exact .refl s
    · refine QueueWork.foldl (fun t j => ?_) _ s
      split
      · exact t.setNum_work _ _ _
      · exact .refl t

theorem State.setFld_work {o : Nat} (s : State) (hi lo v : Nat) (h : o < 0x0B0000 ∨ 0x0D0000 ≤ o) (hne : o ≠ 0x090300) :
    QueueWork s (s.setFld o hi lo v) :=
  ⟨rfl, rfl, rfl, rfl, fun p hp => State.setFld_reg_other s _ _ _ (by omega), fun hp hl => ⟨hp, hl⟩⟩

theorem State.bump_work {o : Nat} (s : State) (n : Nat) (h : o < 0x0B0000 ∨ 0x0D0000 ≤ o) (hne : o ≠ 0x090300) :
    QueueWork s (s.bump o n) :=
  ⟨rfl, rfl, rfl, rfl, fun p hp => s.bump_reg_other _ (by omega), fun hp hl => ⟨hp, hl⟩⟩

theorem State.report_work (s : State) (r : FaultRep) : QueueWork s (s.report r) := queueWork_of_same rfl rfl rfl rfl rfl rfl

theorem State.lostRead_work (s : State) (l : Nat) (h : Option Half) : QueueWork s (s.lostRead l h) := by
  have hrecord (t : State) : QueueWork t (if t.mp.lostPending then t
      else ({ t with mp := { t.mp with lostPending := true, lostAddr := 256 * l } } : State).raiseInt 4) := by
    split
    · exact .refl t
    · refine QueueWork.trans (t := { t with mp := { t.mp with lostPending := true, lostAddr := 256 * l } })
        (queueWork_of_same rfl rfl rfl rfl rfl rfl) (State.setFld_work (o := 0x2800) _ _ _ _ (Or.inl (by decide)) (by decide))
  refine ((s.bump_work (o := 0x0D0038) 1 (Or.inr (by decide)) (by decide)).trans (hrecord _)).trans ?_
  cases h with
  | none => exact queueWork_of_same rfl rfl rfl rfl rfl rfl
  | some h => exact queueWork_of_same rfl rfl rfl rfl rfl rfl

theorem State.memAccept_work {s t : State} {r : MemReq} (h : s.memAccept r = some t) : QueueWork s t := by
  unfold State.memAccept at h
  dsimp only at h
  have hcarry := s.carryOut_work r
  split at h
  · cases h
    split
    · exact .refl s
    · exact s.lostRead_work _ _
  · split at h
    · split at h
      · cases h
        exact hcarry.trans (queueWork_of_same rfl rfl rfl rfl rfl rfl)
      · cases h
    · cases h
      refine QueueWork.trans ?_ (State.issuePort_work _ _)
      exact hcarry.trans (queueWork_of_same rfl rfl rfl rfl rfl rfl)

theorem State.memRequest_work (s : State) (r : MemReq) : QueueWork s (s.memRequest r) := by
  unfold State.memRequest
  dsimp only
  split
  · exact queueWork_of_same rfl rfl rfl rfl rfl rfl
  · split
    · next t ht => exact State.memAccept_work ht
    · exact queueWork_of_same rfl rfl rfl rfl rfl rfl

theorem State.spillReqs_work (s : State) (q a : Nat) (op : MemOp) : QueueWork s (s.spillReqs q a op) := by
  unfold State.spillReqs
  split
  · exact .refl s
  · exact QueueWork.foldl (fun t i => t.memRequest_work _) _ s

theorem State.cureRange_work (s : State) (a n : Nat) : QueueWork s (s.cureRange a n) := by
  unfold State.cureRange
  split
  · exact .refl s
  · exact QueueWork.foldl (fun t i => t.cure_work _) _ s

theorem State.putBlock_work (s : State) (a : Nat) (ws : List QWord) : QueueWork s (s.putBlock a ws) := by
  have hwords : QueueWork s (ws.zipIdx.foldl (fun t (w, j) => t.setNum (a + 64 * j) 64 w.data.toNat) s) :=
    QueueWork.foldl (fun t e => t.setNum_work _ _ _) _ s
  have hbytes (t : State) (bs : List Byte) : QueueWork t (t.setBytes (a + 960) bs) := queueWork_of_same rfl rfl rfl rfl rfl rfl
  exact (hwords.trans (hbytes _ _)).trans (State.cureRange_work _ _ _)

/-! ### Buffers -/

theorem BufferFrame.work {s t : State} (h : BufferFrame s t) : QueueWork s t := by
  have hmp : t.mp = s.mp := (congrArg State.mp h.state :)
  have hregs : t.regs = s.regs := (congrArg State.regs h.state :)
  refine ⟨(congrArg State.ctxs h.state :), h.vol, (congrArg Huddle.bankA h.hud :), (congrArg Huddle.bankB h.hud :),
    fun o _ => State.reg_congr hregs o, fun hp hl => ?_⟩
  rw [hmp]
  exact ⟨hp, hl⟩

theorem State.unitFree_work (s : State) {n : Nat} (r a : Nat) (h : n < 8) : QueueWork s (s.unitFree n r a) := by
  unfold State.unitFree
  dsimp only
  split
  · exact (s.poolGive_frame n r _).work
  · refine (s.bump_work (o := poolReg n 0x20) 1 (Or.inl ?_) ?_).trans (State.report_work _ _)
    · unfold poolReg
      omega
    · unfold poolReg
      omega

theorem State.fld_three (s : State) (o : Nat) : s.fld o 2 0 < 8 := bitsOf_lt _ 2 0

/-- A block less of a bucket is to be read. -/
def State.countBlock (s : State) (b : Nat) : State := { s with hud := { s.hud with blocks := Tab.upd 0 s.hud.blocks b (· - 1) } }

theorem State.countBlock_work (s : State) (b : Nat) : QueueWork s (s.countBlock b) :=
  ⟨rfl, rfl, rfl, rfl, fun _ _ => rfl, fun hp hl => ⟨hp, hl⟩⟩

theorem State.blockRead_work (s : State) (a : Nat) : QueueWork s (s.blockRead a) := by
  have hfun := Eq.refl State.blockRead
  conv at hfun => rhs; delta State.blockRead
  rw [hfun]
  beta_reduce
  split
  · exact .refl s
  · next b _ =>
    have hcount := s.countBlock_work b
    dsimp only
    split
    · exact hcount.trans (State.unitFree_work _ 0 b (s.fld_three _))
    · exact hcount

/-! ### Queues -/

theorem State.setQueue_work (s : State) (q : Nat) (x : Queue) : QueueWork s (s.setQueue q x) :=
  queueWork_of_same rfl rfl rfl rfl rfl rfl

theorem State.spillFill_work (s : State) (q : Nat) : QueueWork s (s.spillFill q) := by
  unfold State.spillFill
  dsimp only
  split
  · exact .refl s
  · split
    · exact .refl s
    · exact (s.spillReqs_work q _ _).trans (State.setQueue_work _ _ _)

theorem State.wordLeft_work (s : State) (q : Nat) : QueueWork s (s.wordLeft q) := by
  unfold State.wordLeft
  dsimp only
  split
  · exact .refl s
  · exact (s.setQueue_work q _).trans (QueueWork.foldl (fun t (b : Nat × Nat) => t.blockRead_work b.1) _ _)

theorem State.settleQueue_work (s : State) (q : Nat) : QueueWork s (s.settleQueue q) := by
  unfold State.settleQueue
  dsimp only
  split
  · exact s.setQueue_work q _
  · split
    · exact ((s.putBlock_work _ _).trans (State.spillReqs_work _ _ _ _)).trans (State.setQueue_work _ _ _)
    · exact .refl s

theorem State.rawPop_work {s t : State} {q : Nat} {w : QWord} (h : s.rawPop q = some (w, t)) : QueueWork s t := by
  have hfill : QueueWork s (if (s.queue q).head = [] then s.spillFill q else s) := by
    split
    · exact s.spillFill_work q
    · exact .refl s
  unfold State.rawPop at h
  dsimp only at h
  split at h
  · cases h
  · have ht := congrArg Prod.snd (Option.some.inj h)
    dsimp only at ht
    rw [← ht]
    exact (hfill.trans (State.setQueue_work _ _ _)).trans ((State.wordLeft_work _ _).trans (State.settleQueue_work _ _))

theorem State.skipCuts_work (q n : Nat) (s : State) : QueueWork s (s.skipCuts q n) := by
  induction n generalizing s with
  | zero => exact .refl s
  | succ n ih =>
    unfold State.skipCuts
    split
    · split
      · next w t ht => exact (State.rawPop_work ht).trans ((t.setQueue_work q _).trans (ih _))
      · exact .refl s
    · exact .refl s

theorem State.skipCut_work (s : State) (q : Nat) : QueueWork s (s.skipCut q) := by
  unfold State.skipCut
  split
  · exact State.skipCuts_work q _ s
  · exact .refl s

theorem State.dropWords_work (q n : Nat) (s : State) : QueueWork s (s.dropWords q n) := by
  induction n generalizing s with
  | zero => exact .refl s
  | succ n ih =>
    unfold State.dropWords
    split
    · exact .refl s
    · next w t ht => exact (s.skipCut_work q).trans ((State.rawPop_work ht).trans (ih t))

end Sys2Proof.Machine
end

section
/-! PROOF. Send lists, EOH counts and the clearing of instances (R251, R252, R265). -/

namespace Sys2Proof.Machine

open Safety

/-! ### One packet of a send list (R251) -/

/-- A copy goes out under the next packet id, and counts for its destination and against its bank. -/
def State.countCopy (s : State) (h d : Nat) : State :=
  ({ s with vol := { s.vol with
    pid := s.vol.pid + 1, destCnt := (Tab.upd 0 s.vol.destCnt (8192 * h + d) (· + 1)) } } : State).setHbank h
      { s.hbank h with unsent := (s.hbank h).unsent - 1 }

theorem State.setHbank_hbank_same (s : State) {h : Nat} (b : HudBank) : (s.setHbank h b).hbank h = b := by
  unfold State.setHbank State.hbank
  by_cases hz : h = 0
  · rw [if_pos hz, if_pos hz]
  · rw [if_neg hz, if_neg hz]

theorem State.setHbank_frame (s : State) (h : Nat) (b : HudBank) : s.setHbank h b = { s with hud := (s.setHbank h b).hud } := by
  unfold State.setHbank
  split <;> rfl

theorem State.countCopy_does (s : State) (h d : Nat) : (s.countCopy h d).vol.pid = s.vol.pid + 1 ∧
    Tab.get 0 (s.countCopy h d).vol.destCnt (8192 * h + d) = Tab.get 0 s.vol.destCnt (8192 * h + d) + 1 ∧
    ((s.countCopy h d).hbank h).unsent = (s.hbank h).unsent - 1 ∧ (s.countCopy h d).ctxs = s.ctxs := by
  unfold State.countCopy
  refine ⟨?_, ?_, ?_, ?_⟩
  · rw [State.setHbank_frame]
  · rw [State.setHbank_frame]
    exact Tab.get_upd_same 0 s.vol.destCnt (8192 * h + d) (· + 1)
  · rw [State.setHbank_hbank_same]
  · rw [State.setHbank_frame]

/-- What follows the count of a copy, or of a packet that goes nowhere: its frames leave, its entry is built, and buffers return. -/
theorem sentEntry_does (s : State) (fs : List Frame) (j : VJob) (x : Option Word) {t : State}
    (ht : t = ((s.sendFrames fs).builtEntry j x).freeSendBufs) : t.vol.pid = s.vol.pid ∧ t.vol.destCnt = s.vol.destCnt ∧
      (∀ h, t.hbank h = s.hbank h) ∧ t.ctxs = s.ctxs ∧ t.regs = s.regs := by
  subst ht
  have hsend := s.sendFrames_leave fs
  have hfree := ((s.sendFrames fs).builtEntry j x).freeSendBufs_frame
  generalize ((s.sendFrames fs).builtEntry j x).freeSendBufs = t at hfree
  have hbank (h : Nat) : t.hbank h = (s.sendFrames fs).hbank h :=
    (congrArg (fun y : Huddle => if h = 0 then y.bankA else y.bankB) hfree.hud :)
  refine ⟨?_, ?_, fun h => (hbank h).trans (congrArg (fun y : State => y.hbank h) hsend.state :), ?_, ?_⟩
  · exact (congrArg Volley.pid hfree.vol :).trans (congrArg Volley.pid hsend.vol :)
  · exact (congrArg Volley.destCnt hfree.vol :).trans (congrArg Volley.destCnt hsend.vol :)
  · exact (congrArg State.ctxs hfree.state :).trans (congrArg State.ctxs hsend.state :)
  · exact (congrArg State.regs hfree.state :).trans (congrArg State.regs hsend.state :)

section
variable {s : State} {j : VJob} {ws : List QWord} {d h : Nat}

theorem exec_sendListBuild (hj : s.vol.jobs.find? (fun j => decide (j.sent.length < j.total)) = some j)
    (hws : s.peekPacket j.queue = some ws) : exec .sendListBuild s = .next (s.buildEntry j ws).freeSendBufs := by
  have hraw : exec .sendListBuild s = execSendListBuild s := rfl
  rw [hraw]
  unfold execSendListBuild
  rw [hj]
  dsimp only
  rw [hws]

theorem State.buildEntry_malformed (h : ∃ w ∈ ws, w.kind ≠ 6) : s.buildEntry j ws =
    (((s.dropWords j.queue ws.length).malformed).sendFrames []).builtEntry j none := by
  have hany : (ws.any fun w => decide (w.kind ≠ 6#3)) = true := by
    obtain ⟨w, hw, hkind⟩ := h
    exact List.any_eq_true.2 ⟨w, hw, decide_eq_true hkind⟩
  unfold State.buildEntry
  dsimp only
  rw [hany, if_pos rfl]
  rfl

theorem State.lostIn_sound (hp : s.mp.poison = []) (hl : s.mp.lostCh = []) (a n : Nat) : s.lostIn a n = none := by
  unfold State.lostIn
  rw [if_pos ⟨hp, hl⟩]

/-- A packet of a send list is counted and goes out; `u` is the state in which its words have left the queue. -/
theorem State.buildEntry_sends {u : State} (hu : s.dropWords j.queue ws.length = u) (hkinds : ∀ w ∈ ws, w.kind = 6)
    (hd : d = bitsOf (fieldLe (ws.flatMap fun w => lineBytes w.data) 40 8) 28 16)
    (hh : h = (tagOf (fieldLe (ws.flatMap fun w => lineBytes w.data) 0 12)).half % 2) (hsize : d < u.sysSize)
    (hp : u.mp.poison = []) (hl : u.mp.lostCh = []) : ∃ (cl : Bool) (item : List Byte) (fs : List Frame) (x : Option Word),
      s.buildEntry j ws = ((((if cl then u.raiseFlag 1 1 else u).countCopy h d).addItem 4 h item).sendFrames fs).builtEntry j x := by
  have hany : (ws.any fun w => decide (w.kind ≠ 6#3)) = false :=
    List.any_eq_false.2 fun w hw => by rw [decide_eq_false (fun hne => hne (hkinds w hw))]; exact Bool.false_ne_true
  have hhalf : h = ((BitVec.ofNat 1 (tagOf (fieldLe (ws.flatMap fun w => lineBytes w.data) 0 12)).half).toFin : Fin (2 ^ 1)).val := hh
  have hflag (c : Bool) (a n : Nat) : (if c then u.raiseFlag 1 1 else u).lostIn a n = none := by
    cases c
    · exact State.lostIn_sound hp hl a n
    · exact State.lostIn_sound (s := u.raiseFlag 1 1) hp hl a n
  unfold State.buildEntry
  dsimp only
  rw [hany, if_neg Bool.false_ne_true, hu, ← hd, if_neg (Nat.not_le.2 hsize), hflag, ← hhalf]
  dsimp only
  exact ⟨_, _, _, _, rfl⟩

theorem sendListBuild_sends (hj : s.vol.jobs.find? (fun j => decide (j.sent.length < j.total)) = some j)
    (hws : s.peekPacket j.queue = some ws) (hkinds : ∀ w ∈ ws, w.kind = 6)
    (hd : d = bitsOf (fieldLe (ws.flatMap fun w => lineBytes w.data) 40 8) 28 16)
    (hh : h = (tagOf (fieldLe (ws.flatMap fun w => lineBytes w.data) 0 12)).half % 2) (hsize : d < s.sysSize)
    (hp : s.mp.poison = []) (hl : s.mp.lostCh = []) : ∃ t, exec .sendListBuild s = .next t ∧ t.vol.pid = s.vol.pid + 1 ∧
      Tab.get 0 t.vol.destCnt (8192 * h + d) = Tab.get 0 s.vol.destCnt (8192 * h + d) + 1 ∧
      (t.hbank h).unsent = (s.hbank h).unsent - 1 ∧ t.ctxs = s.ctxs := by
  have hdrop := State.dropWords_work j.queue ws.length s
  generalize hu : s.dropWords j.queue ws.length = u at hdrop
  obtain ⟨hpu, hlu⟩ := hdrop.sound hp hl
  have hsizeu : d < u.sysSize := by
    have hreg := hdrop.regs 0x0B0000 (Or.inl (by decide))
    have hsame : u.sysSize = s.sysSize := congrArg (fun w : Word => bitsOf w.toNat 13 0) hreg
    rw [hsame]
    exact hsize
  obtain ⟨cl, item, fs, x, hbuilt⟩ := State.buildEntry_sends hu hkinds hd hh hsizeu hpu hlu
  have hexec := exec_sendListBuild hj hws
  rw [hbuilt] at hexec
  have hflagged : ∀ v : State, v = (if cl then u.raiseFlag 1 1 else u) → v.vol = u.vol ∧ v.hud = u.hud ∧ v.ctxs = u.ctxs := by
    rintro v rfl
    cases cl
    · exact ⟨rfl, rfl, rfl⟩
    · exact ⟨rfl, rfl, rfl⟩
  obtain ⟨hvol, hhud, hctxs⟩ := hflagged _ rfl
  generalize (if cl then u.raiseFlag 1 1 else u) = v at hexec hvol hhud hctxs
  obtain ⟨hpid, hcnt, hbank, hkept⟩ := v.countCopy_does h d
  have hitem (w : State) : (w.addItem 4 h item).vol = w.vol ∧ (∀ k, (w.addItem 4 h item).hbank k = w.hbank k) ∧
      (w.addItem 4 h item).ctxs = w.ctxs := ⟨rfl, fun _ => rfl, rfl⟩
  obtain ⟨hivol, hibank, hictxs⟩ := hitem (v.countCopy h d)
  obtain ⟨htpid, htcnt, htbank, htctxs, -⟩ := sentEntry_does ((v.countCopy h d).addItem 4 h item) fs j x rfl
  have hvpid : v.vol.pid = s.vol.pid := by
    rw [hvol]
    exact (congrArg Volley.pid hdrop.vol :)
  have hvcnt : v.vol.destCnt = s.vol.destCnt := by
    rw [hvol]
    exact (congrArg Volley.destCnt hdrop.vol :)
  have hvbank : v.hbank h = s.hbank h := by
    unfold State.hbank
    rw [hhud, hdrop.bankA, hdrop.bankB]
  refine ⟨_, hexec, ?_, ?_, ?_, ?_⟩
  · rw [htpid, hivol, hpid, hvpid]
  · rw [htcnt, hivol, hcnt, hvcnt]
  · rw [htbank, hibank, hbank, hvbank]
  · rw [htctxs, hictxs, hkept, hctxs, hdrop.ctxs]

theorem State.malformed_does (u : State) : u.malformed.reg 0x090300 = u.reg 0x090300 + 1 ∧ u.malformed.fld 0x2000 9 9 = 1 ∧
    u.malformed = { u with regs := u.malformed.regs } := by
  obtain ⟨hflag, -, -, hregs, hframe⟩ := (u.bump 0x090300 1).raiseFlag_does 9 1 (by decide)
  exact ⟨(hregs 0x090300 (by decide) (by decide)).trans (u.bump_reg_same 0x090300 1), hflag, hframe.trans rfl⟩

theorem sendListBuild_malformed (hj : s.vol.jobs.find? (fun j => decide (j.sent.length < j.total)) = some j)
    (hws : s.peekPacket j.queue = some ws) (hkinds : ∃ w ∈ ws, w.kind ≠ 6) : ∃ t, exec .sendListBuild s = .next t ∧
      t.vol.pid = s.vol.pid ∧ t.vol.destCnt = s.vol.destCnt ∧ t.reg 0x090300 = s.reg 0x090300 + 1 ∧ t.fld 0x2000 9 9 = 1 ∧
      t.ctxs = s.ctxs := by
  have hdrop := State.dropWords_work j.queue ws.length s
  have hexec := exec_sendListBuild hj hws
  rw [State.buildEntry_malformed hkinds] at hexec
  generalize s.dropWords j.queue ws.length = u at hdrop hexec
  obtain ⟨hcount, hraised, hframe⟩ := u.malformed_does
  have hvol : u.malformed.vol = u.vol := (congrArg State.vol hframe :)
  have hctxs : u.malformed.ctxs = u.ctxs := (congrArg State.ctxs hframe :)
  obtain ⟨htpid, htcnt, -, htctxs, htregs⟩ := sentEntry_does u.malformed [] j none rfl
  refine ⟨_, hexec, ?_, ?_, ?_, ?_, ?_⟩
  · rw [htpid, hvol]
    exact (congrArg Volley.pid hdrop.vol :)
  · rw [htcnt, hvol]
    exact (congrArg Volley.destCnt hdrop.vol :)
  · rw [State.reg_congr htregs, hcount, hdrop.regs 0x090300 (Or.inr rfl)]
  · exact (State.fld_congr htregs _ _ _).trans hraised
  · rw [htctxs, hctxs, hdrop.ctxs]

end

end Sys2Proof.Machine
end

section
/-! PROOF. EOH counts and the clearing of instances (R252, R265). -/

namespace Sys2Proof.Machine

open Safety

/-! ### Digests (R349 to R352) -/

/-- What the entry of a digest changes beside the Referee's state: registers, the standing whistles and the digests that wait. -/
structure DigestFrame (s t : State) : Prop where
  state : t = { s with regs := t.regs, ref := t.ref, standing := t.standing, vol := t.vol }
  vol : t.vol = { s.vol with digests := t.vol.digests }

theorem DigestFrame.refl (s : State) : DigestFrame s s := ⟨rfl, rfl⟩

theorem DigestFrame.trans {s t u : State} (h : DigestFrame s t) (k : DigestFrame t u) : DigestFrame s u where
  state := k.state.trans (congrArg (fun x : State =>
    { x with regs := u.regs, ref := u.ref, standing := u.standing, vol := u.vol }) h.state)
  vol := k.vol.trans (congrArg (fun x : Volley => { x with digests := u.vol.digests }) h.vol :)

theorem digestFrame_of_regs {s t : State} (h : t = { s with regs := t.regs }) : DigestFrame s t := by
  rw [h]
  exact ⟨rfl, rfl⟩

theorem State.raiseFlag_digest (s : State) (b n : Nat) (hb : b < 32) : DigestFrame s (s.raiseFlag b n) := by
  obtain ⟨-, -, -, -, hframe⟩ := s.raiseFlag_does b n hb
  exact digestFrame_of_regs hframe

theorem State.compareEnter_frame (s : State) (mine : Bool) (d : Digest) : DigestFrame s (s.compareEnter mine d) := by
  have hmet (t : State) : DigestFrame t ((t.raiseFlag 15 1).raiseInt 7) :=
    (t.raiseFlag_digest 15 1 (by decide)).trans (digestFrame_of_regs rfl)
  unfold State.compareEnter
  dsimp only
  split
  · split
    · exact ⟨rfl, rfl⟩
    · refine DigestFrame.trans ?_ (hmet _)
      exact ⟨rfl, rfl⟩
  · split
    · exact s.raiseFlag_digest 14 1 (by decide)
    · exact ⟨rfl, rfl⟩

theorem State.formDigest_frame (s : State) (unit : Nat) (h : Half) : DigestFrame s (s.formDigest unit h) := by
  have hclear : DigestFrame s (s.clearItems unit h.val) := ⟨rfl, rfl⟩
  have hqueue (t : State) (d : Digest) : DigestFrame t (if 64 ≤ t.vol.digests.length then t.raiseFlag 14 1
      else { t with vol := { t.vol with digests := t.vol.digests ++ [d] } }) := by
    split
    · exact t.raiseFlag_digest 14 1 (by decide)
    · exact ⟨rfl, rfl⟩
  unfold State.formDigest
  dsimp only
  split
  · exact hclear
  · exact (hclear.trans (hqueue _ _)).trans (State.compareEnter_frame _ _ _)

/-! ### EOH_SEND (R252) -/

theorem Tab.get_filter_dropped {α : Type} {d : α} {k : Nat} {p : Nat × α → Bool} (h : ∀ a, p (k, a) = false) (t : Tab α) :
    Tab.get d (t.filter p) k = d := by
  induction t with
  | nil => rfl
  | cons e t ih =>
    obtain ⟨i, a⟩ := e
    cases hp : p (i, a)
    · rw [List.filter_cons_of_neg (by rw [hp]; exact Bool.false_ne_true)]
      exact ih
    · rw [List.filter_cons_of_pos hp]
      have hne : i ≠ k := by
        rintro rfl
        rw [h a] at hp
        exact Bool.false_ne_true hp
      exact (if_neg hne).trans ih

/-- The EOH for chip `d`. -/
def State.eohFrame (s : State) (h : Half) (d : Nat) : Frame :=
  s.inlineFrame d 5 h (s.sendInst h.val) (natLe 2 (s.hbank h.val).batch.toNat ++ natLe 2 (s.hbank h.val).gen.toNat ++
    natLe 4 (Tab.get 0 s.vol.destCnt (8192 * h.val + d)))

/-- The bank of a half is done with, and its count of sendings is one further. -/
def State.closeBank (s : State) (h : Half) (b : HudBank) (inst : Byte) : State :=
  { s.setHbank h.val { b with open_ := false } with vol := { (s.setHbank h.val { b with open_ := false }).vol with
      sendInst := (s.setHbank h.val { b with open_ := false }).vol.sendInst.set h.val (inst + 1)
      eohLeft := (s.setHbank h.val { b with open_ := false }).vol.eohLeft.set h.val true
      destCnt := (s.setHbank h.val { b with open_ := false }).vol.destCnt.filter fun e => decide (e.1 / 8192 ≠ h.val) } }

theorem exec_eohSend {s : State} {h : Half} (hopen : (s.hbank h.val).open_ = true) (hsent : (s.hbank h.val).unsent = 0) :
    exec (.eohSend h) s = .next (((s.sendFrames ((List.range s.sysSize).map (s.eohFrame h))).closeBank h (s.hbank h.val)
      (s.sendInst h.val)).formDigest 4 h) := by
  have hraw : exec (.eohSend h) s = execEohSend h s := rfl
  rw [hraw]
  unfold execEohSend
  dsimp only
  have hgo : (!(s.hbank h.val).open_ || decide ((s.hbank h.val).unsent ≠ 0)) = false := by
    rw [hopen, hsent]
    rfl
  rw [hgo, if_neg Bool.false_ne_true]
  rfl

theorem State.closeBank_does (s : State) (h : Half) (b : HudBank) (inst : Byte) : ((s.closeBank h b inst).hbank h.val).open_ = false ∧
    (s.closeBank h b inst).vol.sendInst = s.vol.sendInst.set h.val (inst + 1) ∧
    (s.closeBank h b inst).vol.eohLeft = s.vol.eohLeft.set h.val true ∧
    (∀ d < 8192, Tab.get 0 (s.closeBank h b inst).vol.destCnt (8192 * h.val + d) = 0) ∧
    (s.closeBank h b inst).vol.rx = s.vol.rx ∧ (s.closeBank h b inst).mem = s.mem ∧ (s.closeBank h b inst).ctxs = s.ctxs := by
  have hbank : (s.closeBank h b inst).hbank h.val = { b with open_ := false } := State.setHbank_hbank_same s _
  have hset := s.setHbank_frame h.val { b with open_ := false }
  have hvol : (s.setHbank h.val { b with open_ := false }).vol = s.vol := (congrArg State.vol hset :)
  have hclosed : (s.closeBank h b inst).vol = { s.vol with
      sendInst := s.vol.sendInst.set h.val (inst + 1), eohLeft := s.vol.eohLeft.set h.val true
      destCnt := s.vol.destCnt.filter fun e => decide (e.1 / 8192 ≠ h.val) } := by
    rw [← hvol]
    rfl
  refine ⟨by rw [hbank], by rw [hclosed], by rw [hclosed], fun d hd => ?_, by rw [hclosed], (congrArg State.mem hset :),
    (congrArg State.ctxs hset :)⟩
  rw [hclosed]
  refine Tab.get_filter_dropped (p := fun e => decide (e.1 / 8192 ≠ h.val)) (fun a => decide_eq_false ?_) s.vol.destCnt
  intro hne
  exact hne (show (8192 * h.val + d) / 8192 = h.val by omega)

/-! ### The loopback -/

/-- A frame for another chip leaves the receive store, and the room of the loopback in it. -/
theorem State.sendFrame_away {s : State} {f : Frame} (h : f.dest ≠ s.chip) (n : Nat) : (s.sendFrame f).vol.rx = s.vol.rx ∧
    (s.sendFrame f).loopFull n = s.loopFull n ∧ (s.sendFrame f).chip = s.chip := by
  have hstick : (s.stick f).loopFull n = s.loopFull n := by
    have hstuck : (s.vol.stuck ++ [f]).any (fun f => decide (f.dest = s.chip)) = s.vol.stuck.any fun f => decide (f.dest = s.chip) := by
      rw [List.any_append, List.any_cons, decide_eq_false h]
      simp
    exact congrArg (decide (loopbackCells < (s.vol.rx.filter fun r => r.1.isNone).foldl (fun a r => a + r.2.cells) n) || ·) hstuck
  unfold State.sendFrame State.spray
  rw [if_pos h]
  split
  · exact ⟨rfl, hstick, rfl⟩
  · dsimp only
    split
    · exact ⟨rfl, hstick, rfl⟩
    · exact ⟨rfl, rfl, rfl⟩

theorem State.sendFrames_away {s : State} {fs : List Frame} (h : ∀ f ∈ fs, f.dest ≠ s.chip) : (s.sendFrames fs).vol.rx = s.vol.rx := by
  unfold State.sendFrames
  induction fs generalizing s with
  | nil => rfl
  | cons f fs ih =>
    obtain ⟨hrx, -, hchip⟩ := State.sendFrame_away (h f List.mem_cons_self) 0
    refine (ih fun g hg => ?_).trans hrx
    rw [hchip]
    exact h g (List.mem_cons_of_mem _ hg)

/-- Among frames for every chip the own one goes by the loopback. -/
theorem State.sendFrames_loops {s : State} {g : Nat → Frame} {ds : List Nat} (hdest : ∀ d, (g d).dest = d) (hnodup : ds.Nodup)
    (hmem : s.chip ∈ ds) (hroom : s.loopFull (g s.chip).cells = false) : (none, g s.chip) ∈ (s.sendFrames (ds.map g)).vol.rx := by
  unfold State.sendFrames
  induction ds generalizing s with
  | nil => exact absurd hmem List.not_mem_nil
  | cons d ds ih =>
    obtain ⟨hnew, hrest⟩ := List.nodup_cons.1 hnodup
    by_cases hd : d = s.chip
    · subst hd
      have hloop := State.sendFrame_loops (hdest s.chip) hroom
      have hchip : (s.sendFrame (g s.chip)).chip = s.chip := by rw [hloop]; rfl
      have hkept : ((s.sendFrame (g s.chip)).sendFrames (ds.map g)).vol.rx = (s.sendFrame (g s.chip)).vol.rx := by
        refine State.sendFrames_away fun f hf => ?_
        obtain ⟨e, he, rfl⟩ := List.mem_map.1 hf
        rw [hdest, hchip]
        rintro rfl
        exact hnew he
      have hin : (none, g s.chip) ∈ (s.sendFrame (g s.chip)).vol.rx := by
        rw [hloop]
        exact List.mem_append_right _ List.mem_cons_self
      rw [← hkept] at hin
      exact hin
    · obtain ⟨-, hfull, hchip⟩ := State.sendFrame_away (s := s) (f := g d) (by rw [hdest]; exact hd) (g s.chip).cells
      have hlater := ih (s := s.sendFrame (g d)) hrest
      rw [hchip] at hlater
      exact hlater ((List.mem_cons.1 hmem).resolve_left fun h => hd h.symm) (hfull.trans hroom)

theorem eohSend_does {s : State} {h : Half} (hopen : (s.hbank h.val).open_ = true) (hsent : (s.hbank h.val).unsent = 0) :
    ∃ t, exec (.eohSend h) s = .next t ∧ (t.hbank h.val).open_ = false ∧
      t.vol.sendInst = s.vol.sendInst.set h.val (s.sendInst h.val + 1) ∧ t.vol.eohLeft = s.vol.eohLeft.set h.val true ∧
      (∀ d < 8192, Tab.get 0 t.vol.destCnt (8192 * h.val + d) = 0) ∧
      (s.chip < s.sysSize → s.loopFull 1 = false → (none, s.eohFrame h s.chip) ∈ t.vol.rx) ∧ t.mem = s.mem ∧ t.ctxs = s.ctxs := by
  have hexec := exec_eohSend hopen hsent
  have hsend := s.sendFrames_leave ((List.range s.sysSize).map (s.eohFrame h))
  have hloop : s.chip < s.sysSize → s.loopFull 1 = false →
      (none, s.eohFrame h s.chip) ∈ (s.sendFrames ((List.range s.sysSize).map (s.eohFrame h))).vol.rx := fun hin hroom =>
    State.sendFrames_loops (fun _ => rfl) List.nodup_range (List.mem_range.2 hin) hroom
  generalize s.sendFrames ((List.range s.sysSize).map (s.eohFrame h)) = u at hexec hsend hloop
  obtain ⟨hbank, hinst, heoh, hcnt, hrx, hmem, hctxs⟩ := u.closeBank_does h (s.hbank h.val) (s.sendInst h.val)
  generalize u.closeBank h (s.hbank h.val) (s.sendInst h.val) = v at hexec hbank hinst heoh hcnt hrx hmem hctxs
  have hdigest := v.formDigest_frame 4 h
  have husend : u.vol.sendInst = s.vol.sendInst := (congrArg Volley.sendInst hsend.vol :)
  have hueoh : u.vol.eohLeft = s.vol.eohLeft := (congrArg Volley.eohLeft hsend.vol :)
  have htrx : (v.formDigest 4 h).vol.rx = v.vol.rx := (congrArg Volley.rx hdigest.vol :)
  have htcnt : (v.formDigest 4 h).vol.destCnt = v.vol.destCnt := (congrArg Volley.destCnt hdigest.vol :)
  refine ⟨_, hexec, ?_, ?_, ?_, fun d hd => ?_, fun hin hroom => ?_, ?_, ?_⟩
  · exact (congrArg (fun x : State => (x.hbank h.val).open_) hdigest.state :).trans hbank
  · exact (congrArg Volley.sendInst hdigest.vol :).trans (hinst.trans (by rw [husend]))
  · exact (congrArg Volley.eohLeft hdigest.vol :).trans (heoh.trans (by rw [hueoh]))
  · rw [htcnt]
    exact hcnt d hd
  · rw [htrx, hrx]
    exact hloop hin hroom
  · exact (congrArg State.mem hdigest.state :).trans (hmem.trans (congrArg State.mem hsend.state :))
  · exact (congrArg State.ctxs hdigest.state :).trans (hctxs.trans (congrArg State.ctxs hsend.state :))

theorem eohSend_waits {s : State} {h : Half} (hwait : (s.hbank h.val).open_ = false ∨ (s.hbank h.val).unsent ≠ 0) :
    exec (.eohSend h) s = .next s := by
  have hraw : exec (.eohSend h) s = execEohSend h s := rfl
  rw [hraw]
  unfold execEohSend
  dsimp only
  rw [if_pos]
  rcases hwait with hw | hw
  · rw [hw]
    rfl
  · rw [decide_eq_true hw, Bool.or_true]

/-! ### VOL_INSTCLR (R265) -/

theorem volInstclr_does {s : State} (h : HostReady s 0x0B002C) :
    (s.idle = true → ∃ t, exec .volInstclr s = .next t ∧ WriteCode t 0x0B002C codeOk ∧ t.vol.openInst = [0, 0] ∧
      t.vol.sendInst = [0, 0] ∧ t.vol.arrivals = [] ∧ t.vol.reach = [] ∧ t = { acked s with regs := t.regs, vol := t.vol }) ∧
    (s.idle = false → ∃ t, exec .volInstclr s = .next t ∧ WriteCode t 0x0B002C codeOffside ∧ t = { acked s with regs := t.regs }) := by
  have hraw : exec .volInstclr s = .next (s.hostWrite 0x0B002C State.instClear) := rfl
  refine ⟨fun hidle => ?_, fun hbusy => ?_⟩
  · have hclear : s.instClear = (codeOk, { s with vol := { s.vol with
        openInst := [0, 0], sendInst := [0, 0], arrivals := [], reach := [], recvRows := [0, 0] } }) := by
      unfold State.instClear
      rw [hidle]
      rfl
    rw [hraw, State.hostWrite_ready h, hclear]
    obtain ⟨hcode, -, hframe⟩ := State.wstat_does ({ s with vol := { s.vol with
      openInst := [0, 0], sendInst := [0, 0], arrivals := [], reach := [], recvRows := [0, 0] } }) 0x0B002C codeOk
    refine ⟨_, rfl, hcode, ?_, ?_, ?_, ?_, ?_⟩
    · exact (congrArg (fun x : State => x.vol.openInst) hframe :)
    · exact (congrArg (fun x : State => x.vol.sendInst) hframe :)
    · exact (congrArg (fun x : State => x.vol.arrivals) hframe :)
    · exact (congrArg (fun x : State => x.vol.reach) hframe :)
    · have hvol : (State.wstat { s with vol := { s.vol with
          openInst := [0, 0], sendInst := [0, 0], arrivals := [], reach := [], recvRows := [0, 0] } } 0x0B002C codeOk).vol = { s.vol with
            openInst := [0, 0], sendInst := [0, 0], arrivals := [], reach := [], recvRows := [0, 0] } := (congrArg State.vol hframe :)
      dsimp only
      rw [hvol]
      exact hframe
  · have hrefuse : s.instClear = (codeOffside, s) := by
      unfold State.instClear
      rw [hbusy]
      rfl
    obtain ⟨hcode, hframe, -⟩ := State.hostWrite_refused h hrefuse (by decide)
    exact ⟨_, hraw, hcode, hframe⟩

/-- Settles O54: a packet of the send list, the counts of a bank, and the clearing of the instances. -/
theorem sendLists : Obligations.SendLists := by
  unfold Obligations.SendLists
  refine ⟨fun s j ws d h hj hws hd hh => ⟨fun hkinds hsize hp hl => sendListBuild_sends hj hws hkinds hd hh hsize hp hl,
    fun hkinds => sendListBuild_malformed hj hws hkinds⟩, fun s h => ⟨fun hopen hsent => eohSend_does hopen hsent, eohSend_waits⟩,
    fun s h => volInstclr_does h⟩

end Sys2Proof.Machine
end

section
/-! PROOF. Buffers of a pool: allocation, return and the refill of the cache (R232, R234, R235). -/

namespace Sys2Proof.Machine

open Safety

/-! ### The next free buffer -/

theorem firstSound_sound {quar : Tab Bool} {n : Nat} (k : Nat) {i b : Nat} (h : firstSound quar n k i = some b) :
    Tab.get false quar b = false := by
  induction k generalizing i with
  | zero => cases h
  | succ k ih =>
    unfold firstSound at h
    split at h
    · cases h
    · split at h
      · exact ih h
      · next hq =>
        cases h
        exact Bool.eq_false_iff.2 hq

/-- An allocation never takes a quarantined buffer (R236). -/
theorem Pool.next_sound {p q : Pool} {n b : Nat} (h : p.next n = some (b, q)) : Tab.get false p.quar b = false := by
  unfold Pool.next at h
  split at h
  · next i hi =>
    cases h
    exact firstSound_sound _ hi
  · split at h
    · cases h
    · next i l hl =>
      cases h
      have hhead : (p.freed.dropWhile fun i => Tab.get false p.quar i).head? = some b := by rw [hl]; rfl
      have hnot := List.head?_dropWhile_not (fun i => Tab.get false p.quar i) p.freed
      rw [hhead] at hnot
      simpa using hnot

section
variable {s : State} {n : Nat}

/-- A pool with new contents and the bitmap byte of one buffer written: what stays. -/
theorem State.setPool_bitmapByte_frame (s : State) (n b : Nat) (p : Pool) :
    (∀ a, a ≠ s.poolRing n + 8 * s.poolCount n + b / 8 → ((s.setPool n p).bitmapByte n b).byte a = s.byte a) ∧
    (s.setPool n p).bitmapByte n b = { s with
      pools := ((s.setPool n p).bitmapByte n b).pools, mem := ((s.setPool n p).bitmapByte n b).mem } ∧
    ∀ m, m ≠ n → ((s.setPool n p).bitmapByte n b).pool m = s.pool m :=
  ⟨fun _ ha => State.setByte_byte_other (s.setPool n p) _ ha, rfl, fun _ hm => State.setPool_pool_other s p hm⟩

/-- POOL_ALLOCATE (R234). -/
theorem poolAllocate_takes {n : Fin 8} {r : Fin 256} {b : Nat} {p : Pool} (hen : s.poolEn n = true) (hready : (s.pool n).ready = true)
    (hclass : s.poolClass n = 0) (hwait : (s.pool n).waiting = []) (hquota : s.underQuota n r 1 = true)
    (hnext : (s.pool n).next (s.poolCount n) = some (b, p)) :
    ∃ t, exec (.poolAllocate n r) s = .next t ∧ Tab.get false (t.pool n).bitmap b = true ∧
      (∀ k, k ≠ b → Tab.get false (t.pool n).bitmap k = Tab.get false (s.pool n).bitmap k) ∧
      Tab.get 0 (t.pool n).held r = Tab.get 0 (s.pool n).held r + 1 ∧ Tab.get false (s.pool n).quar b = false ∧
      (∀ a, a ≠ s.poolRing n + 8 * s.poolCount n + b / 8 → t.byte a = s.byte a) ∧
      t = { s with pools := t.pools, mem := t.mem } ∧ ∀ m, m ≠ n.val → t.pool m = s.pool m := by
  have htake := State.poolTake_eq (s := s) r.val none hnext
  obtain ⟨t, ht, hbit, hheld, -⟩ := State.poolTake_takes (s := s) r.val none hnext
  have hexec : exec (.poolAllocate n r) s = .next ((s.setPool n (p.taken r b none)).bitmapByte n b) := by
    have hraw : exec (.poolAllocate n r) s = execPoolAllocate n r s := rfl
    rw [hraw]
    unfold execPoolAllocate State.poolRequest
    dsimp only
    rw [hen, hready, if_neg (by decide), if_neg (by decide), hclass]
    rw [hquota, if_neg (by decide), if_neg (fun h => h hwait), htake]
    rfl
  rw [htake] at ht
  cases ht
  obtain ⟨hpool, -⟩ := s.setPool_bitmapByte n b (p.taken r b none)
  refine ⟨_, hexec, hbit, fun k hk => ?_, hheld, Pool.next_sound hnext, s.setPool_bitmapByte_frame n b _⟩
  rw [hpool]
  have hbitmap : p.bitmap = (s.pool n).bitmap := by rw [Pool.next_frame hnext]
  rw [← hbitmap]
  exact Tab.get_set_other false p.bitmap true hk

/-- POOL_FREE of a pointer that passes the check (R235). -/
theorem poolFree_gives {n : Fin 8} {r : Fin 256} {a : BitVec 48} {b : Nat} (hen : s.poolEn n = true)
    (hwait : (s.pool n).waiting = []) (hb : b = (a.toNat - s.poolBase n) / s.bufBytes n) (hcode : s.freeCode n a.toNat = codeOk) :
    ∃ t, exec (.poolFree n r a) s = .next t ∧ Tab.get false (t.pool n).bitmap b = false ∧
      (∀ k, k ≠ b → Tab.get false (t.pool n).bitmap k = Tab.get false (s.pool n).bitmap k) ∧
      Tab.get 0 (t.pool n).held r = Tab.get 0 (s.pool n).held r - 1 ∧
      (∀ x, x ≠ s.poolRing n + 8 * s.poolCount n + b / 8 → t.byte x = s.byte x) ∧ t = { s with pools := t.pools, mem := t.mem } := by
  have hexec : exec (.poolFree n r a) s = .next (s.poolGive n r b) := by
    have hraw : exec (.poolFree n r a) s = execPoolFree n r a s := rfl
    rw [hraw, hb]
    unfold execPoolFree
    dsimp only
    rw [hen, hcode]
    rfl
  obtain ⟨hbit, hheld, -⟩ := State.poolGive_gives (s := s) r.val b hwait
  have hgive : s.poolGive n r b = (s.setPool n ((s.pool n).returned r b)).bitmapByte n b := by
    rw [State.poolGive_eq, hwait]
    rfl
  rw [hgive] at hexec hbit hheld
  obtain ⟨hpool, -⟩ := s.setPool_bitmapByte n b ((s.pool n).returned r b)
  obtain ⟨hbytes, hframe, -⟩ := s.setPool_bitmapByte_frame n b ((s.pool n).returned r b)
  refine ⟨_, hexec, hbit, fun k hk => ?_, hheld, hbytes, hframe⟩
  rw [hpool]
  exact Tab.get_set_other false (s.pool n).bitmap false hk

/-- POOL_FREE of a pointer that fails the check: a unit's is counted (R235). -/
theorem poolFree_refused {n : Fin 8} {r : Fin 256} {a : BitVec 48} (hen : s.poolEn n = true) (hcode : s.freeCode n a.toNat ≠ codeOk) :
    ∃ t, exec (.poolFree n r a) s = .next t ∧ t.pools = s.pools ∧ t.mem = s.mem ∧ (16 ≤ r.val → t = s) ∧
      (r.val < 16 → t.reg (poolReg n 0x20) = s.reg (poolReg n 0x20) + 1) := by
  have hexec : exec (.poolFree n r a) s = .next (if r.val < 16 then s.unitFree n r a.toNat else s) := by
    have hraw : exec (.poolFree n r a) s = execPoolFree n r a s := rfl
    rw [hraw]
    unfold execPoolFree
    dsimp only
    rw [hen, if_neg (by decide), if_neg hcode]
  rw [hexec]
  by_cases hr : r.val < 16
  · rw [if_pos hr]
    unfold State.unitFree
    dsimp only
    rw [if_neg hcode]
    exact ⟨_, rfl, rfl, rfl, fun h => absurd hr (Nat.not_lt.2 h), fun _ => s.bump_reg_same _ _⟩
  · rw [if_neg hr]
    exact ⟨s, rfl, rfl, rfl, fun _ => rfl, fun h => absurd h hr⟩

/-- The cache after a refill (R234). -/
def State.refilled (s : State) (n : Nat) : State :=
  if (s.pool n).cached ≤ 64 then
    s.setPool n { s.pool n with cached := Min.min ((s.pool n).cached + 128) ((s.pool n).freeCount (s.poolCount n)) }
  else if 224 ≤ (s.pool n).cached then s.writeBack n else s

theorem State.writeBack_frame (s : State) (n : Nat) : ((s.writeBack n).pool n).bitmap = (s.pool n).bitmap ∧
    s.writeBack n = { s with pools := (s.writeBack n).pools, mem := (s.writeBack n).mem } := by
  have hfold (g : State → Nat × Nat → State) (hg : ∀ t e, g t e = { t with mem := (g t e).mem }) (l : List (Nat × Nat)) (t : State) :
      l.foldl g t = { t with mem := (l.foldl g t).mem } := by
    induction l generalizing t with
    | nil => rfl
    | cons e l ih => exact (ih (g t e)).trans (congrArg (fun x : State => { x with mem := (l.foldl g (g t e)).mem }) (hg t e))
  have hmem := hfold (fun t (i, j) =>
    t.setNum (s.poolRing n + 8 * ((s.poolCount n - s.quarCount n + (s.pool n).back + j) % s.poolCount n)) 8 (s.bufAddr n i))
    (fun _ _ => rfl) ((s.pool n).freed.drop ((s.pool n).freed.length - 64)).zipIdx s
  unfold State.writeBack
  dsimp only
  generalize List.foldl _ s _ = u at hmem ⊢
  rw [hmem]
  refine ⟨?_, rfl⟩
  rw [State.setPool_pool_same]

/-- POOL_CACHE_REFILL (R234). -/
theorem poolCacheRefill_does {n : Fin 8} (hen : s.poolEn n = true) (hready : (s.pool n).ready = true)
    (hwait : (s.pool n).waiting = []) : ∃ t, exec (.poolCacheRefill n) s = .next t ∧ (t.pool n).bitmap = (s.pool n).bitmap ∧
      ((s.pool n).cached ≤ 64 → t.mem = s.mem ∧
        (t.pool n).cached = Min.min ((s.pool n).cached + 128) ((s.pool n).freeCount (s.poolCount n))) ∧
      t = { s with pools := t.pools, mem := t.mem } := by
  have hexec : exec (.poolCacheRefill n) s = .next (s.refilled n) := by
    have hraw : exec (.poolCacheRefill n) s = execPoolCacheRefill n s := rfl
    rw [hraw]
    unfold execPoolCacheRefill
    dsimp only
    have hgo : (!s.poolEn n || !(s.pool n).ready) = false := by
      rw [hen, hready]
      rfl
    rw [hgo, if_neg Bool.false_ne_true, show (s.pool n).waiting.length = 0 by rw [hwait]; rfl]
    rfl
  refine ⟨_, hexec, ?_⟩
  unfold State.refilled
  by_cases hlow : (s.pool n).cached ≤ 64
  · rw [if_pos hlow]
    refine ⟨?_, fun _ => ⟨rfl, ?_⟩, rfl⟩
    · rw [State.setPool_pool_same]
    · rw [State.setPool_pool_same]
  · rw [if_neg hlow]
    split
    · obtain ⟨hbitmap, hframe⟩ := s.writeBack_frame n
      exact ⟨hbitmap, fun h => absurd h hlow, hframe⟩
    · exact ⟨rfl, fun h => absurd h hlow, rfl⟩

end

/-- Settles O33: a buffer taken, one given back, a pointer refused, and the refill of the cache. -/
theorem buffersComeAndGo : Obligations.BuffersComeAndGo := by
  unfold Obligations.BuffersComeAndGo
  exact ⟨fun s n r b p hen hready hclass hwait hquota hnext => poolAllocate_takes hen hready hclass hwait hquota hnext,
    fun s n r a b hen hwait hb => ⟨fun hcode => poolFree_gives hen hwait hb hcode, fun hcode => poolFree_refused hen hcode⟩,
    fun s n hen hready hwait => poolCacheRefill_does hen hready hwait⟩

end Sys2Proof.Machine
end

section
/-! PROOF. What work on the packet queues may change: the stacks and their port, the queues, the pools, and registers. -/

namespace Sys2Proof.Machine

open Safety

/-- Work on the packet queues changes memory, its port with the pins and counters, registers and fault reports, the queues with what
flows into them, the pools, and the state of Huddle, Volley, SCOUT and ADMIT, and nothing else. -/
def StoreFrame (s t : State) : Prop :=
  t = { s with mem := t.mem, mp := t.mp, pins := t.pins, obs := t.obs, regs := t.regs, ref := { s.ref with faults := t.ref.faults },
               queues := t.queues, pools := t.pools, hud := t.hud, vol := t.vol, flow := t.flow, scout := t.scout, adm := t.adm }

theorem StoreFrame.refl (s : State) : StoreFrame s s := rfl

theorem StoreFrame.trans {s t u : State} (h : StoreFrame s t) (k : StoreFrame t u) : StoreFrame s u :=
  Eq.trans k (congrArg (fun x : State => { x with
    mem := u.mem, mp := u.mp, pins := u.pins, obs := u.obs, regs := u.regs, ref := { x.ref with faults := u.ref.faults },
    queues := u.queues, pools := u.pools, hud := u.hud, vol := u.vol, flow := u.flow, scout := u.scout, adm := u.adm }) h)

theorem StoreFrame.foldl {α : Type} {g : State → α → State} (hg : ∀ t a, StoreFrame t (g t a)) (xs : List α) (s : State) :
    StoreFrame s (xs.foldl g s) := by
  induction xs generalizing s with
  | nil => exact .refl s
  | cons x xs ih => exact (hg s x).trans (ih _)

theorem TrafficFrame.store {s t : State} (h : TrafficFrame s t) : StoreFrame s t := by
  have hqueues : t.queues = s.queues := (congrArg State.queues h.state :)
  have hpools : t.pools = s.pools := (congrArg State.pools h.state :)
  have hhud : t.hud = s.hud := (congrArg State.hud h.state :)
  have hvol : t.vol = s.vol := (congrArg State.vol h.state :)
  have hflow : t.flow = s.flow := (congrArg State.flow h.state :)
  have hscout : t.scout = s.scout := (congrArg State.scout h.state :)
  have hadm : t.adm = s.adm := (congrArg State.adm h.state :)
  unfold StoreFrame
  rw [hqueues, hpools, hhud, hvol, hflow, hscout, hadm]
  exact h.state

theorem BufferFrame.store {s t : State} (h : BufferFrame s t) : StoreFrame s t := by
  have hmp : t.mp = s.mp := (congrArg State.mp h.state :)
  have hpins : t.pins = s.pins := (congrArg State.pins h.state :)
  have hobs : t.obs = s.obs := (congrArg State.obs h.state :)
  have hregs : t.regs = s.regs := (congrArg State.regs h.state :)
  have href : t.ref = s.ref := (congrArg State.ref h.state :)
  have hqueues : t.queues = s.queues := (congrArg State.queues h.state :)
  have hflow : t.flow = s.flow := (congrArg State.flow h.state :)
  have hscout : t.scout = s.scout := (congrArg State.scout h.state :)
  have hadm : t.adm = s.adm := (congrArg State.adm h.state :)
  unfold StoreFrame
  rw [hmp, hpins, hobs, hregs, href, hqueues, hflow, hscout, hadm]
  exact h.state

theorem storeFrame_of_regs {s t : State} (h : t = { s with regs := t.regs }) : StoreFrame s t := by
  rw [h]
  rfl

theorem State.raiseFlag_store (s : State) (b n : Nat) (hb : b < 32) : StoreFrame s (s.raiseFlag b n) := by
  obtain ⟨-, -, -, -, hframe⟩ := s.raiseFlag_does b n hb
  exact storeFrame_of_regs hframe

/-! ### Blocks and buffers -/

theorem State.spillReqs_store (s : State) (q a : Nat) (op : MemOp) : StoreFrame s (s.spillReqs q a op) := by
  unfold State.spillReqs
  split
  · exact .refl s
  · exact StoreFrame.foldl (fun t i => (t.memRequest_traffic _).store) _ s

theorem State.cureRange_store (s : State) (a n : Nat) : StoreFrame s (s.cureRange a n) := by
  unfold State.cureRange
  split
  · exact .refl s
  · exact StoreFrame.foldl (fun t i => (t.cure_effect _).traffic.store) _ s

theorem State.putBlock_store (s : State) (a : Nat) (ws : List QWord) : StoreFrame s (s.putBlock a ws) := by
  have hset (t : State) (b n v : Nat) : StoreFrame t (t.setNum b n v) := rfl
  have hwords : StoreFrame s (ws.zipIdx.foldl (fun t (w, j) => t.setNum (a + 64 * j) 64 w.data.toNat) s) :=
    StoreFrame.foldl (fun t e => hset t _ _ _) _ s
  have hbytes (t : State) (bs : List Byte) : StoreFrame t (t.setBytes (a + 960) bs) := rfl
  exact (hwords.trans (hbytes _ _)).trans (State.cureRange_store _ _ _)

theorem State.unitFree_store (s : State) (n r a : Nat) : StoreFrame s (s.unitFree n r a) := by
  unfold State.unitFree
  dsimp only
  split
  · exact (s.poolGive_frame n r _).store
  · exact StoreFrame.trans (t := s.bump (poolReg n 0x20) 1) rfl rfl

theorem State.countBlock_store (s : State) (b : Nat) : StoreFrame s (s.countBlock b) := rfl

theorem State.blockRead_store (s : State) (a : Nat) : StoreFrame s (s.blockRead a) := by
  have hfun := Eq.refl State.blockRead
  conv at hfun => rhs; delta State.blockRead
  rw [hfun]
  beta_reduce
  split
  · exact .refl s
  · next b _ =>
    have hcount := s.countBlock_store b
    dsimp only
    split
    · exact hcount.trans (State.unitFree_store _ _ 0 b)
    · exact hcount

/-! ### Queues -/

theorem State.setQueue_store (s : State) (q : Nat) (x : Queue) : StoreFrame s (s.setQueue q x) := rfl

theorem State.spillFill_store (s : State) (q : Nat) : StoreFrame s (s.spillFill q) := by
  unfold State.spillFill
  dsimp only
  split
  · exact .refl s
  · split
    · exact .refl s
    · exact (s.spillReqs_store q _ _).trans (State.setQueue_store _ _ _)

theorem State.wordLeft_store (s : State) (q : Nat) : StoreFrame s (s.wordLeft q) := by
  unfold State.wordLeft
  dsimp only
  split
  · exact .refl s
  · exact (s.setQueue_store q _).trans (StoreFrame.foldl (fun t (b : Nat × Nat) => t.blockRead_store b.1) _ _)

theorem State.settleQueue_store (s : State) (q : Nat) : StoreFrame s (s.settleQueue q) := by
  unfold State.settleQueue
  dsimp only
  split
  · exact s.setQueue_store q _
  · split
    · exact ((s.putBlock_store _ _).trans (State.spillReqs_store _ _ _ _)).trans (State.setQueue_store _ _ _)
    · exact .refl s

theorem State.rawPop_store {s t : State} {q : Nat} {w : QWord} (h : s.rawPop q = some (w, t)) : StoreFrame s t := by
  have hfill : StoreFrame s (if (s.queue q).head = [] then s.spillFill q else s) := by
    split
    · exact s.spillFill_store q
    · exact .refl s
  unfold State.rawPop at h
  dsimp only at h
  split at h
  · cases h
  · have ht := congrArg Prod.snd (Option.some.inj h)
    dsimp only at ht
    rw [← ht]
    exact (hfill.trans (State.setQueue_store _ _ _)).trans ((State.wordLeft_store _ _).trans (State.settleQueue_store _ _))

theorem State.skipCuts_store (q n : Nat) (s : State) : StoreFrame s (s.skipCuts q n) := by
  induction n generalizing s with
  | zero => exact .refl s
  | succ n ih =>
    unfold State.skipCuts
    split
    · split
      · next w t ht => exact (State.rawPop_store ht).trans ((t.setQueue_store q _).trans (ih _))
      · exact .refl s
    · exact .refl s

theorem State.skipCut_store (s : State) (q : Nat) : StoreFrame s (s.skipCut q) := by
  unfold State.skipCut
  split
  · exact State.skipCuts_store q _ s
  · exact .refl s

theorem State.dropWords_store (q n : Nat) (s : State) : StoreFrame s (s.dropWords q n) := by
  induction n generalizing s with
  | zero => exact .refl s
  | succ n ih =>
    unfold State.dropWords
    split
    · exact .refl s
    · next w t ht => exact (s.skipCut_store q).trans ((State.rawPop_store ht).trans (ih t))

theorem State.enter_store (s : State) (q : Nat) (w : QWord) : StoreFrame s (s.enter q w) := by
  unfold State.enter
  exact (s.setQueue_store q _).trans (State.settleQueue_store _ _)

theorem flowIn_store (q : Nat) (ws : List QWord) (s : State) : StoreFrame s (flowIn q ws s).2 := by
  induction ws generalizing s with
  | nil => exact .refl s
  | cons w ws ih =>
    unfold flowIn
    dsimp only
    split
    · exact StoreFrame.trans (t := (s.setQueue q { s.queue q with resync := !w.last, atEnd := w.last }).bump 0x090304 1) rfl (ih _)
    · split
      · exact .refl s
      · exact (s.enter_store q w).trans (ih _)

theorem State.push_store (s : State) (q : Nat) (ws : List QWord) : StoreFrame s (s.push q ws) := by
  have h := flowIn_store q ws s
  unfold State.push
  generalize flowIn q ws s = x at h
  exact h.trans rfl

theorem storeFrame_pins (s : State) (p : Pins) : StoreFrame s { s with pins := p } := rfl

theorem State.holdFlush_store (s : State) (q : Nat) : StoreFrame s (s.holdFlush q) := storeFrame_pins s _

theorem State.readBlocks_store (s : State) (bs : List (Nat × Nat)) : StoreFrame s (bs.foldl (fun t b => t.blockRead b.1) s) :=
  StoreFrame.foldl (fun t (b : Nat × Nat) => t.blockRead_store b.1) bs s

theorem State.flush_store (s : State) (q : Nat) : StoreFrame s (s.flush q) :=
  ((s.readBlocks_store ((s.queue q).blks ++ (s.queue q).mid)).trans (State.setQueue_store _ q _)).trans (State.holdFlush_store _ q)

theorem State.malformed_store (s : State) : StoreFrame s s.malformed := by
  obtain ⟨-, -, hframe⟩ := s.malformed_does
  exact storeFrame_of_regs hframe

end Sys2Proof.Machine
end

section
/-! PROOF. What the work of a step boundary keeps, stage by stage (R53, R174, R180, R202, R350). -/

namespace Sys2Proof.Machine

open Safety

/-- What the stages of a boundary keep for those after them. -/
structure Kept (s t : State) : Prop where
  ctxs : t.ctxs = s.ctxs
  boundary : t.boundary = s.boundary
  saving : t.saving = s.saving
  arm : t.arm = s.arm
  step : t.step = s.step
  standing : t.standing = s.standing
  seed : t.seed = s.seed
  seedNext : t.seedNext = s.seedNext
  staged : t.staged = s.staged
  compares : t.ref.compares = s.ref.compares
  repair : t.ref.repair = s.ref.repair
  queues : s.queues = [] → t.queues = []

theorem Kept.refl (s : State) : Kept s s := ⟨rfl, rfl, rfl, rfl, rfl, rfl, rfl, rfl, rfl, rfl, rfl, fun h => h⟩

theorem Kept.trans {s t u : State} (h : Kept s t) (k : Kept t u) : Kept s u where
  ctxs := k.ctxs.trans h.ctxs
  boundary := k.boundary.trans h.boundary
  saving := k.saving.trans h.saving
  arm := k.arm.trans h.arm
  step := k.step.trans h.step
  standing := k.standing.trans h.standing
  seed := k.seed.trans h.seed
  seedNext := k.seedNext.trans h.seedNext
  staged := k.staged.trans h.staged
  compares := k.compares.trans h.compares
  repair := k.repair.trans h.repair
  queues hq := k.queues (h.queues hq)

theorem Kept.foldl {α : Type} {g : State → α → State} (hg : ∀ t a, Kept t (g t a)) (xs : List α) (s : State) : Kept s (xs.foldl g s) := by
  induction xs generalizing s with
  | nil => exact .refl s
  | cons x xs ih => exact (hg s x).trans (ih _)

theorem Kept.foldl_snd {α β : Type} {g : β × State → α → β × State} (hg : ∀ x a, Kept x.2 (g x a).2) (xs : List α) (x : β × State) :
    Kept x.2 (xs.foldl g x).2 := by
  induction xs generalizing x with
  | nil => exact .refl x.2
  | cons a xs ih => exact (hg x a).trans (ih _)

/-- Registers, tables, the counts of ADMIT, SCOUT's state and the generations are not among what is kept. -/
theorem kept_of_work {s t : State} (h : t = { s with
    regs := t.regs, tbl := t.tbl, adm := t.adm, scout := t.scout, ref := { s.ref with gens := t.ref.gens, acc := t.ref.acc } }) : Kept s t := by
  rw [h]
  exact ⟨rfl, rfl, rfl, rfl, rfl, rfl, rfl, rfl, rfl, rfl, rfl, fun hq => hq⟩

theorem StoreFrame.kept {s t : State} (h : StoreFrame s t) (hq : s.queues = [] → t.queues = []) : Kept s t := by
  unfold StoreFrame at h
  exact ⟨(congrArg State.ctxs h :), (congrArg State.boundary h :), (congrArg State.saving h :), (congrArg State.arm h :),
    (congrArg State.step h :), (congrArg State.standing h :), (congrArg State.seed h :), (congrArg State.seedNext h :),
    (congrArg State.staged h :), (congrArg (fun x : State => x.ref.compares) h :), (congrArg (fun x : State => x.ref.repair) h :), hq⟩

theorem kept_of_regs {s t : State} (h : t = { s with regs := t.regs }) : Kept s t :=
  (storeFrame_of_regs h).kept fun hq => (congrArg State.queues h :).trans hq

theorem State.raiseFlag_kept (s : State) (b n : Nat) (hb : b < 32) : Kept s (s.raiseFlag b n) := by
  obtain ⟨-, -, -, -, hframe⟩ := s.raiseFlag_does b n hb
  exact kept_of_regs hframe

/-! ### Audit reports (R201, R202) -/

theorem State.addMiss_store (s : State) (n h : Nat) : StoreFrame s (s.addMiss n h) := by
  have hcount (v w : Nat) : StoreFrame s (((s.setReg 0x080010 (BitVec.ofNat 32 v)).setFld 0x080014 15 0 w).countRec 7 h n) := rfl
  have hlast (t : State) (k : Nat) : StoreFrame t (if k = 0 then t else t.raiseFlag 7 k) := by
    split
    · exact .refl t
    · exact t.raiseFlag_store 7 k (by decide)
  exact (hcount _ _).trans (hlast _ _)

theorem State.auditCompare_store (s : State) (ws : List QWord) : StoreFrame s (s.auditCompare ws) := by
  have hbump (t : State) (o n : Nat) : StoreFrame t (t.bump o n) := rfl
  have hscout (sc : Scout) : StoreFrame s { s with scout := sc } := rfl
  unfold State.auditCompare
  dsimp only
  split
  · exact hbump _ _ _
  · exact ((hscout _).trans (State.addMiss_store _ _ _)).trans (hbump _ _ _)

theorem State.auditNext_store {s t : State} (h : s.auditNext = some t) : StoreFrame s t := by
  unfold State.auditNext at h
  dsimp only at h
  split at h
  · cases h
  · obtain ⟨ws, -, hws⟩ := Option.map_eq_some_iff.1 h
    have hdrop := State.dropWords_store (s.fld 0x08002C 11 0) ws.length s
    rw [← hws]
    split
    · exact hdrop.trans (State.auditCompare_store _ _)
    · exact hdrop.trans (State.malformed_store _)

theorem State.auditAll_store (n : Nat) (s : State) : StoreFrame s (s.auditAll n) := by
  induction n generalizing s with
  | zero => exact .refl s
  | succ n ih =>
    unfold State.auditAll
    split
    · next t ht => exact (State.auditNext_store ht).trans (ih t)
    · exact .refl s

/-- The queue work of the boundary leaves the queues empty where they are. -/
theorem State.auditAll_kept (s : State) : Kept s (s.auditAll (s.queue (s.fld 0x08002C 11 0)).occ) := by
  refine (State.auditAll_store _ s).kept fun hq => ?_
  have hocc : (s.queue (s.fld 0x08002C 11 0)).occ = 0 := by
    unfold State.queue
    rw [hq]
    rfl
  rw [hocc]
  exact hq

theorem State.scoutBoundary_kept (s : State) : Kept s s.scoutBoundary := by
  have hflag (t : State) (p : Prop) [Decidable p] : Kept t (if p then t.raiseFlag 8 1 else t) := by
    split
    · exact t.raiseFlag_kept 8 1 (by decide)
    · exact .refl t
  have hbump (t : State) (n : Nat) : Kept t (t.bump 0x080024 n) := kept_of_regs rfl
  have hscout (t : State) (sc : Scout) : Kept t { t with scout := sc } := kept_of_work rfl
  unfold State.scoutBoundary
  exact (s.auditAll_kept.trans (hbump _ _)).trans ((hflag _ _).trans (hscout _ _))

/-! ### Staged values (R53, R174 to R176, R363, R373) -/

theorem State.ringCheck_kept (s : State) (was : Bool) (ctrl base slot : Nat) : Kept s (s.ringCheck was ctrl base slot) := by
  unfold State.ringCheck
  split
  · exact Kept.trans (t := s.setFld ctrl 0 0 0) (kept_of_regs rfl) (State.raiseFlag_kept _ 5 1 (by decide))
  · exact .refl s

/-- The staged registers as they take effect. -/
def State.takeStaged (s : State) : State :=
  s.staged.foldl (fun t e => match e.2 with
    | some (m, v) => t.setReg e.1 ((t.reg e.1 &&& ~~~m) ||| (v &&& m))
    | none => t) s

theorem State.takeStaged_kept (s : State) : Kept s s.takeStaged := by
  refine Kept.foldl (fun t e => ?_) _ s
  split
  · exact kept_of_regs rfl
  · exact .refl t

theorem State.applyRegs_kept (s : State) : Kept { s.takeStaged with staged := [] } s.applyRegs :=
  (State.ringCheck_kept _ _ _ _ _).trans (State.ringCheck_kept _ _ _ _ _)

theorem State.autoBatch_kept (before s : State) : Kept s (State.autoBatch before s) := by
  unfold State.autoBatch
  split
  · exact .refl s
  · refine Kept.foldl (fun t h => ?_) _ s
    split
    · exact .refl t
    · exact kept_of_regs rfl

theorem State.newBatch_kept (before s : State) : Kept s (State.newBatch before s) := by
  refine Kept.foldl (fun t h => ?_) _ s
  split
  · exact .refl t
  · exact kept_of_work rfl

theorem State.setSteer_kept (s : State) (w v : Nat) : Kept s (s.setSteer w v) := kept_of_work rfl

theorem State.applySteer_kept (s : State) : Kept s s.applySteer.2 := by
  have htbl (t : State) (x : Tables) : Kept t { t with tbl := x } := kept_of_work rfl
  have hsteer : Kept s (s.tbl.steerStaged.foldl (fun t e => match e.2 with
      | some v => t.setSteer e.1 v.toNat
      | none => t) s) := by
    refine Kept.foldl (fun t e => ?_) _ s
    split
    · exact t.setSteer_kept _ _
    · exact .refl t
  refine (hsteer.trans (htbl _ _)).trans (Kept.foldl_snd (fun x l => ?_) _ (0, _))
  exact Kept.foldl (fun t j => t.setSteer_kept _ _) _ x.2

theorem State.steerLayer_kept (s : State) (keep : List Nat) (eta vmax : Fl) (l : Nat) : Kept s (s.steerLayer keep eta vmax l).2 := by
  refine Kept.foldl_snd (fun x j => ?_) _ (0, s)
  dsimp only
  split
  · exact .refl x.2
  · exact x.2.setSteer_kept _ _

/-- Every layer with choices is updated: the entries that gave a NaN, and the state after. -/
def State.steerLayers (s : State) (keep : List Nat) : Nat × State :=
  ((List.range 256).filter fun l => decide (0 < s.choicesOf l)).foldl (fun acc l =>
    let r := acc.2.steerLayer keep (f32 (s.reg 0x070030)) (f32 (s.reg 0x070034)) l
    (acc.1 + r.1, r.2)) (0, s)

theorem State.steerLayers_kept (s : State) (keep : List Nat) : Kept s (s.steerLayers keep).2 := by
  refine Kept.foldl_snd (fun x l => ?_) _ (0, s)
  exact x.2.steerLayer_kept _ _ _ l

theorem State.steerUpdate_kept (s : State) (keep : List Nat) : Kept s (s.steerUpdate keep).2.2 := by
  have hclear (t : State) (x : Admission) : Kept t { t with adm := x } := kept_of_work rfl
  unfold State.steerUpdate
  dsimp only
  split
  · exact hclear _ _
  · split
    · exact hclear _ _
    · exact (s.steerLayers_kept keep).trans (hclear _ _)

/-- The seed that is staged comes into force. -/
def State.takeSeed (s : State) : State := { s with seed := s.seedNext.getD s.seed, seedNext := none }

/-- The batch ids and registers as staged. -/
def State.takeBatch (s : State) : State := State.newBatch s (State.autoBatch s s.applyRegs)

theorem State.takeBatch_kept (s : State) : Kept { s.takeStaged with staged := [] } s.takeBatch :=
  s.applyRegs_kept.trans ((State.autoBatch_kept _ _).trans (State.newBatch_kept _ _))

/-- The configuration errors of a boundary are flagged. -/
def State.flagErrors (s : State) (n : Nat) : State := if 0 < n then s.raiseFlag 4 n else s

theorem State.flagErrors_kept (s : State) (n : Nat) : Kept s (s.flagErrors n) := by
  unfold State.flagErrors
  split
  · exact s.raiseFlag_kept 4 n (by decide)
  · exact .refl s

theorem State.stagedStep_kept (s : State) : Kept s.takeBatch.takeSeed s.stagedStep.2.2 := by
  have hbatch : State.newBatch s (State.autoBatch s s.applyRegs) = s.takeBatch := rfl
  have hseed (t : State) : ({ t with seed := t.seedNext.getD t.seed, seedNext := none } : State) = t.takeSeed := rfl
  unfold State.stagedStep
  dsimp only
  rw [hbatch, hseed]
  generalize s.takeBatch.takeSeed = t
  exact t.applySteer_kept.trans ((State.steerUpdate_kept _ _).trans (State.flagErrors_kept _ _))

end Sys2Proof.Machine
end

section
/-! PROOF. The end of a step: progress, digest and record, the checkpoint and the whistle (R54, R118, R180, R356, R379). -/

namespace Sys2Proof.Machine

open Safety

/-! ### The step group (R53, R55) -/

theorem Tab.mem_of_get_ne {α : Type} {d : α} {t : Tab α} {k : Nat} (h : Tab.get d t k ≠ d) : (k, Tab.get d t k) ∈ t := by
  induction t with
  | nil => exact absurd rfl h
  | cons e t ih =>
    obtain ⟨i, a⟩ := e
    unfold Tab.get at h ⊢
    split
    · next hi =>
      rw [hi]
      exact List.mem_cons_self
    · next hi =>
      rw [if_neg hi] at h
      exact List.mem_cons_of_mem _ (ih h)

/-- A context in STEPWAIT is a member of the step group. -/
theorem State.mem_group {s : State} {c : Nat} (h : (s.ctx c).st = .stepwait) : c ∈ s.group := by
  have hne : Tab.get Context.reset s.ctxs c ≠ Context.reset := by
    intro heq
    have hst : (Tab.get Context.reset s.ctxs c).st = .free := by rw [heq]; rfl
    exact nomatch hst.symm.trans h
  refine List.mem_map.2 ⟨(c, s.ctx c), List.mem_filter.2 ⟨Tab.mem_of_get_ne hne, ?_⟩, rfl⟩
  have hst : ((c, s.ctx c) : Nat × Context).2.st = .stepwait := h
  rw [hst]
  rfl

theorem State.stepwait_of_all {s : State} (h : s.allStepwait = true) {c : Nat} (hc : c ∈ s.group) : (s.ctx c).st = .stepwait := by
  unfold State.allStepwait at h
  exact of_decide_eq_true (List.all_eq_true.1 (Bool.and_eq_true_iff.1 h).2 c hc)

/-! ### Progress (R118) -/

/-- The recorded writers of the contexts in a list are cleared. -/
def State.clearWriters (s : State) (l : List Nat) : State := l.foldl (fun t c => t.setCtx c { t.ctx c with writers := [] }) s

theorem State.clearWriters_does (s : State) (l : List Nat) : s.clearWriters l = { s with ctxs := (s.clearWriters l).ctxs } ∧
    ∀ c, (s.clearWriters l).ctx c = { s.ctx c with writers := ((s.clearWriters l).ctx c).writers } := by
  unfold State.clearWriters
  induction l generalizing s with
  | nil => exact ⟨rfl, fun _ => rfl⟩
  | cons d l ih =>
    obtain ⟨hframe, hctx⟩ := ih (s.setCtx d { s.ctx d with writers := [] })
    rw [List.foldl_cons]
    generalize l.foldl (fun t c => t.setCtx c { t.ctx c with writers := [] }) (s.setCtx d { s.ctx d with writers := [] }) = u at hframe hctx
    refine ⟨hframe, fun c => (hctx c).trans ?_⟩
    by_cases hc : c = d
    · rw [hc, State.setCtx_ctx_same]
    · rw [State.setCtx_ctx_other _ _ hc]

theorem State.flushes_kept (s : State) (p : Nat → Bool) : Kept s (((s.queues.map (·.1)).filter p).foldl State.flush s) := by
  refine (StoreFrame.foldl (fun t q => t.flush_store q) _ s).kept fun hq => ?_
  rw [hq]
  exact hq

/-- Progress ends: beside what is kept only recorded writers change in the contexts. -/
theorem State.endProgress_does (s : State) : Kept { s with ctxs := s.endProgress.ctxs } s.endProgress ∧
    ∀ c, s.endProgress.ctx c = { s.ctx c with writers := (s.endProgress.ctx c).writers } := by
  have hflush := s.flushes_kept fun q => (s.queueWords q).any fun w => decide (w.kind = 5#3)
  have hend : s.endProgress = (((s.queues.map (·.1)).filter fun q => (s.queueWords q).any fun w => decide (w.kind = 5#3)).foldl
      State.flush s).clearWriters ((((s.queues.map (·.1)).filter fun q => (s.queueWords q).any fun w =>
        decide (w.kind = 5#3)).foldl State.flush s).ctxs.map (·.1)) := rfl
  rw [hend]
  generalize ((s.queues.map (·.1)).filter fun q => (s.queueWords q).any fun w => decide (w.kind = 5#3)).foldl State.flush s = u
    at hflush
  obtain ⟨hframe, hctx⟩ := u.clearWriters_does (u.ctxs.map (·.1))
  generalize u.clearWriters (u.ctxs.map (·.1)) = t at hframe hctx
  refine ⟨?_, fun c => (hctx c).trans ?_⟩
  · rw [hframe]
    exact ⟨rfl, hflush.boundary, hflush.saving, hflush.arm, hflush.step, hflush.standing, hflush.seed, hflush.seedNext, hflush.staged,
      hflush.compares, hflush.repair, hflush.queues⟩
  · have hsame : u.ctx c = s.ctx c := congrArg (Tab.get Context.reset · c) hflush.ctxs
    rw [hsame]

/-! ### Digest and record (R180, R350, R379) -/

/-- Only registers change. -/
def RegsOnly (s t : State) : Prop := t = { s with regs := t.regs }

theorem RegsOnly.trans {s t u : State} (h : RegsOnly s t) (k : RegsOnly t u) : RegsOnly s u :=
  Eq.trans k (congrArg (fun x : State => { x with regs := u.regs }) h)

theorem RegsOnly.foldl {α : Type} {g : State → α → State} (hg : ∀ t a, RegsOnly t (g t a)) (xs : List α) (s : State) :
    RegsOnly s (xs.foldl g s) := by
  induction xs generalizing s with
  | nil => rfl
  | cons x xs ih => exact (hg s x).trans (ih _)

/-- The pending bit of an interrupt, once set, is set. -/
theorem State.raiseInt_sets (s : State) {b : Nat} (hb : b < 32) : (s.raiseInt b).fld 0x2800 b b = 1 := by
  have h := State.setFld_fld_same s 0x2800 b b 1 hb (Nat.le_refl b)
  rw [Nat.add_sub_cancel_left] at h
  exact h

theorem State.raiseInt_keeps {s : State} {k b : Nat} (hb : b < 32) (h : s.fld 0x2800 k k = 1) :
    (s.raiseInt b).fld 0x2800 k k = 1 := by
  by_cases hkb : k = b
  · rw [hkb]
    exact s.raiseInt_sets hb
  · exact (State.setFld_fld_apart s 0x2800 b b 1 k k hb (Nat.le_refl b) (by omega)).trans h

theorem State.postRecord_does (s : State) (r : List Byte) : RegsOnly s (s.postRecord r) ∧ (s.postRecord r).fld 0x2800 1 1 = 1 := by
  have hwords (a : Nat → Nat) (v : Nat → Word) : RegsOnly s ((List.range 16).foldl (fun t j => t.setReg (a j) (v j)) s) :=
    RegsOnly.foldl (g := fun t j => t.setReg (a j) (v j)) (fun _ _ => rfl) _ s
  have hset (t : State) (o hi lo v : Nat) : RegsOnly t (t.setFld o hi lo v) := rfl
  have hfull (t : State) (p : Bool) (v : Nat) : RegsOnly t (if p then (t.setFld 0x3044 4 0 v).raiseFlag 19 1 else t) := by
    split
    · obtain ⟨-, -, -, -, hframe⟩ := (t.setFld 0x3044 4 0 v).raiseFlag_does 19 1 (by decide)
      exact (hset t _ _ _ _).trans hframe
    · rfl
  have hraise (t : State) : RegsOnly t (t.raiseInt 1) := rfl
  unfold State.postRecord
  exact ⟨((hwords _ _).trans (hset _ _ _ _ _)).trans ((hfull _ _ _).trans (hraise _)), State.raiseInt_sets _ (by decide)⟩

/-- What the entry of a digest does to the standing whistles, and that it keeps REPAIR. -/
theorem State.compareEnter_whistles (s : State) (d : Digest) : (s.compareEnter true d).ref.repair = s.ref.repair ∧
    ((s.compareEnter true d).standing = s.standing ∨ (s.compareEnter true d).standing = 0) ∧
    ((∀ e ∈ s.ref.compares, e.mine = true) → (s.compareEnter true d).standing = s.standing) := by
  have hflag (t : State) (b : Nat) (hb : b < 32) : (t.raiseFlag b 1).ref = t.ref ∧ (t.raiseFlag b 1).standing = t.standing := by
    obtain ⟨-, -, -, -, hframe⟩ := t.raiseFlag_does b 1 hb
    exact ⟨(congrArg State.ref hframe :), (congrArg State.standing hframe :)⟩
  have hint (t : State) : (t.raiseInt 7).ref = t.ref ∧ (t.raiseInt 7).standing = t.standing := ⟨rfl, rfl⟩
  unfold State.compareEnter
  dsimp only
  split
  · next e he =>
    have hmine : ¬ ∀ e ∈ s.ref.compares, e.mine = true := by
      intro h
      have hsome := List.find?_some he
      rw [h e (List.mem_of_find?_eq_some he)] at hsome
      exact Bool.false_ne_true hsome
    split
    · exact ⟨rfl, Or.inl rfl, fun h => absurd h hmine⟩
    · rw [(hint _).1, (hint _).2, (hflag _ 15 (by decide)).1, (hflag _ 15 (by decide)).2]
      refine ⟨rfl, ?_, fun h => absurd h hmine⟩
      dsimp only
      split
      · exact Or.inr rfl
      · exact Or.inl rfl
  · split
    · rw [(hflag _ 14 (by decide)).1, (hflag _ 14 (by decide)).2]
      exact ⟨rfl, Or.inl rfl, fun _ => rfl⟩
    · exact ⟨rfl, Or.inl rfl, fun _ => rfl⟩

theorem State.formDigest_whistles (s : State) (unit : Nat) (h : Half) : (s.formDigest unit h).ref.repair = s.ref.repair ∧
    ((s.formDigest unit h).standing = s.standing ∨ (s.formDigest unit h).standing = 0) ∧
    ((∀ e ∈ s.ref.compares, e.mine = true) → (s.formDigest unit h).standing = s.standing) := by
  have hqueue (t : State) (d : Digest) : ∀ u : State, u = (if 64 ≤ t.vol.digests.length then t.raiseFlag 14 1
      else { t with vol := { t.vol with digests := t.vol.digests ++ [d] } }) → u.ref = t.ref ∧ u.standing = t.standing := by
    rintro u rfl
    split
    · obtain ⟨-, -, -, -, hframe⟩ := t.raiseFlag_does 14 1 (by decide)
      exact ⟨(congrArg State.ref hframe :), (congrArg State.standing hframe :)⟩
    · exact ⟨rfl, rfl⟩
  have hclear : (s.clearItems unit h.val).ref.compares = s.ref.compares ∧ (s.clearItems unit h.val).ref.repair = s.ref.repair ∧
      (s.clearItems unit h.val).standing = s.standing := ⟨rfl, rfl, rfl⟩
  obtain ⟨hcompares, hrepair, hstanding⟩ := hclear
  unfold State.formDigest
  dsimp only
  split
  · exact ⟨hrepair, Or.inl hstanding, fun _ => hstanding⟩
  · obtain ⟨href, hst⟩ := hqueue (s.clearItems unit h.val)
      ⟨s.step, unit, h, BitVec.ofNat 32 (s.items unit h.val).1, (s.items unit h.val).2⟩ _ rfl
    generalize (if 64 ≤ (s.clearItems unit h.val).vol.digests.length then (s.clearItems unit h.val).raiseFlag 14 1 else _) = u at href hst ⊢
    obtain ⟨hrep, hstand, hsame⟩ := u.compareEnter_whistles
      ⟨s.step, unit, h, BitVec.ofNat 32 (s.items unit h.val).1, (s.items unit h.val).2⟩
    rw [href, hcompares, hst, hstanding] at hsame
    rw [hst, hstanding] at hstand
    rw [href, hrepair] at hrep
    exact ⟨hrep, hstand, hsame⟩

end Sys2Proof.Machine
end

section
/-! PROOF. STEP_BOUNDARY and SAVE_IMAGE_WRITTEN (R53, R54, R88, R347). -/

namespace Sys2Proof.Machine

open Safety

/-- What the end of a step leaves for what follows it; a digest that differs from the partner's may have taken the whistles away. -/
structure StepEnds (s t : State) : Prop where
  kept : Kept { s with standing := t.standing, ref := { s.ref with compares := t.ref.compares } } t
  whistles : t.standing = s.standing ∨ t.standing = 0
  mine : (∀ e ∈ s.ref.compares, e.mine = true) → t.standing = s.standing
  pending : t.fld 0x2800 1 1 = 1

theorem State.endStep_does (s : State) (n bad : Nat) : StepEnds s (s.endStep n bad) := by
  have hitem (i : List Byte) : Kept s ((s.clearItems 7 0).addItem 7 0 i) := kept_of_work rfl
  have hdigest (v : State) := v.formDigest_frame 7 0
  have hwhistle (v : State) := v.formDigest_whistles 7 0
  have hpost (v : State) := v.postRecord_does (s.stepRecord n bad)
  have hadm (v : State) (x : Admission) : Kept v { v with adm := x } ∧ ({ v with adm := x } : State).fld 0x2800 1 1 = v.fld 0x2800 1 1 :=
    ⟨kept_of_work rfl, rfl⟩
  unfold State.endStep
  dsimp only
  generalize hv : (s.clearItems 7 0).addItem 7 0 _ = v
  have hk : Kept s v := hv ▸ hitem _
  obtain ⟨hrepair, hstand, hsame⟩ := hwhistle v
  have hd := hdigest v
  generalize v.formDigest 7 0 = w at hrepair hstand hsame hd
  obtain ⟨hrecord, hpend⟩ := hpost w
  generalize w.postRecord (s.stepRecord n bad) = x at hrecord hpend
  have hx : Kept w x := kept_of_regs hrecord
  obtain ⟨hadmKept, hadmFld⟩ := hadm x { x.adm with srec := [], sflags := 0, expDemand := [] }
  have hwx := hx.trans hadmKept
  generalize ({ x with adm := { x.adm with srec := [], sflags := 0, expDemand := [] } } : State) = t at hadmFld hwx
  have hctxs : w.ctxs = v.ctxs := (congrArg State.ctxs hd.state :)
  have hboundary : w.boundary = v.boundary := (congrArg State.boundary hd.state :)
  have hsaving : w.saving = v.saving := (congrArg State.saving hd.state :)
  have harm : w.arm = v.arm := (congrArg State.arm hd.state :)
  have hstep : w.step = v.step := (congrArg State.step hd.state :)
  have hseed : w.seed = v.seed := (congrArg State.seed hd.state :)
  have hseedNext : w.seedNext = v.seedNext := (congrArg State.seedNext hd.state :)
  have hstaged : w.staged = v.staged := (congrArg State.staged hd.state :)
  have hqueues : w.queues = v.queues := (congrArg State.queues hd.state :)
  refine ⟨⟨?_, ?_, ?_, ?_, ?_, rfl, ?_, ?_, ?_, rfl, ?_, fun hq => ?_⟩, ?_, fun hmine => ?_, hadmFld.trans hpend⟩
  · exact hwx.ctxs.trans (hctxs.trans hk.ctxs)
  · exact hwx.boundary.trans (hboundary.trans hk.boundary)
  · exact hwx.saving.trans (hsaving.trans hk.saving)
  · exact hwx.arm.trans (harm.trans hk.arm)
  · exact hwx.step.trans (hstep.trans hk.step)
  · exact hwx.seed.trans (hseed.trans hk.seed)
  · exact hwx.seedNext.trans (hseedNext.trans hk.seedNext)
  · exact hwx.staged.trans (hstaged.trans hk.staged)
  · exact hwx.repair.trans (hrepair.trans hk.repair)
  · exact hwx.queues (hqueues.trans (hk.queues hq))
  · rw [hwx.standing, ← hk.standing]
    exact hstand
  · rw [hwx.standing, ← hk.standing]
    exact hsame (by rw [hk.compares]; exact hmine)

/-! ### The armed image (R88, R347, R348) -/

/-- What SAVE and RESTORE leave: nothing staged appears, and the step interrupt stays pending. -/
structure ArmDone (s t : State) : Prop where
  staged : t.staged = s.staged
  seedNext : t.seedNext = s.seedNext
  arm : t.arm = s.arm
  regs : t.fld 0x2800 1 1 = s.fld 0x2800 1 1 ∨ t.fld 0x2800 1 1 = 1

theorem ArmDone.refl (s : State) : ArmDone s s := ⟨rfl, rfl, rfl, Or.inl rfl⟩

theorem ArmDone.trans {s t u : State} (h : ArmDone s t) (k : ArmDone t u) : ArmDone s u where
  staged := k.staged.trans h.staged
  seedNext := k.seedNext.trans h.seedNext
  arm := k.arm.trans h.arm
  regs := by
    rcases k.regs with hk | hk
    · rw [hk]
      exact h.regs
    · exact Or.inr hk

/-- An update that leaves the registers and what is staged. -/
theorem armDone_of_regs {s t : State} (hstaged : t.staged = s.staged) (hseed : t.seedNext = s.seedNext) (harm : t.arm = s.arm)
    (hregs : t.regs = s.regs) : ArmDone s t := ⟨hstaged, hseed, harm, Or.inl (State.fld_congr hregs _ _ _)⟩

theorem State.raiseFlag_armDone (s : State) {b : Nat} (n : Nat) (hb : b < 32) : ArmDone s (s.raiseFlag b n) := by
  obtain ⟨-, -, -, hregs, hframe⟩ := s.raiseFlag_does b n hb
  refine ⟨(congrArg State.staged hframe :), (congrArg State.seedNext hframe :), (congrArg State.arm hframe :), Or.inl ?_⟩
  unfold State.fld
  rw [hregs 0x2800 (by decide) (by omega)]

theorem State.lostRead_armDone (s : State) (l : Nat) : ArmDone s (s.lostRead l none) := by
  have hbump : ArmDone s (s.bump 0x0D0038 1) :=
    ⟨rfl, rfl, rfl, Or.inl (congrArg (fun w : Word => bitsOf w.toNat 1 1) (s.bump_reg_other 1 (by decide)))⟩
  have hrecord (t : State) : ArmDone t (if t.mp.lostPending then t
      else ({ t with mp := { t.mp with lostPending := true, lostAddr := 256 * l } } : State).raiseInt 4) := by
    split
    · exact .refl t
    · refine ⟨rfl, rfl, rfl, Or.inl ?_⟩
      exact State.setFld_fld_apart { t with mp := { t.mp with lostPending := true, lostAddr := 256 * l } } 0x2800 4 4 1 1 1
        (by decide) (by decide) (by decide)
  have hreport (t : State) (r : FaultRep) : ArmDone t (t.report r) := armDone_of_regs rfl rfl rfl rfl
  exact (hbump.trans (hrecord _)).trans (hreport _ _)

theorem State.startGate_armDone (s : State) (n : Nat) : ArmDone s (s.startGate n) := by
  have htbl (x : Tables) : ArmDone s { s with tbl := x } := armDone_of_regs rfl rfl rfl rfl
  unfold State.startGate
  dsimp only
  split
  · exact htbl _
  · exact (htbl _).trans (State.raiseFlag_armDone _ 1 (by decide))

theorem State.loadTables_armDone (s : State) (a : Nat) : ArmDone s (s.loadTables a) := by
  have htbl (t : State) (x : Tables) : ArmDone t { t with tbl := x } := armDone_of_regs rfl rfl rfl rfl
  unfold State.loadTables
  extract_lets w epoch bank lo rep mem tbl ld t gated entry gtbl gld ntbl u swap utbl
  refine ArmDone.trans (t := u) ?_ (htbl u _)
  refine ArmDone.trans (t := t) (htbl s _) ?_
  have hgated : ArmDone t gated := t.startGate_armDone _
  clear_value t gated
  simp only [u]
  split
  · exact hgated.trans (htbl gated _)
  · exact htbl t _

/-- The fields of a state that an image gives. -/
theorem loaded_armDone (s : State) (c : Tab Context) (sl : Tab Slot) (sy : Tab SyncObj) (st se : DWord) (tb : Tables) (v : Volley)
    (r : Referee) : ArmDone s { s with ctxs := c, slots := sl, sync := sy, syncWr := [], step := st, seed := se, tbl := tb, vol := v, ref := r } :=
  armDone_of_regs rfl rfl rfl rfl

theorem State.setFld_armDone (s : State) {o : Nat} (hi lo v : Nat) (h : 0x2800 ≠ o) : ArmDone s (s.setFld o hi lo v) :=
  ⟨rfl, rfl, rfl, Or.inl (State.setFld_fld_other s _ _ _ _ _ h)⟩

theorem State.newProgramDigest_armDone (s : State) : ArmDone s s.newProgramDigest := by
  have href (r : Referee) : ArmDone s { s with ref := r } := armDone_of_regs rfl rfl rfl rfl
  exact href _

theorem State.loadImage_armDone (s : State) (a : Nat) : ArmDone s (s.loadImage a) := by
  unfold State.loadImage
  extract_lets
  refine ArmDone.trans ?_ (State.newProgramDigest_armDone _)
  refine ArmDone.trans ?_ (State.loadTables_armDone _ a)
  refine ArmDone.trans ?_ (State.setFld_armDone (o := 0x07001C) _ 12 0 _ (by decide))
  refine ArmDone.trans ?_ (State.setFld_armDone (o := 0x1000) _ 0 0 _ (by decide))
  exact loaded_armDone s _ _ _ _ _ _ _ _

theorem State.endArm_armDone (s : State) (cap : Capture) (k : Byte) : ArmDone s (s.endArm cap k) := by
  have hctxs (x : Context) : ArmDone s (s.setCtx cap.c x) := armDone_of_regs rfl rfl rfl rfl
  exact hctxs _

/-- Nothing is armed. -/
def State.disarm (s : State) : State := { s with arm := none }

theorem StoreFrame.armDone {s t : State} (h : StoreFrame s t) (hregs : t.regs = s.regs) : ArmDone s t := by
  unfold StoreFrame at h
  exact armDone_of_regs (congrArg State.staged h :) (congrArg State.seedNext h :) (congrArg State.arm h :) hregs

/-- The image of a SAVE in the stacks. -/
def State.writeImage (s : State) (a : Nat) : State := (s.setBytes a s.imageBytes).cureRange a saveBytes

theorem State.cureRange_regs (s : State) (a n : Nat) : (s.cureRange a n).regs = s.regs := by
  have hfold (l : List Nat) (g : Nat → Nat) (t : State) : (l.foldl (fun t i => t.cure (g i)) t).regs = t.regs := by
    induction l generalizing t with
    | nil => rfl
    | cons i l ih =>
      refine (ih (t.cure (g i))).trans ?_
      unfold State.cure
      split <;> rfl
  unfold State.cureRange
  split
  · rfl
  · exact hfold _ _ s

theorem State.writeImage_store (s : State) (a : Nat) : StoreFrame s (s.writeImage a) ∧ (s.writeImage a).regs = s.regs ∧
    (s.writeImage a).queues = s.queues := by
  have hset (bs : List Byte) : StoreFrame s (s.setBytes a bs) ∧ (s.setBytes a bs).regs = s.regs ∧ (s.setBytes a bs).queues = s.queues :=
    ⟨rfl, rfl, rfl⟩
  unfold State.writeImage
  obtain ⟨hstore, hregs, hqueues⟩ := hset s.imageBytes
  generalize s.setBytes a s.imageBytes = u at hstore hregs hqueues
  have hcure : EffectFrame u (u.cureRange a saveBytes) := by
    unfold State.cureRange
    split
    · exact .refl u
    · exact EffectFrame.foldl (fun t i => t.cure_effect _) _ u
  exact ⟨hstore.trans hcure.traffic.store, (u.cureRange_regs a saveBytes).trans hregs, (congrArg State.queues hcure.state :).trans hqueues⟩

theorem State.doArm_none {s : State} (h : s.arm = none) : s.doArm = s := by
  unfold State.doArm
  rw [h]

/-- How a RESTORE ends that meets no word in a queue: `lost` is the state after a lost line of the image has been read. -/
def State.restoreEnds (s : State) (cap : Capture) : Option State → State
  | some u => u.endArm cap codeFault
  | none => if s.imageBad cap.addr then s.endArm cap codeFormat else (s.loadImage cap.addr).endArm cap codeOk

theorem State.doArm_some {s : State} {cap : Capture} (h : s.arm = some cap) : s.doArm =
    if s.disarm.anyWord || (!cap.restore && s.disarm.ref.repair) then s.disarm.endArm cap codeOffside
    else if cap.restore then s.disarm.restoreEnds cap (s.disarm.imageLostRead cap.addr saveBytes)
    else { s.disarm.writeImage cap.addr with saving := some cap } := by
  unfold State.doArm
  rw [h]
  rfl

theorem State.doArm_armDone (s : State) : ArmDone s.disarm s.doArm := by
  cases h : s.arm with
  | none =>
    have hsame : s.disarm = s := by
      unfold State.disarm
      rw [← h]
    rw [State.doArm_none h, hsame]
    exact .refl s
  | some cap =>
    rw [State.doArm_some h]
    split
    · exact State.endArm_armDone _ _ _
    · split
      · cases hlost : s.disarm.imageLostRead cap.addr saveBytes with
        | none =>
          unfold State.restoreEnds
          dsimp only
          split
          · exact State.endArm_armDone _ _ _
          · exact (State.loadImage_armDone _ _).trans (State.endArm_armDone _ _ _)
        | some u =>
          obtain ⟨l, -, hl⟩ := Option.map_eq_some_iff.1 hlost
          rw [← hl]
          exact (State.lostRead_armDone _ l).trans (State.endArm_armDone _ _ _)
      · obtain ⟨hstore, hregs, -⟩ := s.disarm.writeImage_store cap.addr
        exact (hstore.armDone hregs).trans (armDone_of_regs rfl rfl rfl rfl)

end Sys2Proof.Machine
end

section
/-! PROOF. STEP_BOUNDARY and SAVE_IMAGE_WRITTEN, put together (R53, R54, R347). -/

namespace Sys2Proof.Machine

open Safety

/-! ### The whistle (R54) -/

theorem Context.stepped_does (x : Context) : x.stepped.st = .running ∧ x.stepped.last = codeOk := by
  unfold Context.stepped
  refine ⟨rfl, ?_⟩
  exact (Context.after_last _ _).trans (Context.record_last _ _ _)

theorem State.releaseOne_pending {s : State} (c : Nat) (h : s.fld 0x2800 1 1 = 1) : (s.releaseOne c).fld 0x2800 1 1 = 1 := by
  have hset (x : Context) : (s.setCtx c x).fld 0x2800 1 1 = 1 := h
  have htrap (t : State) (pc : Nat) (ht : t.fld 0x2800 1 1 = 1) : (t.trap c pc false).fld 0x2800 1 1 = 1 :=
    State.raiseInt_keeps (s := t.setCtx c { t.ctx c with
      st := .trapped, pc := pc, precise := false, drain := .no, trapDue := false, wait := .nothing }) (b := 2) (by decide) ht
  unfold State.releaseOne
  dsimp only
  split
  · exact h
  · split
    · exact htrap _ _ (hset _)
    · exact hset _

theorem State.releaseFold_pending (l : List Nat) {s : State} (h : s.fld 0x2800 1 1 = 1) :
    (l.foldl State.releaseOne s).fld 0x2800 1 1 = 1 := by
  induction l generalizing s with
  | nil => exact h
  | cons c l ih => exact ih (State.releaseOne_pending c h)

/-- A standing whistle is used up, and no boundary waits. -/
def State.blown (s : State) : State := { s with standing := s.standing - 1, boundary := false }

theorem State.whistle_stands {s : State} (h : 0 < s.standing) : s.whistle = s.group.foldl State.releaseOne s.blown := by
  unfold State.whistle
  rw [if_pos h, State.releaseAll_eq]
  rfl

theorem State.whistle_none {s : State} (h : s.standing = 0) : s.whistle = { s with boundary := true } := by
  unfold State.whistle
  rw [if_neg (by omega)]

/-- What the test of the whistle changes beside the contexts and registers: the standing whistles and the waiting boundary. -/
theorem State.whistle_frame (s : State) : s.whistle = { s with
    standing := s.whistle.standing, boundary := s.whistle.boundary, ctxs := s.whistle.ctxs, regs := s.whistle.regs } := by
  rcases Nat.eq_zero_or_pos s.standing with h | h
  · rw [State.whistle_none h]
  · have hfold := State.releaseFold_eq s.group s.blown
    rw [State.whistle_stands h]
    generalize s.group.foldl State.releaseOne s.blown = t at hfold
    rw [hfold]
    rfl

theorem State.whistle_pending {s : State} (h : s.fld 0x2800 1 1 = 1) : s.whistle.fld 0x2800 1 1 = 1 := by
  rcases Nat.eq_zero_or_pos s.standing with h0 | h0
  · rw [State.whistle_none h0]
    exact h
  · rw [State.whistle_stands h0]
    exact State.releaseFold_pending _ h

theorem State.whistle_does (s : State) : (s.standing = 0 → s.whistle.boundary = true ∧ s.whistle.standing = 0 ∧
      ∀ c, s.whistle.ctx c = s.ctx c) ∧
    (0 < s.standing → s.whistle.boundary = false ∧ s.whistle.standing = s.standing - 1 ∧
      ∀ c, (s.ctx c).st = .stepwait → (s.ctx c).trapDue = false → (s.whistle.ctx c).st = .running ∧ (s.whistle.ctx c).last = codeOk) := by
  refine ⟨fun h => ?_, fun h => ?_⟩
  · rw [State.whistle_none h]
    exact ⟨rfl, h, fun _ => rfl⟩
  · have hfold := State.releaseFold_eq s.group s.blown
    rw [State.whistle_stands h]
    refine ⟨(congrArg State.boundary hfold :), (congrArg State.standing hfold :), fun c hst htrap => ?_⟩
    have hctx := State.releaseFold_ctx (l := s.group) (s := s.blown) (State.mem_group hst) hst htrap
    rw [hctx]
    exact Context.stepped_does _

/-! ### The stages together -/

/-- The state of a boundary once the step has ended, before an armed image and the whistle. -/
structure Ended (s t : State) : Prop where
  ctx : ∀ c, t.ctx c = { s.ctx c with writers := (t.ctx c).writers }
  boundary : t.boundary = s.boundary
  saving : t.saving = s.saving
  arm : t.arm = s.arm
  step : t.step = s.step
  seed : t.seed = s.seedNext.getD s.seed
  seedNext : t.seedNext = none
  staged : t.staged = []
  repair : t.ref.repair = s.ref.repair
  queues : s.queues = [] → t.queues = []
  whistles : t.standing = s.standing ∨ t.standing = 0
  mine : (∀ e ∈ s.ref.compares, e.mine = true) → t.standing = s.standing
  pending : t.fld 0x2800 1 1 = 1

/-- The step ends: reports, staged values, progress, digest and record. -/
def State.ended (s : State) : State :=
  s.scoutBoundary.stagedStep.2.2.endProgress.endStep s.scoutBoundary.stagedStep.1 s.scoutBoundary.stagedStep.2.1

theorem State.ended_does (s : State) : Ended s s.ended := by
  have hscout := s.scoutBoundary_kept
  unfold State.ended
  generalize s.scoutBoundary = a at hscout
  have hstaged := a.takeStaged_kept
  have hbatch := a.takeBatch_kept
  have hstep := a.stagedStep_kept
  generalize a.stagedStep.1 = n
  generalize a.stagedStep.2.1 = bad
  generalize a.stagedStep.2.2 = b at hstep
  generalize a.takeBatch = u at hbatch hstep
  generalize a.takeStaged = v at hstaged hbatch
  obtain ⟨hprogress, hwriters⟩ := b.endProgress_does
  generalize b.endProgress = c at hprogress hwriters
  obtain ⟨hend, hwhistles, hmine, hpending⟩ := c.endStep_does n bad
  generalize c.endStep n bad = d at hend hwhistles hmine hpending
  have hbctxs : b.ctxs = s.ctxs := hstep.ctxs.trans (hbatch.ctxs.trans (hstaged.ctxs.trans hscout.ctxs))
  have hcstanding : c.standing = s.standing :=
    hprogress.standing.trans (hstep.standing.trans (hbatch.standing.trans (hstaged.standing.trans hscout.standing)))
  have hccompares : c.ref.compares = s.ref.compares :=
    hprogress.compares.trans (hstep.compares.trans (hbatch.compares.trans (hstaged.compares.trans hscout.compares)))
  have hcseed : c.seed = u.seedNext.getD u.seed := hprogress.seed.trans hstep.seed
  have huseed : u.seed = s.seed := hbatch.seed.trans (hstaged.seed.trans hscout.seed)
  have hunext : u.seedNext = s.seedNext := hbatch.seedNext.trans (hstaged.seedNext.trans hscout.seedNext)
  refine ⟨fun k => ?_, ?_, ?_, ?_, ?_, ?_, ?_, ?_, ?_, fun hq => ?_, ?_, fun h => ?_, hpending⟩
  · have hd : d.ctx k = c.ctx k := congrArg (Tab.get Context.reset · k) hend.ctxs
    have hb : b.ctx k = s.ctx k := congrArg (Tab.get Context.reset · k) hbctxs
    rw [hd]
    exact (hwriters k).trans (by rw [hb])
  · exact hend.boundary.trans (hprogress.boundary.trans (hstep.boundary.trans (hbatch.boundary.trans
      (hstaged.boundary.trans hscout.boundary))))
  · exact hend.saving.trans (hprogress.saving.trans (hstep.saving.trans (hbatch.saving.trans (hstaged.saving.trans hscout.saving))))
  · exact hend.arm.trans (hprogress.arm.trans (hstep.arm.trans (hbatch.arm.trans (hstaged.arm.trans hscout.arm))))
  · exact hend.step.trans (hprogress.step.trans (hstep.step.trans (hbatch.step.trans (hstaged.step.trans hscout.step))))
  · refine (hend.seed.trans hcseed).trans ?_
    rw [huseed, hunext]
  · exact hend.seedNext.trans (hprogress.seedNext.trans hstep.seedNext)
  · exact hend.staged.trans (hprogress.staged.trans (hstep.staged.trans hbatch.staged))
  · exact hend.repair.trans (hprogress.repair.trans (hstep.repair.trans (hbatch.repair.trans (hstaged.repair.trans hscout.repair))))
  · exact hend.queues (hprogress.queues (hstep.queues (hbatch.queues (hstaged.queues (hscout.queues hq)))))
  · rw [← hcstanding]
    exact hwhistles
  · rw [hmine (by rw [hccompares]; exact h), hcstanding]

/-- The step number rises, and the checkpoint is taken. -/
def State.advanced (s : State) : State := s.nextStep.checkpoint

theorem State.advanced_does (s : State) : s.advanced = { s with step := s.step + 1, ref := s.advanced.ref, vol := s.advanced.vol } := rfl

theorem exec_stepBoundary {s : State} (hall : s.allStepwait = true) (hb : s.boundary = false) (hsaving : s.saving = none)
    (hdue : s.ref.replayDue = false) (hrecov : s.ref.recov = false) : exec .stepBoundary s =
      .next (if s.ended.doArm.advanced.saving.isSome then s.ended.doArm.advanced else s.ended.doArm.advanced.whistle) := by
  have hraw : exec .stepBoundary s = execStepBoundary s := rfl
  have hgo : (!s.allStepwait || s.boundary || s.saving.isSome || s.ref.replayDue || s.ref.recov) = false := by
    rw [hall, hb, hsaving, hdue, hrecov]
    rfl
  rw [hraw]
  unfold execStepBoundary
  rw [hgo, if_neg Bool.false_ne_true]
  unfold State.ended State.advanced
  generalize s.scoutBoundary.stagedStep = x
  obtain ⟨n, bad, t⟩ := x
  rfl

/-- The end of a boundary: what is staged is gone, and the step interrupt is pending. -/
theorem stepBoundary_settles {e : State} (hstaged : e.staged = []) (hnext : e.seedNext = none) (harm : e.arm = none)
    (hpend : e.fld 0x2800 1 1 = 1) {t : State} (ht : t = if e.advanced.saving.isSome then e.advanced else e.advanced.whistle) :
    t.staged = [] ∧ t.seedNext = none ∧ t.fld 0x2800 1 1 = 1 ∧ t.arm = none := by
  have hadv : e.advanced.staged = [] ∧ e.advanced.seedNext = none ∧ e.advanced.fld 0x2800 1 1 = 1 ∧ e.advanced.arm = none :=
    ⟨hstaged, hnext, hpend, harm⟩
  generalize e.advanced = u at hadv ht
  obtain ⟨h1, h2, h3, h4⟩ := hadv
  rw [ht]
  split
  · exact ⟨h1, h2, h3, h4⟩
  · have hframe := u.whistle_frame
    exact ⟨(congrArg State.staged hframe :).trans h1, (congrArg State.seedNext hframe :).trans h2, State.whistle_pending h3,
      (congrArg State.arm hframe :).trans h4⟩

section
variable {s : State}

/-- With nothing armed the whistle is tested. -/
theorem stepBoundary_whistles (hall : s.allStepwait = true) (hsaving : s.saving = none) (harm : s.arm = none) {e t : State}
    (hended : Ended s e) (ht : t = if e.doArm.advanced.saving.isSome then e.doArm.advanced else e.doArm.advanced.whistle) :
    t.step = s.step + 1 ∧ t.seed = s.seedNext.getD s.seed ∧
    (t.boundary = true ∧ t.standing = 0 ∧ (∀ c ∈ s.group, (t.ctx c).st = .stepwait) ∨
      t.boundary = false ∧ t.standing + 1 = s.standing ∧
        ∀ c ∈ s.group, (s.ctx c).trapDue = false → (t.ctx c).st = .running ∧ (t.ctx c).last = codeOk) ∧
    ((∀ e ∈ s.ref.compares, e.mine = true) → (t.boundary = true ↔ s.standing = 0)) := by
  rw [State.doArm_none (hended.arm.trans harm)] at ht
  have hadv := e.advanced_does
  have hstep : e.advanced.step = s.step + 1 := (congrArg State.step hadv :).trans (congrArg (· + 1) hended.step)
  have hseed : e.advanced.seed = s.seedNext.getD s.seed := (congrArg State.seed hadv :).trans hended.seed
  have hctx (c : Nat) : e.advanced.ctx c = e.ctx c := (congrArg (fun x : State => x.ctx c) hadv :)
  have hstanding : e.advanced.standing = e.standing := (congrArg State.standing hadv :)
  have hnone : e.advanced.saving.isSome = false := by
    rw [show e.advanced.saving = none from (congrArg State.saving hadv :).trans (hended.saving.trans hsaving)]
    rfl
  rw [hnone, if_neg Bool.false_ne_true] at ht
  have hstepwait (c : Nat) (hc : c ∈ s.group) : (e.advanced.ctx c).st = .stepwait := by
    rw [hctx, hended.ctx]
    exact State.stepwait_of_all hall hc
  have hdue (c : Nat) : (e.advanced.ctx c).trapDue = (s.ctx c).trapDue := by
    rw [hctx, hended.ctx]
  have hwhistles := hended.whistles
  have hmine := hended.mine
  rw [← hstanding] at hwhistles hmine
  generalize e.advanced = u at ht hstep hseed hstepwait hdue hwhistles hmine
  have hframe := u.whistle_frame
  obtain ⟨hwaits, hblows⟩ := u.whistle_does
  rw [ht]
  refine ⟨(congrArg State.step hframe :).trans hstep, (congrArg State.seed hframe :).trans hseed, ?_, fun h => ?_⟩
  · rcases Nat.eq_zero_or_pos u.standing with h0 | h0
    · obtain ⟨hb, hs, hc⟩ := hwaits h0
      refine Or.inl ⟨hb, hs, fun c hcm => ?_⟩
      rw [hc]
      exact hstepwait c hcm
    · obtain ⟨hb, hs, hc⟩ := hblows h0
      refine Or.inr ⟨hb, ?_, fun c hcm htrap => hc c (hstepwait c hcm) ((hdue c).trans htrap)⟩
      rcases hwhistles with hw | hw
      · omega
      · omega
  · have hsame := hmine h
    rcases Nat.eq_zero_or_pos u.standing with h0 | h0
    · rw [(hwaits h0).1]
      exact ⟨fun _ => hsame.symm.trans h0, fun _ => rfl⟩
    · rw [(hblows h0).1]
      exact ⟨fun hf => absurd hf Bool.false_ne_true, fun hs => by omega⟩

/-- With a SAVE armed the members stay in STEPWAIT while the image is written. -/
theorem stepBoundary_saves (hall : s.allStepwait = true) (hb : s.boundary = false) {cap : Capture} (harm : s.arm = some cap)
    (hsave : cap.restore = false) (hqueues : s.queues = []) (hrepair : s.ref.repair = false) {e t : State}
    (hended : Ended s e) (ht : t = if e.doArm.advanced.saving.isSome then e.doArm.advanced else e.doArm.advanced.whistle) :
    t.step = s.step + 1 ∧ t.saving = some cap ∧ t.boundary = false ∧ ∀ c ∈ s.group, (t.ctx c).st = .stepwait := by
  have hwords : e.disarm.anyWord = false := by
    have hq : e.disarm.queues = [] := hended.queues hqueues
    unfold State.anyWord
    rw [hq]
    rfl
  have hrep : e.disarm.ref.repair = false := hended.repair.trans hrepair
  have hdo := State.doArm_some (hended.arm.trans harm)
  rw [hwords, hrep, hsave] at hdo
  have hdo' : e.doArm = { e.disarm.writeImage cap.addr with saving := some cap } := hdo
  obtain ⟨hstore, -⟩ := e.disarm.writeImage_store cap.addr
  rw [hdo'] at ht
  generalize e.disarm.writeImage cap.addr = w at hstore ht
  unfold StoreFrame at hstore
  have hadv := State.advanced_does { w with saving := some cap }
  have hsaving : (State.advanced { w with saving := some cap }).saving = some cap := (congrArg State.saving hadv :)
  rw [hsaving] at ht
  have ht' : t = State.advanced { w with saving := some cap } := ht
  rw [ht']
  refine ⟨?_, hsaving, ?_, fun c hc => ?_⟩
  · exact (congrArg State.step hadv :).trans ((congrArg (fun x : State => x.step + 1) hstore :).trans (congrArg (· + 1) hended.step))
  · exact (congrArg State.boundary hadv :).trans ((congrArg State.boundary hstore :).trans (hended.boundary.trans hb))
  · have hctx : (State.advanced { w with saving := some cap }).ctx c = e.ctx c :=
      (congrArg (fun x : State => x.ctx c) hadv :).trans (congrArg (fun x : State => x.ctx c) hstore :)
    rw [hctx, hended.ctx]
    exact State.stepwait_of_all hall hc

theorem stepBoundary_does (hall : s.allStepwait = true) (hb : s.boundary = false) (hsaving : s.saving = none)
    (hdue : s.ref.replayDue = false) (hrecov : s.ref.recov = false) : ∃ t, exec .stepBoundary s = .next t ∧ t.staged = [] ∧
      t.seedNext = none ∧ t.fld 0x2800 1 1 = 1 ∧ t.arm = none ∧
      (s.arm = none → t.step = s.step + 1 ∧ t.seed = s.seedNext.getD s.seed ∧
        (t.boundary = true ∧ t.standing = 0 ∧ (∀ c ∈ s.group, (t.ctx c).st = .stepwait) ∨
          t.boundary = false ∧ t.standing + 1 = s.standing ∧
            ∀ c ∈ s.group, (s.ctx c).trapDue = false → (t.ctx c).st = .running ∧ (t.ctx c).last = codeOk) ∧
        ((∀ e ∈ s.ref.compares, e.mine = true) → (t.boundary = true ↔ s.standing = 0))) ∧
      (∀ cap, s.arm = some cap → cap.restore = false → s.queues = [] → s.ref.repair = false →
        t.step = s.step + 1 ∧ t.saving = some cap ∧ t.boundary = false ∧ ∀ c ∈ s.group, (t.ctx c).st = .stepwait) := by
  have hended := s.ended_does
  have hexec := exec_stepBoundary hall hb hsaving hdue hrecov
  generalize s.ended = e at hended hexec
  have hdone := e.doArm_armDone
  have hpend : e.doArm.fld 0x2800 1 1 = 1 := hdone.regs.elim (fun h => h.trans hended.pending) id
  obtain ⟨h1, h2, h3, h4⟩ := stepBoundary_settles (hdone.staged.trans hended.staged) (hdone.seedNext.trans hended.seedNext)
    hdone.arm hpend rfl
  exact ⟨_, hexec, h1, h2, h3, h4, fun harm => stepBoundary_whistles hall hsaving harm hended rfl,
    fun cap harm hsave hq hrep => stepBoundary_saves hall hb harm hsave hq hrep hended rfl⟩

/-! ### SAVE_IMAGE_WRITTEN (R347) -/

theorem saveImageWritten_does {cap : Capture} (hsaving : s.saving = some cap) (hst : (s.ctx cap.c).st = .stepwait) :
    ∃ t, exec .saveImageWritten s = .next t ∧ t.saving = none ∧ (t.ctx cap.c).last = codeOk ∧ t.mem = s.mem ∧ t.step = s.step ∧
      (s.standing = 0 → t.boundary = true ∧ (t.ctx cap.c).st = .stepwait) ∧
      (0 < s.standing → t.standing = s.standing - 1 ∧ t.boundary = false ∧ (t.ctx cap.c).st = .running) := by
  have hexec : exec .saveImageWritten s = .next ((({ s with saving := none } : State).endArm cap codeOk).whistle) := by
    have hraw : exec .saveImageWritten s = execSaveImageWritten s := rfl
    rw [hraw]
    unfold execSaveImageWritten
    rw [hsaving]
  have harm : ({ s with saving := none } : State).endArm cap codeOk = ({ s with saving := none } : State).setCtx cap.c
      { (s.ctx cap.c).record codeOk cap.pc with trapDue := false } := by
    have htrap : (({ s with saving := none } : State).trapOn cap.c codeOk && decide ((s.ctx cap.c).st = .stepwait)) = false := by
      rw [State.trapOn_ok]
      rfl
    unfold State.endArm
    dsimp only
    rw [← htrap]
    rfl
  rw [harm] at hexec
  generalize hu : ({ s with saving := none } : State).setCtx cap.c { (s.ctx cap.c).record codeOk cap.pc with trapDue := false } = u at hexec
  obtain ⟨hlast, -, hrst, -⟩ := Context.record_does (s.ctx cap.c) codeOk cap.pc
  have hctx : u.ctx cap.c = { (s.ctx cap.c).record codeOk cap.pc with trapDue := false } := by
    rw [← hu]
    exact State.setCtx_ctx_same _ _ _
  have hust : (u.ctx cap.c).st = .stepwait := by
    rw [hctx]
    exact hrst.trans hst
  have hudue : (u.ctx cap.c).trapDue = false := by rw [hctx]
  have hulast : (u.ctx cap.c).last = codeOk := by
    rw [hctx]
    exact hlast
  have hsame : u.standing = s.standing ∧ u.saving = none ∧ u.mem = s.mem ∧ u.step = s.step := by
    rw [← hu]
    exact ⟨rfl, rfl, rfl, rfl⟩
  obtain ⟨hstanding, hnone, hmem, hstep⟩ := hsame
  have hframe := u.whistle_frame
  obtain ⟨hwaits, hblows⟩ := u.whistle_does
  rw [hstanding] at hwaits hblows
  refine ⟨_, hexec, (congrArg State.saving hframe :).trans hnone, ?_, (congrArg State.mem hframe :).trans hmem,
    (congrArg State.step hframe :).trans hstep, fun h => ?_, fun h => ?_⟩
  · rcases Nat.eq_zero_or_pos s.standing with h0 | h0
    · rw [(hwaits h0).2.2]
      exact hulast
    · exact ((hblows h0).2.2 cap.c hust hudue).2
  · obtain ⟨hb, -, hc⟩ := hwaits h
    refine ⟨hb, ?_⟩
    rw [hc]
    exact hust
  · obtain ⟨hb, hs, hc⟩ := hblows h
    exact ⟨hs, hb, (hc cap.c hust hudue).1⟩

end

/-- Settles O25: the stages of a boundary keep what the whistle tests, and a SAVE's end tests it again. -/
theorem stepBoundary : Obligations.StepBoundary := by
  unfold Obligations.StepBoundary
  exact ⟨fun s hall hb hsaving hdue hrecov => stepBoundary_does hall hb hsaving hdue hrecov,
    fun s cap hsaving hst => saveImageWritten_does hsaving hst⟩

end Sys2Proof.Machine
end

section
/-! PROOF. Copies at their arrival entry, and the timeouts of reception (R258 to R263). -/

namespace Sys2Proof.Machine

open Safety

/-! ### Words pushed into a queue -/

theorem State.enter_work (s : State) (q : Nat) (w : QWord) : QueueWork s (s.enter q w) := by
  unfold State.enter
  exact (s.setQueue_work q _).trans (State.settleQueue_work _ _)

theorem flowIn_work (q : Nat) (ws : List QWord) (s : State) : QueueWork s (flowIn q ws s).2 := by
  induction ws generalizing s with
  | nil => exact .refl s
  | cons w ws ih =>
    unfold flowIn
    dsimp only
    split
    · exact ((s.setQueue_work q _).trans (State.bump_work (o := 0x090304) _ 1 (Or.inl (by decide)) (by decide))).trans (ih _)
    · split
      · exact .refl s
      · exact (s.enter_work q w).trans (ih _)

theorem State.push_work (s : State) (q : Nat) (ws : List QWord) : QueueWork s (s.push q ws) := by
  have h := flowIn_work q ws s
  unfold State.push
  generalize flowIn q ws s = x at h
  exact h.trans (queueWork_of_same rfl rfl rfl rfl rfl rfl)

/-! ### Frames taken from the receive store -/

theorem State.takeRx_none {s : State} {k : Nat} (h : ∀ x ∈ s.vol.rx, x.2.kind ≠ k) : s.takeRx k = none := by
  have hnone : s.vol.rx.find? (fun r => decide (r.2.kind = k)) = none :=
    List.find?_eq_none.2 fun x hx => by rw [decide_eq_false (h x hx)]; exact Bool.false_ne_true
  unfold State.takeRx
  rw [hnone]

theorem State.sendFaultn_leaves (s : State) (d : Nat) (h : Half) (i : Byte) (b : BitVec 14) (g : BitVec 2) (c : Nat) :
    FramesLeave s (s.sendFaultn d h i b g c) := s.sendFrame_leaves _

/-! ### Arrival entries (R262, R263) -/

theorem State.setArrival_same (s : State) (h o : Nat) (a : Arrival) : (s.setArrival h o a).arrival h o = a := Tab.get_set_same _ _ _ _

theorem State.countCheck_links (s : State) (h : Half) (o : Nat) : (s.countCheck h o).vol = s.vol.links (s.countCheck h o).vol ∧
    (s.countCheck h o).mem = s.mem ∧ (s.countCheck h o).ctxs = s.ctxs := by
  unfold State.countCheck
  dsimp only
  split
  · have hsend := (s.bump 0x0B0050 1).sendFaultn_leaves o h (s.openInst h.val) (s.arrival h.val o).batch (s.arrival h.val o).gen 2
    generalize (s.bump 0x0B0050 1).sendFaultn o h (s.openInst h.val) (s.arrival h.val o).batch (s.arrival h.val o).gen 2 = t at hsend
    exact ⟨hsend.vol, (congrArg State.mem hsend.state :), (congrArg State.ctxs hsend.state :)⟩
  · exact ⟨rfl, rfl, rfl⟩

/-- A fresh entry accepts a copy or an EOH and takes its batch and generation. -/
theorem State.judge_fresh {s : State} {h : Half} {o : Nat} {b : BitVec 14} {g : BitVec 2} (hfresh : (s.arrival h.val o).taken = false) :
    s.judge h o b g = (.accept, s.setArrival h.val o { s.arrival h.val o with taken := true, batch := b, gen := g }) := by
  unfold State.judge
  dsimp only
  rw [hfresh]
  rfl

theorem State.judge_same {s : State} {h : Half} {o : Nat} {b : BitVec 14} {g : BitVec 2} (htaken : (s.arrival h.val o).taken = true)
    (hb : (s.arrival h.val o).batch = b) (hg : (s.arrival h.val o).gen = g) : s.judge h o b g = (.accept, s) := by
  unfold State.judge
  dsimp only
  rw [htaken, if_neg (by decide), if_neg (fun hne => hne hb.symm), if_pos hg.symm]

/-! ### COPY_SEGMENT (R258) -/

/-- Pools as the registers give them. -/
theorem State.poolOf_congr {s t : State} (h : ∀ n, t.reg (poolReg n 0x14) = s.reg (poolReg n 0x14)) (c : Nat) :
    t.poolOf c = s.poolOf c ∧ ∀ n, t.bufBytes n = s.bufBytes n := by
  have hfld (n hi lo : Nat) : t.fld (poolReg n 0x14) hi lo = s.fld (poolReg n 0x14) hi lo :=
    congrArg (fun w : Word => bitsOf w.toNat hi lo) (h n)
  refine ⟨?_, fun n => ?_⟩
  · unfold State.poolOf State.poolEn State.poolClass
    simp only [hfld]
  · unfold State.bufBytes
    rw [hfld]

/-- What the reassembly of a packet changes: the packets left partial, the pools, memory and one counter. -/
structure PartTaken (s t : State) : Prop where
  regs : ∀ n, t.reg (poolReg n 0x14) = s.reg (poolReg n 0x14)
  vol : t.vol = { s.vol with parts := t.vol.parts, resv := t.vol.resv }
  ctxs : t.ctxs = s.ctxs

theorem State.partOf_takes {s t : State} {f : Frame} {p : Part} (h : s.partOf f = some (p, t)) : PartTaken s t := by
  unfold State.partOf at h
  split at h
  · cases h
    exact ⟨fun _ => rfl, rfl, rfl⟩
  · split at h
    · cases h
    · next a u hbuf =>
      have ht := congrArg Prod.snd (Option.some.inj h)
      dsimp only at ht
      have hframe : BufferFrame s u := by
        unfold State.takeRxBuf at hbuf
        split at hbuf
        · cases hbuf
        · split at hbuf
          · cases hbuf
          · next htake =>
            cases hbuf
            exact State.poolTake_frame htake
      have hregs : u.regs = s.regs := (congrArg State.regs hframe.state :)
      have hvol : u.vol = { s.vol with parts := u.vol.parts, resv := u.vol.resv } := by
        rw [hframe.vol]
      rw [← ht]
      split
      · refine ⟨fun n => ?_, hvol, (congrArg State.ctxs hframe.state :)⟩
        refine (u.bump_reg_other 1 ?_).trans (State.reg_congr hregs _)
        unfold poolReg
        omega
      · exact ⟨fun n => State.reg_congr hregs _, hvol, (congrArg State.ctxs hframe.state :)⟩

theorem State.putSegment_does (s : State) (a : Nat) (f : Frame) :
    s.putSegment a f = { s with mem := (s.putSegment a f).mem } ∧
    (∀ x, x < a + 1980 * f.seg ∨ a + 1980 * f.seg + f.data.length ≤ x → (s.putSegment a f).byte x = s.byte x) ∧
    (∀ n, s.poolOf 1 = some n → 1980 * f.seg + f.data.length ≤ s.bufBytes n →
      (s.putSegment a f).bytes (a + 1980 * f.seg) f.data.length = f.data) := by
  have hbytes (l : List Byte) (hl : l.length ≤ f.data.length) (x : Nat)
      (hx : x < a + 1980 * f.seg ∨ a + 1980 * f.seg + f.data.length ≤ x) : (s.setBytes (a + 1980 * f.seg) l).byte x = s.byte x :=
    bytesWrite_get_outside l s.mem _ x (by omega)
  refine ⟨rfl, hbytes _ (by rw [List.length_take]; exact Nat.min_le_right _ _), fun n hn hroom => ?_⟩
  have hput : s.putSegment a f = s.setBytes (a + 1980 * f.seg) f.data := by
    unfold State.putSegment
    rw [hn]
    dsimp only
    rw [List.take_of_length_le (by omega)]
  rw [hput]
  exact bytesRead_bytesWrite f.data s.mem _

section
variable {s t0 t1 : State} {f : Frame} {p : Part}

/-- A packet with the segment of a frame in it. -/
def Part.withSeg (p : Part) (f : Frame) : Part := { p with segs := f.seg :: p.segs }

/-- A packet is left partial. -/
def State.keepPart (s : State) (p : Part) : State := { s with vol := { s.vol with parts := s.vol.parts ++ [p] } }

/-- A packet is known to have come. -/
def State.keepDup (s : State) (o : Nat) (pid : Word) : State := { s with vol := { s.vol with dups := s.vol.dups ++ [(o, pid)] } }

theorem exec_copySegment (hrx : s.takeRx 1 = some (f, t0)) (hpart : t0.partOf f = some (p, t1))
    (hready : ∀ n, t0.poolOf 1 = some n → (t0.pool n).ready = true) : exec .copySegment s =
      .next (if p.segs.length + 1 < segments p.len then (t1.putSegment p.buf f).keepPart (p.withSeg f)
        else (((t1.putSegment p.buf f).keepDup f.origin f.pid).copyWritten (p.withSeg f)).copyArrive p.half p.inst p.origin p.buf) := by
  have hraw : exec .copySegment s = execCopySegment s := rfl
  rw [hraw]
  unfold execCopySegment
  rw [hrx]
  dsimp only
  rw [if_neg, hpart]
  · rfl
  · cases hp : t0.poolOf 1 with
    | none => exact Bool.false_ne_true
    | some n =>
      dsimp only
      rw [hready n hp]
      decide

/-- The registers and pools that a segment meets are those of the state before it. -/
theorem copy_ready (hrx : s.takeRx 1 = some (f, t0))
    (hfit : ∀ n, s.poolOf 1 = some n → (s.pool n).ready = true ∧ 1980 * f.seg + f.data.length ≤ s.bufBytes n) :
    ∀ n, t0.poolOf 1 = some n → (t0.pool n).ready = true := by
  have hlinks := State.takeRx_links hrx
  have hregs : t0.regs = s.regs := (congrArg State.regs hlinks.state :)
  have hpool (n : Nat) : t0.pool n = s.pool n := (congrArg (fun x : State => x.pool n) hlinks.state :)
  intro n hn
  rw [hpool]
  exact (hfit n ((State.poolOf_congr (fun n => State.reg_congr hregs _) 1).1.symm.trans hn)).1

theorem copySegment_partial (hrx : s.takeRx 1 = some (f, t0)) (hpart : t0.partOf f = some (p, t1))
    (hfit : ∀ n, s.poolOf 1 = some n → (s.pool n).ready = true ∧ 1980 * f.seg + f.data.length ≤ s.bufBytes n)
    (hmore : p.segs.length + 1 < segments p.len) : ∃ t, exec .copySegment s = .next t ∧
      t.vol.parts = t1.vol.parts ++ [{ p with segs := f.seg :: p.segs }] ∧
      (s.poolOf 1 ≠ none → t.bytes (p.buf + 1980 * f.seg) f.data.length = f.data) ∧
      (∀ a, a < p.buf + 1980 * f.seg ∨ p.buf + 1980 * f.seg + f.data.length ≤ a → t.byte a = t1.byte a) ∧
      t.vol.arrivals = s.vol.arrivals ∧ t.ctxs = s.ctxs := by
  have hexec := exec_copySegment hrx hpart (copy_ready hrx hfit)
  rw [if_pos hmore] at hexec
  have hlinks := State.takeRx_links hrx
  have htaken := State.partOf_takes hpart
  have hregs : t0.regs = s.regs := (congrArg State.regs hlinks.state :)
  have hpools := State.poolOf_congr (fun n => (htaken.regs n).trans (State.reg_congr hregs _)) 1
  obtain ⟨hput, houtside, hdata⟩ := t1.putSegment_does p.buf f
  have hparts : (t1.putSegment p.buf f).vol = t1.vol := rfl
  have hctxs : (t1.putSegment p.buf f).ctxs = t1.ctxs := rfl
  have harr : t1.vol.arrivals = s.vol.arrivals := (congrArg Volley.arrivals htaken.vol :).trans (congrArg Volley.arrivals hlinks.vol :)
  have hkeep (u : State) (q : Part) : (u.keepPart q).vol.parts = u.vol.parts ++ [q] ∧ (u.keepPart q).mem = u.mem ∧
      (u.keepPart q).vol.arrivals = u.vol.arrivals ∧ (u.keepPart q).ctxs = u.ctxs := ⟨rfl, rfl, rfl, rfl⟩
  obtain ⟨hkparts, hkmem, hkarr, hkctxs⟩ := hkeep (t1.putSegment p.buf f) (p.withSeg f)
  refine ⟨_, hexec, hkparts.trans ?_, fun hsome => ?_, fun a ha => ?_, ?_, ?_⟩
  · rw [hparts]
    rfl
  · obtain ⟨n, hn⟩ := Option.ne_none_iff_exists'.1 hsome
    have hbytes := hdata n (hpools.1.trans hn) (by rw [hpools.2]; exact (hfit n hn).2)
    unfold State.bytes at hbytes ⊢
    rw [hkmem]
    exact hbytes
  · have hbyte := houtside a ha
    unfold State.byte at hbyte ⊢
    rw [hkmem]
    exact hbyte
  · rw [hkarr, hparts, harr]
  · rw [hkctxs, hctxs, htaken.ctxs]
    exact (congrArg State.ctxs hlinks.state :)

/-- A complete copy whose entry is fresh and open. -/
theorem State.copyArrive_fresh {u : State} {h : Half} {i : Byte} {o buf : Nat} (hi : i = u.openInst h.val)
    (hfresh : (u.arrival h.val o).taken = false) : ((u.copyArrive h i o buf).arrival h.val o).taken = true ∧
      ((u.copyArrive h i o buf).arrival h.val o).cnt = (u.arrival h.val o).cnt + 1 ∧
      (u.copyArrive h i o buf).vol.dups = u.vol.dups ∧ (u.copyArrive h i o buf).vol.parts = u.vol.parts := by
  have harrive : u.copyArrive h i o buf = u.copyOpen h o buf := by
    unfold State.copyArrive
    rw [if_pos hi]
  have hopen : ∃ (b : BitVec 14) (g : BitVec 2) (v : State), v = (u.setArrival h.val o
      { u.arrival h.val o with taken := true, batch := b, gen := g }).setArrival h.val o
        { u.arrival h.val o with taken := true, batch := b, gen := g, cnt := (u.arrival h.val o).cnt + 1 } ∧
      ∃ q ws, u.copyOpen h o buf = (v.push q ws).countCheck h o := by
    refine ⟨(tagOf (u.num buf 12)).batch, (tagOf (u.num buf 12)).gen, _, rfl, ?_⟩
    unfold State.copyOpen
    dsimp only
    rw [State.judge_fresh hfresh]
    dsimp only
    rw [State.setArrival_same]
    exact ⟨_, _, rfl⟩
  obtain ⟨b, g, v, hv, q, ws, hcopy⟩ := hopen
  rw [harrive, hcopy]
  have hpush := v.push_work q ws
  generalize v.push q ws = w at hpush
  obtain ⟨hcheck, -⟩ := w.countCheck_links h o
  generalize w.countCheck h o = t at hcheck
  have harr : t.arrival h.val o = v.arrival h.val o :=
    congrArg (Tab.get Arrival.reset · (8192 * h.val + o)) ((congrArg Volley.arrivals hcheck :).trans (congrArg Volley.arrivals hpush.vol :))
  have hvarr : v.arrival h.val o =
      { u.arrival h.val o with taken := true, batch := b, gen := g, cnt := (u.arrival h.val o).cnt + 1 } := by
    rw [hv]
    exact State.setArrival_same _ _ _ _
  have hvvol : v.vol.dups = u.vol.dups ∧ v.vol.parts = u.vol.parts := by
    rw [hv]
    exact ⟨rfl, rfl⟩
  rw [harr, hvarr]
  refine ⟨rfl, rfl, ?_, ?_⟩
  · exact ((congrArg Volley.dups hcheck :).trans (congrArg Volley.dups hpush.vol :)).trans hvvol.1
  · exact ((congrArg Volley.parts hcheck :).trans (congrArg Volley.parts hpush.vol :)).trans hvvol.2

theorem copySegment_last (hrx : s.takeRx 1 = some (f, t0)) (hpart : t0.partOf f = some (p, t1))
    (hfit : ∀ n, s.poolOf 1 = some n → (s.pool n).ready = true ∧ 1980 * f.seg + f.data.length ≤ s.bufBytes n)
    (hlast : segments p.len ≤ p.segs.length + 1) (hinst : p.inst = s.openInst p.half.val)
    (hfresh : (s.arrival p.half.val p.origin).taken = false) : ∃ t, exec .copySegment s = .next t ∧
      (t.arrival p.half.val p.origin).taken = true ∧
      (t.arrival p.half.val p.origin).cnt = (s.arrival p.half.val p.origin).cnt + 1 ∧
      (f.origin, f.pid) ∈ t.vol.dups ∧ t.vol.parts = t1.vol.parts := by
  have hexec := exec_copySegment hrx hpart (copy_ready hrx hfit)
  rw [if_neg (by omega)] at hexec
  have hlinks := State.takeRx_links hrx
  have htaken := State.partOf_takes hpart
  obtain ⟨hput, -⟩ := t1.putSegment_does p.buf f
  generalize t1.putSegment p.buf f = u at hput hexec
  have hdup : (u.keepDup f.origin f.pid).vol = { u.vol with dups := u.vol.dups ++ [(f.origin, f.pid)] } := rfl
  generalize u.keepDup f.origin f.pid = v at hdup hexec
  have heffect : EffectFrame v (v.copyWritten (p.withSeg f)) := by
    unfold State.copyWritten State.cureRange
    split
    · exact .refl v
    · exact EffectFrame.foldl (fun t i => t.cure_effect _) _ v
  have hwvol : (v.copyWritten (p.withSeg f)).vol = v.vol := (congrArg State.vol heffect.state :)
  generalize v.copyWritten (p.withSeg f) = w at hwvol hexec
  have huvol : u.vol = t1.vol := (congrArg State.vol hput :)
  have harr : w.vol.arrivals = s.vol.arrivals := by
    rw [hwvol, hdup, huvol]
    exact (congrArg Volley.arrivals htaken.vol :).trans (congrArg Volley.arrivals hlinks.vol :)
  have hopen : w.vol.openInst = s.vol.openInst := by
    rw [hwvol, hdup, huvol]
    exact (congrArg Volley.openInst htaken.vol :).trans (congrArg Volley.openInst hlinks.vol :)
  have hentry : w.arrival p.half.val p.origin = s.arrival p.half.val p.origin :=
    congrArg (Tab.get Arrival.reset · (8192 * p.half.val + p.origin)) harr
  have hi : p.inst = w.openInst p.half.val := hinst.trans (congrArg (List.getD · p.half.val 0) hopen.symm)
  obtain ⟨htk, hcnt, hdups, hparts⟩ := State.copyArrive_fresh (u := w) (buf := p.buf) hi (by rw [hentry]; exact hfresh)
  refine ⟨_, hexec, htk, hcnt.trans (by rw [hentry]), ?_, ?_⟩
  · rw [hdups, hwvol, hdup]
    exact List.mem_append_right _ List.mem_cons_self
  · rw [hparts, hwvol, hdup, huvol]

end

end Sys2Proof.Machine
end

section
/-! PROOF. EOH and DISCARD notices, and the timeouts of reception (R258 to R263). -/

namespace Sys2Proof.Machine

open Safety

section
variable {s t0 : State} {f : Frame} {b : BitVec 14} {g : BitVec 2}

/-! ### EOH_PACKET -/

/-- The state in which a notice is judged: its frame has left the receive store. -/
theorem LinksOnly.arrival {s t : State} (h : LinksOnly s t) : t.vol.arrivals = s.vol.arrivals ∧ (∀ k o, t.arrival k o = s.arrival k o) ∧
    (∀ k, t.openInst k = s.openInst k) ∧ t.mem = s.mem ∧ t.regs = s.regs := by
  have harr : t.vol.arrivals = s.vol.arrivals := (congrArg Volley.arrivals h.vol :)
  have hopen : t.vol.openInst = s.vol.openInst := (congrArg Volley.openInst h.vol :)
  exact ⟨harr, fun k o => congrArg (Tab.get Arrival.reset · (8192 * k + o)) harr, fun k => congrArg (List.getD · k 0) hopen,
    (congrArg State.mem h.state :), (congrArg State.regs h.state :)⟩

/-- An EOH that its entry accepts gives the entry its count. -/
theorem State.eohOpen_accepts {u : State} {h : Half} {o n : Nat}
    (hok : (u.arrival h.val o).taken = false ∨ (u.arrival h.val o).batch = b ∧ (u.arrival h.val o).gen = g) :
    (u.eohOpen h o b g n).arrival h.val o =
      { u.arrival h.val o with taken := true, batch := b, gen := g, eohSeen := true, eohCnt := n } ∧
    (u.eohOpen h o b g n).mem = u.mem := by
  have hjudge : ∃ v, u.judge h o b g = (.accept, v) ∧ v.arrival h.val o =
      { u.arrival h.val o with taken := true, batch := b, gen := g } ∧ v.mem = u.mem := by
    cases htaken : (u.arrival h.val o).taken with
    | false => exact ⟨_, State.judge_fresh htaken, State.setArrival_same _ _ _ _, rfl⟩
    | true =>
      obtain ⟨hb, hg⟩ := hok.resolve_left (by rw [htaken]; exact Bool.noConfusion)
      refine ⟨u, State.judge_same htaken hb hg, ?_, rfl⟩
      rw [← hb, ← hg, ← htaken]
  obtain ⟨v, hv, harr, hmem⟩ := hjudge
  have hopen : u.eohOpen h o b g n =
      (v.setArrival h.val o { v.arrival h.val o with eohSeen := true, eohCnt := n }).countCheck h o := by
    unfold State.eohOpen
    rw [hv]
  rw [hopen]
  have hset : (v.setArrival h.val o { v.arrival h.val o with eohSeen := true, eohCnt := n }).mem = v.mem := rfl
  have hentry := v.setArrival_same h.val o { v.arrival h.val o with eohSeen := true, eohCnt := n }
  generalize v.setArrival h.val o { v.arrival h.val o with eohSeen := true, eohCnt := n } = w at hset hentry
  obtain ⟨hcheck, hcmem, -⟩ := w.countCheck_links h o
  refine ⟨?_, hcmem.trans (hset.trans hmem)⟩
  have hsame : (w.countCheck h o).arrival h.val o = w.arrival h.val o :=
    congrArg (Tab.get Arrival.reset · (8192 * h.val + o)) (congrArg Volley.arrivals hcheck :)
  rw [hsame, hentry, harr]

theorem exec_eohPacket (hrx : s.takeRx 5 = some (f, t0)) : exec .eohPacket s = .next (t0.endNotice false f) := by
  have hraw : exec .eohPacket s = execEohPacket s := rfl
  rw [hraw]
  unfold execEohPacket
  rw [hrx]

theorem exec_discardPacket (hrx : s.takeRx 6 = some (f, t0)) : exec .discardPacket s = .next (t0.endNotice true f) := by
  have hraw : exec .discardPacket s = execDiscardPacket s := rfl
  rw [hraw]
  unfold execDiscardPacket
  rw [hrx]

theorem eohPacket_open (hrx : s.takeRx 5 = some (f, t0)) (hb : b = BitVec.ofNat 14 (fieldLe f.inline_ 0 2))
    (hg : g = BitVec.ofNat 2 (fieldLe f.inline_ 2 1)) (hinst : f.inst = s.openInst f.half.val)
    (hok : (s.arrival f.half.val f.origin).taken = false ∨
      (s.arrival f.half.val f.origin).batch = b ∧ (s.arrival f.half.val f.origin).gen = g) :
    ∃ t, exec .eohPacket s = .next t ∧ (t.arrival f.half.val f.origin).taken = true ∧ (t.arrival f.half.val f.origin).batch = b ∧
      (t.arrival f.half.val f.origin).gen = g ∧ (t.arrival f.half.val f.origin).eohSeen = true ∧
      (t.arrival f.half.val f.origin).eohCnt = fieldLe f.inline_ 4 4 ∧
      (t.arrival f.half.val f.origin).cnt = (s.arrival f.half.val f.origin).cnt ∧ t.mem = s.mem := by
  obtain ⟨-, harr, hopen, hmem, -⟩ := (State.takeRx_links hrx).arrival
  have hnotice : t0.endNotice false f = t0.eohOpen f.half f.origin b g (fieldLe f.inline_ 4 4) := by
    unfold State.endNotice
    dsimp only
    rw [if_pos (hinst.trans (hopen _).symm), if_neg Bool.false_ne_true, ← hb, ← hg]
  obtain ⟨hentry, hkept⟩ := State.eohOpen_accepts (u := t0) (b := b) (g := g) (h := f.half) (o := f.origin) (n := fieldLe f.inline_ 4 4)
    (by rw [harr]; exact hok)
  refine ⟨_, (exec_eohPacket hrx).trans (congrArg Host.Outcome.next hnotice), ?_⟩
  rw [hentry, hkept, harr]
  exact ⟨rfl, rfl, rfl, rfl, rfl, rfl, hmem⟩

theorem eohPacket_early (hrx : s.takeRx 5 = some (f, t0)) (hb : b = BitVec.ofNat 14 (fieldLe f.inline_ 0 2))
    (hg : g = BitVec.ofNat 2 (fieldLe f.inline_ 2 1)) (hinst : f.inst = s.openInst f.half.val + 1) :
    ∃ t, exec .eohPacket s = .next t ∧ t.vol.arrivals = s.vol.arrivals ∧ t.vol.earlyEoh = s.vol.earlyEoh ++
      [⟨false, f.half, f.origin, b, g, fieldLe f.inline_ 4 4, (s.queuedCopies (s.earlyQueue f.half.val)).map (·.2.2)⟩] := by
  have hlinks := State.takeRx_links hrx
  obtain ⟨harr, -, hopen, -, -⟩ := hlinks.arrival
  have hother : f.inst ≠ t0.openInst f.half.val := by
    rw [hinst, hopen]
    generalize s.openInst f.half.val = i
    revert i
    decide
  have hearly : t0.vol.earlyEoh = s.vol.earlyEoh := (congrArg Volley.earlyEoh hlinks.vol :)
  have hcopies : t0.queuedCopies (t0.earlyQueue f.half.val) = s.queuedCopies (s.earlyQueue f.half.val) :=
    (congrArg (fun x : State => x.queuedCopies (x.earlyQueue f.half.val)) hlinks.state :)
  have hnotice : t0.endNotice false f = { t0 with vol := { t0.vol with earlyEoh := t0.vol.earlyEoh ++
      [⟨false, f.half, f.origin, b, g, fieldLe f.inline_ 4 4, (t0.queuedCopies (t0.earlyQueue f.half.val)).map (·.2.2)⟩] } } := by
    unfold State.endNotice
    dsimp only
    rw [if_neg hother, if_pos (hinst.trans (by rw [hopen])), ← hb, ← hg]
  refine ⟨_, (exec_eohPacket hrx).trans (congrArg Host.Outcome.next hnotice), harr, ?_⟩
  rw [← hcopies, ← hearly]

theorem eohPacket_stale (hrx : s.takeRx 5 = some (f, t0)) (hne : f.inst ≠ s.openInst f.half.val)
    (hnext : f.inst ≠ s.openInst f.half.val + 1) : ∃ t, exec .eohPacket s = .next t ∧ t.vol.arrivals = s.vol.arrivals ∧
      t.reg 0x0B0044 = s.reg 0x0B0044 + 1 := by
  obtain ⟨harr, -, hopen, -, hregs⟩ := (State.takeRx_links hrx).arrival
  have hnotice : t0.endNotice false f = t0.stale f.half := by
    unfold State.endNotice
    dsimp only
    rw [hopen, if_neg hne, if_neg hnext, if_neg Bool.false_ne_true]
  refine ⟨_, (exec_eohPacket hrx).trans (congrArg Host.Outcome.next hnotice), harr, ?_⟩
  have hcount : (t0.stale f.half).reg 0x0B0044 = t0.reg 0x0B0044 + 1 := t0.bump_reg_same 0x0B0044 1
  rw [hcount, State.reg_congr hregs]

/-! ### DISCARD_PACKET -/

theorem discardPacket_open (hrx : s.takeRx 6 = some (f, t0)) (hb : b = BitVec.ofNat 14 (fieldLe f.inline_ 0 2))
    (hg : g = BitVec.ofNat 2 (fieldLe f.inline_ 2 1)) (hinst : f.inst = s.openInst f.half.val) :
    exec .discardPacket s = .next (t0.discardOpen f.half f.origin b g) := by
  obtain ⟨-, -, hopen, -, -⟩ := (State.takeRx_links hrx).arrival
  refine (exec_discardPacket hrx).trans (congrArg Host.Outcome.next ?_)
  unfold State.endNotice
  dsimp only
  rw [if_pos (hinst.trans (hopen _).symm), if_pos rfl, ← hb, ← hg]

theorem discardPacket_does (hrx : s.takeRx 6 = some (f, t0)) (hb : b = BitVec.ofNat 14 (fieldLe f.inline_ 0 2))
    (hg : g = BitVec.ofNat 2 (fieldLe f.inline_ 2 1)) (hinst : f.inst = s.openInst f.half.val) :
    ((s.arrival f.half.val f.origin).taken = false → ∃ t, exec .discardPacket s = .next t ∧
      t.arrival f.half.val f.origin = { s.arrival f.half.val f.origin with taken := true, batch := b, gen := g } ∧ t.mem = s.mem) ∧
    ((s.arrival f.half.val f.origin).taken = true → (s.arrival f.half.val f.origin).batch = b →
      g = (s.arrival f.half.val f.origin).gen + 1 → ∃ t, exec .discardPacket s = .next t ∧
        t.arrival f.half.val f.origin = { s.arrival f.half.val f.origin with gen := g, cnt := 0, eohSeen := false } ∧ t.mem = s.mem) ∧
    ((s.arrival f.half.val f.origin).taken = true → (s.arrival f.half.val f.origin).batch ≠ b → ∃ t, exec .discardPacket s = .next t ∧
      t.vol.arrivals = s.vol.arrivals ∧ t.mem = s.mem) := by
  have hexec := discardPacket_open hrx hb hg hinst
  obtain ⟨harrs, harr, -, hmem, -⟩ := (State.takeRx_links hrx).arrival
  rw [← harr]
  refine ⟨fun hfresh => ?_, fun htaken hbatch hgen => ?_, fun htaken hbatch => ?_⟩
  · have hdo : t0.discardOpen f.half f.origin b g = t0.setArrival f.half.val f.origin
        { t0.arrival f.half.val f.origin with taken := true, batch := b, gen := g } := by
      unfold State.discardOpen
      dsimp only
      rw [hfresh]
      rfl
    exact ⟨_, hexec.trans (congrArg Host.Outcome.next hdo), State.setArrival_same _ _ _ _, hmem⟩
  · have hone : (g - (t0.arrival f.half.val f.origin).gen).toNat = 1 := by
      rw [hgen]
      generalize (t0.arrival f.half.val f.origin).gen = x
      revert x
      decide
    have hdo : t0.discardOpen f.half f.origin b g = t0.applyDiscard f.half f.origin g := by
      unfold State.discardOpen
      dsimp only
      rw [htaken, if_neg (by decide), if_neg (fun h => h hbatch.symm), if_pos (Or.inl hone)]
    refine ⟨_, hexec.trans (congrArg Host.Outcome.next hdo), ?_, hmem⟩
    exact State.setArrival_same t0 f.half.val f.origin { t0.arrival f.half.val f.origin with gen := g, cnt := 0, eohSeen := false }
  · have hdo : t0.discardOpen f.half f.origin b g = t0 := by
      unfold State.discardOpen
      dsimp only
      rw [htaken, if_neg (by decide), if_pos (fun h => hbatch h.symm)]
    exact ⟨_, hexec.trans (congrArg Host.Outcome.next hdo), harrs, hmem⟩

end

/-! ### Timeouts -/

theorem State.poolOf_lt {s : State} {c n : Nat} (h : s.poolOf c = some n) : n < 8 := List.mem_range.1 (List.mem_of_find?_eq_some h)

theorem State.freeRx_work (s : State) (a : Nat) : QueueWork s (s.freeRx a) ∧ StoreFrame s (s.freeRx a) := by
  unfold State.freeRx
  split
  · next p hp => exact ⟨s.unitFree_work 2 a (State.poolOf_lt hp), s.unitFree_store p 2 a⟩
  · exact ⟨.refl s, .refl s⟩

theorem partialTimeout_does {s : State} {o : Fin 8192} {pid : Word} {p : Part}
    (hp : s.vol.parts.find? (fun p => decide (p.origin = o.val) && decide (p.pid = pid)) = some p) :
    ∃ t, exec (.partialTimeout o pid) s = .next t ∧ t.vol.parts = s.vol.parts.erase p ∧ t.reg 0x0B004C = s.reg 0x0B004C + 1 ∧
      (p.kind ≠ 1 → t.mem = s.mem ∧ t.ref.faults = s.ref.faults ++
        [⟨0x09, some p.half, 0, 0xFFFF, BitVec.ofNat 64 (pid.toNat + 2 ^ 32 * o.val), false⟩]) := by
  have hexec : ∃ v : State, v = ({ s with vol := { s.vol with parts := s.vol.parts.erase p } } : State).bump 0x0B004C 1 ∧
      exec (.partialTimeout o pid) s = .next (if p.kind = 1 then (v.freeRx p.buf).sendFaultn p.origin p.half p.inst
        (tagOf p.tag.toNat).batch (tagOf p.tag.toNat).gen 1
      else v.report ⟨0x09, some p.half, 0, 0xFFFF, BitVec.ofNat 64 (pid.toNat + 2 ^ 32 * o.val), false⟩) := by
    refine ⟨_, rfl, ?_⟩
    have hraw : exec (.partialTimeout o pid) s = execPartialTimeout o pid s := rfl
    rw [hraw]
    unfold execPartialTimeout
    rw [hp]
  obtain ⟨v, hv, hexec⟩ := hexec
  have hparts : v.vol.parts = s.vol.parts.erase p := by
    rw [hv]
    rfl
  have hcount : v.reg 0x0B004C = s.reg 0x0B004C + 1 := by
    rw [hv]
    exact State.bump_reg_same { s with vol := { s.vol with parts := s.vol.parts.erase p } } 0x0B004C 1
  have hkept : v.mem = s.mem ∧ v.ref = s.ref := by
    rw [hv]
    exact ⟨rfl, rfl⟩
  clear hv
  by_cases hk : p.kind = 1
  · rw [if_pos hk] at hexec
    obtain ⟨hfree, -⟩ := v.freeRx_work p.buf
    generalize v.freeRx p.buf = w at hfree hexec
    have hsend := w.sendFaultn_leaves p.origin p.half p.inst (tagOf p.tag.toNat).batch (tagOf p.tag.toNat).gen 1
    generalize w.sendFaultn p.origin p.half p.inst (tagOf p.tag.toNat).batch (tagOf p.tag.toNat).gen 1 = t at hsend hexec
    have hregs : t.regs = w.regs := (congrArg State.regs hsend.state :)
    refine ⟨t, hexec, ?_, ?_, fun h => absurd hk h⟩
    · exact ((congrArg Volley.parts hsend.vol :).trans (congrArg Volley.parts hfree.vol :)).trans hparts
    · exact ((State.reg_congr hregs _).trans (hfree.regs 0x0B004C (Or.inl (by decide)))).trans hcount
  · rw [if_neg hk] at hexec
    obtain ⟨hmem, href⟩ := hkept
    refine ⟨_, hexec, hparts, hcount, fun _ => ⟨hmem, ?_⟩⟩
    rw [← href]
    rfl

theorem conservationTimeout_does {s : State} {h : Half} {o : Fin 8192} (hseen : (s.arrival h.val o.val).eohSeen = true) :
    ((s.arrival h.val o.val).cnt < (s.arrival h.val o.val).eohCnt → ∃ t, exec (.conservationTimeout h o) s = .next t ∧
      t.reg 0x0B0050 = s.reg 0x0B0050 + 1 ∧ t.vol.arrivals = s.vol.arrivals ∧ t.mem = s.mem) ∧
    ((s.arrival h.val o.val).eohCnt ≤ (s.arrival h.val o.val).cnt → exec (.conservationTimeout h o) s = .next s) := by
  have hraw : exec (.conservationTimeout h o) s = .next (if (s.arrival h.val o.val).eohSeen ∧
      (s.arrival h.val o.val).cnt < (s.arrival h.val o.val).eohCnt then (s.bump 0x0B0050 1).sendFaultn o.val h (s.openInst h.val)
        (s.arrival h.val o.val).batch (s.arrival h.val o.val).gen 2 else s) := rfl
  rw [hraw]
  refine ⟨fun hlt => ?_, fun hle => ?_⟩
  · rw [if_pos ⟨hseen, hlt⟩]
    have hcount := s.bump_reg_same 0x0B0050 1
    have hbump : (s.bump 0x0B0050 1).vol = s.vol ∧ (s.bump 0x0B0050 1).mem = s.mem := ⟨rfl, rfl⟩
    have harr : (s.bump 0x0B0050 1).vol.arrivals = s.vol.arrivals := congrArg Volley.arrivals hbump.1
    generalize s.bump 0x0B0050 1 = v at hcount hbump harr
    have hsend := v.sendFaultn_leaves o.val h (s.openInst h.val) (s.arrival h.val o.val).batch (s.arrival h.val o.val).gen 2
    generalize v.sendFaultn o.val h (s.openInst h.val) (s.arrival h.val o.val).batch (s.arrival h.val o.val).gen 2 = t at hsend
    have hregs : t.regs = v.regs := (congrArg State.regs hsend.state :)
    refine ⟨t, rfl, (State.reg_congr hregs _).trans hcount, ?_, (congrArg State.mem hsend.state :).trans hbump.2⟩
    exact (congrArg Volley.arrivals hsend.vol :).trans harr
  · rw [if_neg (by omega)]

/-- Settles O52: a segment, an EOH and a DISCARD by what their entry holds, and the timeouts. -/
theorem copiesAndNotices : Obligations.CopiesAndNotices := by
  unfold Obligations.CopiesAndNotices
  refine ⟨fun s hnone => ?_, fun s t0 t1 f p hrx hpart hfit => ⟨copySegment_partial hrx hpart hfit, copySegment_last hrx hpart hfit⟩, ?_, ?_,
    fun s o pid => ⟨rfl, fun p hp => partialTimeout_does hp⟩, fun s h o hseen => conservationTimeout_does hseen⟩
  · have hraw : exec .copySegment s = execCopySegment s := rfl
    rw [hraw]
    unfold execCopySegment
    rw [State.takeRx_none hnone]
  · rintro s t0 f h o b g hrx rfl rfl hb hg
    exact ⟨eohPacket_open hrx hb hg, eohPacket_early hrx hb hg, eohPacket_stale hrx⟩
  · rintro s t0 f h o b g hrx rfl rfl hb hg hinst
    exact discardPacket_does hrx hb hg hinst

end Sys2Proof.Machine
end

section
/-! PROOF. Substitution of units with a bench, REPAIR and the divergence registers (R338, R352, R368). -/

namespace Sys2Proof.Machine

open Safety

/-! ### What a substitution changes -/

/-- Memory, the contexts, the assignment of the units and the units marked out stay. -/
structure UnitsKept (s t : State) : Prop where
  mem : t.mem = s.mem
  ctxs : t.ctxs = s.ctxs
  phys : t.ref.phys = s.ref.phys
  marks : t.kick.marks = s.kick.marks

theorem UnitsKept.trans {s t u : State} (h : UnitsKept s t) (k : UnitsKept t u) : UnitsKept s u :=
  ⟨k.mem.trans h.mem, k.ctxs.trans h.ctxs, k.phys.trans h.phys, k.marks.trans h.marks⟩

theorem State.logEvent_units (s : State) (cause : Byte) (item : BitVec 16) : UnitsKept s (s.logEvent cause item) := by
  have hkick := s.logEntry_kick ⟨15, 5, cause, item, 0, 0, []⟩
  have hframe := s.logEntry_eq ⟨15, 5, cause, item, 0, 0, []⟩
  unfold State.logEvent
  generalize s.logEntry _ = t at hkick hframe
  exact ⟨(congrArg State.mem hframe :), (congrArg State.ctxs hframe :), (congrArg (fun x : State => x.ref.phys) hframe :),
    (congrArg Kickoff.marks hkick :)⟩

/-- A record of a fault enters the record ring under the next number, and raises the fault interrupt (R359). -/
theorem State.faultRecord_does (s : State) (r : FaultRep) (action : Nat) : ∃ frec regs,
    s.faultRecord r action = { s with regs := regs, ref := { s.ref with frec := frec
                                                                        fseq := if s.ref.fseq = 0xFFFFFFFF#32 then 1 else s.ref.fseq + 1 } } ∧
      (s.faultRecord r action).fld 0x2800 3 3 = 1 := by
  unfold State.faultRecord
  dsimp only
  generalize List.foldl _ s.ref.frec (List.range 8) = frec
  exact ⟨frec, _, rfl, State.raiseInt_sets _ (by decide)⟩

theorem State.faultRecord_units (s : State) (r : FaultRep) (action : Nat) : UnitsKept s (s.faultRecord r action) := by
  obtain ⟨frec, regs, heq, -⟩ := s.faultRecord_does r action
  rw [heq]
  exact ⟨rfl, rfl, rfl, rfl⟩

/-- A unit that is marked out stands so in the marks. -/
theorem State.markOut_marked (s : State) (w u : Nat) : (s.markOut w u).marked w u = true := by
  have hmarks : (s.markOut w u).marked w u =
      bitOf (Tab.get 0#32 (Tab.set 0#32 s.kick.marks (w + u / 32) (withMark (Tab.get 0#32 s.kick.marks (w + u / 32)) u))
        (w + u / 32)).toNat (u % 32) := rfl
  rw [hmarks, Tab.get_set_same]
  unfold withMark bitOf
  rw [toNat_ofNat_putBits _ _ (Nat.mod_lt u (by decide)) (Nat.le_succ _), testBit_putBits _ _ _ _ _ (Nat.le_succ _),
    if_pos ⟨Nat.le_refl _, Nat.le_refl _⟩, Nat.sub_self]
  rfl

/-! ### The substitution -/

/-- The logical unit is the bench unit's, and the failed unit is marked out and logged. -/
def State.moved (s : State) (cls i b w : Nat) : State :=
  (({ s with ref := { s.ref with phys := Tab.set none s.ref.phys (64 * cls + i) (some b) } } : State).markOut w (s.physUnit cls i)).logEvent 0
    (BitVec.ofNat 16 (4096 * cls + s.physUnit cls i))

/-- The half that the failure affects is reported; without one the failure is recorded. What the watchdog found is recorded already. -/
def State.toldFailure (s : State) (u : UnitClass) (mech : Byte) (item index : BitVec 16) : State :=
  if mech = 0x08#8 then s else
    match s.workHalf u with
    | some h => s.report ⟨mech, some h, item, index, 0, false⟩
    | none => s.faultRecord ⟨mech, none, item, index, 0, false⟩ 5

/-- A sequencer's contexts replay from their checkpoints. -/
def State.replayOf (s : State) (u : UnitClass) : State :=
  if u = .sequencer then
    { s with ref := { s.ref with replayDue := true, rehalves := if s.ref.replay || s.ref.replayDue then s.ref.rehalves else [] } }
  else s

theorem State.substitute_eq {s : State} {u : UnitClass} {cls n b0 k w : Nat} (hcls : s.classOf u = (cls, n, b0, k, w)) (i b : Nat) (mech : Byte) :
    s.substitute u i b mech = ((s.moved cls i b w).toldFailure u mech (BitVec.ofNat 16 (4096 * cls + s.physUnit cls i))
      (BitVec.ofNat 16 i)).replayOf u := by
  unfold State.substitute
  rw [hcls]
  rfl

theorem State.moved_does (s : State) (cls i b w : Nat) : (s.moved cls i b w).physUnit cls i = b ∧
    (s.moved cls i b w).marked w (s.physUnit cls i) = true ∧ (s.moved cls i b w).mem = s.mem ∧ (s.moved cls i b w).ctxs = s.ctxs := by
  unfold State.moved
  have hphys : (({ s with ref := { s.ref with phys := Tab.set none s.ref.phys (64 * cls + i) (some b) } } : State).markOut w
      (s.physUnit cls i)).ref.phys = Tab.set none s.ref.phys (64 * cls + i) (some b) := rfl
  have hmem : (({ s with ref := { s.ref with phys := Tab.set none s.ref.phys (64 * cls + i) (some b) } } : State).markOut w
      (s.physUnit cls i)).mem = s.mem ∧ (({ s with ref := { s.ref with phys := Tab.set none s.ref.phys (64 * cls + i) (some b) } } : State).markOut w
      (s.physUnit cls i)).ctxs = s.ctxs := ⟨rfl, rfl⟩
  have hmarked := State.markOut_marked ({ s with ref := { s.ref with phys := Tab.set none s.ref.phys (64 * cls + i) (some b) } } : State) w
    (s.physUnit cls i)
  generalize State.markOut _ w (s.physUnit cls i) = v at hphys hmem hmarked
  have hlog := v.logEvent_units 0 (BitVec.ofNat 16 (4096 * cls + s.physUnit cls i))
  generalize v.logEvent 0 _ = t at hlog
  refine ⟨?_, ?_, hlog.mem.trans hmem.1, hlog.ctxs.trans hmem.2⟩
  · unfold State.physUnit
    rw [hlog.phys, hphys, Tab.get_set_same]
    rfl
  · unfold State.marked
    rw [hlog.marks]
    exact hmarked

theorem State.toldFailure_units (s : State) (u : UnitClass) (mech : Byte) (item index : BitVec 16) :
    UnitsKept s (s.toldFailure u mech item index) := by
  unfold State.toldFailure
  split
  · exact ⟨rfl, rfl, rfl, rfl⟩
  · split
    · exact ⟨rfl, rfl, rfl, rfl⟩
    · exact s.faultRecord_units _ _

theorem State.replayOf_units (s : State) (u : UnitClass) : UnitsKept s (s.replayOf u) ∧
    (u = .sequencer → (s.replayOf u).ref.replayDue = true) := by
  unfold State.replayOf
  split
  · exact ⟨⟨rfl, rfl, rfl, rfl⟩, fun _ => rfl⟩
  · next h => exact ⟨⟨rfl, rfl, rfl, rfl⟩, fun k => absurd k h⟩

theorem State.substitute_does {s : State} {u : UnitClass} {cls n b0 k w : Nat} (hcls : s.classOf u = (cls, n, b0, k, w)) (i b : Nat)
    (mech : Byte) : (s.substitute u i b mech).physUnit cls i = b ∧ (s.substitute u i b mech).marked w (s.physUnit cls i) = true ∧
      (u = .sequencer → (s.substitute u i b mech).ref.replayDue = true) ∧ (s.substitute u i b mech).mem = s.mem ∧
      (s.substitute u i b mech).ctxs = s.ctxs := by
  rw [State.substitute_eq hcls]
  obtain ⟨hphys, hmark, hmem, hctxs⟩ := s.moved_does cls i b w
  generalize s.moved cls i b w = v at hphys hmark hmem hctxs
  have htold := v.toldFailure_units u mech (BitVec.ofNat 16 (4096 * cls + s.physUnit cls i)) (BitVec.ofNat 16 i)
  generalize v.toldFailure u mech _ _ = x at htold
  obtain ⟨hlast, hdue⟩ := x.replayOf_units u
  have hall := htold.trans hlast
  generalize x.replayOf u = t at hall hdue
  refine ⟨?_, ?_, hdue, hall.mem.trans hmem, hall.ctxs.trans hctxs⟩
  · rw [← hphys]
    unfold State.physUnit
    rw [hall.phys]
  · rw [← hmark]
    unfold State.marked
    rw [hall.marks]

/-- UNIT_SUBSTITUTION of a class with a bench of tiles or sequencers, by the bench unit that is free. -/
theorem unitSubstitution_eq {s : State} {u : UnitClass} {i : Fin 64} {why : UnitFail} {m : Byte} {cls n b0 k w : Nat} (hu : u ≠ .linkPort)
    (hcls : s.classOf u = (cls, n, b0, k, w)) (hi : i.val < n) (hm : failCode u why = some m) (ok : Bool) :
    exec (.unitSubstitution u i ⟨why, ok⟩) s = .next (match s.freeBench u with
      | some b => if ok then s.substitute u i.val b m else s.markOut w b
      | none => s.report ⟨m, none, BitVec.ofNat 16 (4096 * cls + s.physUnit cls i.val), BitVec.ofNat 16 i.val, 0, true⟩) := by
  have hraw : exec (.unitSubstitution u i ⟨why, ok⟩) s = execUnitSubstitution u i ⟨why, ok⟩ s := rfl
  rw [hraw]
  unfold execUnitSubstitution
  rw [hcls]
  dsimp only
  rw [if_neg (by omega), hm]
  cases u with
  | linkPort => exact absurd rfl hu
  | scoreTile | scoutTile | sequencer => cases s.freeBench _ <;> rfl

/-! ### REPAIR -/

theorem State.repairClear_waiting {s : State} (h : ∀ c ∈ s.group, (s.ctx c).st = .stepwait) :
    s.repairClear 1 = (codeOk, { s with ref := { s.ref with repair := false } }) := by
  have hall : (s.group.all fun c => decide ((s.ctx c).st = .stepwait)) = true :=
    List.all_eq_true.2 fun c hc => decide_eq_true (h c hc)
  unfold State.repairClear
  rw [if_neg (by decide), if_pos hall]

theorem State.repairClear_early {s : State} (h : ∃ c ∈ s.group, (s.ctx c).st ≠ .stepwait) : s.repairClear 1 = (codeOffside, s) := by
  obtain ⟨c, hc, hst⟩ := h
  have hall : ¬ (s.group.all fun c => decide ((s.ctx c).st = .stepwait)) = true := fun h =>
    hst (of_decide_eq_true (List.all_eq_true.1 h c hc))
  unfold State.repairClear
  rw [if_neg (by decide), if_neg hall]

/-- Settles O58: by whether a bench unit is free and passes its test, and by whether the step group waits. -/
theorem substitutionAndRepair : Obligations.SubstitutionAndRepair := by
  unfold Obligations.SubstitutionAndRepair
  refine ⟨fun s u i why m cls n b0 k w hu hcls hi hm => ⟨fun b hb _ => ⟨?_, ?_⟩, fun hnone ok => ?_⟩, fun s hready => ⟨fun hwait => ?_, fun hrun => ?_⟩,
    fun s hready => ?_⟩
  · refine ⟨s.substitute u i.val b m, ?_, s.substitute_does hcls i.val b m⟩
    rw [unitSubstitution_eq hu hcls hi hm, hb]
    rfl
  · refine ⟨s.markOut w b, ?_, s.markOut_marked w b, rfl, rfl⟩
    rw [unitSubstitution_eq hu hcls hi hm, hb]
    rfl
  · rw [unitSubstitution_eq hu hcls hi hm, hnone]
  · have hexec : exec .repairClear s = .next (s.hostWrite 0x0E010C fun t => t.repairClear 1) := rfl
    rw [hexec, State.hostWrite_ready hready, State.repairClear_waiting hwait]
    obtain ⟨hcode, -, heq⟩ := State.wstat_does ({ s with ref := { s.ref with repair := false } } : State) 0x0E010C codeOk
    exact ⟨_, rfl, hcode, heq⟩
  · have hexec : exec .repairClear s = .next (s.hostWrite 0x0E010C fun t => t.repairClear 1) := rfl
    obtain ⟨hcode, heq, -⟩ := State.hostWrite_refused (body := fun t => t.repairClear 1) hready (State.repairClear_early hrun) (by decide)
    exact ⟨_, hexec, hcode, heq⟩
  · have hexec : exec .pcDivclr s = .next (s.hostWrite 0x0E0158 fun t => t.divClear 1) := rfl
    rw [hexec, State.hostWrite_ready hready]
    obtain ⟨hcode, -, heq⟩ := State.wstat_does
      ({ s with ref := { s.ref with divValid := false, divUnit := 0, divHalf := 0, divStep := 0 } } : State) 0x0E0158 codeOk
    exact ⟨_, rfl, hcode, heq⟩

end Sys2Proof.Machine
end

section
/-! PROOF. The paged window, and FLUSH through it (R222, R383, R384). -/

namespace Sys2Proof.Machine

open Safety

/-! ### Words in a byte memory -/

theorem loadLe_storeLe_same (m : Tab Byte) (a : Nat) (v : Word) : BitVec.ofNat 32 (loadLe (storeLe m a 4 v.toNat) a 4) = v := by
  have hread := bytesRead_bytesWrite (natLe 4 v.toNat) m a
  rw [natLe_length] at hread
  have hval : loadLe (storeLe m a 4 v.toNat) a 4 = v.toNat :=
    (congrArg leNat hread).trans ((leNat_natLe 4 v.toNat).trans (Nat.mod_eq_of_lt v.isLt))
  rw [hval, BitVec.ofNat_toNat, BitVec.setWidth_eq]

theorem loadLe_storeLe_apart (m : Tab Byte) {a b : Nat} (v : Nat) (h : b + 4 ≤ a ∨ a + 4 ≤ b) :
    loadLe (storeLe m a 4 v) b 4 = loadLe m b 4 := by
  refine congrArg leNat (bytesRead_congr 4 b fun i hi => bytesWrite_get_outside (natLe 4 v) m a (b + i) ?_)
  rw [natLe_length]
  omega

/-! ### What a write leaves the window to show -/

/-- A target whose words are the bytes of one memory of the tables, from a base on. -/
structure MemoryTarget (k : Target) (f : Tables → Tab Byte) (base : Nat) : Prop where
  read : ∀ (s : State) (x : Nat), s.target = some k →
    s.pageRead x = if k.size ≤ s.pageByte x then 0 else BitVec.ofNat 32 (loadLe (f s.tbl) (base + s.pageByte x) 4)

theorem scout_memoryTarget (b : Fin 2) : MemoryTarget (.scout b) (·.scoutMem) (b.val * scoutBank) := ⟨fun s x h => by
  unfold State.pageRead
  rw [h]⟩

theorem bias_memoryTarget (b : Fin 2) : MemoryTarget (.bias b) (·.biasMem) (b.val * 16384) := ⟨fun s x h => by
  unfold State.pageRead
  rw [h]⟩

theorem replica_memoryTarget (b : Fin 2) : MemoryTarget (.replica b) (·.repMem) (b.val * repBank) := ⟨fun s x h => by
  unfold State.pageRead
  rw [h]⟩

/-- The window shows the word that was written, and beside it what it showed before. -/
theorem MemoryTarget.written {k : Target} {f : Tables → Tab Byte} {base : Nat} (hk : MemoryTarget k f base) {s t : State} {w : Nat} {v : Word}
    (hs : s.target = some k) (ht : t.target = some k) (hpage : ∀ x, t.pageByte x = s.pageByte x) (hsize : s.pageByte w < k.size)
    (hmem : f t.tbl = storeLe (f s.tbl) (base + s.pageByte w) 4 v.toNat) :
    t.pageRead w = v ∧ ∀ x, x ≠ w → t.pageRead x = s.pageRead x := by
  refine ⟨?_, fun x hx => ?_⟩
  · rw [hk.read t w ht, hpage w, if_neg (by omega), hmem, loadLe_storeLe_same]
  · have hapart : base + s.pageByte x + 4 ≤ base + s.pageByte w ∨ base + s.pageByte w + 4 ≤ base + s.pageByte x := by
      unfold State.pageByte
      omega
    rw [hk.read t x ht, hk.read s x hs, hpage x, hmem, loadLe_storeLe_apart _ _ hapart]

/-- The page register and the tables' banks, and with them the target and the bytes of the window's words, stay. -/
theorem State.page_congr {s t : State} (hpage : t.reg 0x1100 = s.reg 0x1100) (hsfu : t.tbl.sfu = s.tbl.sfu) (hbias : t.tbl.bias = s.tbl.bias)
    (hrep : t.tbl.rep = s.tbl.rep) : t.target = s.target ∧ ∀ x, t.pageByte x = s.pageByte x := by
  have hfld (hi lo : Nat) : t.fld 0x1100 hi lo = s.fld 0x1100 hi lo := congrArg (fun v : Word => bitsOf v.toNat hi lo) hpage
  refine ⟨?_, fun x => ?_⟩
  · unfold State.target
    rw [hfld, hsfu, hbias, hrep]
  · unfold State.pageByte
    rw [hfld]

/-! ### How a write ends -/

/-- A write into a table that is refused: its code, the table-write-refused flag, and nothing else. -/
theorem pagedWrite_refused {s : State} {w : Fin 2097152} {v : Word} {k : Byte} (hready : HostReady s (0x800000 + 4 * w.val))
    (hbody : s.pageWrite w.val v = s.tableRefused k) : ∃ t, exec (.pagedWindowWrite w v) s = .next t ∧
      WriteCode t (0x800000 + 4 * w.val) k ∧ t.fld 0x2000 2 2 = 1 ∧ t = { acked s with regs := t.regs } := by
  have hexec : exec (.pagedWindowWrite w v) s = .next (s.hostWrite (0x800000 + 4 * w.val) fun t => t.pageWrite w.val v) := rfl
  rw [hexec, State.hostWrite_ready hready, hbody]
  obtain ⟨hset, -, -, -, hframe⟩ := s.raiseFlag_does 2 1 (by decide)
  unfold State.tableRefused
  dsimp only
  generalize s.raiseFlag 2 1 = u at hset hframe
  obtain ⟨hcode, hreg, heq⟩ := u.wstat_does (0x800000 + 4 * w.val) k
  generalize u.wstat (0x800000 + 4 * w.val) k = t at hcode hreg heq
  refine ⟨t, rfl, hcode, ?_, ?_⟩
  · rw [← hset]
    exact congrArg (fun x : Word => bitsOf x.toNat 2 2) (hreg 0x2000 (by decide) (Or.inr (by decide)))
  · exact heq.trans (congrArg (fun x : State => { acked x with regs := t.regs }) hframe)

/-- A write into a free bank: the word that the window then shows is the value in the bits that the word has. -/
theorem pagedWrite_done {k : Target} {f : Tables → Tab Byte} {base : Nat} (hk : MemoryTarget k f base) {s : State} {w : Fin 2097152}
    {v x : Word} {tb : Tables} (hready : HostReady s (0x800000 + 4 * w.val)) (hs : s.target = some k) (hsize : s.pageByte w.val < k.size)
    (hbody : s.pageWrite w.val v = (codeOk, { s with tbl := tb }))
    (hbanks : tb.sfu = s.tbl.sfu ∧ tb.bias = s.tbl.bias ∧ tb.rep = s.tbl.rep)
    (hmem : f tb = storeLe (f s.tbl) (base + s.pageByte w.val) 4 x.toNat) : ∃ t, exec (.pagedWindowWrite w v) s = .next t ∧
      WriteCode t (0x800000 + 4 * w.val) codeOk ∧ t.pageRead w.val = x ∧
      (∀ y : Fin 2097152, y ≠ w → t.pageRead y.val = s.pageRead y.val) ∧ t = { acked s with regs := t.regs, tbl := t.tbl } := by
  have hexec : exec (.pagedWindowWrite w v) s = .next (s.hostWrite (0x800000 + 4 * w.val) fun t => t.pageWrite w.val v) := rfl
  rw [hexec, State.hostWrite_ready hready, hbody]
  dsimp only
  obtain ⟨hcode, hreg, heq⟩ := ({ s with tbl := tb } : State).wstat_does (0x800000 + 4 * w.val) codeOk
  generalize ({ s with tbl := tb } : State).wstat (0x800000 + 4 * w.val) codeOk = t at hcode hreg heq
  have htbl : t.tbl = tb := (congrArg State.tbl heq :)
  obtain ⟨hsfu, hbias, hrep⟩ := hbanks
  obtain ⟨htarget, hpage⟩ := State.page_congr (s := s) (t := t) (hreg 0x1100 (by decide) (Or.inl rfl)) ((congrArg Tables.sfu htbl).trans hsfu)
    ((congrArg Tables.bias htbl).trans hbias) ((congrArg Tables.rep htbl).trans hrep)
  obtain ⟨hsame, hother⟩ := hk.written hs (htarget.trans hs) hpage hsize ((congrArg f htbl).trans hmem)
  refine ⟨t, rfl, hcode, hsame, fun y hy => hother y.val fun h => hy (Fin.ext h), ?_⟩
  rw [htbl]
  exact heq

/-! ### The write itself -/

section Tables
variable {s : State} {w : Nat} {v : Word} {b : Fin 2}

theorem State.pageWrite_gate (hs : s.target = some (.gate b)) (hsize : s.pageByte w < 33554432) :
    s.pageWrite w v = s.tableRefused codeOffside := by
  unfold State.pageWrite
  rw [hs]
  exact if_neg (Nat.not_le.2 hsize)

theorem State.pageWrite_scout (hs : s.target = some (.scout b)) (hsize : s.pageByte w < (Target.scout b).size) :
    s.pageWrite w v = if s.bankShut 2 b then s.tableRefused codeEpoch else (codeOk, { s with tbl := { s.tbl with
      scoutMem := storeLe s.tbl.scoutMem (b.val * scoutBank + s.pageByte w) 4 (v &&& scoutMask (s.pageByte w)).toNat } }) := by
  unfold State.pageWrite
  rw [hs]
  exact if_neg (Nat.not_le.2 hsize)

theorem State.pageWrite_bias (hs : s.target = some (.bias b)) (hsize : s.pageByte w < (Target.bias b).size) :
    s.pageWrite w v = if s.bankShut 3 b then s.tableRefused codeEpoch else (codeOk, { s with tbl := { s.tbl with
      biasMem := storeLe s.tbl.biasMem (b.val * 16384 + s.pageByte w) 4 v.toNat } }) := by
  unfold State.pageWrite
  rw [hs]
  exact if_neg (Nat.not_le.2 hsize)

theorem State.pageWrite_replica (hs : s.target = some (.replica b)) (hsize : s.pageByte w < (Target.replica b).size) :
    s.pageWrite w v = if s.bankShut 0 b then s.tableRefused codeEpoch else (codeOk, { s with tbl := { s.tbl with
      repMem := storeLe s.tbl.repMem (b.val * repBank + s.pageByte w) 4 (v &&& replicaMask (s.pageByte w)).toNat } }) := by
  unfold State.pageWrite
  rw [hs]
  exact if_neg (Nat.not_le.2 hsize)

end Tables

/-- The active bank is shut to the host. -/
theorem State.bankShut_active {s : State} {n : Nat} {b : Fin 2} (hactive : (s.banked n).active.isSome = true) (hb : b = (s.banked n).bank) :
    s.bankShut n b = true := by
  unfold State.bankShut
  dsimp only
  rw [hactive, decide_eq_true hb]
  rfl

/-! ### FLUSH -/

/-- The queues stay. -/
structure QueuesStay (s t : State) : Prop where
  queues : t.queues = s.queues

theorem QueuesStay.trans {s t u : State} (h : QueuesStay s t) (k : QueuesStay t u) : QueuesStay s u := ⟨k.queues.trans h.queues⟩

theorem State.unitFree_queues (s : State) (n r a : Nat) : QueuesStay s (s.unitFree n r a) := by
  have hbump (o : Nat) : QueuesStay s (s.bump o 1) := ⟨s.bump_queues o 1⟩
  have hreport (t : State) (r : FaultRep) : QueuesStay t (t.report r) := ⟨t.report_queues r⟩
  unfold State.unitFree
  dsimp only
  split
  · exact ⟨(congrArg State.queues (s.poolGive_frame n r _).state :)⟩
  · exact (hbump _).trans (hreport _ _)

theorem State.countBlock_queues (s : State) (b : Nat) : QueuesStay s (s.countBlock b) := ⟨rfl⟩

theorem State.blockRead_queues (s : State) (a : Nat) : QueuesStay s (s.blockRead a) := by
  have hfun := Eq.refl State.blockRead
  conv at hfun => rhs; delta State.blockRead
  rw [hfun]
  beta_reduce
  split
  · exact ⟨rfl⟩
  · next b _ =>
    have hcount := s.countBlock_queues b
    dsimp only
    split
    · exact hcount.trans (State.unitFree_queues _ _ 0 b)
    · exact hcount

theorem State.readBlocks_queues (l : List (Nat × Nat)) (s : State) : QueuesStay s (l.foldl (fun t b => t.blockRead b.1) s) := by
  induction l generalizing s with
  | nil => exact ⟨rfl⟩
  | cons b l ih => exact (s.blockRead_queues b.1).trans (ih _)

/-- The read of a block that lies in no bucket does nothing. -/
theorem State.blockRead_none {s : State} {a : Nat} (h : s.bucketOf a = none) : s.blockRead a = s := by
  have hfun := Eq.refl State.blockRead
  conv at hfun => rhs; delta State.blockRead
  rw [hfun]
  beta_reduce
  split
  · rfl
  · next b hb => exact absurd (h.symm.trans hb) (Option.some_ne_none b).symm

/-- A queue with nothing in it. -/
def Queue.emptied (x : Queue) : Queue :=
  { x with head := [], mid := [], tail := [], blks := [], cuts := [], pkt := 0, inPacket := false, cut := false
           resync := x.resync || !x.atEnd, marked := x.marked || x.inPacket }

theorem State.flush_eq (s : State) (q : Nat) : s.flush q =
    ((((s.queue q).blks ++ (s.queue q).mid).foldl (fun t b => t.blockRead b.1) s).setQueue q (s.queue q).emptied).holdFlush q := Eq.refl _

theorem State.queueWords_emptied {s : State} {q : Nat} {x : Queue} (h : s.queue q = x.emptied) : s.queueWords q = [] := by
  unfold State.queueWords
  rw [h]
  rfl

theorem State.queue_congr {s t : State} (h : t.queues = s.queues) (q : Nat) : t.queue q = s.queue q := by
  unfold State.queue
  rw [h]

theorem State.holdFlush_keeps (s : State) (q : Nat) : (s.holdFlush q).queues = s.queues ∧ (s.holdFlush q).mem = s.mem := by
  have hpins (p : Pins) : ({ s with pins := p } : State).queues = s.queues ∧ ({ s with pins := p } : State).mem = s.mem := ⟨rfl, rfl⟩
  exact hpins _

/-- The queues and the contexts after a flush, and memory when no block of the queue lies in a bucket. -/
theorem State.flush_does (s : State) (q : Nat) : (s.flush q).queue q = (s.queue q).emptied ∧
    (∀ p, p ≠ q → (s.flush q).queue p = s.queue p) ∧
    ((∀ b ∈ (s.queue q).blks ++ (s.queue q).mid, s.bucketOf b.1 = none) → (s.flush q).mem = s.mem) ∧ (s.flush q).ctxs = s.ctxs := by
  have hctxs : (s.flush q).ctxs = s.ctxs := (congrArg State.ctxs (s.flush_store q) :)
  have hqueues := (State.readBlocks_queues ((s.queue q).blks ++ (s.queue q).mid) s).queues
  have hidle (h : ∀ b ∈ (s.queue q).blks ++ (s.queue q).mid, s.bucketOf b.1 = none) :
      ((s.queue q).blks ++ (s.queue q).mid).foldl (fun t b => t.blockRead b.1) s = s :=
    foldl_idle fun b hb => State.blockRead_none (h b hb)
  rw [State.flush_eq] at hctxs ⊢
  generalize List.foldl _ s _ = u at hctxs hqueues hidle ⊢
  obtain ⟨hhold, hmem⟩ := (u.setQueue q (s.queue q).emptied).holdFlush_keeps q
  generalize State.holdFlush _ q = t at hctxs hhold hmem ⊢
  refine ⟨?_, fun p hp => ?_, fun h => ?_, hctxs⟩
  · rw [State.queue_congr hhold, State.setQueue_queue_same]
  · rw [State.queue_congr hhold, State.setQueue_queue_other _ _ hp, State.queue_congr hqueues]
  · rw [hmem, State.setQueue_mem, hidle h]

theorem queCfgFlush_does {s : State} {q : Fin 4096} (hready : HostReady s (0x800000 + 32 * q.val)) (hpage : s.regNow 0x1100 = 0x0C#32) :
    ∃ t, exec (.queCfgFlush q) s = .next t ∧ WriteCode t (0x800000 + 32 * q.val) codeOk ∧ t.queues = (s.flush q.val).queues ∧
      t.mem = (s.flush q.val).mem ∧ t.ctxs = (s.flush q.val).ctxs := by
  have hraw : exec (.queCfgFlush q) s = execQueCfgFlush q s := rfl
  rw [hraw]
  unfold execQueCfgFlush
  rw [if_neg (not_not.2 hpage), State.hostWrite_ready hready]
  dsimp only
  generalize s.flush q.val = u
  obtain ⟨hcode, -, heq⟩ := u.wstat_does (0x800000 + 32 * q.val) codeOk
  generalize u.wstat (0x800000 + 32 * q.val) codeOk = t at hcode heq
  exact ⟨t, rfl, hcode, (congrArg State.queues heq :), (congrArg State.mem heq :), (congrArg State.ctxs heq :)⟩

/-- Settles O43: a write by its target and whether its bank is shut, and FLUSH by what it leaves of its queue. -/
theorem pagedWindow : Obligations.PagedWindow := by
  unfold Obligations.PagedWindow
  refine ⟨fun s w v a b hready ha => ⟨fun hs hsize => ?_, fun k n g hk hs hsize => ⟨fun hshut => ?_, fun hopen => ?_⟩, State.bankShut_active⟩,
    fun s q hready hpage => ?_⟩
  · rw [ha] at hsize
    exact pagedWrite_refused hready (State.pageWrite_gate hs hsize)
  · rw [ha] at hsize
    refine pagedWrite_refused hready ?_
    rcases hk with ⟨rfl, rfl, -⟩ | ⟨rfl, rfl, -⟩ | ⟨rfl, rfl, -⟩
    · rw [State.pageWrite_scout hs hsize, if_pos hshut]
    · rw [State.pageWrite_bias hs hsize, if_pos hshut]
    · rw [State.pageWrite_replica hs hsize, if_pos hshut]
  · rw [ha] at hsize hk
    have hclosed : ¬ s.bankShut n b = true := by
      rw [hopen]
      exact Bool.false_ne_true
    rcases hk with ⟨rfl, rfl, rfl⟩ | ⟨rfl, rfl, rfl⟩ | ⟨rfl, rfl, rfl⟩
    · exact pagedWrite_done (scout_memoryTarget b) hready hs hsize ((State.pageWrite_scout hs hsize).trans (if_neg hclosed)) ⟨rfl, rfl, rfl⟩ rfl
    · have hall : v &&& 0xFFFFFFFF#32 = v := BitVec.and_allOnes
      rw [hall]
      exact pagedWrite_done (bias_memoryTarget b) hready hs hsize ((State.pageWrite_bias hs hsize).trans (if_neg hclosed)) ⟨rfl, rfl, rfl⟩ rfl
    · exact pagedWrite_done (replica_memoryTarget b) hready hs hsize ((State.pageWrite_replica hs hsize).trans (if_neg hclosed)) ⟨rfl, rfl, rfl⟩ rfl
  · obtain ⟨hself, hother, hmem, hctxs⟩ := s.flush_does q.val
    obtain ⟨t, hexec, hcode, hq, hm, hc⟩ := queCfgFlush_does hready hpage
    have hqueue (p : Nat) : t.queue p = (s.flush q.val).queue p := State.queue_congr hq p
    have hempty := (hqueue q.val).trans hself
    refine ⟨t, hexec, hcode, State.queueWords_emptied hempty, (congrArg Queue.pkt hempty :), fun h => ?_, fun h => ?_,
      fun p hp => (hqueue p).trans (hother p hp), fun h => hm.trans (hmem h), hc.trans hctxs⟩
    · rw [hempty]
      exact (congrArg (fun e => (s.queue q.val).resync || !e) h).trans (Bool.or_true _)
    · rw [hempty]
      exact congrArg (· || !(s.queue q.val).atEnd) h |>.trans (Bool.true_or _)

end Sys2Proof.Machine
end

section
/-! PROOF. Unit commands: their issue, their refusal at issue, and the checks of their unit (R15, R40, R48, R62, R63). -/

namespace Sys2Proof.Machine

open Safety

/-! ### The command enters its queue -/

/-- The command with the code that ends it at its issue, if there is one. -/
def State.checked (s : State) (u : UCmd) : UCmd := match s.issueCode u with | some k => u.done k 0 | none => u

theorem State.checked_none {s : State} {u : UCmd} (h : s.issueCode u = none) : s.checked u = u := by
  unfold State.checked
  rw [h]

theorem State.checked_some {s : State} {u : UCmd} {k : Byte} (h : s.issueCode u = some k) : s.checked u = u.done k 0 := by
  unfold State.checked
  rw [h]

theorem State.checked_op (s : State) (u : UCmd) : (s.checked u).op = u.op := by
  cases h : s.issueCode u with
  | none => rw [State.checked_none h]
  | some k =>
    rw [State.checked_some h]
    rfl

/-- The context behind a command that it has issued, or waiting for it. -/
def Context.issued (x : Context) (u : UCmd) : Context :=
  let y := if u.wt then x else x.after x.pc
  let y := if u.result.isSome then { y with serial := u.serial } else { y with serial := u.serial }.noteWriters u
  if u.wt then { y with st := .waiting, wait := .command u.serial } else y

/-- The command stands behind every other, and its context has issued it. -/
def State.pushed (s : State) (c : Ctx) (u : UCmd) : State :=
  { ((s.setCtx c ((s.ctx c).issued u)).recordKC u) with ucmds := s.ucmds ++ [u] }

/-- The unit takes up a command that heads its queue. -/
def State.taken (s : State) (u : UCmd) (run : State → UCmd → State) : State := if u.result.isNone && s.isHead u then run s u else s

theorem State.pushCmd_eq (s : State) (c : Ctx) (i : Instr) (f : Fields) (run : State → UCmd → State) :
    s.pushCmd c i f run = (s.pushed c (s.checked (s.newCmd c i f))).taken (s.checked (s.newCmd c i f)) run := rfl

/-! ### The row of a unit command -/

theorem State.newCmd_op (s : State) (c : Ctx) (i : Instr) (f : Fields) : (s.newCmd c i f).op = i := rfl

theorem State.pushCmd_congr {s : State} {c : Ctx} {i : Instr} {f : Fields} {run run' : State → UCmd → State}
    (h : ∀ t u, u.op = i → run t u = run' t u) : s.pushCmd c i f run = s.pushCmd c i f run' := by
  have hop : (s.checked (s.newCmd c i f)).op = i := s.checked_op _
  rw [State.pushCmd_eq, State.pushCmd_eq]
  unfold State.taken
  rw [h _ _ hop]

theorem State.issueUnit_congr {s : State} {c : Ctx} {i : Instr} {f : Fields} {run run' : State → UCmd → State}
    (h : ∀ t u, u.op = i → run t u = run' t u) : s.issueUnit c i f run = s.issueUnit c i f run' := by
  unfold State.issueUnit
  simp only [State.pushCmd_congr h]

/-- Every row from 0x40 to 0x6F issues a command, which its unit runs (R64). -/
theorem exec_unitCommand {s : State} {i : Instr} {op : Nat} {c : Ctx} {f : Fields} (h : opcodeOf i = some (op, c, f)) (hlow : 0x40 ≤ op)
    (hhigh : op < 0x70) : exec i s = .next (s.issueUnit c i f unitRun) := by
  cases i
  case norm d g | pos d g | score d g | smax d g | topk d g | admitRows d g | scout d g | huddle d g | pack d g | keep d g | volley d g |
      recvIn d g | recvNet d g | reboundCombine d g | reboundRet d g | fuse d g | micro d g | copy d g | xpose d g | gather d g |
      scatter d g | scatterAdd d g =>
    cases h
    refine congrArg Host.Outcome.next (State.issueUnit_congr fun t u hu => ?_)
    unfold unitRun
    rw [hu]
  all_goals cases h <;> omega

/-! ### What the issue changes -/

/-- What the issue of an instruction changes before the instruction itself is looked at: the count of its sequencer, the order of
issue, the order of cache use, and the journal. -/
def IssueNoted (c : Ctx) (s t : State) : Prop :=
  t = { s with regs := t.regs, icache := t.icache, lastIssue := t.lastIssue, stood := t.stood, slow := t.slow,
               ref := { s.ref with journal := t.ref.journal, jpos := t.ref.jpos } } ∧
  ∀ o, o ≠ issueCount c → t.reg o = s.reg o

theorem State.issueUnit_next {s : State} {c : Ctx} {i : Instr} {op : Nat} {f : Fields} (hi : Issues s c i) (hj : Journals s c)
    (hop : opcodeOf i = some (op, c, f)) (run : State → UCmd → State) :
    ∃ t, IssueNoted c s t ∧ s.issueUnit c i f run = t.pushCmd c i f run := by
  have hcan := Issues_canIssue hi hop
  have hreplay : (s.noteIssue c).replayEntry c = none := by
    have hoff : (s.noteIssue c).ref.replay = false := hj.1
    unfold State.replayEntry
    rw [hoff]
    rfl
  obtain ⟨-, -, hframe⟩ := (s.noteIssue c).addEntry_does c
    ⟨i, [(slotsOf (s.ctx c) i f).1, (slotsOf (s.ctx c) i f).2.1, (slotsOf (s.ctx c) i f).2.2], (s.ctx c).serial + 1, none, true, none⟩ hj.2
  have hexec : s.issueUnit c i f run = ((s.noteIssue c).addEntry c
      ⟨i, [(slotsOf (s.ctx c) i f).1, (slotsOf (s.ctx c) i f).2.1, (slotsOf (s.ctx c) i f).2.2], (s.ctx c).serial + 1, none, true, none⟩).pushCmd
      c i f run := by
    unfold State.issueUnit
    rw [hcan]
    dsimp only
    rw [hreplay]
    rfl
  rw [hexec]
  generalize State.addEntry _ _ _ = t at hframe
  refine ⟨t, ⟨hframe.trans ?_, fun o ho => ?_⟩, rfl⟩
  · rw [(congrArg State.regs hframe :), (congrArg State.icache hframe :), (congrArg State.lastIssue hframe :),
      (congrArg State.stood hframe :), (congrArg State.slow hframe :)]
    rfl
  · exact (State.reg_congr (congrArg State.regs hframe :) o).trans (State.noteIssue_reg_other s c ho)

theorem IssueNoted.newCmd {c : Ctx} {s t : State} (h : IssueNoted c s t) (i : Instr) (f : Fields) : t.newCmd c i f = s.newCmd c i f :=
  (congrArg (fun x : State => x.newCmd c i f) h.1).trans rfl

theorem IssueNoted.checked {c : Ctx} {s t : State} (h : IssueNoted c s t) (u : UCmd) : t.checked u = s.checked u :=
  (congrArg (fun x : State => x.checked u) h.1).trans rfl

/-- A TOPK may note its counts in its destination slot, which stays as valid as it was; every other command leaves the slots (R75). -/
theorem State.recordKC_does (s : State) (u : UCmd) : s.recordKC u = { s with slots := (s.recordKC u).slots } ∧
    ∀ n, ((s.recordKC u).slot n).valid = (s.slot n).valid := by
  unfold State.recordKC
  split
  · dsimp only
    split
    · refine ⟨rfl, fun n => ?_⟩
      by_cases hn : n = u.slotB
      · rw [hn, State.setSlot_slot_same]
      · rw [State.setSlot_slot_other _ _ hn]
    · exact ⟨rfl, fun n => rfl⟩
  · exact ⟨rfl, fun n => rfl⟩

/-- The state with the command in its queue: what it changes, and the contexts that it leaves. -/
theorem State.pushed_does (s : State) (c : Ctx) (u : UCmd) :
    s.pushed c u = { s with ctxs := (s.pushed c u).ctxs, slots := (s.pushed c u).slots, ucmds := s.ucmds ++ [u] } ∧
      (s.pushed c u).ctx c = (s.ctx c).issued u ∧ (∀ d, d ≠ c.val → (s.pushed c u).ctx d = s.ctx d) ∧
      ∀ n, ((s.pushed c u).slot n).valid = (s.slot n).valid := by
  obtain ⟨hframe, hvalid⟩ := (s.setCtx c ((s.ctx c).issued u)).recordKC_does u
  unfold State.pushed
  generalize (s.setCtx c ((s.ctx c).issued u)).recordKC u = t at hframe hvalid
  have hctx (d : Nat) : t.ctx d = (s.setCtx c ((s.ctx c).issued u)).ctx d := (congrArg (fun x : State => x.ctx d) hframe :)
  refine ⟨?_, (hctx c).trans (State.setCtx_ctx_same _ _ _), fun d hd => (hctx d).trans (State.setCtx_ctx_other _ _ hd), hvalid⟩
  have h := congrArg (fun x : State => { x with ctxs := t.ctxs, ucmds := s.ucmds ++ [u] }) hframe
  exact h

/-! ### The context that issues -/

section Issued
variable (x : Context) (u : UCmd)

theorem Context.noteWriters_eq : x.noteWriters u = { x with writers := (x.noteWriters u).writers } := rfl

/-- With WT the context waits for the command at its program counter. -/
theorem Context.issued_waits (hwt : u.wt = true) : x.issued u =
    { x with serial := u.serial, writers := (x.issued u).writers, st := .waiting, wait := .command u.serial } := by
  unfold Context.issued
  dsimp only
  rw [if_pos hwt, if_pos hwt]
  split
  · rfl
  · rw [Context.noteWriters_eq]

/-- Without WT the context goes on behind the command. -/
theorem Context.issued_goes (hwt : u.wt = false) : x.issued u =
    { x.after x.pc with serial := u.serial, writers := (x.issued u).writers } := by
  have hno : ¬ u.wt = true := by
    rw [hwt]
    exact Bool.false_ne_true
  unfold Context.issued
  dsimp only
  rw [if_neg hno, if_neg hno]
  split
  · rfl
  · rw [Context.noteWriters_eq]

theorem Context.issued_records : (x.issued u).serial = u.serial ∧ (x.issued u).last = x.last := by
  cases hwt : u.wt with
  | true =>
    rw [Context.issued_waits x u hwt]
    exact ⟨rfl, rfl⟩
  | false =>
    rw [Context.issued_goes x u hwt]
    exact ⟨rfl, x.after_last x.pc⟩

end Issued

/-! ### Refusal at issue -/

/-- An invalid slot makes the lowest code of a refusal that of OFFSIDE. -/
theorem lowest_issue_checks {a b q : Bool} (h : a = true ∨ b = true ∨ q = true) (x y z : Bool) :
    lowest [(a, codeOffside), (b, codeOffside), (q, codeOffside), (x, codeOverlap), (y, codeOverlap), (z, codeOverlap)] = some codeOffside := by
  revert a b q x y z
  decide

theorem State.issueCode_offside {s : State} {u : UCmd}
    (h : (s.slot u.slotA).valid = false ∨ (writesB u.op = true ∧ (s.slot u.slotB).valid = false) ∨
      ((readsC u.op = true ∨ writesC u.op = true) ∧ (s.slot u.slotC).valid = false)) : s.issueCode u = some codeOffside := by
  refine lowest_issue_checks ?_ _ _ _
  rcases h with h | ⟨hb, h⟩ | ⟨hc, h⟩
  · exact Or.inl (congrArg (!·) h)
  · refine Or.inr (Or.inl ?_)
    rw [hb, h]
    rfl
  · refine Or.inr (Or.inr ?_)
    rw [h, Bool.or_eq_true_iff.2 hc]
    rfl

/-! ### The two ways of an issue -/

/-- A command that is not refused: it stands in its queue, its context has issued it, and at the head the unit takes it up. -/
theorem unitCommand_issues {s : State} {i : Instr} {op : Nat} {c : Ctx} {f : Fields} (hop : opcodeOf i = some (op, c, f)) (hlow : 0x40 ≤ op)
    (hhigh : op < 0x70) (hi : Issues s c i) (hj : Journals s c) : ∃ t, IssueNoted c s t ∧
      exec i s = .next ((t.pushed c (s.checked (s.newCmd c i f))).taken (s.checked (s.newCmd c i f)) unitRun) := by
  obtain ⟨t, hnoted, hexec⟩ := State.issueUnit_next hi hj hop unitRun
  refine ⟨t, hnoted, ?_⟩
  rw [exec_unitCommand hop hlow hhigh, hexec, State.pushCmd_eq, hnoted.newCmd, hnoted.checked]

/-! ### The checks of the unit -/

theorem State.drive_refused {s : State} {u : UCmd} {check : State → UCmd → Option Byte} {start work : State → UCmd → UCmd × State} {k : Byte}
    (hres : u.result = none) (hstart : u.started = false) (hcheck : check s u = some k) :
    s.drive u check start work = (s.unrecord u).putCmd (u.done k 0) := by
  unfold State.drive State.driveRows
  rw [hres, hstart]
  dsimp only [Option.isSome]
  rw [if_neg Bool.false_ne_true, if_neg Bool.false_ne_true, hcheck]

/-- A refusal takes back the writers that the context had recorded. -/
theorem State.unrecord_does (s : State) (u : UCmd) : ∃ w, s.unrecord u = s.setCtx u.c { s.ctx u.c with writers := w } := ⟨_, rfl⟩

/-- Settles O23: the issue by whether the command is refused, and a unit's refusal by its checks. -/
theorem unitCommands : Obligations.UnitCommands := by
  unfold Obligations.UnitCommands
  refine ⟨fun s i op c f u hop hlow hhigh hi hj hu hcode => ?_, fun s i op c f u hop hlow hhigh hi hj hu hinvalid => ?_,
    fun s u check start work k hres hstart hcheck => ?_⟩
  · obtain ⟨v, ⟨hv, hregs⟩, hexec⟩ := unitCommand_issues hop hlow hhigh hi hj
    have hvctx (d : Nat) : v.ctx d = s.ctx d := (congrArg (fun x : State => x.ctx d) hv :)
    have hvcmds : v.ucmds = s.ucmds := (congrArg State.ucmds hv :)
    rw [← hu, State.checked_none hcode] at hexec
    obtain ⟨hpush, hself, hother, -⟩ := v.pushed_does c u
    rw [hvctx c] at hself
    have htaken : (v.pushed c u).taken u unitRun = if (v.pushed c u).isHead u then unitRun (v.pushed c u) u else v.pushed c u := by
      unfold State.taken
      rw [hu]
      rfl
    generalize v.pushed c u = s1 at hexec hpush hself hother htaken
    obtain ⟨hserial, hlast⟩ := (s.ctx c).issued_records u
    rw [← hself] at hserial hlast
    refine ⟨_, s1, hexec, htaken, (congrArg State.ucmds hpush :).trans (congrArg (· ++ [u]) hvcmds), by rw [hu]; rfl, by rw [hu]; rfl,
      by rw [hu]; rfl, by rw [hu]; rfl, by rw [hu]; rfl, by rw [hu]; rfl, by rw [hu]; rfl, by rw [hu]; rfl, hserial, hlast, fun hwt => ?_,
      fun hwt => ?_, fun d hd => (hother d hd).trans (hvctx d),
      fun o ho => (State.reg_congr (congrArg State.regs hpush :) o).trans (hregs o ho), ?_⟩
    · have hwaits := hself.trans ((s.ctx c).issued_waits u hwt)
      exact ⟨(congrArg Context.st hwaits :), (congrArg Context.wait hwaits :), (congrArg Context.pc hwaits :), (congrArg Context.loops hwaits :),
        fun r => (congrArg (fun x : Context => x.xr r) hwaits :)⟩
    · have hgoes := hself.trans ((s.ctx c).issued_goes u hwt)
      obtain ⟨hst, hwait, -, -⟩ := (s.ctx c).after_kept (s.ctx c).pc
      exact ⟨(congrArg Context.st hgoes :).trans (hst.trans hi.running), (congrArg Context.wait hgoes :).trans hwait,
        (congrArg Context.pc hgoes :), (congrArg Context.loops hgoes :), fun r => (congrArg (fun x : Context => x.xr r) hgoes :)⟩
    · rw [hv] at hpush
      exact hpush.trans (by rw [(congrArg State.regs hpush :), (congrArg State.icache hpush :), (congrArg State.lastIssue hpush :),
        (congrArg State.stood hpush :), (congrArg State.slow hpush :), (congrArg State.ref hpush :), (congrArg State.ucmds hpush :)])
  · obtain ⟨v, ⟨hv, hregs⟩, hexec⟩ := unitCommand_issues hop hlow hhigh hi hj
    have hopi : u.op = i := (congrArg UCmd.op hu).trans (s.newCmd_op c i f)
    rw [← hopi] at hinvalid
    rw [← hu, State.checked_some (State.issueCode_offside hinvalid)] at hexec
    obtain ⟨hpush, -, hother, hvalid⟩ := v.pushed_does c (u.done codeOffside 0)
    have htaken : (v.pushed c (u.done codeOffside 0)).taken (u.done codeOffside 0) unitRun = v.pushed c (u.done codeOffside 0) := rfl
    rw [htaken] at hexec
    generalize v.pushed c (u.done codeOffside 0) = t at hexec hpush hother hvalid
    have hboth := hpush.trans (congrArg (fun x : State =>
      { x with ctxs := t.ctxs, slots := t.slots, ucmds := x.ucmds ++ [u.done codeOffside 0] }) hv)
    exact ⟨t, hexec, (congrArg State.ucmds hboth :), (congrArg State.mem hboth :), (congrArg State.queues hboth :), (congrArg State.vol hboth :),
      (congrArg State.reb hboth :), (congrArg State.hud hboth :), (congrArg State.adm hboth :), (congrArg State.tbl hboth :),
      fun n => (hvalid n).trans (congrArg (fun x : State => (x.slot n).valid) hv :),
      fun d hd => (hother d hd).trans (congrArg (fun x : State => x.ctx d) hv :)⟩
  · have hdrive := State.drive_refused (start := start) (work := work) hres hstart hcheck
    obtain ⟨w, hw⟩ := s.unrecord_does u
    rw [hw] at hdrive
    rw [hdrive, hw]
    refine ⟨rfl, rfl, fun d => ?_, fun d hd => State.setCtx_ctx_other _ _ hd⟩
    by_cases hd : d = u.c.val
    · rw [hd]
      exact ⟨w, State.setCtx_ctx_same _ _ _⟩
    · exact ⟨_, (State.setCtx_ctx_other _ _ hd).trans rfl⟩

end Sys2Proof.Machine
end

section
/-! PROOF. Tables, their epochs and their loaders (R89, R140, R151, R152, R162 to R164). -/

namespace Sys2Proof.Machine

open Safety

/-! ### The banked tables -/

theorem State.setBanked_same (s : State) {n : Nat} (b : Banked) : (s.setBanked n b).banked n = b := by
  match n with
  | 0 | 1 | 2 => rfl
  | n + 3 => rfl

theorem State.setBanked_other (s : State) {n m : Nat} (b : Banked) (hn : n < 4) (hm : m < 4) (h : m ≠ n) :
    (s.setBanked n b).banked m = s.banked m := by
  match n, m with
  | 0, 1 | 0, 2 | 0, 3 | 1, 0 | 1, 2 | 1, 3 | 2, 0 | 2, 1 | 2, 3 | 3, 0 | 3, 1 | 3, 2 => rfl
  | n + 4, _ => exact absurd hn (by omega)
  | _, m + 4 => exact absurd hm (by omega)

theorem State.setBanked_frame (s : State) (n : Nat) (b : Banked) : s.setBanked n b = { s with tbl := (s.setBanked n b).tbl } := by
  match n with
  | 0 | 1 | 2 => rfl
  | n + 3 => rfl

/-- The banks of the tables, the contexts and memory stay. -/
structure BanksKept (s t : State) : Prop where
  banked : ∀ n, t.banked n = s.banked n
  ctxs : t.ctxs = s.ctxs
  mem : t.mem = s.mem

theorem BanksKept.refl (s : State) : BanksKept s s := ⟨fun _ => rfl, rfl, rfl⟩

theorem BanksKept.trans {s t u : State} (h : BanksKept s t) (k : BanksKept t u) : BanksKept s u :=
  ⟨fun n => (k.banked n).trans (h.banked n), k.ctxs.trans h.ctxs, k.mem.trans h.mem⟩

theorem banksKept_of {s t : State} (hrep : t.tbl.rep = s.tbl.rep) (hgate : t.tbl.gate = s.tbl.gate) (hsfu : t.tbl.sfu = s.tbl.sfu)
    (hbias : t.tbl.bias = s.tbl.bias) (hctxs : t.ctxs = s.ctxs) (hmem : t.mem = s.mem) : BanksKept s t := by
  refine ⟨fun n => ?_, hctxs, hmem⟩
  match n with
  | 0 => exact hrep
  | 1 => exact hgate
  | 2 => exact hsfu
  | n + 3 => exact hbias

theorem State.raiseFlag_banks (s : State) (b n : Nat) : BanksKept s (s.raiseFlag b n) := banksKept_of rfl rfl rfl rfl rfl rfl

theorem State.lostRead_banks (s : State) (l : Nat) (h : Option Half) : BanksKept s (s.lostRead l h) := by
  have hframe := (s.lostRead_frame l h).state
  generalize s.lostRead l h = t at hframe
  have htbl : t.tbl = s.tbl := (congrArg State.tbl hframe :)
  exact banksKept_of (congrArg Tables.rep htbl) (congrArg Tables.gate htbl) (congrArg Tables.sfu htbl) (congrArg Tables.bias htbl)
    (congrArg State.ctxs hframe :) (congrArg State.mem hframe :)

/-! ### The starts of the two loaders -/

theorem State.startGate_banks (s : State) (n : Nat) : BanksKept s (s.startGate n) := by
  unfold State.startGate
  dsimp only
  split
  · exact banksKept_of rfl rfl rfl rfl rfl rfl
  · exact BanksKept.trans (t := { s with tbl := { s.tbl with gateLd := { s.tbl.gateLd.refuse (s.gateCause n) with deferred := false } } })
      (banksKept_of rfl rfl rfl rfl rfl rfl) (State.raiseFlag_banks _ 3 1)

theorem State.headerLost_banks {s t : State} {n : Nat} (h : s.headerLost n = some t) : BanksKept s t := by
  unfold State.headerLost State.imageLostRead at h
  split at h
  · exact absurd h (Option.some_ne_none t).symm
  · obtain ⟨l, -, rfl⟩ := Option.map_eq_some_iff.1 h
    exact s.lostRead_banks l none

/-- A start of the replica loader with its header read and its cause known. -/
def State.beginRep (s : State) (l : Loader) (n : Nat) : Nat → State
  | 0 => { s with tbl := { s.tbl with repLd :=
      { l with busy := true, fresh := true, deferred := false, layer := BitVec.ofNat 8 n
               gate := { GateMeta.none with entry := BitVec.ofNat 8 n, base := s.repBase n, e := s.num (s.repBase n + 4) 4 } } } }
  | k + 1 => ({ s with tbl := { s.tbl with repLd := { l.refuse (k + 1) with deferred := false } } } : State).raiseFlag 3 1

theorem State.beginRep_banks (s : State) (l : Loader) (n : Nat) : ∀ k, BanksKept s (s.beginRep l n k)
  | 0 => banksKept_of rfl rfl rfl rfl rfl rfl
  | k + 1 => BanksKept.trans (t := { s with tbl := { s.tbl with repLd := { l.refuse (k + 1) with deferred := false } } })
      (banksKept_of rfl rfl rfl rfl rfl rfl) (State.raiseFlag_banks _ 3 1)

theorem State.startRep_none {s : State} {n : Nat} (h : s.headerLost n = none) :
    s.startRep n = s.beginRep s.tbl.repLd n (s.repCause n) := by
  unfold State.startRep
  rw [h]
  dsimp only
  cases s.repCause n with
  | zero => rfl
  | succ k => rfl

theorem State.startRep_some {s t : State} {n : Nat} (h : s.headerLost n = some t) :
    s.startRep n = t.beginRep s.tbl.repLd n (if s.repCause n = 0 then 3 else s.repCause n) := by
  unfold State.startRep
  rw [h]
  dsimp only
  cases (if s.repCause n = 0 then 3 else s.repCause n) with
  | zero => rfl
  | succ k => rfl

theorem State.startRep_banks (s : State) (n : Nat) : BanksKept s (s.startRep n) := by
  cases h : s.headerLost n with
  | none =>
    rw [State.startRep_none h]
    exact s.beginRep_banks _ n _
  | some t =>
    rw [State.startRep_some h]
    exact (State.headerLost_banks h).trans (t.beginRep_banks _ n _)

theorem State.autoGate_banks (s : State) : BanksKept s s.autoGate := by
  unfold State.autoGate
  split
  · exact .refl s
  · split
    · exact banksKept_of rfl rfl rfl rfl rfl rfl
    · exact s.startGate_banks _

theorem State.autoRep_banks (s : State) : BanksKept s s.autoRep := by
  unfold State.autoRep
  split
  · exact .refl s
  · split
    · exact banksKept_of rfl rfl rfl rfl rfl rfl
    · exact s.startRep_banks _

/-! ### The switch -/

/-- The replica table has no load since its switch, and ADMIT is told of the switch. -/
def State.staleRep (s : State) : State :=
  { s with tbl := { s.tbl with repLd := { s.tbl.repLd with fresh := false } }, adm := { s.adm with sflags := s.adm.sflags ||| 0x10#16 } }

/-- The gate table has no load since its switch, and the gate that was loaded is the active one. -/
def State.staleGate (s : State) : State :=
  { s with tbl := { s.tbl with gateLd := { s.tbl.gateLd with fresh := false }, gateOld := s.tbl.gateNow, gateNow := s.tbl.gateLd.gate } }

theorem State.staleRep_banks (s : State) : BanksKept s s.staleRep := banksKept_of rfl rfl rfl rfl rfl rfl

theorem State.staleGate_banks (s : State) : BanksKept s s.staleGate := banksKept_of rfl rfl rfl rfl rfl rfl

theorem State.newProgramDigest_banks (s : State) : BanksKept s s.newProgramDigest := by
  have href (r : Referee) : BanksKept s { s with ref := r } := banksKept_of rfl rfl rfl rfl rfl rfl
  exact href _

/-- What follows the change of a table's banks. -/
def State.switched (s : State) (n : Nat) : State :=
  match n with
  | 0 => s.staleRep.autoRep
  | 1 => s.staleGate.autoGate
  | 2 => s.newProgramDigest
  | _ => s

theorem State.switched_banks (s : State) (n : Nat) : BanksKept s (s.switched n) := by
  match n with
  | 0 => exact s.staleRep_banks.trans (State.autoRep_banks _)
  | 1 => exact s.staleGate_banks.trans (State.autoGate_banks _)
  | 2 => exact s.newProgramDigest_banks
  | n + 3 => exact .refl s

theorem State.switch_eq (s : State) (n : Nat) : ∃ held loading,
    s.switch n = (s.setBanked n ⟨some (s.banked n).nextEpoch, (s.banked n).shadow, held, loading⟩).switched n := ⟨_, _, rfl⟩

/-- The switch of a table: its shadow bank is active under the next epoch, and every other table stays. -/
theorem State.switch_does (s : State) {n : Nat} (hn : n < 4) :
    ((s.switch n).banked n).active = some (s.banked n).nextEpoch ∧ ((s.switch n).banked n).bank = (s.banked n).shadow ∧
      (∀ m, m < 4 → m ≠ n → (s.switch n).banked m = s.banked m) ∧ (s.switch n).ctxs = s.ctxs ∧ (s.switch n).mem = s.mem := by
  obtain ⟨held, loading, heq⟩ := s.switch_eq n
  rw [heq]
  have hframe := s.setBanked_frame n ⟨some (s.banked n).nextEpoch, (s.banked n).shadow, held, loading⟩
  have hself := s.setBanked_same (n := n) ⟨some (s.banked n).nextEpoch, (s.banked n).shadow, held, loading⟩
  have hother (m : Nat) (hm : m < 4) (hne : m ≠ n) :=
    s.setBanked_other ⟨some (s.banked n).nextEpoch, (s.banked n).shadow, held, loading⟩ hn hm hne
  generalize s.setBanked n ⟨some (s.banked n).nextEpoch, (s.banked n).shadow, held, loading⟩ = u at hframe hself hother
  have h := u.switched_banks n
  generalize u.switched n = t at h
  have hsame := (h.banked n).trans hself
  exact ⟨(congrArg Banked.active hsame :), (congrArg Banked.bank hsame :), fun m hm hne => (h.banked m).trans (hother m hm hne),
    h.ctxs.trans (congrArg State.ctxs hframe :), h.mem.trans (congrArg State.mem hframe :)⟩

/-! ### EPOCH -/

/-- The checks of EPOCH in the order of their codes. -/
theorem lowest_epoch_checks (busy held a b d : Bool) :
    lowest [(busy, codeOffside), (held, codeEpoch), (a, codeEpoch), (b, codeEpoch), (d, codeEpoch)] =
      if busy then some codeOffside else if held || a || b || d then some codeEpoch else none := by
  revert busy held a b d
  decide

theorem State.epochCode_noteIssue (s : State) (c : Ctx) (n : Nat) : (s.noteIssue c).epochCode n = s.epochCode n := by
  have hsum (b : Fin 2) : (s.noteIssue c).capSum b = s.capSum b := by
    unfold State.capSum
    rw [State.noteIssue_chip]
    rfl
  unfold State.epochCode
  rw [hsum, State.noteIssue_sysSize, State.noteIssue_fld s c (by decide)]
  rfl

/-- What EPOCH does once it has issued. -/
def epochBody (c : Ctx) (f : Fields) (n : Nat) (t : State) : State :=
  match t.epochCode n with
  | some k => t.retire c k
  | none => (t.switch n).retireX c f.dst (BitVec.ofNat 64 (t.banked n).nextEpoch.toNat)

theorem exec_epoch (s : State) (c : Ctx) (f : Fields) :
    exec (.epoch c f) s = .next (s.localOp c (.epoch c f) f [bitsOf f.imm.toNat 1 0] true (epochBody c f (bitsOf f.imm.toNat 1 0))) := rfl

/-- A local instruction outside a replay: its effect on the state with the issue noted, and what the journal makes of the Referee. -/
theorem State.localOp_entered {s : State} {c : Ctx} {i : Instr} {op : Nat} {d : Ctx} {f g : Fields} (idx : List Nat) (w : Bool)
    {body : State → State} (hi : Issues s c i) (hop : opcodeOf i = some (op, d, g)) (hj : Journals s c) :
    ∃ r, s.localOp c i f idx w body = { body (s.noteIssue c) with ref := r } := by
  have hcan := Issues_canIssue hi hop
  have hreplay : (s.noteIssue c).replayEntry c = none := by
    have hoff : (s.noteIssue c).ref.replay = false := hj.1
    unfold State.replayEntry
    rw [hoff]
    rfl
  have hwait : s.awaitsRemote c i = false := by
    unfold State.awaitsRemote State.replayEntry
    rw [hj.1]
    rfl
  have hentry (t : State) (e : JEnt) : ∃ r, t.addEntry c e = { t with ref := r } := by
    unfold State.addEntry
    split
    · exact ⟨_, rfl⟩
    · exact ⟨_, rfl⟩
  unfold State.localOp
  rw [hcan, hwait]
  unfold State.journalled
  rw [hreplay]
  exact hentry _ _

theorem epoch_switches {s : State} {c : Ctx} {f : Fields} {n : Nat} (hj : Journals s c) (hi : Issues s c (.epoch c f))
    (hn : n = bitsOf f.imm.toNat 1 0) (hcode : s.epochCode n = none) :
    ∃ t, exec (.epoch c f) s = .next t ∧ (t.banked n).active = some (s.banked n).nextEpoch ∧ (t.banked n).bank = (s.banked n).shadow ∧
      (∀ m, m < 4 → m ≠ n → t.banked m = s.banked m) ∧
      t.ctx c = (((s.ctx c).setX f.dst ((s.banked n).nextEpoch.zeroExtend 64)).record codeOk (s.ctx c).pc).after (s.ctx c).pc ∧
      (∀ d, d ≠ c.val → t.ctx d = s.ctx d) ∧ t.mem = s.mem := by
  have hlt : n < 4 := hn ▸ bitsOf_lt _ 1 0
  obtain ⟨r, hr⟩ := State.localOp_entered (f := f) [n] true (body := epochBody c f n) hi rfl hj
  have hbody : epochBody c f n (s.noteIssue c) =
      ((s.noteIssue c).switch n).retireX c f.dst (BitVec.ofNat 64 (s.banked n).nextEpoch.toNat) := by
    unfold epochBody
    rw [State.epochCode_noteIssue, hcode]
    rfl
  obtain ⟨hactive, hbank, hothers, hctxs, hmem⟩ := (s.noteIssue c).switch_does hlt
  rw [hbody] at hr
  have hext : (s.banked n).nextEpoch.zeroExtend 64 = BitVec.ofNat 64 (s.banked n).nextEpoch.toNat := (BitVec.ofNat_toNat _ _).symm
  have hctx (d : Nat) : ((s.noteIssue c).switch n).ctx d = s.ctx d := by
    unfold State.ctx
    rw [hctxs]
    rfl
  generalize (s.noteIssue c).switch n = u at hr hactive hbank hothers hctxs hmem hctx
  obtain ⟨hself, hother, hframe⟩ := State.retireX_does u c f.dst (BitVec.ofNat 64 (s.banked n).nextEpoch.toNat)
  generalize u.retireX c f.dst _ = v at hr hself hother hframe
  have hbanked (m : Nat) : v.banked m = u.banked m := (congrArg (fun x : State => x.banked m) hframe :)
  refine ⟨_, (exec_epoch s c f).trans (congrArg Host.Outcome.next (hn ▸ hr)), ?_, ?_, fun m hm hne => ?_, ?_, fun d hd => ?_, ?_⟩
  · exact (congrArg Banked.active (hbanked n)).trans hactive
  · exact (congrArg Banked.bank (hbanked n)).trans hbank
  · exact (hbanked m).trans (hothers m hm hne)
  · rw [hext, ← hctx c]
    exact hself
  · exact (hother d hd).trans (hctx d)
  · exact (congrArg State.mem hframe :).trans hmem

theorem epoch_refused {s : State} {c : Ctx} {f : Fields} {n : Nat} {k : Byte} (hj : Journals s c) (hi : Issues s c (.epoch c f))
    (hn : n = bitsOf f.imm.toNat 1 0) (hcode : s.epochCode n = some k) (htrap : s.trapOn c k = false) :
    ∃ t, exec (.epoch c f) s = .next t ∧ JournalFrame c s t ∧ t.ctx c = ((s.ctx c).record k (s.ctx c).pc).after (s.ctx c).pc := by
  have hbody : epochBody c f n (s.noteIssue c) = (s.noteIssue c).retire c k := by
    unfold epochBody
    rw [State.epochCode_noteIssue, hcode]
  obtain ⟨t, ht, hframe, hctx⟩ := localOp_retires (f := f) [n] true hi rfl hj hbody htrap
  exact ⟨t, (exec_epoch s c f).trans (congrArg Host.Outcome.next (hn ▸ ht)), hframe, hctx⟩

end Sys2Proof.Machine
end

section
/-! PROOF. The starts and the ends of the table loaders, and the release of a bank (R89, R151, R162, R305, R343). -/

namespace Sys2Proof.Machine

open Safety

/-! ### What a loader reads of the registers -/

/-- A write of a loader's control register: what it changes beside that register lies below the mailbox's. -/
structure LoaderWritten (off : Nat) (s t : State) : Prop where
  frame : t = { s with sync := t.sync, syncWr := t.syncWr, queues := t.queues, lag := t.lag, regs := t.regs }
  reg : ∀ o, 0x3000 < o → o ≠ off → t.reg o = s.reg o

theorem State.liveWrite_written (s : State) {off : Nat} (v : Word) : LoaderWritten off s (s.liveWrite off v) := by
  have hnoted := noted_noteLive (s.setReg off v) (ownerOf off)
  have hlag (t : State) (l : Tab (Option Word)) (h : Noted (s.setReg off v) t) : LoaderWritten off s { t with lag := l } :=
    ⟨(congrArg (fun x : State => { x with lag := l }) h.frame).trans rfl,
      fun o ho hne => (h.reg o ho).trans (State.setReg_reg_other _ _ hne)⟩
  unfold State.liveWrite
  dsimp only
  generalize (s.setReg off v).noteLive (ownerOf off) = t at hnoted
  split
  · exact hlag t t.lag hnoted
  · exact hlag t _ hnoted

section Loads
variable {s t : State} {off n : Nat}

theorem LoaderWritten.fld (h : LoaderWritten off s t) {o : Nat} (ho : 0x3000 < o) (hne : o ≠ off) (hi lo : Nat) :
    t.fld o hi lo = s.fld o hi lo := congrArg (fun w : Word => bitsOf w.toNat hi lo) (h.reg o ho hne)

theorem LoaderWritten.region (h : LoaderWritten off s t) (hoff : off < 0x0D8000) (r : Nat) : t.region r = s.region r := by
  unfold State.region
  dsimp only
  rw [h.fld (by omega) (by omega), h.fld (by omega) (by omega), h.fld (by omega) (by omega), h.fld (by omega) (by omega)]

theorem LoaderWritten.gateEntry (h : LoaderWritten off s t) (hoff : off < 0x061000) (n : Nat) : t.gateEntry n = s.gateEntry n := by
  unfold State.gateEntry
  dsimp only
  simp only [h.fld (o := 0x061000 + 0x10 * n) (by omega) (by omega), h.fld (o := 0x061000 + 0x10 * n + 4) (by omega) (by omega),
    h.fld (o := 0x061000 + 0x10 * n + 8) (by omega) (by omega)]

theorem LoaderWritten.gateCause (h : LoaderWritten off s t) (hoff : off < 0x061000) (n : Nat) : t.gateCause n = s.gateCause n := by
  unfold State.gateCause State.inRegion
  simp only [h.gateEntry hoff, h.region (by omega), h.fld (o := 0x06100C + 0x10 * n) (by omega) (by omega)]

theorem LoaderWritten.repBase (h : LoaderWritten off s t) (hoff : off < 0x071000) (n : Nat) : t.repBase n = s.repBase n := by
  unfold State.repBase
  rw [h.fld (by omega) (by omega), h.fld (by omega) (by omega)]

theorem LoaderWritten.repCause (h : LoaderWritten off s t) (hoff : off < 0x071000) (n : Nat) : t.repCause n = s.repCause n := by
  have hnum (a k : Nat) : t.num a k = s.num a k := (congrArg (fun x : State => x.num a k) h.frame).trans rfl
  have hheader (a : Nat) : t.repHeaderOk n a = s.repHeaderOk n a := (congrArg (fun x : State => x.repHeaderOk n a) h.frame).trans rfl
  unfold State.repCause
  simp only [h.repBase hoff, h.region (by omega), hnum, hheader, h.fld (o := 0x07100C + 0x10 * n) (by omega) (by omega)]

theorem State.imageLostRead_none {a k : Nat} : s.imageLostRead a k = none ↔ s.lostIn a k = none := Option.map_eq_none_iff

theorem LoaderWritten.headerLost (h : LoaderWritten off s t) (hoff : off < 0x071000) (n : Nat) (hnone : s.headerLost n = none) :
    t.headerLost n = none := by
  have hlost (a k : Nat) : t.lostIn a k = s.lostIn a k := (congrArg (fun x : State => x.lostIn a k) h.frame).trans rfl
  unfold State.headerLost at hnone ⊢
  rw [h.fld (by omega) (by omega), h.repBase hoff]
  split at hnone
  · next hoff => rw [if_pos hoff]
  · next hon => rw [if_neg hon, State.imageLostRead_none, hlost, State.imageLostRead_none.1 hnone]

/-! ### The starts -/

theorem State.go_bits (v : Word) : (v ||| 0x80000000#32).getLsbD 31 = true ∧ bitsOf (v ||| 0x80000000#32).toNat 7 0 = v.toNat % 256 := by
  constructor
  · rw [BitVec.getLsbD_or]
    exact Bool.or_true _
  · have hmod := Nat.or_mod_two_pow (a := v.toNat) (b := 0x80000000) (n := 8)
    rw [bitsOf_eq_div, BitVec.toNat_or]
    exact (congrArg (· % 256) (Nat.div_one _)).trans (hmod.trans (Nat.or_zero _))

theorem State.gldWrite_go {v : Word} (hbusy : s.tbl.gateLd.busy = false) : ∃ t, LoaderWritten 0x060004 s t ∧
    s.gldWrite (v ||| 0x80000000#32) = (codeOk, t.startGate (v.toNat % 256)) := by
  have h := s.liveWrite_written (off := 0x060004) ((v ||| 0x80000000#32) &&& 0x0003FFFF#32)
  obtain ⟨hgo, hn⟩ := State.go_bits v
  unfold State.gldWrite
  dsimp only
  generalize s.liveWrite 0x060004 _ = t at h
  have hidle : t.tbl.gateLd.busy = false := (congrArg (fun x : State => x.tbl.gateLd.busy) h.frame).trans hbusy
  refine ⟨t, h, ?_⟩
  rw [hgo, hidle, hn]
  rfl

theorem State.rldWrite_go {v : Word} (hbusy : s.tbl.repLd.busy = false) : ∃ t, LoaderWritten 0x070004 s t ∧
    s.rldWrite (v ||| 0x80000000#32) = (codeOk, t.startRep (v.toNat % 256)) := by
  have h := s.liveWrite_written (off := 0x070004) ((v ||| 0x80000000#32) &&& 0x0003FFFF#32)
  obtain ⟨hgo, hn⟩ := State.go_bits v
  unfold State.rldWrite
  dsimp only
  generalize s.liveWrite 0x070004 _ = t at h
  have hidle : t.tbl.repLd.busy = false := (congrArg (fun x : State => x.tbl.repLd.busy) h.frame).trans hbusy
  refine ⟨t, h, ?_⟩
  rw [hgo, hidle, hn]
  rfl

theorem State.startGate_starts (h : s.gateCause n = 0) : s.startGate n = { s with tbl := { s.tbl with gateLd :=
    { s.tbl.gateLd with busy := true, fresh := true, deferred := false, gate := s.gateEntry n, layer := BitVec.ofNat 8 n } } } := by
  unfold State.startGate
  rw [h]
  rfl

theorem State.startGate_refused (h : s.gateCause n ≠ 0) : s.startGate n =
    ({ s with tbl := { s.tbl with gateLd := { s.tbl.gateLd.refuse (s.gateCause n) with deferred := false } } } : State).raiseFlag 3 1 := by
  unfold State.startGate
  dsimp only
  split
  · next hzero => exact absurd hzero h
  · rfl

theorem gldGo_starts {v : Word} (hready : HostReady s 0x060004) (hn : n = v.toNat % 256) (hbusy : s.tbl.gateLd.busy = false)
    (hcause : s.gateCause n = 0) : ∃ t, exec (.gldGo v) s = .next t ∧ WriteCode t 0x060004 codeOk ∧ t.tbl.gateLd.busy = true ∧
      t.tbl.gateLd.fresh = true ∧ t.tbl.gateLd.gate = s.gateEntry n ∧ t.tbl.gateMem = s.tbl.gateMem ∧ t.mem = s.mem := by
  have hexec : exec (.gldGo v) s = .next (s.hostWrite 0x060004 fun t => t.gldWrite (v ||| 0x80000000#32)) := rfl
  obtain ⟨u, hu, hwrite⟩ := s.gldWrite_go (v := v) hbusy
  rw [hexec, State.hostWrite_ready hready, hwrite, ← hn, State.startGate_starts ((hu.gateCause (by decide) n).trans hcause),
    hu.gateEntry (by decide)]
  dsimp only
  have hkept : u.tbl.gateMem = s.tbl.gateMem ∧ u.mem = s.mem :=
    ⟨(congrArg (fun x : State => x.tbl.gateMem) hu.frame :), (congrArg State.mem hu.frame :)⟩
  obtain ⟨hcode, -, heq⟩ := ({ u with tbl := { u.tbl with gateLd := { u.tbl.gateLd with busy := true, fresh := true, deferred := false
                                                                                        gate := s.gateEntry n, layer := BitVec.ofNat 8 n } } } :
    State).wstat_does 0x060004 codeOk
  generalize State.wstat _ 0x060004 codeOk = t at hcode heq
  exact ⟨t, rfl, hcode, (congrArg (fun x : State => x.tbl.gateLd.busy) heq :), (congrArg (fun x : State => x.tbl.gateLd.fresh) heq :),
    (congrArg (fun x : State => x.tbl.gateLd.gate) heq :), (congrArg (fun x : State => x.tbl.gateMem) heq :).trans hkept.1,
    (congrArg State.mem heq :).trans hkept.2⟩

theorem gldGo_refused {v : Word} (hready : HostReady s 0x060004) (hn : n = v.toNat % 256) (hbusy : s.tbl.gateLd.busy = false)
    (hcause : s.gateCause n ≠ 0) : ∃ t, exec (.gldGo v) s = .next t ∧ t.tbl.gateLd.busy = false ∧
      t.tbl.gateLd.cause = BitVec.ofNat 3 (s.gateCause n) ∧ t.fld 0x2000 3 3 = 1 ∧ t.tbl.gateMem = s.tbl.gateMem := by
  have hexec : exec (.gldGo v) s = .next (s.hostWrite 0x060004 fun t => t.gldWrite (v ||| 0x80000000#32)) := rfl
  obtain ⟨u, hu, hwrite⟩ := s.gldWrite_go (v := v) hbusy
  have hsame := hu.gateCause (by decide) n
  rw [hexec, State.hostWrite_ready hready, hwrite, ← hn, State.startGate_refused (fun h => hcause (hsame.symm.trans h)), hsame]
  dsimp only
  have hidle : u.tbl.gateLd.busy = s.tbl.gateLd.busy := (congrArg (fun x : State => x.tbl.gateLd.busy) hu.frame :)
  have hmem : u.tbl.gateMem = s.tbl.gateMem := (congrArg (fun x : State => x.tbl.gateMem) hu.frame :)
  obtain ⟨hset, -, -, -, hraise⟩ := ({ u with tbl := { u.tbl with gateLd := { u.tbl.gateLd.refuse (s.gateCause n) with deferred := false } } } :
    State).raiseFlag_does 3 1 (by decide)
  generalize State.raiseFlag _ 3 1 = w at hset hraise
  obtain ⟨-, hreg, heq⟩ := w.wstat_does 0x060004 codeOk
  generalize w.wstat 0x060004 codeOk = t at hreg heq
  have htbl := (congrArg State.tbl heq :).trans (congrArg State.tbl hraise :)
  refine ⟨t, rfl, ?_, ?_, ?_, ?_⟩
  · exact (congrArg (fun x : Tables => x.gateLd.busy) htbl :).trans (hidle.trans hbusy)
  · exact (congrArg (fun x : Tables => x.gateLd.cause) htbl :)
  · rw [← hset]
    exact congrArg (fun x : Word => bitsOf x.toNat 3 3) (hreg 0x2000 (by decide) (Or.inl rfl))
  · exact (congrArg Tables.gateMem htbl :).trans hmem

theorem rldGo_starts {v : Word} (hready : HostReady s 0x070004) (hn : n = v.toNat % 256) (hbusy : s.tbl.repLd.busy = false)
    (hlost : s.headerLost n = none) (hcause : s.repCause n = 0) : ∃ t, exec (.rldGo v) s = .next t ∧ WriteCode t 0x070004 codeOk ∧
      t.tbl.repLd.busy = true ∧ t.tbl.repLd.fresh = true ∧ t.tbl.repLd.gate.base = s.repBase n ∧ t.tbl.repMem = s.tbl.repMem ∧
      t.mem = s.mem := by
  have hexec : exec (.rldGo v) s = .next (s.hostWrite 0x070004 fun t => t.rldWrite (v ||| 0x80000000#32)) := rfl
  obtain ⟨u, hu, hwrite⟩ := s.rldWrite_go (v := v) hbusy
  rw [hexec, State.hostWrite_ready hready, hwrite, ← hn, State.startRep_none (hu.headerLost (by decide) n hlost),
    hu.repCause (by decide) n, hcause]
  dsimp only
  have hkept : u.tbl.repMem = s.tbl.repMem ∧ u.mem = s.mem :=
    ⟨(congrArg (fun x : State => x.tbl.repMem) hu.frame :), (congrArg State.mem hu.frame :)⟩
  have hbase := hu.repBase (by decide) n
  have hbegin : (u.beginRep u.tbl.repLd n 0).tbl.repLd.busy = true ∧ (u.beginRep u.tbl.repLd n 0).tbl.repLd.fresh = true ∧
      (u.beginRep u.tbl.repLd n 0).tbl.repLd.gate.base = u.repBase n ∧ (u.beginRep u.tbl.repLd n 0).tbl.repMem = u.tbl.repMem ∧
      (u.beginRep u.tbl.repLd n 0).mem = u.mem := ⟨rfl, rfl, rfl, rfl, rfl⟩
  generalize u.beginRep u.tbl.repLd n 0 = w at hbegin
  obtain ⟨hb, hf, hg, hr, hm⟩ := hbegin
  obtain ⟨hcode, -, heq⟩ := w.wstat_does 0x070004 codeOk
  generalize w.wstat 0x070004 codeOk = t at hcode heq
  exact ⟨t, rfl, hcode, (congrArg (fun x : State => x.tbl.repLd.busy) heq :).trans hb, (congrArg (fun x : State => x.tbl.repLd.fresh) heq :).trans hf,
    (congrArg (fun x : State => x.tbl.repLd.gate.base) heq :).trans (hg.trans hbase),
    (congrArg (fun x : State => x.tbl.repMem) heq :).trans (hr.trans hkept.1), (congrArg State.mem heq :).trans (hm.trans hkept.2)⟩

/-! ### The ends -/

/-- The signal of a loader: its own object only, and only when the register enables it. -/
theorem State.signalIf_does (s : State) (off : Nat) : (s.signalIf off).tbl = s.tbl ∧ (s.signalIf off).ref = s.ref ∧
    (s.signalIf off).mem = s.mem ∧ (s.signalIf off).ctxs = s.ctxs ∧ (s.fldNow off 15 15 ≠ 1 → (s.signalIf off).sync = s.sync) ∧
    (s.fldNow off 15 15 = 1 → (s.obj (s.fldNow off 14 0)).cnt ≠ 0xFFFFFFFF#32 →
      ((s.signalIf off).obj (s.fldNow off 14 0)).cnt = (s.obj (s.fldNow off 14 0)).cnt + 1) := by
  unfold State.signalIf
  split
  · next hon =>
    rcases Nat.lt_or_ge ((s.obj (s.fldNow off 14 0)).cnt.toNat + 1) (2 ^ 32) with h | h
    · obtain ⟨hcnt, -, -, heq⟩ := s.signal_adds (s.fldNow off 14 0) 1 h
      generalize s.signal (s.fldNow off 14 0) 1 = t at hcnt heq
      exact ⟨(congrArg State.tbl heq :), (congrArg State.ref heq :), (congrArg State.mem heq :), (congrArg State.ctxs heq :),
        fun hoff => absurd hon hoff, fun _ _ => BitVec.eq_of_toNat_eq (by rw [hcnt, BitVec.toNat_add]; exact (Nat.mod_eq_of_lt h).symm)⟩
    · obtain ⟨-, -, -, -, -, heq⟩ := s.signal_saturates (s.fldNow off 14 0) 1 h
      generalize s.signal (s.fldNow off 14 0) 1 = t at heq
      have hfull : (s.obj (s.fldNow off 14 0)).cnt = 0xFFFFFFFF#32 := BitVec.eq_of_toNat_eq (by
        have hlt := (s.obj (s.fldNow off 14 0)).cnt.isLt
        exact (by omega : (s.obj (s.fldNow off 14 0)).cnt.toNat = 4294967295))
      exact ⟨(congrArg State.tbl heq :), (congrArg State.ref heq :), (congrArg State.mem heq :), (congrArg State.ctxs heq :),
        fun hoff => absurd hon hoff, fun _ hne => absurd hfull hne⟩
  · next hoff => exact ⟨rfl, rfl, rfl, rfl, fun _ => rfl, fun hon => absurd hon hoff⟩

/-- The gate that was loaded stands in the store, with its digest. -/
def State.gateLoaded (s : State) : State :=
  let l := s.tbl.gateLd
  let img := s.bytes l.gate.base l.gate.bytes
  let mem := if l.gate.mode = 2 then s.tbl.gateMem
    else bytesWrite s.tbl.gateMem (if l.gate.mode = 1 then 0 else s.gateTarget.val * 33554432) img
  { s with
    tbl := { s.tbl with gateMem := mem, gateLd := { l with busy := false, deferred := false }
                        gate := { s.tbl.gate with fill := false } }
    ref := { s.ref with gateDig := Tab.set 0 s.ref.gateDig l.layer.toNat (bdig img) } }

/-- The replica table that was loaded stands in its bank. -/
def State.repLoaded (s : State) : State :=
  let l := s.tbl.repLd
  let b := s.tbl.rep
  let target := if b.fill then b.bank else b.shadow
  let lo := target.val * repBank
  let img := s.bytes l.gate.base (0x4100 + 4 * l.gate.e)
  let clean := s.tbl.repMem.filter fun c => decide (c.1 < lo) || decide (lo + repBank ≤ c.1)
  { s with tbl := { s.tbl with
    repMem := bytesWrite clean lo img, repLd := { l with busy := false, deferred := false }
    rep := { b with fill := false } } }

theorem gateLoadComplete_eq (hbusy : s.tbl.gateLd.busy = true) (hfree : s.gateSpaceFree = true) (hdef : s.tbl.gateLd.deferred = false) :
    exec .gateLoadComplete s = .next (match s.imageLostRead s.tbl.gateLd.gate.base s.tbl.gateLd.gate.bytes with
      | some t => t
      | none => s.gateLoaded.signalIf 0x060008) := by
  have hraw : exec .gateLoadComplete s = execGateLoadComplete s := rfl
  have hgo : (!(s.tbl.gateLd.busy && s.gateSpaceFree)) = false := by
    rw [hbusy, hfree]
    rfl
  rw [hraw]
  unfold execGateLoadComplete
  dsimp only
  rw [hgo, hdef]
  rfl

theorem replicaLoadComplete_eq (hbusy : s.tbl.repLd.busy = true) (hfree : s.tbl.rep.fill = true ∨ s.tbl.rep.oldHeld = false)
    (hdef : s.tbl.repLd.deferred = false) :
    exec .replicaLoadComplete s = .next (match s.imageLostRead s.tbl.repLd.gate.base (0x4100 + 4 * s.tbl.repLd.gate.e) with
      | some t => t
      | none => s.repLoaded.signalIf 0x070008) := by
  have hraw : exec .replicaLoadComplete s = execReplicaLoadComplete s := rfl
  have hgo : (!(s.tbl.repLd.busy && (s.tbl.rep.fill || !s.tbl.rep.oldHeld))) = false := by
    rw [hbusy]
    rcases hfree with h | h
    · rw [h]
      rfl
    · rw [h, Bool.not_false, Bool.or_true]
      rfl
  rw [hraw]
  unfold execReplicaLoadComplete
  dsimp only
  rw [hgo, hdef]
  rfl

theorem gateLoadComplete_ends (hbusy : s.tbl.gateLd.busy = true) (hfree : s.gateSpaceFree = true) (hdef : s.tbl.gateLd.deferred = false)
    (hgood : s.lostIn s.tbl.gateLd.gate.base s.tbl.gateLd.gate.bytes = none) :
    ∃ t, exec .gateLoadComplete s = .next t ∧ t.tbl.gateLd.busy = false ∧ t.tbl.gate.fill = false ∧
      t.tbl.gate.active = s.tbl.gate.active ∧
      Tab.get 0 t.ref.gateDig s.tbl.gateLd.layer.toNat = bdig (s.bytes s.tbl.gateLd.gate.base s.tbl.gateLd.gate.bytes) ∧
      t.mem = s.mem ∧ t.ctxs = s.ctxs ∧ (s.fldNow 0x060008 15 15 ≠ 1 → t.sync = s.sync) ∧
      (∀ o, s.fldNow 0x060008 15 15 = 1 → o = s.fldNow 0x060008 14 0 → (s.obj o).cnt ≠ 0xFFFFFFFF#32 →
        (t.obj o).cnt = (s.obj o).cnt + 1) := by
  rw [gateLoadComplete_eq hbusy hfree hdef, State.imageLostRead_none.2 hgood]
  have hnow (hi lo : Nat) : s.gateLoaded.fldNow 0x060008 hi lo = s.fldNow 0x060008 hi lo := rfl
  have hobj (o : Nat) : s.gateLoaded.obj o = s.obj o := rfl
  have hloaded : s.gateLoaded.tbl.gateLd.busy = false ∧ s.gateLoaded.tbl.gate.fill = false ∧
      s.gateLoaded.tbl.gate.active = s.tbl.gate.active ∧ s.gateLoaded.mem = s.mem ∧ s.gateLoaded.ctxs = s.ctxs ∧
      s.gateLoaded.sync = s.sync := ⟨rfl, rfl, rfl, rfl, rfl, rfl⟩
  have hdig : Tab.get 0 s.gateLoaded.ref.gateDig s.tbl.gateLd.layer.toNat =
      bdig (s.bytes s.tbl.gateLd.gate.base s.tbl.gateLd.gate.bytes) := Tab.get_set_same _ _ _ _
  obtain ⟨hbusy', hfill, hactive, hmem, hctxs, hsync⟩ := hloaded
  obtain ⟨htbl, href, hm, hc, hoff, hon⟩ := s.gateLoaded.signalIf_does 0x060008
  rw [hnow] at hoff hon
  generalize s.gateLoaded = u at *
  generalize u.signalIf 0x060008 = t at htbl href hm hc hoff hon
  refine ⟨t, rfl, (congrArg (fun x : Tables => x.gateLd.busy) htbl).trans hbusy', (congrArg (fun x : Tables => x.gate.fill) htbl).trans hfill,
    (congrArg (fun x : Tables => x.gate.active) htbl).trans hactive, ?_, hm.trans hmem, hc.trans hctxs, fun h => (hoff h).trans hsync,
    fun o h ho hne => ?_⟩
  · rw [href]
    exact hdig
  · subst ho
    rw [hnow] at hon
    rw [← hobj]
    exact hon h (by rwa [hobj])

theorem replicaLoadComplete_ends (hbusy : s.tbl.repLd.busy = true) (hfree : s.tbl.rep.fill = true ∨ s.tbl.rep.oldHeld = false)
    (hdef : s.tbl.repLd.deferred = false) (hgood : s.lostIn s.tbl.repLd.gate.base (0x4100 + 4 * s.tbl.repLd.gate.e) = none) :
    ∃ t, exec .replicaLoadComplete s = .next t ∧ t.tbl.repLd.busy = false ∧ t.tbl.rep.fill = false ∧
      t.tbl.rep.active = s.tbl.rep.active ∧ t.mem = s.mem ∧ t.ctxs = s.ctxs ∧ (s.fldNow 0x070008 15 15 ≠ 1 → t.sync = s.sync) ∧
      (∀ o, s.fldNow 0x070008 15 15 = 1 → o = s.fldNow 0x070008 14 0 → (s.obj o).cnt ≠ 0xFFFFFFFF#32 →
        (t.obj o).cnt = (s.obj o).cnt + 1) := by
  rw [replicaLoadComplete_eq hbusy hfree hdef, State.imageLostRead_none.2 hgood]
  have hnow (hi lo : Nat) : s.repLoaded.fldNow 0x070008 hi lo = s.fldNow 0x070008 hi lo := rfl
  have hobj (o : Nat) : s.repLoaded.obj o = s.obj o := rfl
  have hloaded : s.repLoaded.tbl.repLd.busy = false ∧ s.repLoaded.tbl.rep.fill = false ∧
      s.repLoaded.tbl.rep.active = s.tbl.rep.active ∧ s.repLoaded.mem = s.mem ∧ s.repLoaded.ctxs = s.ctxs ∧
      s.repLoaded.sync = s.sync := ⟨rfl, rfl, rfl, rfl, rfl, rfl⟩
  obtain ⟨hbusy', hfill, hactive, hmem, hctxs, hsync⟩ := hloaded
  obtain ⟨htbl, -, hm, hc, hoff, hon⟩ := s.repLoaded.signalIf_does 0x070008
  rw [hnow] at hoff hon
  generalize s.repLoaded = u at *
  generalize u.signalIf 0x070008 = t at htbl hm hc hoff hon
  refine ⟨t, rfl, (congrArg (fun x : Tables => x.repLd.busy) htbl).trans hbusy', (congrArg (fun x : Tables => x.rep.fill) htbl).trans hfill,
    (congrArg (fun x : Tables => x.rep.active) htbl).trans hactive, hm.trans hmem, hc.trans hctxs, fun h => (hoff h).trans hsync,
    fun o h ho hne => ?_⟩
  subst ho
  rw [hnow] at hon
  rw [← hobj]
  exact hon h (by rwa [hobj])

/-- A load whose image lies in a poisoned line leaves the tables as they were (R305). -/
theorem State.imageLostRead_tables {a k l : Nat} (h : s.lostIn a k = some l) : ∃ t, s.imageLostRead a k = some t ∧ t.tbl = s.tbl :=
  ⟨s.lostRead l none, by unfold State.imageLostRead; rw [h]; rfl, (congrArg State.tbl (s.lostRead_frame l none).state :)⟩

theorem epochRelease_does {k : Fin 4} (hheld : (s.banked k.val).oldHeld = true) (hleft : s.oldInFlight k.val = false) :
    ∃ t, exec (.epochRelease k) s = .next t ∧ (t.banked k.val).oldHeld = false ∧ (t.banked k.val).active = (s.banked k.val).active ∧
      (∀ m, m < 4 → m ≠ k.val → t.banked m = s.banked m) ∧ t = { s with tbl := t.tbl } := by
  have hraw : exec (.epochRelease k) s = execEpochRelease k s := rfl
  have hgo : (((s.banked k.val).oldHeld && !s.oldInFlight k.val) = true) := by
    rw [hheld, hleft]
    rfl
  have hself := s.setBanked_same (n := k.val) { s.banked k.val with oldHeld := false }
  refine ⟨s.setBanked k.val { s.banked k.val with oldHeld := false }, ?_, (congrArg Banked.oldHeld hself :), (congrArg Banked.active hself :),
    fun m hm hne => s.setBanked_other _ k.isLt hm hne, s.setBanked_frame _ _⟩
  rw [hraw]
  unfold execEpochRelease
  rw [if_pos hgo]

theorem bitsOf_low_two (v : Nat) : bitsOf v 1 0 = v % 4 := by
  rw [bitsOf_eq_div]
  norm_num

/-- EPOCH finds no code when every condition of its table holds. -/
theorem State.epochCode_none (hheld : (s.banked n).oldHeld = false)
    (hrep : n = 0 → s.admitting = false ∧ s.tbl.repLd.fresh = true ∧ s.capSum s.tbl.rep.shadow * s.sysSize ≤ s.fld 0x070048 31 0)
    (hgate : n = 1 → s.tbl.gateLd.fresh = true) : s.epochCode n = none := by
  unfold State.epochCode
  rw [lowest_epoch_checks, hheld]
  by_cases h0 : n = 0
  · obtain ⟨hadmit, hfresh, hlimit⟩ := hrep h0
    have h1 : ¬ n = 1 := by omega
    rw [hadmit, hfresh, decide_eq_true h0, decide_eq_false h1, decide_eq_false (Nat.not_lt.2 hlimit)]
    rfl
  · rw [decide_eq_false h0]
    by_cases h1 : n = 1
    · rw [hgate h1, Bool.not_true, Bool.and_false]
      rfl
    · rw [decide_eq_false h1]
      rfl

/-- The code of an EPOCH that is refused. -/
theorem State.epochCode_some {k : Byte} (h : k = codeOffside ∧ n = 0 ∧ s.admitting = true ∨
    k = codeEpoch ∧ (n = 0 → s.admitting = false) ∧ ((s.banked n).oldHeld = true ∨ n = 0 ∧ s.tbl.repLd.fresh = false ∨
      n = 1 ∧ s.tbl.gateLd.fresh = false ∨ n = 0 ∧ s.fld 0x070048 31 0 < s.capSum s.tbl.rep.shadow * s.sysSize)) :
    s.epochCode n = some k := by
  unfold State.epochCode
  rw [lowest_epoch_checks]
  rcases h with ⟨rfl, rfl, hadmit⟩ | ⟨rfl, hquiet, hcause⟩
  · rw [hadmit]
    rfl
  · have hidle : ¬ (decide (n = 0) && s.admitting) = true := fun h => by
      obtain ⟨h0, hadmit⟩ := Bool.and_eq_true_iff.1 h
      exact Bool.false_ne_true ((hquiet (of_decide_eq_true h0)).symm.trans hadmit)
    rw [if_neg hidle, if_pos]
    simp only [Bool.or_eq_true, Bool.and_eq_true, decide_eq_true_eq, Bool.not_eq_true']
    rcases hcause with h | h | h | h
    · exact Or.inl (Or.inl (Or.inl h))
    · exact Or.inl (Or.inl (Or.inr h))
    · exact Or.inl (Or.inr h)
    · exact Or.inr h

end Loads

/-- Settles O22: EPOCH by its checks, the starts by their causes, and the ends by whether the image is lost. -/
theorem tablesAndEpochs : Obligations.TablesAndEpochs := by
  unfold Obligations.TablesAndEpochs
  refine ⟨fun s c f n e hj hi hn => ⟨fun hheld he hrep hgate => ?_, fun k hk htrap => ?_⟩,
    ⟨fun s v n hready hn hbusy hcause => gldGo_starts hready hn hbusy hcause,
      fun s v n hready hn hbusy hlost hcause => rldGo_starts hready hn hbusy hlost hcause,
      fun s v n hready hn hbusy hcause => gldGo_refused hready hn hbusy hcause, fun s k hheld hleft => epochRelease_does hheld hleft⟩,
    fun s l hl hbusy hfree hdef => ?_, fun s l hl hbusy hfree hdef => ?_⟩
  · obtain ⟨t, hexec, hactive, hbank, hothers, hctx, hrest⟩ :=
      epoch_switches hj hi (hn.trans (bitsOf_low_two f.imm.toNat).symm) (State.epochCode_none hheld hrep hgate)
    have hnext : (s.banked n).nextEpoch = e := by
      rw [he]
      rfl
    have hshadow : (s.banked n).shadow = (match (s.banked n).active with | some _ => 1 - (s.banked n).bank | none => 0) := by
      unfold Banked.shadow
      cases (s.banked n).active <;> rfl
    rw [hnext] at hactive hctx
    exact ⟨t, hexec, hactive, hbank.trans hshadow, hothers, hctx, hrest⟩
  · exact epoch_refused hj hi (hn.trans (bitsOf_low_two f.imm.toNat).symm) (State.epochCode_some hk) htrap
  · subst hl
    refine ⟨gateLoadComplete_ends hbusy hfree hdef, fun k hk => ?_⟩
    obtain ⟨t, hlost, htbl⟩ := State.imageLostRead_tables hk
    rw [gateLoadComplete_eq hbusy hfree hdef, hlost]
    exact ⟨t, rfl, htbl⟩
  · subst hl
    refine ⟨replicaLoadComplete_ends hbusy hfree hdef, fun k hk => ?_⟩
    obtain ⟨t, hlost, htbl⟩ := State.imageLostRead_tables hk
    rw [replicaLoadComplete_eq hbusy hfree hdef, hlost]
    exact ⟨t, rfl, htbl⟩

end Sys2Proof.Machine
end

section
/-! PROOF. Answers that arrive at the origin (R279, R280, R282). -/

namespace Sys2Proof.Machine

open Safety

/-! ### Reorder slots -/

@[simp] theorem State.setRslot_same (s : State) (n : Nat) (r : RSlot) : (s.setRslot n r).rslot n = r := Tab.get_set_same _ _ _ _

@[simp] theorem State.setRslot_other (s : State) {n m : Nat} (r : RSlot) (h : m ≠ n) : (s.setRslot n r).rslot m = s.rslot m :=
  Tab.get_set_other _ _ _ h

theorem State.rslot_congr {s t : State} (h : t.reb = s.reb) (n : Nat) : t.rslot n = s.rslot n := by
  unfold State.rslot
  rw [h]

/-! ### The packet of a segment -/

/-- Only the volley state, the registers and the step record change. -/
def PartFrame (s t : State) : Prop := t = { s with vol := t.vol, regs := t.regs, adm := { s.adm with srec := t.adm.srec } }

theorem PartFrame.trans {s t u : State} (h : PartFrame s t) (k : PartFrame t u) : PartFrame s u :=
  Eq.trans k (congrArg (fun x : State => { x with vol := u.vol, regs := u.regs, adm := { x.adm with srec := u.adm.srec } }) h)

theorem State.answerPart_does (s : State) (f : Frame) : PartFrame s (s.answerPart f).2 ∧
    ∀ o, o ≠ 0x0B0060 → (s.answerPart f).2.reg o = s.reg o := by
  unfold State.answerPart
  split
  · exact ⟨rfl, fun _ _ => rfl⟩
  · dsimp only
    split
    · exact ⟨rfl, fun o ho => s.bump_reg_other 1 ho⟩
    · exact ⟨rfl, fun _ _ => rfl⟩

theorem State.endPart_does (s : State) (p : Part) (seg : Nat) (discarded : Bool) : PartFrame s (s.endPart p seg discarded) ∧
    (s.endPart p seg discarded).regs = s.regs := by
  unfold State.endPart
  dsimp only
  split
  · exact ⟨rfl, rfl⟩
  · exact ⟨rfl, rfl⟩

/-- The first discarded segment of an answer counts. -/
theorem State.dropSegment_counts {s : State} {p : Part} (h : p.buf ≠ 1) (o : Nat) (half : Half) :
    PartFrame s (s.dropSegment p o half) ∧ (s.dropSegment p o half).reg o = s.reg o + 1 := by
  unfold State.dropSegment
  rw [if_neg h]
  have hbump : PartFrame s (s.bump o 1) := rfl
  have hcount := s.bump_reg_same o 1
  generalize s.bump o 1 = t at hbump hcount
  have hrecord : PartFrame t (t.discarded half) := rfl
  exact ⟨hbump.trans hrecord, hcount⟩

/-! ### A segment that is kept -/

section Segment
variable {s t0 : State} {f : Frame} {n : Nat} {r : RSlot}

/-- The half of a tag. -/
def TagRec.halfOf (g : TagRec) : Half := (BitVec.ofNat 1 g.half).toFin

theorem TagRec.halfOf_val (g : TagRec) : g.halfOf.val = g.half % 2 := rfl

theorem answerSegment_part (hrx : s.takeRx 2 = some (f, t0)) {p : Part} {t : State} (hpart : t0.answerPart f = (p, t)) :
    PartFrame s t ∧ (∀ o, o ≠ 0x0B0060 → t.reg o = s.reg o) ∧ t0.reb = s.reb := by
  have hlinks := State.takeRx_links hrx
  obtain ⟨hframe, hreg⟩ := t0.answerPart_does f
  rw [hpart] at hframe hreg
  have hstate : PartFrame s t0 := hlinks.state.trans (by rw [(congrArg State.regs hlinks.state :), (congrArg State.adm hlinks.state :)])
  exact ⟨hstate.trans hframe, fun o ho => (hreg o ho).trans (State.reg_congr (congrArg State.regs hlinks.state :) o), (congrArg State.reb hlinks.state :)⟩

/-- What becomes of a segment that is kept: the answer waits for its others, or it is whole and finds a place. -/
def State.keptSegment (s t : State) (n : Nat) (r : RSlot) (g : TagRec) (a : Answer) (last : Bool) : State :=
  if a.segs.length < segments a.len then
    (if last then (t.setRslot n (r.putAnswer a)).seeChoice n g.choice else t.setRslot n (r.putAnswer a))
  else match (t.setRslot n { (r.putAnswer a) with seen := withBit r.seen g.choice }).placeAnswer n a with
    | none => s
    | some t => t.finishToken n

/-- A segment that passes the checks of its slot. -/
structure Passes (r : RSlot) (g : TagRec) (f : Frame) : Prop where
  opened : r.st = .open_
  half : r.half.val = g.half % 2
  batch : r.batch = g.batch
  gen : r.gen = g.gen
  known : r.known = true
  admitted : r.adm.getLsbD g.choice = true
  unseen : r.seen.getLsbD g.choice = false
  fresh : ∀ a, r.answerOf g.choice = some a → f.seg ∉ a.segs

theorem Passes.notRepeated {g : TagRec} (h : Passes r g f) :
    (r.seen.getLsbD g.choice || (match r.answerOf g.choice with | some a => a.segs.contains f.seg | none => false)) = false := by
  rw [h.unseen, Bool.false_or]
  cases ha : r.answerOf g.choice with
  | none => rfl
  | some a => exact Bool.eq_false_iff.2 fun hc => h.fresh a ha (List.contains_iff_mem.1 hc)

theorem answerSegment_keeps (hrx : s.takeRx 2 = some (f, t0)) {p : Part} {t : State} (hpart : t0.answerPart f = (p, t))
    (hr : t0.rslot f.tag.slot = r) (hpass : Passes r f.tag f) :
    exec .answerSegment s = .next (s.keptSegment (t.endPart p f.seg false) f.tag.slot r f.tag (keepSegment r f.tag f)
      (decide (segments p.len ≤ p.segs.length + 1))) := by
  have hraw : exec .answerSegment s = execAnswerSegment s := rfl
  have hhalf : r.half = (BitVec.ofNat 1 f.tag.half).toFin := Fin.ext (hpass.half.trans f.tag.halfOf_val.symm)
  have hmatch : ¬ (r.st = RState.free ∨ r.half ≠ (BitVec.ofNat 1 f.tag.half).toFin ∨ r.batch ≠ f.tag.batch ∨ r.gen ≠ f.tag.gen) := by
    rintro (h | h | h | h)
    · exact RState.noConfusion (hpass.opened.symm.trans h)
    · exact h hhalf
    · exact h hpass.batch
    · exact h hpass.gen
  have hstands : ¬ r.st = RState.cancelled := fun h => RState.noConfusion (hpass.opened.symm.trans h)
  have hadm : ¬ ((!r.known) = true ∨ (!r.adm.getLsbD f.tag.choice) = true) := by
    rw [hpass.known, hpass.admitted]
    decide
  have hnew := hpass.notRepeated
  rw [hraw]
  unfold execAnswerSegment
  rw [hrx]
  dsimp only
  rw [hpart, hr]
  dsimp only
  rw [if_neg hmatch, if_neg hstands, if_neg hadm]
  exact congrArg Host.Outcome.next (if_neg fun h => Bool.false_ne_true (hnew.symm.trans h))
/-- A segment for a slot that is free is counted once and dropped. -/
theorem answerSegment_dropped (hrx : s.takeRx 2 = some (f, t0)) {p : Part} {t : State} (hpart : t0.answerPart f = (p, t))
    (hfree : (s.rslot f.tag.slot).st = .free) (hfirst : p.buf ≠ 1) : ∃ t, exec .answerSegment s = .next t ∧
      t.reg 0x0C0040 = s.reg 0x0C0040 + 1 ∧ t.rslot f.tag.slot = s.rslot f.tag.slot ∧ t.mem = s.mem := by
  have hraw : exec .answerSegment s = execAnswerSegment s := rfl
  obtain ⟨hframe, hreg, hreb⟩ := answerSegment_part hrx hpart
  have hslot : t0.rslot f.tag.slot = s.rslot f.tag.slot := State.rslot_congr hreb _
  rw [hraw]
  unfold execAnswerSegment
  rw [hrx]
  dsimp only
  rw [hpart, hslot]
  dsimp only
  rw [if_pos (Or.inl hfree)]
  obtain ⟨hdrop, hcount⟩ := State.dropSegment_counts (s := t) hfirst 0x0C0040 (BitVec.ofNat 1 f.tag.half).toFin
  generalize t.dropSegment p 0x0C0040 (BitVec.ofNat 1 f.tag.half).toFin = v at hdrop hcount
  obtain ⟨hend, hregs⟩ := v.endPart_does p f.seg true
  have hall := (hframe.trans hdrop).trans hend
  generalize v.endPart p f.seg true = w at hend hregs hall
  exact ⟨w, rfl, (State.reg_congr hregs _).trans (hcount.trans (congrArg (· + 1) (hreg 0x0C0040 (by decide)))),
    State.rslot_congr (congrArg State.reb hall :) _, (congrArg State.mem hall :)⟩

/-- The answer of its choice that a segment is kept in. -/
theorem keepSegment_choice (r : RSlot) (g : TagRec) (f : Frame) : (keepSegment r g f).choice = g.choice := by
  have hfound : ((r.answerOf g.choice).getD ⟨g.choice, g.weight, 0, 0, f.len, [], true, [], none, false⟩).choice = g.choice := by
    cases ha : r.answerOf g.choice with
    | none => rfl
    | some a =>
      unfold RSlot.answerOf at ha
      exact of_decide_eq_true (List.find?_some ha :)
  exact hfound

/-- A segment that leaves its answer short of others waits with them. -/
theorem answerSegment_waits (hrx : s.takeRx 2 = some (f, t0)) {p : Part} {t : State} (hpart : t0.answerPart f = (p, t))
    (hr : s.rslot f.tag.slot = r) (hpass : Passes r f.tag f)
    (hshort : (keepSegment r f.tag f).segs.length < segments (keepSegment r f.tag f).len) (hmore : p.segs.length + 1 < segments p.len) :
    ∃ t, exec .answerSegment s = .next t ∧ t.rslot f.tag.slot = r.putAnswer (keepSegment r f.tag f) ∧ t.mem = s.mem ∧
      (∀ m, m ≠ f.tag.slot → t.rslot m = s.rslot m) := by
  obtain ⟨hframe, -, hreb⟩ := answerSegment_part hrx hpart
  have hall := hframe.trans (t.endPart_does p f.seg false).1
  rw [answerSegment_keeps hrx hpart ((State.rslot_congr hreb _).trans hr) hpass]
  generalize t.endPart p f.seg false = w at hall
  have hlast : decide (segments p.len ≤ p.segs.length + 1) = false := decide_eq_false (Nat.not_le.2 hmore)
  refine ⟨w.setRslot f.tag.slot (r.putAnswer (keepSegment r f.tag f)), ?_, State.setRslot_same _ _ _, (congrArg State.mem hall :),
    fun m hm => (State.setRslot_other _ _ hm).trans (State.rslot_congr (congrArg State.reb hall :) m)⟩
  unfold State.keptSegment
  rw [if_pos hshort, hlast]
  rfl

/-! ### A whole answer that is added -/

theorem State.weighted_congr {s t : State} (hmem : t.mem = s.mem) (a : Answer) : t.weighted a = s.weighted a := by
  have hnum (x k : Nat) : t.num x k = s.num x k := by
    unfold State.num
    rw [hmem]
  unfold State.weighted State.answerVals
  simp only [hnum]

/-- With the token's sum open, and in Flow order, a whole answer is added at once. -/
theorem State.placeAnswer_adds {v : State} {a : Answer} {l : List Word} (hacc : (v.rslot n).acc = some l)
    (hflow : v.orderedAdds (v.rslot n).half.val = false) : v.placeAnswer n a = some (v.addAnswer n a) := by
  unfold State.placeAnswer
  dsimp only
  rw [hacc, hflow]
  rfl

theorem State.returnRes_does (v : State) (n k : Nat) : (v.returnRes n k).rslot n = { v.rslot n with res := ((v.returnRes n k).rslot n).res } ∧
    (∀ m, m ≠ n → (v.returnRes n k).rslot m = v.rslot m) ∧ v.returnRes n k = { v with reb := (v.returnRes n k).reb } := by
  unfold State.returnRes
  dsimp only
  refine ⟨?_, fun m hm => State.setRslot_other _ _ hm, rfl⟩
  rw [State.setRslot_same]

/-- The sum of an answer with what has been added before it. -/
theorem State.addAnswer_does {v : State} {a : Answer} {l : List Word} (hacc : (v.rslot n).acc = some l) :
    ((v.addAnswer n a).rslot n).acc = some (accAdd l (v.weighted a)) ∧ ((v.addAnswer n a).rslot n).done = withBit (v.rslot n).done a.choice ∧
      ((v.addAnswer n a).rslot n).seen = (v.rslot n).seen ∧ ((v.addAnswer n a).rslot n).half = (v.rslot n).half ∧
      (∀ m, m ≠ n → (v.addAnswer n a).rslot m = v.rslot m) ∧ v.addAnswer n a = { v with reb := (v.addAnswer n a).reb } := by
  unfold State.addAnswer
  dsimp only
  rw [hacc]
  dsimp only
  obtain ⟨hself, hother, hframe⟩ := (v.setRslot n { ((v.rslot n).putAnswer { a with bytes := [], parked := false }) with
    acc := some (accAdd l (v.weighted a)), done := withBit ((v.rslot n).putAnswer { a with bytes := [], parked := false }).done a.choice }).returnRes_does n 1
  generalize State.returnRes _ n 1 = t at hself hother hframe
  rw [State.setRslot_same] at hself
  exact ⟨(congrArg RSlot.acc hself :), (congrArg RSlot.done hself :), (congrArg RSlot.seen hself :), (congrArg RSlot.half hself :),
    fun m hm => (hother m hm).trans (State.setRslot_other _ _ hm), hframe.trans rfl⟩

/-- The last segment of an answer, with the sum of its token open, adds the answer. -/
theorem answerSegment_adds (hrx : s.takeRx 2 = some (f, t0)) {p : Part} {t : State} (hpart : t0.answerPart f = (p, t))
    (hr : s.rslot f.tag.slot = r) (hpass : Passes r f.tag f) {l : List Word}
    (hwhole : segments (keepSegment r f.tag f).len ≤ (keepSegment r f.tag f).segs.length) (hacc : r.acc = some l)
    (hflow : s.orderedAdds r.half.val = false) (hidle : s.combineOf r.half.val = none) :
    ∃ t, exec .answerSegment s = .next t ∧ (t.rslot f.tag.slot).acc = some (accAdd l (s.weighted (keepSegment r f.tag f))) ∧
      (t.rslot f.tag.slot).done = withBit r.done f.tag.choice ∧ (t.rslot f.tag.slot).seen = withBit r.seen f.tag.choice ∧ t.mem = s.mem ∧
      (∀ m, m ≠ f.tag.slot → t.rslot m = s.rslot m) := by
  obtain ⟨hframe, hreg, hreb⟩ := answerSegment_part hrx hpart
  obtain ⟨hend, hregs⟩ := t.endPart_does p f.seg false
  have hall := hframe.trans hend
  rw [answerSegment_keeps hrx hpart ((State.rslot_congr hreb _).trans hr) hpass]
  have hchoice := keepSegment_choice r f.tag f
  generalize t.endPart p f.seg false = w at hend hregs hall
  generalize keepSegment r f.tag f = a at hwhole hchoice
  have hmode : w.ordered = s.ordered :=
    congrArg (fun x : Word => bitsOf x.toNat 0 0 == 1) ((State.reg_congr hregs 0x1000).trans (hreg 0x1000 (by decide)))
  have hkept : w.setRslot f.tag.slot { (r.putAnswer a) with seen := withBit r.seen f.tag.choice } =
      { w with reb := (w.setRslot f.tag.slot { (r.putAnswer a) with seen := withBit r.seen f.tag.choice }).reb } := rfl
  have hself := w.setRslot_same f.tag.slot { (r.putAnswer a) with seen := withBit r.seen f.tag.choice }
  have hother (m : Nat) (hm : m ≠ f.tag.slot) := w.setRslot_other { (r.putAnswer a) with seen := withBit r.seen f.tag.choice } hm
  unfold State.keptSegment
  rw [if_neg (Nat.not_lt.2 hwhole)]
  generalize w.setRslot f.tag.slot { (r.putAnswer a) with seen := withBit r.seen f.tag.choice } = v at hkept hself hother
  have hucmds : v.ucmds = s.ucmds := (congrArg State.ucmds hkept :).trans (congrArg State.ucmds hall :)
  have hacc' : (v.rslot f.tag.slot).acc = some l := (congrArg RSlot.acc hself :).trans hacc
  have hhalf : (v.rslot f.tag.slot).half = r.half := (congrArg RSlot.half hself :)
  have hflow' : v.orderedAdds (v.rslot f.tag.slot).half.val = false := by
    have hordered : v.ordered = s.ordered := (congrArg State.ordered hkept :).trans hmode
    rw [hhalf, ← hflow]
    unfold State.orderedAdds State.combineIssued
    rw [hordered, hucmds]
  rw [State.placeAnswer_adds hacc' hflow']
  obtain ⟨hsum, hdone, hseen, hsame, hothers, hframe'⟩ := State.addAnswer_does (a := a) hacc'
  dsimp only
  generalize v.addAnswer f.tag.slot a = u at hsum hdone hseen hsame hothers hframe'
  have hmem : v.mem = s.mem := (congrArg State.mem hkept :).trans (congrArg State.mem hall :)
  have hfinish : u.finishToken f.tag.slot = u := by
    have hnone : u.combineOf (u.rslot f.tag.slot).half.val = none := by
      rw [hsame, hhalf, ← hidle]
      unfold State.combineOf
      rw [(congrArg State.ucmds hframe' :), hucmds]
    unfold State.finishToken
    dsimp only
    rw [hnone]
  rw [hfinish]
  refine ⟨u, rfl, ?_, ?_, hseen.trans (congrArg RSlot.seen hself :), (congrArg State.mem hframe' :).trans hmem, fun m hm => ?_⟩
  · rw [hsum, State.weighted_congr hmem]
  · rw [hdone, hchoice]
    exact congrArg (withBit · f.tag.choice) (congrArg RSlot.done hself :)
  · exact (hothers m hm).trans ((hother m hm).trans (State.rslot_congr (congrArg State.reb hall :) m))

end Segment

end Sys2Proof.Machine
end

section
/-! PROOF. The emission of results, and cancellation (R275, R286, R287, R289). -/

namespace Sys2Proof.Machine

open Safety

/-! ### The release of a slot -/

/-- Only the state of Rebound changes, and of the reorder slots only slot `n`. -/
structure SlotFrame (n : Nat) (s t : State) : Prop where
  state : t = { s with reb := t.reb }
  others : ∀ m, m ≠ n → t.rslot m = s.rslot m
  eptr : t.reb.eptr = s.reb.eptr
  emitted : t.reb.emitted = s.reb.emitted

variable {n : Nat}

theorem SlotFrame.refl (s : State) : SlotFrame n s s := ⟨rfl, fun _ _ => rfl, rfl, rfl⟩

theorem SlotFrame.trans {s t u : State} (h : SlotFrame n s t) (k : SlotFrame n t u) : SlotFrame n s u where
  state := k.state.trans (congrArg (fun x : State => { x with reb := u.reb }) h.state)
  others m hm := (k.others m hm).trans (h.others m hm)
  eptr := k.eptr.trans h.eptr
  emitted := k.emitted.trans h.emitted

theorem State.setRslot_slotFrame (s : State) (n : Nat) (r : RSlot) : SlotFrame n s (s.setRslot n r) :=
  ⟨rfl, fun _ hm => State.setRslot_other _ _ hm, rfl, rfl⟩

theorem State.giveAns_slots (s : State) (n a : Nat) : SlotFrame n s (s.giveAns a) := by
  unfold State.giveAns
  split
  · exact .refl s
  · exact ⟨rfl, fun _ _ => rfl, rfl, rfl⟩

theorem State.freeHeld_slotFrame (s : State) (n : Nat) : SlotFrame n s (s.freeHeld n) := by
  have hgive (l : List Nat) (t : State) : SlotFrame n t (l.foldl State.giveAns t) := by
    induction l generalizing t with
    | nil => exact .refl t
    | cons a l ih => exact (t.giveAns_slots n a).trans (ih _)
  have hlines : SlotFrame n s (s.giveLines (s.rslot n).lines) := ⟨rfl, fun _ _ => rfl, rfl, rfl⟩
  exact (hlines.trans (hgive _ _)).trans (State.setRslot_slotFrame _ n _)

theorem State.returnRes_slotFrame (s : State) (n k : Nat) : SlotFrame n s (s.returnRes n k) := by
  obtain ⟨-, hother, hframe⟩ := s.returnRes_does n k
  exact ⟨hframe, hother, rfl, rfl⟩

/-- A slot that is released is as after a reset. -/
theorem State.releaseSlot_does (s : State) (n : Nat) : SlotFrame n s (s.releaseSlot n) ∧ (s.releaseSlot n).rslot n = RSlot.reset := by
  have hfreed := (s.freeHeld_slotFrame n).trans (State.returnRes_slotFrame (s.freeHeld n) n (s.rslot n).res)
  unfold State.releaseSlot
  dsimp only
  generalize (s.freeHeld n).returnRes n (s.rslot n).res = t at hfreed
  have hset := t.setRslot_slotFrame n RSlot.reset
  have hself := t.setRslot_same n RSlot.reset
  generalize t.setRslot n RSlot.reset = u at hset hself
  exact ⟨(hfreed.trans hset).trans ⟨rfl, fun _ _ => rfl, rfl, rfl⟩, hself⟩

/-! ### The row at the emission pointer -/

section Emission
variable {s : State} {h : Half} {u : UCmd} {row : Nat}

/-- The OPEN slot of a row. -/
theorem State.rowOpen_some (hopen : s.rowOpen h.val row = some n) : s.rowSlot h.val row = some n ∧ (s.rslot n).st = .open_ ∧
    (s.rslot n).half.val = h.val ∧ (s.rslot n).row = row ∧ s.rowGone h.val row = false := by
  unfold State.rowOpen at hopen
  obtain ⟨hslot, hfor⟩ := Option.filter_eq_some_iff.1 hopen
  have hparts := hfor
  unfold State.openFor at hparts
  simp only [Bool.and_eq_true, decide_eq_true_eq] at hparts
  obtain ⟨⟨hst, hhalf⟩, hrow⟩ := hparts
  refine ⟨hslot, hst, hhalf, hrow, ?_⟩
  unfold State.rowGone
  rw [hslot]
  exact congrArg (!·) hfor

/-- The pointer stays at a row that is not cancelled. -/
theorem State.passRows_stays {row : Nat} (hrow : s.reb.eptr.getD h.val 0 = row) (hgone : s.rowGone h.val row = false) (k : Nat) :
    s.passRows h.val k = s := by
  cases k with
  | zero => rfl
  | succ k =>
    unfold State.passRows
    dsimp only
    rw [hrow, if_neg (fun hc => Bool.false_ne_true (hgone.symm.trans hc.2))]

/-- The zeros that a token with every choice dropped gives (R287). -/
theorem State.resultBytes_dropped {r : RSlot} (hknown : r.known = true) (hadm : r.adm = 0) (size : Nat) :
    s.resultBytes r size = some (List.replicate size 0#8) := by
  unfold State.resultBytes
  rw [if_pos ⟨hknown, hadm⟩]

theorem State.finishToken_dropped (hadm : (s.rslot n).adm = 0) : s.finishToken n = s := by
  unfold State.finishToken
  dsimp only
  split
  · rfl
  · rw [hadm, decide_eq_true rfl, Bool.or_true, Bool.true_or]
    rfl

theorem State.bytes_setBytes (s : State) (a : Nat) (bs : List Byte) : (s.setBytes a bs).bytes a bs.length = bs :=
  bytesRead_bytesWrite bs s.mem a

/-- The packet and the row are out, and counted. -/
def State.sendRow (s : State) (q a : Nat) (ws : List QWord) (bs : List Byte) : State :=
  (((s.push q ws).setBytes a bs).bump 0x0C0054 1).bump 0x0C0058 1

theorem State.sendRow_does (s : State) (q a : Nat) (ws : List QWord) (bs : List Byte) :
    (s.sendRow q a ws bs).reb = s.reb ∧ (s.sendRow q a ws bs).ctxs = s.ctxs ∧ (s.sendRow q a ws bs).bytes a bs.length = bs ∧
      (s.sendRow q a ws bs).reg 0x0C0054 = s.reg 0x0C0054 + 1 ∧ (s.sendRow q a ws bs).reg 0x0C0058 = s.reg 0x0C0058 + 1 := by
  have hwork := s.push_work q ws
  have hstore := s.push_store q ws
  unfold State.sendRow
  generalize s.push q ws = t at hwork hstore
  have hreb : t.reb = s.reb := (congrArg State.reb hstore :)
  refine ⟨hreb, hwork.ctxs, t.bytes_setBytes a bs, ?_, ?_⟩
  · rw [State.bump_reg_other _ _ (by decide), State.bump_reg_same]
    exact congrArg (· + 1) (hwork.regs 0x0C0054 (Or.inl (by decide)))
  · rw [State.bump_reg_same, State.bump_reg_other _ _ (by decide)]
    exact congrArg (· + 1) (hwork.regs 0x0C0058 (Or.inl (by decide)))

/-- The half's digests take the row, the pointer goes on, and the slot is released. -/
def State.passOn (s : State) (n h row : Nat) (x y : List Byte) : State :=
  let t := (s.addItem 8 h x).addItem 6 h y
  ({ t with reb := { t.reb with eptr := t.reb.eptr.set h (row + 1), emitted := t.reb.emitted.set h (t.reb.emitted.getD h 0 + 1) } } :
    State).releaseSlot n

theorem getD_set_self {α : Type} {l : List α} {i : Nat} (hi : i < l.length) (a d : α) : (l.set i a).getD i d = a := by
  rw [List.getD_eq_getElem?_getD, List.getElem?_set_self hi]
  rfl

theorem State.passOn_does (s : State) (n row : Nat) (x y : List Byte) {h : Nat} (hptr : h < s.reb.eptr.length)
    (hout : h < s.reb.emitted.length) : (s.passOn n h row x y).reb.eptr.getD h 0 = row + 1 ∧ (s.passOn n h row x y).rslot n = RSlot.reset ∧
      (s.passOn n h row x y).reb.emitted.getD h 0 = s.reb.emitted.getD h 0 + 1 ∧ (s.passOn n h row x y).regs = s.regs ∧
      (s.passOn n h row x y).mem = s.mem ∧ (s.passOn n h row x y).ctxs = s.ctxs := by
  have hnext : ∃ v : State, s.passOn n h row x y = v.releaseSlot n ∧ v.reb.eptr = s.reb.eptr.set h (row + 1) ∧
      v.reb.emitted = s.reb.emitted.set h (s.reb.emitted.getD h 0 + 1) ∧ v.regs = s.regs ∧ v.mem = s.mem ∧ v.ctxs = s.ctxs :=
    ⟨_, rfl, rfl, rfl, rfl, rfl, rfl⟩
  obtain ⟨v, hv, heptr, hemitted, hregs, hmem, hctxs⟩ := hnext
  rw [hv]
  obtain ⟨hframe, hreset⟩ := v.releaseSlot_does n
  generalize v.releaseSlot n = t at hframe hreset
  refine ⟨?_, hreset, ?_, (congrArg State.regs hframe.state :).trans hregs, (congrArg State.mem hframe.state :).trans hmem,
    (congrArg State.ctxs hframe.state :).trans hctxs⟩
  · rw [hframe.eptr, heptr, getD_set_self hptr]
  · rw [hframe.emitted, hemitted, getD_set_self hout]

/-- The row of a token with every choice dropped, emitted for the first time. -/
theorem State.emit_dropped {bs : List Byte} (hadm : (s.rslot n).adm = 0)
    (hfirst : s.ref.emitted.getD (s.rslot n).half.val 0 ≤ (s.rslot n).row) : ∃ ws x y, s.emit u n bs =
      (s.sendRow u.queue ((u.descA.rowRuns (s.rslot n).row).headD 0) ws bs).passOn n (s.rslot n).half.val (s.rslot n).row x y := by
  have hagain : decide ((s.rslot n).row < s.ref.emitted.getD (s.rslot n).half.val 0) = false := decide_eq_false (Nat.not_lt.2 hfirst)
  unfold State.emit
  dsimp only
  rw [hagain, if_pos hadm]
  exact ⟨_, _, _, rfl⟩

theorem resultEmission_dropped (hu : s.combineOf h.val = some u) (hrow : s.reb.eptr.getD h.val 0 = row) (hptr : s.reb.eptr.length = 2)
    (hout : s.reb.emitted.length = 2) (htaken : row < s.takenOf h.val) (hopen : s.rowOpen h.val row = some n)
    (hknown : (s.rslot n).known = true) (hadm : (s.rslot n).adm = 0) (hres : (s.rslot n).resAddr = none)
    (hfirst : s.ref.emitted.getD h.val 0 ≤ row) (hflow : s.flow = []) :
    ∃ t, exec (.resultEmission h) s = .next t ∧ t.reb.eptr.getD h.val 0 = row + 1 ∧ t.rslot n = RSlot.reset ∧
      t.reb.emitted.getD h.val 0 = s.reb.emitted.getD h.val 0 + 1 ∧ t.reg 0x0C0054 = s.reg 0x0C0054 + 1 ∧
      t.reg 0x0C0058 = s.reg 0x0C0058 + 1 ∧
      t.bytes ((u.descA.rowRuns row).headD 0) (u.descA.ext 0 * unitSize u.descA.fmt) =
        List.replicate (u.descA.ext 0 * unitSize u.descA.fmt) 0 ∧ t.ctxs = s.ctxs := by
  obtain ⟨-, -, hhalf, hrowOf, hgone⟩ := State.rowOpen_some hopen
  have hquiet : s.flowing u.queue = false := by
    unfold State.flowing
    rw [hflow]
    rfl
  have hgood : s.lostResult u (s.rslot n) (u.descA.ext 0 * unitSize u.descA.fmt) = none := by
    unfold State.lostResult
    rw [hres, hhalf, hrowOf]
    exact if_neg (Nat.not_lt.2 hfirst)
  have hexec : exec (.resultEmission h) s = .next (s.emit u n (List.replicate (u.descA.ext 0 * unitSize u.descA.fmt) 0#8)) := by
    have hraw : exec (.resultEmission h) s = execResultEmission h s := rfl
    rw [hraw]
    unfold execResultEmission
    rw [hu]
    dsimp only
    rw [State.passRows_stays hrow hgone, hrow, if_neg (Nat.not_le.2 htaken), hopen]
    dsimp only
    rw [State.finishToken_dropped hadm, State.resultBytes_dropped hknown hadm]
    dsimp only
    rw [hquiet, hgood]
    rfl
  obtain ⟨ws, x, y, hemit⟩ := State.emit_dropped (u := u) (bs := List.replicate (u.descA.ext 0 * unitSize u.descA.fmt) 0#8) hadm
    (by rw [hhalf, hrowOf]; exact hfirst)
  rw [hhalf, hrowOf] at hemit
  rw [hexec, hemit]
  obtain ⟨hreb, hctxs, hbytes, hzero, hall⟩ := s.sendRow_does u.queue ((u.descA.rowRuns row).headD 0) ws
    (List.replicate (u.descA.ext 0 * unitSize u.descA.fmt) 0#8)
  rw [List.length_replicate] at hbytes
  generalize s.sendRow _ _ _ _ = v at hreb hctxs hbytes hzero hall
  obtain ⟨heptr, hreset, hemitted, hregs, hmem, hctxs'⟩ := v.passOn_does n row x y (h := h.val) (by rw [hreb, hptr]; exact h.isLt)
    (by rw [hreb, hout]; exact h.isLt)
  generalize v.passOn n h.val row x y = t at heptr hreset hemitted hregs hmem hctxs'
  refine ⟨t, rfl, heptr, hreset, ?_, (State.reg_congr hregs _).trans hzero, (State.reg_congr hregs _).trans hall, ?_, hctxs'.trans hctxs⟩
  · rw [hemitted, hreb]
  · exact (congrArg (fun m => bytesRead m _ _) hmem).trans hbytes

end Emission

/-! ### Cancellation -/

/-- A slot that is cancelled is no longer OPEN; no other slot changes. -/
theorem State.cancelSlot_does (s : State) (n : Nat) : SlotFrame n s (s.cancelSlot n) ∧ ((s.cancelSlot n).rslot n).st ≠ .open_ := by
  have hfreed := (s.freeHeld_slotFrame n).trans (State.returnRes_slotFrame (s.freeHeld n) n (s.rslot n).heldRes)
  unfold State.cancelSlot
  dsimp only
  generalize (s.freeHeld n).returnRes n (s.rslot n).heldRes = t at hfreed
  have hset := t.setRslot_slotFrame n { t.rslot n with st := .cancelled }
  have hself := t.setRslot_same n { t.rslot n with st := .cancelled }
  generalize t.setRslot n { t.rslot n with st := .cancelled } = u at hset hself
  have hcancelled : (u.rslot n).st ≠ .open_ := by
    rw [hself]
    exact fun h => RState.noConfusion h
  unfold State.drainSlot
  dsimp only
  split
  · obtain ⟨hrelease, hreset⟩ := u.releaseSlot_does n
    refine ⟨(hfreed.trans hset).trans hrelease, ?_⟩
    rw [hreset]
    exact fun h => RState.noConfusion h
  · exact ⟨hfreed.trans hset, hcancelled⟩

/-- Cancelling a list of slots leaves every other slot, and leaves none of them OPEN. -/
theorem State.cancelSlots_does (l : List Nat) (s : State) : l.foldl State.cancelSlot s = { s with reb := (l.foldl State.cancelSlot s).reb } ∧
    (∀ n, n ∉ l → (l.foldl State.cancelSlot s).rslot n = s.rslot n) ∧
    (∀ n, n ∈ l ∨ (s.rslot n).st ≠ .open_ → ((l.foldl State.cancelSlot s).rslot n).st ≠ .open_) := by
  induction l generalizing s with
  | nil => exact ⟨rfl, fun _ _ => rfl, fun n h => h.resolve_left List.not_mem_nil⟩
  | cons m l ih =>
    obtain ⟨hone, hclosed⟩ := s.cancelSlot_does m
    obtain ⟨hframe, hkeep, hall⟩ := ih (s.cancelSlot m)
    refine ⟨hframe.trans (congrArg (fun x : State => { x with reb := (l.foldl State.cancelSlot (s.cancelSlot m)).reb }) hone.state),
      fun n hn => ?_, fun n hn => ?_⟩
    · have hne : n ≠ m := fun h => hn (h ▸ List.mem_cons_self)
      exact (hkeep n fun h => hn (List.mem_cons_of_mem m h)).trans (hone.others n hne)
    · refine hall n ?_
      by_cases hnm : n = m
      · rw [hnm]
        exact Or.inr hclosed
      · rcases hn with hn | hn
        · exact Or.inl ((List.mem_cons.1 hn).resolve_left hnm)
        · refine Or.inr ?_
          rw [hone.others n hnm]
          exact hn

theorem Tab.lt_of_mem_rising {α : Type} {m : Tab α} {l i : Nat} {v : α} (h : Tab.rising (some l) m = true) (hmem : (i, v) ∈ m) : l < i := by
  induction m generalizing l with
  | nil => exact absurd hmem List.not_mem_nil
  | cons e m ih =>
    obtain ⟨k, x⟩ := e
    obtain ⟨hk, htail⟩ := Bool.and_eq_true_iff.1 (h : (decide (l < k) && Tab.rising (some k) m) = true)
    rcases List.mem_cons.1 hmem with heq | hin
    · rw [(Prod.mk.inj heq).1]
      exact of_decide_eq_true hk
    · exact (of_decide_eq_true hk).trans (ih htail hin)

/-- In a table in rising order an entry is what a look-up finds. -/
theorem Tab.get_of_mem_rising {α : Type} {d : α} {m : Tab α} {lo : Option Nat} (h : Tab.rising lo m = true) {i : Nat} {v : α}
    (hmem : (i, v) ∈ m) : Tab.get d m i = v := by
  induction m generalizing lo with
  | nil => exact absurd hmem List.not_mem_nil
  | cons e m ih =>
    obtain ⟨k, x⟩ := e
    have htail := Tab.rising_tail h
    unfold Tab.get
    rcases List.mem_cons.1 hmem with heq | hin
    · obtain ⟨hi, hv⟩ := Prod.mk.inj heq
      rw [if_pos hi.symm, hv]
    · have hlt := Tab.lt_of_mem_rising htail hin
      rw [if_neg (by omega)]
      exact ih htail hin

theorem State.cancelWhere_does {s : State} (hrising : Tab.rising none s.reb.slots = true) (p : RSlot → Bool) :
    (s.cancelWhere p).2 = { s with reb := (s.cancelWhere p).2.reb } ∧
    (∀ n, (s.rslot n).st = .open_ → p (s.rslot n) = true → ((s.cancelWhere p).2.rslot n).st ≠ .open_) ∧
    (∀ n, (s.rslot n).st ≠ .open_ ∨ p (s.rslot n) = false → (s.cancelWhere p).2.rslot n = s.rslot n) := by
  have hmem (n : Nat) : n ∈ (s.reb.slots.filter fun x => decide (x.2.st = RState.open_) && p x.2).map (·.1) ↔
      (s.rslot n).st = .open_ ∧ p (s.rslot n) = true := by
    constructor
    · intro h
      obtain ⟨⟨i, r⟩, hx, rfl⟩ := List.mem_map.1 h
      obtain ⟨hin, hpred⟩ := List.mem_filter.1 hx
      have hget : s.rslot i = r := Tab.get_of_mem_rising hrising hin
      rw [hget]
      exact (Bool.and_eq_true_iff.1 hpred).imp of_decide_eq_true id
    · rintro ⟨hst, hp⟩
      refine List.mem_map.2 ⟨(n, s.rslot n), List.mem_filter.2 ⟨Tab.mem_of_get_ne fun h => ?_, ?_⟩, rfl⟩
      · exact RState.noConfusion (hst.symm.trans (congrArg RSlot.st h))
      · exact Bool.and_eq_true_iff.2 ⟨decide_eq_true hst, hp⟩
  obtain ⟨hframe, hkeep, hall⟩ := State.cancelSlots_does
    ((s.reb.slots.filter fun x => decide (x.2.st = RState.open_) && p x.2).map (·.1)) s
  refine ⟨hframe, fun n hst hp => hall n (Or.inl ((hmem n).2 ⟨hst, hp⟩)), fun n h => hkeep n fun hn => ?_⟩
  obtain ⟨hst, hp⟩ := (hmem n).1 hn
  rcases h with h | h
  · exact h hst
  · exact Bool.false_ne_true (h.symm.trans hp)

/-- The word of a cancellation names its batch. -/
theorem cancelWord (b : BitVec 14) : (BitVec.ofNat 32 (b.toNat + 2 ^ 31)).getLsbD 31 = true ∧
    BitVec.ofNat 14 (BitVec.ofNat 32 (b.toNat + 2 ^ 31)).toNat = b := by
  have hlt := b.isLt
  have hval : (BitVec.ofNat 32 (b.toNat + 2 ^ 31)).toNat = b.toNat + 2 ^ 31 := by
    rw [BitVec.toNat_ofNat]
    omega
  have hbit : (b.toNat + 2 ^ 31) / 2 ^ 31 % 2 = 1 := by omega
  constructor
  · rw [BitVec.getLsbD, hval, Nat.testBit_eq_decide_div_mod_eq, hbit]
    rfl
  · refine BitVec.eq_of_toNat_eq ?_
    rw [hval, BitVec.toNat_ofNat]
    omega

theorem State.cancelWrite_go {s : State} {v : Word} (hgo : v.getLsbD 31 = true) : ∃ k, s.cancelWrite v =
    (codeOk, { (s.cancelWhere fun r => decide (r.batch = BitVec.ofNat 14 v.toNat)).2 with
      reb := { (s.cancelWhere fun r => decide (r.batch = BitVec.ofNat 14 v.toNat)).2.reb with cancelled := k } }) := by
  unfold State.cancelWrite
  rw [hgo]
  exact ⟨_, rfl⟩

theorem State.cancelWrite_batch (s : State) (b : BitVec 14) : ∃ k, s.cancelWrite (BitVec.ofNat 32 (b.toNat + 2 ^ 31)) =
    (codeOk, { (s.cancelWhere fun r => decide (r.batch = b)).2 with
      reb := { (s.cancelWhere fun r => decide (r.batch = b)).2.reb with cancelled := k } }) := by
  obtain ⟨hgo, hbatch⟩ := cancelWord b
  obtain ⟨k, hk⟩ := State.cancelWrite_go (s := s) hgo
  rw [hbatch] at hk
  exact ⟨k, hk⟩

theorem State.hostWrite_answers {s t : State} {off : Nat} {body : State → Byte × State} {k : Byte} (hready : HostReady s off)
    (hbody : body s = (k, t)) : s.hostWrite off body = t.wstat off k := by
  rw [State.hostWrite_ready hready, hbody]

theorem exec_rebCancel (b : BitVec 14) (s : State) :
    exec (.rebCancel b) s = .next (s.hostWrite 0x0C0020 fun t => t.cancelWrite (BitVec.ofNat 32 (b.toNat + 2 ^ 31))) := rfl

theorem rebCancel_does {s : State} {b : BitVec 14} (hready : HostReady s 0x0C0020) (hrising : Tab.rising none s.reb.slots = true) :
    ∃ t, exec (.rebCancel b) s = .next t ∧ WriteCode t 0x0C0020 codeOk ∧
      (∀ n, (s.rslot n).st = .open_ → (s.rslot n).batch = b → (t.rslot n).st ≠ .open_) ∧
      (∀ n, (s.rslot n).st ≠ .open_ ∨ (s.rslot n).batch ≠ b → t.rslot n = s.rslot n) ∧ t.mem = s.mem ∧ t.ctxs = s.ctxs := by
  obtain ⟨k, hwrite⟩ := s.cancelWrite_batch b
  rw [exec_rebCancel, State.hostWrite_answers hready hwrite]
  obtain ⟨hframe, hends, hkeeps⟩ := State.cancelWhere_does hrising fun r => decide (r.batch = b)
  generalize (s.cancelWhere fun r => decide (r.batch = b)).2 = u at hframe hends hkeeps
  have hslot (n : Nat) : ({ u with reb := { u.reb with cancelled := k } } : State).rslot n = u.rslot n := rfl
  have hmem : u.mem = s.mem := (congrArg State.mem hframe :)
  have hctxs : u.ctxs = s.ctxs := (congrArg State.ctxs hframe :)
  obtain ⟨hcode, -, heq⟩ := ({ u with reb := { u.reb with cancelled := k } } : State).wstat_does 0x0C0020 codeOk
  generalize State.wstat _ 0x0C0020 codeOk = t at hcode heq
  have hsame (n : Nat) : t.rslot n = u.rslot n := (State.rslot_congr (congrArg State.reb heq :) n).trans (hslot n)
  refine ⟨t, rfl, hcode, fun n hst hb => ?_, fun n h => ?_, (congrArg State.mem heq :).trans hmem, (congrArg State.ctxs heq :).trans hctxs⟩
  · rw [hsame n]
    exact hends n hst (decide_eq_true hb)
  · exact (hsame n).trans (hkeeps n (h.imp_right fun hb => decide_eq_false hb))

/-- Settles O55: a segment by the checks of its slot, an emission by the token at the pointer, and a cancellation slot by slot. -/
theorem answersAndResults : Obligations.AnswersAndResults := by
  unfold Obligations.AnswersAndResults
  refine ⟨?_, fun s hnone => ?_, fun s h hnone => ?_, fun s h u n row hu hrow hptr hout htaken hopen hknown hadm hres hfirst hflow =>
    resultEmission_dropped hu hrow hptr hout htaken hopen hknown hadm hres hfirst hflow, fun s b hready hrising => rebCancel_does hready hrising⟩
  · rintro s t0 f g n r p hrx rfl rfl rfl hp
    have hpart : t0.answerPart f = (p, (t0.answerPart f).2) := Prod.ext hp rfl
    refine ⟨fun hfree hfirst => answerSegment_dropped hrx hpart hfree hfirst, fun hopen hhalf hbatch hgen hknown hadm hseen hfresh => ?_⟩
    have hpass : Passes (s.rslot f.tag.slot) f.tag f := ⟨hopen, hhalf, hbatch, hgen, hknown, hadm, hseen, hfresh⟩
    exact ⟨fun hshort hmore => answerSegment_waits hrx hpart rfl hpass hshort hmore,
      fun l hwhole hacc hflow hidle => answerSegment_adds hrx hpart rfl hpass hwhole hacc hflow hidle⟩
  · have hraw : exec .answerSegment s = execAnswerSegment s := rfl
    rw [hraw]
    unfold execAnswerSegment
    rw [hnone]
  · have hraw : exec (.resultEmission h) s = execResultEmission h s := rfl
    rw [hraw]
    unfold execResultEmission
    rw [hnone]

end Sys2Proof.Machine
end

section
/-! PROOF. The watchdog, what a checker has found, and late faults (R353, R355, R360). -/

namespace Sys2Proof.Machine

open Safety

/-! ### The watchdog (R353) -/

theorem watchdog_command {s : State} {c : Ctx} {k : BitVec 16} {u : UCmd} (hu : s.cmd c k = some u) (hstart : u.started = true)
    (hres : u.result = none) (ok : Bool) :
    exec (.watchdogExpiry (.command c k) ok) s = .next (s.report ⟨0x08, u.half, 0, 0xFFFF, 0, !ok && !benched u.op⟩) := by
  have hraw : exec (.watchdogExpiry (.command c k) ok) s = execWatchdogExpiry (.command c k) ok s := rfl
  rw [hraw]
  unfold execWatchdogExpiry
  dsimp only
  rw [hu]
  dsimp only
  rw [hstart, hres]
  rfl

theorem watchdog_context {s : State} {c : Ctx} {r : FaultRep} (hr : r = ⟨0x08, none, s.seqItem (c.val / 4), BitVec.ofNat 16 (c.val / 4), 0, false⟩)
    (ok : Bool) : exec (.watchdogExpiry (.context c) ok) s = .next (if !s.atIssue c then s else if ok then s.report r
      else if (s.freeBench .sequencer).isSome then s.faultRecord r 5 else s) := by
  subst hr
  rfl

/-! ### Reports without a half -/

/-- Nothing is recorded while every report names a half or loses a step. -/
theorem State.noHalf_of_named {s : State} (h : ∀ x ∈ s.ref.faults, x.half ≠ none ∨ x.lost = true) : s.noHalf = s := by
  have hnone (x : FaultRep) (hx : x ∈ s.ref.faults) : (x.half.isNone && !x.lost) = false := by
    rcases h x hx with hhalf | hlost
    · rw [Option.isNone_eq_false_iff.2 (Option.isSome_iff_ne_none.2 hhalf)]
      rfl
    · rw [hlost, Bool.not_true, Bool.and_false]
  have hmine : (s.ref.faults.filter fun r => r.half.isNone && !r.lost) = [] :=
    List.filter_eq_nil_iff.2 fun x hx => by rw [hnone x hx]; exact Bool.false_ne_true
  have hrest : (s.ref.faults.filter fun r => !(r.half.isNone && !r.lost)) = s.ref.faults :=
    List.filter_eq_self.2 fun x hx => by rw [hnone x hx]; rfl
  unfold State.noHalf
  rw [hmine, hrest]
  rfl

/-! ### Late faults (R360) -/

/-- What fault records change. -/
structure Recorded (s t : State) : Prop where
  state : t = { s with regs := t.regs, ref := { s.ref with frec := t.ref.frec, fseq := t.ref.fseq } }

theorem Recorded.refl (s : State) : Recorded s s := ⟨rfl⟩

theorem Recorded.trans {s t u : State} (h : Recorded s t) (k : Recorded t u) : Recorded s u :=
  ⟨k.state.trans (congrArg (fun x : State => { x with regs := u.regs, ref := { x.ref with frec := u.ref.frec, fseq := u.ref.fseq } }) h.state)⟩

theorem State.faultRecord_recorded (s : State) (r : FaultRep) (action : Nat) : Recorded s (s.faultRecord r action) := by
  obtain ⟨frec, regs, heq, -⟩ := s.faultRecord_does r action
  rw [heq]
  exact ⟨rfl⟩

theorem State.faultRecords_recorded (g : State → FaultRep → Nat) (l : List FaultRep) (s : State) :
    Recorded s (l.foldl (fun t r => t.faultRecord r (g t r)) s) := by
  induction l generalizing s with
  | nil => exact .refl s
  | cons r l ih => exact (s.faultRecord_recorded r _).trans (ih _)

/-- REPAIR is set, and no whistle stands. -/
theorem State.setRepair_does (s : State) : s.setRepair = { s with regs := s.setRepair.regs, ref := { s.ref with repair := true }, standing := 0 } := by
  have hraise : s.raiseInt 9 = { s with regs := (s.raiseInt 9).regs } := State.setFld_eq _ _ _ _ _
  unfold State.setRepair
  dsimp only
  split
  · rfl
  · generalize s.raiseInt 9 = t at hraise
    exact congrArg (fun x : State => { x with ref := { x.ref with repair := true }, standing := 0 }) hraise

/-- The slots that are cancelled, for faults of halves. -/
theorem State.cancelWhere_frame (s : State) (p : RSlot → Bool) : (s.cancelWhere p).2 = { s with reb := (s.cancelWhere p).2.reb } :=
  (State.cancelSlots_does _ s).1

theorem State.lateHalf_does (s : State) (h : Half) (reps : List FaultRep) : (s.lateHalf h reps).ref.repair = true ∧
    (s.lateHalf h reps).standing = 0 ∧ (s.lateHalf h reps).ctxs = s.ctxs ∧ (s.lateHalf h reps).mem = s.mem := by
  have hcancel := s.cancelWhere_frame fun r => decide (r.half = h)
  unfold State.lateHalf
  generalize s.cancelWhere (fun r => decide (r.half = h)) = y at hcancel
  obtain ⟨k, t⟩ := y
  dsimp only at hcancel ⊢
  have hrec := State.faultRecords_recorded (fun _ _ => 2) (byMech reps) t
  generalize List.foldl (fun t r => t.faultRecord r 2) t (byMech reps) = u at hrec
  have hset := ({ u with ref := { u.ref with faults := u.ref.faults.filter fun r => !reps.contains r } } : State).setRepair_does
  generalize State.setRepair _ = v at hset
  refine ⟨(congrArg (fun x : State => x.ref.repair) hset :), (congrArg State.standing hset :), ?_, ?_⟩
  · exact (congrArg State.ctxs hset :).trans ((congrArg State.ctxs hrec.state :).trans (congrArg State.ctxs hcancel :))
  · exact (congrArg State.mem hset :).trans ((congrArg State.mem hrec.state :).trans (congrArg State.mem hcancel :))

/-! ### A context is halted (R59) -/

/-- What halting changes: the contexts and the journal. -/
structure HaltFrame (s t : State) : Prop where
  state : t = { s with ctxs := t.ctxs, ref := { s.ref with journal := t.ref.journal, jpos := t.ref.jpos } }

theorem HaltFrame.refl (s : State) : HaltFrame s s := ⟨rfl⟩

theorem HaltFrame.trans {s t u : State} (h : HaltFrame s t) (k : HaltFrame t u) : HaltFrame s u :=
  ⟨k.state.trans (congrArg (fun x : State =>
    { x with ctxs := u.ctxs, ref := { x.ref with journal := u.ref.journal, jpos := u.ref.jpos } }) h.state)⟩

theorem State.dropOpen_halts (s : State) (c : Nat) : HaltFrame s (s.dropOpen c) := by
  unfold State.dropOpen
  split
  · split
    · exact .refl s
    · exact ⟨rfl⟩
  · exact .refl s

theorem State.setCtx_halts (s : State) (c : Nat) (x : Context) : HaltFrame s (s.setCtx c x) := ⟨rfl⟩

theorem State.drained_halts (s : State) (c : Nat) : HaltFrame s (s.drained c) := by
  unfold State.drained
  dsimp only
  split
  · exact .refl s
  · split
    · exact .refl s
    · exact s.setCtx_halts c _
    · exact s.setCtx_halts c _
    · exact s.setCtx_halts c _

theorem State.haltCtx_frame (s : State) (c : Nat) : HaltFrame s (s.haltCtx c) := by
  have hdrop (p : Prop) [Decidable p] : HaltFrame s (if p then s.dropOpen c else s) := by
    split
    · exact s.dropOpen_halts c
    · exact .refl s
  unfold State.haltCtx
  dsimp only
  split
  · exact ((s.dropOpen_halts c).trans (State.setCtx_halts _ c _)).trans (State.drained_halts _ c)
  · exact ((hdrop _).trans (State.setCtx_halts _ c _)).trans (State.drained_halts _ c)

/-- The context is halted, or on its way there. -/
def State.halting (s : State) (c : Nat) : Prop := (s.ctx c).st = .halted ∨ (s.ctx c).drain = .toHalted

theorem State.haltCtx_halting (s : State) (c : Nat) : (s.haltCtx c).halting c := by
  obtain ⟨-, -, hnow, hlater⟩ := s.haltCtx_does c
  by_cases h : s.outstanding c ≠ 0 ∨ s.remoteOpen c = true
  · exact Or.inr (hlater h)
  · obtain ⟨ho, hr⟩ := not_or.1 h
    exact Or.inl (hnow (not_not.1 ho) (Bool.eq_false_iff.2 hr))

theorem State.haltCtxs_does (l : List Nat) (s : State) : HaltFrame s (l.foldl State.haltCtx s) ∧
    ∀ c, c ∈ l ∨ s.halting c → (l.foldl State.haltCtx s).halting c := by
  induction l generalizing s with
  | nil => exact ⟨.refl s, fun c h => h.resolve_left List.not_mem_nil⟩
  | cons d l ih =>
    obtain ⟨hframe, hall⟩ := ih (s.haltCtx d)
    refine ⟨(s.haltCtx_frame d).trans hframe, fun c hc => hall c ?_⟩
    by_cases hcd : c = d
    · rw [hcd]
      exact Or.inr (s.haltCtx_halting d)
    · obtain ⟨hkeeps, -⟩ := s.haltCtx_does d
      rcases hc with hc | hc
      · exact Or.inl ((List.mem_cons.1 hc).resolve_left hcd)
      · refine Or.inr ?_
        unfold State.halting
        rw [hkeeps.others c hcd]
        exact hc

theorem State.group_congr {s t : State} (h : t.ctxs = s.ctxs) : t.group = s.group := by
  unfold State.group
  rw [h]

/-- The reports are taken in, and no recovery and no replay goes on. -/
def State.lossTaken (s : State) (reps : List FaultRep) : State :=
  { s with ref := { s.ref with
    faults := s.ref.faults.filter fun r => !reps.contains r
    recov := false, replayDue := false, replay := false, heldFor := [] } }

/-- The state in which a step loss halts the contexts. -/
def State.lossRecorded (s : State) (reps : List FaultRep) : State :=
  ((byMech reps).foldl (fun t r => t.faultRecord r 3) (s.cancelWhere fun _ => true).2).lossTaken reps

theorem State.stepLoss_eq (s : State) (reps : List FaultRep) :
    s.stepLoss reps = (s.lossRecorded reps).group.foldl State.haltCtx (s.lossRecorded reps).setRepair := rfl

theorem State.lossRecorded_does (s : State) (reps : List FaultRep) : (s.lossRecorded reps).ctxs = s.ctxs ∧ (s.lossRecorded reps).mem = s.mem ∧
    (s.lossRecorded reps).ref.recov = false ∧ (s.lossRecorded reps).ref.replayDue = false ∧ (s.lossRecorded reps).ref.replay = false := by
  have hcancel := s.cancelWhere_frame fun _ => true
  unfold State.lossRecorded
  generalize (s.cancelWhere fun _ => true).2 = t at hcancel
  have hrec := State.faultRecords_recorded (fun _ _ => 3) (byMech reps) t
  generalize List.foldl (fun t r => t.faultRecord r 3) t (byMech reps) = u at hrec
  exact ⟨(congrArg State.ctxs hrec.state :).trans (congrArg State.ctxs hcancel :),
    (congrArg State.mem hrec.state :).trans (congrArg State.mem hcancel :), rfl, rfl, rfl⟩

theorem State.stepLoss_does (s : State) (reps : List FaultRep) : (s.stepLoss reps).ref.repair = true ∧ (s.stepLoss reps).standing = 0 ∧
    (s.stepLoss reps).ref.recov = false ∧ (s.stepLoss reps).ref.replayDue = false ∧ (s.stepLoss reps).ref.replay = false ∧
    (∀ c ∈ s.group, (s.stepLoss reps).halting c) ∧ (s.stepLoss reps).mem = s.mem := by
  obtain ⟨hctxs, hmem, hrecov, hdue, hreplay⟩ := s.lossRecorded_does reps
  rw [State.stepLoss_eq]
  have hgroup := State.group_congr hctxs
  generalize s.lossRecorded reps = v at hgroup hmem hrecov hdue hreplay
  have hset := v.setRepair_does
  generalize v.setRepair = w at hset
  obtain ⟨hframe, hall⟩ := State.haltCtxs_does v.group w
  generalize List.foldl State.haltCtx w v.group = x at hframe hall
  refine ⟨(congrArg (fun x : State => x.ref.repair) hframe.state :).trans (congrArg (fun x : State => x.ref.repair) hset :),
    (congrArg State.standing hframe.state :).trans (congrArg State.standing hset :),
    (congrArg (fun x : State => x.ref.recov) hframe.state :).trans ((congrArg (fun x : State => x.ref.recov) hset :).trans hrecov),
    (congrArg (fun x : State => x.ref.replayDue) hframe.state :).trans ((congrArg (fun x : State => x.ref.replayDue) hset :).trans hdue),
    (congrArg (fun x : State => x.ref.replay) hframe.state :).trans ((congrArg (fun x : State => x.ref.replay) hset :).trans hreplay),
    fun c hc => hall c (Or.inl ?_), (congrArg State.mem hframe.state :).trans ((congrArg State.mem hset :).trans hmem)⟩
  rw [hgroup]
  exact hc

/-- LATE_FAULT once what a checker has found is taken in. -/
theorem lateFault_nothing (s : State) (h : Half) : exec (.lateFault ⟨h, .nothing⟩) s = .next (if (s.noHalf.ref.faults.filter (·.lost)) ≠ [] then
    s.noHalf.stepLoss (s.noHalf.ref.faults.filter (·.lost)) else if s.noHalf.repsOf h ≠ [] ∧ s.noHalf.eohGone h then
    s.noHalf.lateHalf h (s.noHalf.repsOf h) else s.noHalf) := rfl

end Sys2Proof.Machine
end

section
/-! PROOF. The discard of a half, its replay, and the obligation about faults (R357 to R360). -/

namespace Sys2Proof.Machine

open Safety

/-! ### The commands of a half are stopped -/

/-- What a stopped command gives up. -/
structure StopFrame (s t : State) : Prop where
  state : t = { s with adm := t.adm, hud := t.hud, vol := t.vol, scout := t.scout, reb := t.reb, pools := t.pools, mem := t.mem }
  jobs : t.vol.jobs = s.vol.jobs

theorem StopFrame.refl (s : State) : StopFrame s s := ⟨rfl, rfl⟩

theorem StopFrame.trans {s t u : State} (h : StopFrame s t) (k : StopFrame t u) : StopFrame s u where
  state := k.state.trans (congrArg (fun x : State =>
    { x with adm := u.adm, hud := u.hud, vol := u.vol, scout := u.scout, reb := u.reb, pools := u.pools, mem := u.mem }) h.state)
  jobs := k.jobs.trans h.jobs

/-- With no buffer reserved, none becomes reserved and no byte of memory changes. -/
def QuietKept (s t : State) : Prop := s.hud.resv = [] → s.vol.resv = [] → t.hud.resv = [] ∧ t.vol.resv = [] ∧ t.mem = s.mem

theorem QuietKept.refl (s : State) : QuietKept s s := fun h k => ⟨h, k, rfl⟩

theorem QuietKept.trans {s t u : State} (h : QuietKept s t) (k : QuietKept t u) : QuietKept s u := fun hh hv => by
  obtain ⟨hh', hv', hm⟩ := h hh hv
  obtain ⟨hh'', hv'', hm'⟩ := k hh' hv'
  exact ⟨hh'', hv'', hm'.trans hm⟩

theorem BufferFrame.stops {s t : State} (h : BufferFrame s t) : StopFrame s t :=
  ⟨h.state.trans (by rw [(congrArg State.adm h.state :), (congrArg State.scout h.state :), (congrArg State.reb h.state :)]),
    (congrArg Volley.jobs h.vol :)⟩

/-- A unit's reserved buffers go back to their pool. -/
theorem State.giveAll_stops {s t : State} (n r : Nat) {l : List Nat} (hframe : StopFrame s t) (hquiet : QuietKept s t)
    (hl : s.hud.resv = [] → s.vol.resv = [] → l = []) : StopFrame s (l.foldl (fun t i => t.poolGive n r i) t) ∧
      QuietKept s (l.foldl (fun t i => t.poolGive n r i) t) := by
  have hgive := BufferFrame.foldl (g := fun t i => t.poolGive n r i) (fun t i => t.poolGive_frame n r i) l t
  refine ⟨hframe.trans hgive.stops, fun hh hv => ?_⟩
  rw [hl hh hv]
  exact hquiet hh hv

theorem State.stopCmd_does (s : State) (u : UCmd) : StopFrame s (s.stopCmd u) ∧ QuietKept s (s.stopCmd u) := by
  have hidle (t : State) (h : StopFrame s t) (hh : t.hud = s.hud) (hv : t.vol = s.vol) (hm : t.mem = s.mem) : StopFrame s t ∧ QuietKept s t :=
    ⟨h, fun k k' => ⟨(congrArg Huddle.resv hh).trans k, (congrArg Volley.resv hv).trans k', hm⟩⟩
  unfold State.stopCmd
  split
  case h_1 => exact hidle _ ⟨rfl, rfl⟩ rfl rfl rfl
  case h_2 =>
    have hbase (p : Prop) [Decidable p] (n : Nat) (t : State) (ht : t = { s with hud := { s.hud with recs := [], resv := [] } }) :
        StopFrame s (if p then t.noWait n 0 else t) ∧ QuietKept s (if p then t.noWait n 0 else t) := by
      rw [ht]
      split
      · exact ⟨⟨rfl, rfl⟩, fun _ hv => ⟨rfl, hv, rfl⟩⟩
      · exact ⟨⟨rfl, rfl⟩, fun _ hv => ⟨rfl, hv, rfl⟩⟩
    obtain ⟨hframe, hquiet⟩ := hbase (u.stage = 0) (s.fld 0x090208 2 0) _ rfl
    exact State.giveAll_stops (s.fld 0x090208 2 0) 0 hframe hquiet fun hh _ => hh
  case h_3 =>
    have hbase (p : Prop) [Decidable p] (n : Nat) (t : State) (ht : t = { s with vol := { s.vol with resv := [] } }) :
        StopFrame s (if p then t.noWait n 1 else t) ∧ QuietKept s (if p then t.noWait n 1 else t) := by
      rw [ht]
      split
      · exact ⟨⟨rfl, rfl⟩, fun hh _ => ⟨hh, rfl, rfl⟩⟩
      · exact ⟨⟨rfl, rfl⟩, fun hh _ => ⟨hh, rfl, rfl⟩⟩
    obtain ⟨hframe, hquiet⟩ := hbase (u.stage = 0) (s.fld 0x0B0008 2 0) _ rfl
    exact State.giveAll_stops (s.fld 0x0B0008 2 0) 1 hframe hquiet fun _ hv => hv
  case h_4 => exact hidle _ ⟨rfl, rfl⟩ rfl rfl rfl
  case h_5 => exact hidle _ ⟨rfl, rfl⟩ rfl rfl rfl
  case h_6 =>
    split
    · split
      · exact hidle _ ⟨rfl, rfl⟩ rfl rfl rfl
      · exact ⟨.refl s, .refl s⟩
    · exact ⟨.refl s, .refl s⟩
  case h_7 => exact ⟨.refl s, .refl s⟩

theorem State.stopCmds_does (l : List UCmd) (s : State) : StopFrame s (l.foldl State.stopCmd s) ∧ QuietKept s (l.foldl State.stopCmd s) := by
  induction l generalizing s with
  | nil => exact ⟨.refl s, .refl s⟩
  | cons u l ih =>
    obtain ⟨hframe, hquiet⟩ := s.stopCmd_does u
    obtain ⟨hframe', hquiet'⟩ := ih (s.stopCmd u)
    exact ⟨hframe.trans hframe', hquiet.trans hquiet'⟩

/-- The commands without those of a half. -/
def State.withoutHalf (s : State) (h : Half) : State := { s with ucmds := s.ucmds.filter fun u => decide (u.half ≠ some h) }

/-- What the stop of halves changes. -/
structure HalvesStopped (s t : State) : Prop where
  state : t = { s with ucmds := t.ucmds, adm := t.adm, hud := t.hud, vol := t.vol, scout := t.scout, reb := t.reb, pools := t.pools, mem := t.mem }
  jobs : t.vol.jobs = s.vol.jobs
  quiet : QuietKept s t
  fewer : ∀ u ∈ t.ucmds, u ∈ s.ucmds

theorem HalvesStopped.trans {s t u : State} (h : HalvesStopped s t) (k : HalvesStopped t u) : HalvesStopped s u where
  state := k.state.trans (congrArg (fun x : State => { x with
    ucmds := u.ucmds, adm := u.adm, hud := u.hud, vol := u.vol, scout := u.scout, reb := u.reb, pools := u.pools, mem := u.mem }) h.state)
  jobs := k.jobs.trans h.jobs
  quiet := h.quiet.trans k.quiet
  fewer v hv := h.fewer v (k.fewer v hv)

theorem State.stopHalf_does (s : State) (h : Half) : HalvesStopped s (s.stopHalf h) ∧ ∀ u ∈ (s.stopHalf h).ucmds, u.half ≠ some h := by
  have heq : s.stopHalf h = (s.ucmds.filter fun u => decide (u.half = some h)).foldl State.stopCmd (s.withoutHalf h) := rfl
  obtain ⟨hframe, hquiet⟩ := State.stopCmds_does (s.ucmds.filter fun u => decide (u.half = some h)) (s.withoutHalf h)
  rw [heq]
  generalize List.foldl State.stopCmd (s.withoutHalf h) _ = t at hframe hquiet
  have hucmds : t.ucmds = s.ucmds.filter fun u => decide (u.half ≠ some h) := (congrArg State.ucmds hframe.state :)
  refine ⟨⟨?_, hframe.jobs, hquiet, fun u hu => ?_⟩, fun u hu => ?_⟩
  · rw [hucmds]
    exact hframe.state
  · rw [hucmds] at hu
    exact (List.mem_filter.1 hu).1
  · rw [hucmds] at hu
    exact of_decide_eq_true (List.mem_filter.1 hu).2

theorem State.stopHalves_does (l : List Half) (s : State) : HalvesStopped s (l.foldl State.stopHalf s) ∧
    ∀ u ∈ (l.foldl State.stopHalf s).ucmds, ∀ g ∈ l, u.half ≠ some g := by
  induction l generalizing s with
  | nil => exact ⟨⟨rfl, rfl, .refl s, fun _ h => h⟩, fun _ _ g hg => absurd hg List.not_mem_nil⟩
  | cons h l ih =>
    obtain ⟨hone, hgone⟩ := s.stopHalf_does h
    obtain ⟨hrest, hall⟩ := ih (s.stopHalf h)
    refine ⟨hone.trans hrest, fun u hu g hg => ?_⟩
    rcases List.mem_cons.1 hg with rfl | hg
    · exact hgone u (hrest.fewer u hu)
    · exact hall u hu g hg

/-! ### Replay (R358) -/

/-- A context of the step group as its checkpoint has it, its status standing. -/
def Context.rewound (x : Context) (k : Option Context) : Context :=
  match k with
  | some k => { k with last := x.last, first := x.first, firstPc := x.firstPc }
  | none => x

theorem Context.rewound_twice (x : Context) (k : Option Context) : (x.rewound k).rewound k = x.rewound k := by
  cases k <;> rfl

theorem State.rewind_does (s : State) (c : Nat) : s.rewind c = { s with ctxs := (s.rewind c).ctxs } ∧
    (s.rewind c).ctx c = (s.ctx c).rewound (Tab.get none s.ref.check c) ∧ ∀ d, d ≠ c → (s.rewind c).ctx d = s.ctx d := by
  unfold State.rewind
  cases Tab.get none s.ref.check c with
  | none => exact ⟨rfl, rfl, fun _ _ => rfl⟩
  | some k => exact ⟨rfl, State.setCtx_ctx_same _ _ _, fun d hd => State.setCtx_ctx_other _ _ hd⟩

theorem State.rewinds_does (l : List Nat) (s : State) : l.foldl State.rewind s = { s with ctxs := (l.foldl State.rewind s).ctxs } ∧
    (∀ c, c ∈ l ∨ s.ctx c = (s.ctx c).rewound (Tab.get none s.ref.check c) →
      (l.foldl State.rewind s).ctx c = (s.ctx c).rewound (Tab.get none s.ref.check c)) ∧
    ∀ c, c ∉ l → (l.foldl State.rewind s).ctx c = s.ctx c := by
  induction l generalizing s with
  | nil => exact ⟨rfl, fun c h => h.resolve_left List.not_mem_nil, fun _ _ => rfl⟩
  | cons d l ih =>
    obtain ⟨hone, hself, hother⟩ := s.rewind_does d
    obtain ⟨hframe, hin, hout⟩ := ih (s.rewind d)
    have hcheck : (s.rewind d).ref.check = s.ref.check := (congrArg (fun x : State => x.ref.check) hone :)
    rw [hcheck] at hin
    refine ⟨hframe.trans (congrArg (fun x : State => { x with ctxs := (l.foldl State.rewind (s.rewind d)).ctxs }) hone), fun c hc => ?_,
      fun c hc => ?_⟩
    · by_cases hcd : c = d
      · subst hcd
        have htwice := hin c (Or.inr (by rw [hself, Context.rewound_twice]))
        rw [hself, Context.rewound_twice] at htwice
        exact htwice
      · have hkeep := hin c
        rw [hother c hcd] at hkeep
        exact hkeep (hc.imp_left fun h => (List.mem_cons.1 h).resolve_left hcd)
    · have hne : c ≠ d := fun h => hc (h ▸ List.mem_cons_self)
      exact (hout c fun h => hc (List.mem_cons_of_mem d h)).trans (hother c hne)

theorem replay_runs {s : State} (hdue : s.ref.replayDue = true) (hheld : s.ref.heldFor = []) (hnvs : s.kick.nvsq = []) :
    ∃ t, exec .replay s = .next t ∧ t.ref.recov = false ∧ t.ref.replayDue = false ∧
      (∀ c k, c ∈ s.group → Tab.get none s.ref.check c = some k →
        t.ctx c = { k with last := (s.ctx c).last, first := (s.ctx c).first, firstPc := (s.ctx c).firstPc }) ∧
      (∀ c, c ∉ s.group → t.ctx c = s.ctx c) ∧ (∀ u ∈ t.ucmds, ∀ g ∈ s.ref.rehalves, u.half ≠ some g) ∧
      (s.hud.resv = [] → s.vol.resv = [] → t.mem = s.mem) := by
  have hraw : exec .replay s = execReplay s := rfl
  have hgo : (!s.ref.replayDue || decide (s.ref.heldFor ≠ []) || decide (s.kick.nvsq ≠ [])) = false := by
    rw [hdue, hheld, hnvs]
    rfl
  rw [hraw]
  unfold execReplay
  rw [hgo]
  obtain ⟨hstop, hgone⟩ := State.stopHalves_does s.ref.rehalves s
  dsimp only
  generalize List.foldl State.stopHalf s s.ref.rehalves = v at hstop hgone
  have hctxs : v.ctxs = s.ctxs := (congrArg State.ctxs hstop.state :)
  have hcheck : v.ref.check = s.ref.check := (congrArg (fun x : State => x.ref.check) hstop.state :)
  have hctx (c : Nat) : v.ctx c = s.ctx c := (congrArg (fun x : State => x.ctx c) hstop.state :)
  rw [State.group_congr hctxs]
  obtain ⟨hframe, hin, hout⟩ := State.rewinds_does s.group v
  generalize List.foldl State.rewind v s.group = w at hframe hin hout
  refine ⟨_, rfl, rfl, rfl, fun c k hc hk => ?_, fun c hc => (hout c hc).trans (hctx c), fun u hu => hgone u ?_, fun hh hv => ?_⟩
  · have hrewound := hin c (Or.inl hc)
    rw [hcheck, hk, hctx c] at hrewound
    exact hrewound
  · rw [← (congrArg State.ucmds hframe :)]
    exact hu
  · exact (congrArg State.mem hframe :).trans (hstop.quiet hh hv).2.2

end Sys2Proof.Machine
end

section
/-! PROOF. The discard of a half, and the obligation about faults (R357 to R360). -/

namespace Sys2Proof.Machine

open Safety

/-! ### Registers that the queues' storage does not touch -/

/-- A register outside those of the pools stays. -/
structure RegStays (o : Nat) (s t : State) : Prop where
  reg : t.reg o = s.reg o

variable {o : Nat}

theorem RegStays.trans {s t u : State} (h : RegStays o s t) (k : RegStays o t u) : RegStays o s u := ⟨k.reg.trans h.reg⟩

theorem State.unitFree_reg (s : State) {n : Nat} (r a : Nat) (ho : o < 0x0A0000) : RegStays o s (s.unitFree n r a) := by
  have hbump (k : Nat) (hk : 0x0A0000 ≤ k) : RegStays o s (s.bump k 1) := ⟨s.bump_reg_other 1 (by omega)⟩
  have hreport (t : State) (r : FaultRep) : RegStays o t (t.report r) := ⟨rfl⟩
  unfold State.unitFree
  dsimp only
  split
  · exact ⟨State.reg_congr (congrArg State.regs (s.poolGive_frame n r _).state :) o⟩
  · refine (hbump (poolReg n 0x20) ?_).trans (hreport _ _)
    unfold poolReg
    omega

theorem State.countBlock_reg (s : State) (b : Nat) : RegStays o s (s.countBlock b) := ⟨rfl⟩

theorem State.blockRead_reg (s : State) (a : Nat) (ho : o < 0x0A0000) : RegStays o s (s.blockRead a) := by
  have hfun := Eq.refl State.blockRead
  conv at hfun => rhs; delta State.blockRead
  rw [hfun]
  beta_reduce
  split
  · exact ⟨rfl⟩
  · next b _ =>
    have hcount := s.countBlock_reg (o := o) b
    dsimp only
    split
    · exact hcount.trans (State.unitFree_reg _ 0 b ho)
    · exact hcount

theorem State.readBlocks_reg (l : List (Nat × Nat)) (s : State) (ho : o < 0x0A0000) :
    RegStays o s (l.foldl (fun t b => t.blockRead b.1) s) := by
  induction l generalizing s with
  | nil => exact ⟨rfl⟩
  | cons b l ih => exact (s.blockRead_reg b.1 ho).trans (ih _)

theorem State.holdFlush_reg (s : State) (q : Nat) : RegStays o s (s.holdFlush q) := by
  have hpins (p : Pins) : RegStays o s { s with pins := p } := ⟨rfl⟩
  exact hpins _

theorem State.setQueue_reg (s : State) (q : Nat) (x : Queue) : RegStays o s (s.setQueue q x) := ⟨rfl⟩

theorem State.flush_reg (s : State) (q : Nat) (ho : o < 0x0A0000) : RegStays o s (s.flush q) := by
  rw [State.flush_eq]
  exact ((State.readBlocks_reg _ s ho).trans (State.setQueue_reg _ q _)).trans (State.holdFlush_reg _ q)

/-! ### The half's queues, lists and slots -/

/-- What the discard of a half changes once its commands are stopped; the interrupts stay. -/
structure DiscardFrame (s t : State) : Prop where
  ctxs : t.ctxs = s.ctxs
  ucmds : t.ucmds = s.ucmds
  ints : t.reg 0x2800 = s.reg 0x2800
  ref : t.ref = { s.ref with faults := t.ref.faults, acc := t.ref.acc, gens := t.ref.gens, discards := t.ref.discards, emitted := t.ref.emitted }

theorem DiscardFrame.refl (s : State) : DiscardFrame s s := ⟨rfl, rfl, rfl, rfl⟩

theorem DiscardFrame.trans {s t u : State} (h : DiscardFrame s t) (k : DiscardFrame t u) : DiscardFrame s u where
  ctxs := k.ctxs.trans h.ctxs
  ucmds := k.ucmds.trans h.ucmds
  ints := k.ints.trans h.ints
  ref := k.ref.trans (congrArg (fun x : Referee => { x with
    faults := u.ref.faults, acc := u.ref.acc, gens := u.ref.gens, discards := u.ref.discards, emitted := u.ref.emitted }) h.ref :)

/-- The generations stay. -/
def GensStay (s t : State) : Prop := t.ref.gens = s.ref.gens

/-- No queue holds a block outside its head and tail. -/
def State.blocksEmpty (s : State) : Prop := ∀ q, (s.queue q).mid = [] ∧ (s.queue q).blks = []

/-- Queues without blocks stay so, no send job begins, and memory stays. -/
def EmptyKept (s t : State) : Prop := s.blocksEmpty → t.blocksEmpty ∧ t.mem = s.mem ∧ t.vol.jobs = s.vol.jobs

theorem EmptyKept.trans {s t u : State} (h : EmptyKept s t) (k : EmptyKept t u) : EmptyKept s u := fun hs => by
  obtain ⟨ht, hm, hj⟩ := h hs
  obtain ⟨hu, hm', hj'⟩ := k ht
  exact ⟨hu, hm'.trans hm, hj'.trans hj⟩

theorem State.flush_work (s : State) (q : Nat) : QueueWork s (s.flush q) := by
  have hpins (t : State) (p : Pins) : QueueWork t { t with pins := p } := queueWork_of_same rfl rfl rfl rfl rfl rfl
  rw [State.flush_eq]
  exact ((QueueWork.foldl (fun t (b : Nat × Nat) => t.blockRead_work b.1) _ s).trans (State.setQueue_work _ q _)).trans (hpins _ _)

theorem State.flush_discards (s : State) (q : Nat) : DiscardFrame s (s.flush q) ∧ GensStay s (s.flush q) ∧ EmptyKept s (s.flush q) := by
  have hstore := s.flush_store q
  obtain ⟨hself, hother, hmem, hctxs⟩ := s.flush_does q
  have hjobs : (s.flush q).vol.jobs = s.vol.jobs := by
    have hvol := (s.flush_work q).vol
    exact (congrArg Volley.jobs hvol :)
  refine ⟨⟨hctxs, (congrArg State.ucmds hstore :), (s.flush_reg q (by decide)).reg, ?_⟩, (congrArg (fun x : State => x.ref.gens) hstore :),
    fun hempty => ⟨fun p => ?_, hmem fun b hb => ?_, hjobs⟩⟩
  · exact (congrArg State.ref hstore :).trans (by rw [(congrArg (fun x : State => x.ref.acc) hstore :),
      (congrArg (fun x : State => x.ref.gens) hstore :), (congrArg (fun x : State => x.ref.discards) hstore :),
      (congrArg (fun x : State => x.ref.emitted) hstore :)])
  · by_cases hp : p = q
    · rw [hp, hself]
      exact ⟨rfl, rfl⟩
    · rw [hother p hp]
      exact hempty p
  · obtain ⟨hmid, hblks⟩ := hempty q
    rw [hmid, hblks] at hb
    exact absurd hb List.not_mem_nil

theorem State.flushes_discard (l : List Nat) (s : State) :
    DiscardFrame s (l.foldl State.flush s) ∧ GensStay s (l.foldl State.flush s) ∧ EmptyKept s (l.foldl State.flush s) := by
  induction l generalizing s with
  | nil => exact ⟨.refl s, rfl, fun h => ⟨h, rfl, rfl⟩⟩
  | cons q l ih =>
    obtain ⟨hframe, hgens, hempty⟩ := s.flush_discards q
    obtain ⟨hframe', hgens', hempty'⟩ := ih (s.flush q)
    exact ⟨hframe.trans hframe', hgens'.trans hgens, hempty.trans hempty'⟩

theorem BufferFrame.discards {s t : State} (h : BufferFrame s t) : DiscardFrame s t ∧ GensStay s t :=
  ⟨⟨(congrArg State.ctxs h.state :), (congrArg State.ucmds h.state :), State.reg_congr (congrArg State.regs h.state :) _,
    (congrArg State.ref h.state :).trans (by rw [(congrArg State.ref h.state :)])⟩, (congrArg (fun x : State => x.ref.gens) h.state :)⟩

/-- The send jobs of a half, returned. -/
def State.giveJobs (s : State) (l : List VJob) : State := l.foldl (fun t j => j.bufs.foldl (fun t b => t.poolGive j.pool 1 b.2) t) s

theorem State.giveJobs_frame (l : List VJob) (s : State) : BufferFrame s (s.giveJobs l) := by
  have hjob (t : State) (j : VJob) : BufferFrame t (j.bufs.foldl (fun t b => t.poolGive j.pool 1 b.2) t) :=
    BufferFrame.foldl (fun t (b : Nat × Nat) => t.poolGive_frame j.pool 1 b.2) j.bufs t
  exact BufferFrame.foldl hjob l s

theorem State.emptyHalf_eq (s : State) (h : Half) : ∃ (v : Volley) (l : List VJob),
    s.emptyHalf h = { ((((s.halfQueues h).foldl State.flush s).setHbank h.val HudBank.reset).giveJobs l) with vol := v } ∧
      (((s.halfQueues h).foldl State.flush s).vol.jobs = [] → l = []) := by
  refine ⟨_, (((s.halfQueues h).foldl State.flush s).setHbank h.val HudBank.reset).vol.jobs.filter fun j =>
    (((s.halfQueues h).foldl State.flush s).setHbank h.val HudBank.reset).inSendBlock h.val j.queue, rfl, fun hnone => ?_⟩
  have hjobs : (((s.halfQueues h).foldl State.flush s).setHbank h.val HudBank.reset).vol.jobs = [] :=
    (congrArg (fun x : State => x.vol.jobs) (State.setHbank_frame _ h.val HudBank.reset) :).trans hnone
  rw [hjobs]
  rfl

theorem State.emptyHalf_does (s : State) (h : Half) : DiscardFrame s (s.emptyHalf h) ∧ GensStay s (s.emptyHalf h) ∧
    (s.blocksEmpty → s.vol.jobs = [] → (s.emptyHalf h).mem = s.mem) := by
  obtain ⟨v, l, heq, hl⟩ := s.emptyHalf_eq h
  obtain ⟨hframe, hgens, hempty⟩ := State.flushes_discard (s.halfQueues h) s
  rw [heq]
  generalize List.foldl State.flush s _ = t at hl hframe hgens hempty
  have hbank := t.setHbank_frame h.val HudBank.reset
  generalize t.setHbank h.val HudBank.reset = u at hbank
  have hgive := State.giveJobs_frame l u
  obtain ⟨hgiveFrame, hgiveGens⟩ := hgive.discards
  have hbankFrame : DiscardFrame t u := ⟨(congrArg State.ctxs hbank :), (congrArg State.ucmds hbank :),
    State.reg_congr (congrArg State.regs hbank :) _, (congrArg State.ref hbank :).trans (by rw [(congrArg State.ref hbank :)])⟩
  have hbankGens : GensStay t u := (congrArg (fun x : State => x.ref.gens) hbank :)
  have hlast : DiscardFrame (u.giveJobs l) { u.giveJobs l with vol := v } := ⟨rfl, rfl, rfl, rfl⟩
  refine ⟨((hframe.trans hbankFrame).trans hgiveFrame).trans hlast, hgiveGens.trans (hbankGens.trans hgens), fun hblocks hjobs => ?_⟩
  obtain ⟨-, hmem, hsame⟩ := hempty hblocks
  have hnil := hl (hsame.trans hjobs)
  subst hnil
  exact (congrArg State.mem hbank :).trans hmem

theorem State.dropSlots_does (s : State) (h : Half) (running : Bool) : DiscardFrame s (s.dropSlots h running) ∧
    GensStay s (s.dropSlots h running) ∧ (s.dropSlots h running).mem = s.mem := by
  have hrelease (l : List Nat) (t : State) : ∃ r, l.foldl State.releaseSlot t = { t with reb := r } := by
    induction l generalizing t with
    | nil => exact ⟨t.reb, rfl⟩
    | cons n l ih =>
      obtain ⟨r, hr⟩ := ih (t.releaseSlot n)
      exact ⟨r, hr.trans (congrArg (fun x : State => { x with reb := r }) (t.releaseSlot_does n).1.state)⟩
  obtain ⟨r, hr⟩ := hrelease (s.halfSlots h.val) s
  unfold State.dropSlots
  dsimp only
  rw [hr]
  exact ⟨⟨rfl, rfl, rfl, rfl⟩, rfl, rfl⟩

theorem State.restartHalf_does (s : State) (h : Half) : DiscardFrame s (s.restartHalf h) ∧
    (s.restartHalf h).ref.gens = s.ref.gens.set h.val (s.gen h.val + 1) ∧ (s.restartHalf h).mem = s.mem := by
  have hclear (l : List Nat) (t : State) : ∃ a, l.foldl (fun t u => t.clearItems (u + 1) h.val) t = { t with ref := { t.ref with acc := a } } := by
    induction l generalizing t with
    | nil => exact ⟨t.ref.acc, rfl⟩
    | cons n l ih =>
      obtain ⟨a, ha⟩ := ih (t.clearItems (n + 1) h.val)
      exact ⟨a, ha⟩
  unfold State.restartHalf
  dsimp only
  obtain ⟨a, ha⟩ := hclear (List.range 6) ({ s with adm := { s.adm with
    choices := s.adm.choices.filter fun e => !decide (e.1 % 2 = h.val)
    demand := s.adm.demand.filter fun e => !decide (e.1 % 2 = h.val)
    srec := s.adm.srec.filter fun e => !(decide (e.1 % 2 = h.val) && (decide (e.1 / 2 ≤ 5) || decide (e.1 / 2 = 12)))
    sflags := s.adm.sflags ||| 0x20#16 } } : State)
  rw [ha]
  exact ⟨⟨rfl, rfl, rfl, rfl⟩, rfl, rfl⟩

theorem State.sendDiscards_does (s : State) (h : Half) : DiscardFrame s (s.sendDiscards h) ∧ GensStay s (s.sendDiscards h) ∧
    (s.sendDiscards h).mem = s.mem := by
  unfold State.sendDiscards
  have hleave := s.sendFrames_leave ((List.range s.sysSize).map fun d =>
    s.inlineFrame d 6 h (s.sendInst h.val) (natLe 2 (s.batch h.val).toNat ++ natLe 1 (s.gen h.val).toNat))
  generalize s.sendFrames _ = t at hleave
  exact ⟨⟨(congrArg State.ctxs hleave.state :), (congrArg State.ucmds hleave.state :), State.reg_congr (congrArg State.regs hleave.state :) _,
    (congrArg State.ref hleave.state :).trans (by rw [(congrArg State.ref hleave.state :)])⟩,
    (congrArg (fun x : State => x.ref.gens) hleave.state :), (congrArg State.mem hleave.state :)⟩

/-- The discard of a half: its commands are gone, and its generation advances. -/
structure HalfDiscarded (h : Half) (s t : State) : Prop where
  ctxs : t.ctxs = s.ctxs
  ints : t.reg 0x2800 = s.reg 0x2800
  ref : t.ref = { s.ref with faults := t.ref.faults, acc := t.ref.acc, gens := t.ref.gens, discards := t.ref.discards, emitted := t.ref.emitted }
  gens : t.ref.gens = s.ref.gens.set h.val (s.gen h.val + 1)
  gone : ∀ u ∈ t.ucmds, u.half ≠ some h
  mem : s.hud.resv = [] → s.vol.resv = [] → s.vol.jobs = [] → s.blocksEmpty → t.mem = s.mem

theorem State.discardHalf_does (s : State) (h : Half) : HalfDiscarded h s (s.discardHalf h) := by
  obtain ⟨hstop, hgone⟩ := s.stopHalf_does h
  unfold State.discardHalf
  generalize s.reb.active.getD h.val false = running
  generalize s.stopHalf h = a at hstop hgone
  obtain ⟨hempty, hemptyGens, hemptyMem⟩ := a.emptyHalf_does h
  generalize a.emptyHalf h = b at hempty hemptyGens hemptyMem
  obtain ⟨hdrop, hdropGens, hdropMem⟩ := b.dropSlots_does h running
  generalize b.dropSlots h running = c at hdrop hdropGens hdropMem
  obtain ⟨hrestart, hrestartGens, hrestartMem⟩ := c.restartHalf_does h
  generalize c.restartHalf h = d at hrestart hrestartGens hrestartMem
  obtain ⟨hsend, hsendGens, hsendMem⟩ := d.sendDiscards_does h
  generalize d.sendDiscards h = t at hsend hsendGens hsendMem
  have hall := ((hempty.trans hdrop).trans hrestart).trans hsend
  have hsame : a.ref = s.ref := (congrArg State.ref hstop.state :)
  have hgens : c.ref.gens = s.ref.gens := hdropGens.trans (hemptyGens.trans (congrArg Referee.gens hsame))
  refine ⟨hall.ctxs.trans (congrArg State.ctxs hstop.state :), hall.ints.trans (State.reg_congr (congrArg State.regs hstop.state :) _), ?_, ?_,
    fun u hu => hgone u ?_, fun hh hv hj hb => ?_⟩
  · rw [← hsame]
    exact hall.ref
  · have hgen : c.gen h.val = s.gen h.val := congrArg (fun l : List (BitVec 2) => l.getD h.val 0) hgens
    rw [hsendGens, hrestartGens, hgens, hgen]
  · rw [← hall.ucmds]
    exact hu
  · have hqueues : a.queues = s.queues := (congrArg State.queues hstop.state :)
    have hblocks : a.blocksEmpty := fun q => by
      rw [State.queue_congr hqueues]
      exact hb q
    exact hsendMem.trans (hrestartMem.trans (hdropMem.trans ((hemptyMem hblocks (hstop.jobs.trans hj)).trans (hstop.quiet hh hv).2.2)))

end Sys2Proof.Machine
end

section
/-! PROOF. Early faults, and the obligation about faults (R353, R357 to R360). -/

namespace Sys2Proof.Machine

open Safety

/-! ### What a checker has found (R353) -/

theorem State.found_unconserved (s : State) (h : Half) :
    ∃ d, (s.found (.unconserved h)).ref.faults = s.ref.faults ++ [⟨0x04, some h, 0, 0xFFFF, d, false⟩] := ⟨_, rfl⟩

theorem earlyFault_found (s : State) (h : Half) (f : Found) :
    exec (.earlyFaultRecovery ⟨h, f⟩) s = exec (.earlyFaultRecovery ⟨h, .nothing⟩) (s.found f) := rfl

theorem lateFault_found (s : State) (h : Half) (f : Found) :
    exec (.lateFault ⟨h, f⟩) s = exec (.lateFault ⟨h, .nothing⟩) (s.found f) := rfl

/-! ### An early fault (R357, R359) -/

/-- The records are written, and the replay of the halves is due. -/
def State.earlyTaken (s : State) (h : Half) (reps : List FaultRep) (hs : List Half) : State :=
  let held := reps.any s.heldRep
  let t := (byMech reps).foldl (fun t r => t.faultRecord r (if t.heldRep r then 4 else 1)) s
  { t with ref := { t.ref with
    faults := t.ref.faults.filter fun r => !reps.contains r
    rehalves := if s.ref.replay || s.ref.replayDue then hs ++ s.ref.rehalves.filter (fun g => !hs.contains g) else hs
    heldFor := if held then h :: t.ref.heldFor else t.ref.heldFor
    recov := true, replayDue := true } }

/-- The reports of a half lose the step. -/
def State.stepLost (s : State) (reps : List FaultRep) : State :=
  { s with ref := { s.ref with faults := s.ref.faults.map fun r => if reps.contains r then { r with lost := true } else r } }

theorem earlyFault_eq {s : State} (hnamed : s.noHalf = s) (h : Half) : exec (.earlyFaultRecovery ⟨h, .nothing⟩) s = .next
    (if s.repsOf h = [] ∨ s.eohGone h = true then s
      else if (s.toDiscard h).any (fun g => decide (3 ≤ s.ref.discards.getD g.val 0)) then s.stepLost (s.repsOf h)
      else (s.toDiscard h).foldl State.discardHalf (s.earlyTaken h (s.repsOf h) (s.toDiscard h))) := by
  have hraw : exec (.earlyFaultRecovery ⟨h, .nothing⟩) s = execEarlyFaultRecovery ⟨h, .nothing⟩ s := rfl
  have hfound : (s.found .nothing).noHalf = s := hnamed
  rw [hraw]
  unfold execEarlyFaultRecovery
  dsimp only
  rw [hfound]
  rfl

theorem byMech_one {r : FaultRep} (h : r.mech.toNat < 16) : byMech [r] = [r] := by
  have hone (m : Nat) : ([r].filter fun x => decide (x.mech.toNat = m)) = if r.mech.toNat = m then [r] else [] := by
    by_cases hm : r.mech.toNat = m
    · rw [if_pos hm, List.filter_cons_of_pos (p := fun x : FaultRep => decide (x.mech.toNat = m)) (decide_eq_true hm), List.filter_nil]
    · rw [if_neg hm, List.filter_cons_of_neg (p := fun x : FaultRep => decide (x.mech.toNat = m)) fun h => hm (of_decide_eq_true h),
        List.filter_nil]
  unfold byMech
  simp only [hone]
  generalize r.mech.toNat = k at h
  interval_cases k <;> rfl

section Early
variable {s : State} {h : Half} {r : FaultRep}

/-- The one report of a half is recorded with its interrupt, and its replay is due. -/
theorem State.earlyTaken_does (hmech : r.mech.toNat < 16) (hreplay : s.ref.replay = false) (hdue : s.ref.replayDue = false) :
    (s.earlyTaken h [r] [h]).ref.recov = true ∧ (s.earlyTaken h [r] [h]).ref.replayDue = true ∧
      (s.earlyTaken h [r] [h]).ref.rehalves = [h] ∧ (s.earlyTaken h [r] [h]).ref.gens = s.ref.gens ∧
      (s.earlyTaken h [r] [h]).ref.fseq = (if s.ref.fseq = 0xFFFFFFFF#32 then 1 else s.ref.fseq + 1) ∧
      (s.earlyTaken h [r] [h]).fld 0x2800 3 3 = 1 ∧
      s.earlyTaken h [r] [h] = { s with regs := (s.earlyTaken h [r] [h]).regs, ref := (s.earlyTaken h [r] [h]).ref } := by
  unfold State.earlyTaken
  dsimp only
  rw [byMech_one hmech, hreplay, hdue]
  obtain ⟨frec, regs, heq, hint⟩ := s.faultRecord_does r (if s.heldRep r then 4 else 1)
  have hfold : [r].foldl (fun t r => t.faultRecord r (if t.heldRep r then 4 else 1)) s = s.faultRecord r (if s.heldRep r then 4 else 1) := rfl
  rw [hfold]
  generalize s.faultRecord r _ = t at heq hint
  refine ⟨rfl, rfl, rfl, (congrArg (fun x : State => x.ref.gens) heq :), (congrArg (fun x : State => x.ref.fseq) heq :), hint, ?_⟩
  subst heq
  rfl

theorem earlyFault_discards (hnamed : ∀ x ∈ s.ref.faults, x.half ≠ none ∨ x.lost = true) (hreps : s.repsOf h = [r])
    (hmech : r.mech.toNat < 16) (heoh : s.eohGone h = false) (hreplay : s.ref.replay = false) (hdue : s.ref.replayDue = false)
    (hfew : s.ref.discards.getD h.val 0 < 3) : ∃ t, exec (.earlyFaultRecovery ⟨h, .nothing⟩) s = .next t ∧ t.ref.recov = true ∧
      t.ref.replayDue = true ∧ t.ref.rehalves = [h] ∧ t.ref.gens = s.ref.gens.set h.val (s.gen h.val + 1) ∧
      (∀ u ∈ t.ucmds, u.half ≠ some h) ∧ t.ref.fseq = (if s.ref.fseq = 0xFFFFFFFF#32 then 1 else s.ref.fseq + 1) ∧
      t.fld 0x2800 3 3 = 1 ∧ t.ctxs = s.ctxs ∧
      (s.hud.resv = [] → s.vol.resv = [] → s.vol.jobs = [] → (∀ q, (s.queue q).mid = [] ∧ (s.queue q).blks = []) → t.mem = s.mem) := by
  have hhalves : s.toDiscard h = [h] := by
    unfold State.toDiscard
    rw [hdue, hreplay]
    rfl
  have hgo : ¬ ([r] = [] ∨ s.eohGone h = true) := by
    rw [heoh]
    rintro (hnil | hgone)
    · exact List.cons_ne_nil r [] hnil
    · exact Bool.false_ne_true hgone
  have hmore : ([h].any fun g => decide (3 ≤ s.ref.discards.getD g.val 0)) = false := by
    rw [List.any_cons, decide_eq_false (Nat.not_le.2 hfew)]
    rfl
  rw [earlyFault_eq (State.noHalf_of_named hnamed), hhalves, hreps, if_neg hgo, hmore]
  obtain ⟨hrecov, hdue', hhs, hgens, hseq, hint, hframe⟩ := State.earlyTaken_does (s := s) (h := h) hmech hreplay hdue
  have hlast : (if false = true then s.stepLost [r] else [h].foldl State.discardHalf (s.earlyTaken h [r] [h])) =
      (s.earlyTaken h [r] [h]).discardHalf h := rfl
  rw [hlast]
  generalize s.earlyTaken h [r] [h] = v at hrecov hdue' hhs hgens hseq hint hframe
  have hdone := v.discardHalf_does h
  generalize v.discardHalf h = t at hdone
  have hgen : v.gen h.val = s.gen h.val := congrArg (fun l : List (BitVec 2) => l.getD h.val 0) hgens
  refine ⟨t, rfl, (congrArg Referee.recov hdone.ref :).trans hrecov, (congrArg Referee.replayDue hdone.ref :).trans hdue',
    (congrArg Referee.rehalves hdone.ref :).trans hhs, ?_, hdone.gone, (congrArg Referee.fseq hdone.ref :).trans hseq, ?_,
    hdone.ctxs.trans (congrArg State.ctxs hframe :), fun hh hv hj hb => ?_⟩
  · rw [hdone.gens, hgens, hgen]
  · rw [← hint]
    exact congrArg (fun x : Word => bitsOf x.toNat 3 3) hdone.ints
  · have hblocks : v.blocksEmpty := fun q => by
      rw [State.queue_congr (congrArg State.queues hframe :)]
      exact hb q
    exact (hdone.mem ((congrArg (fun x : State => x.hud.resv) hframe :).trans hh) ((congrArg (fun x : State => x.vol.resv) hframe :).trans hv)
      ((congrArg (fun x : State => x.vol.jobs) hframe :).trans hj) hblocks).trans (congrArg State.mem hframe :)

/-- A fourth discard of a half in a step makes its faults a step loss. -/
theorem earlyFault_loses (hnamed : ∀ x ∈ s.ref.faults, x.half ≠ none ∨ x.lost = true) (hreps : s.repsOf h = [r])
    (heoh : s.eohGone h = false) (hreplay : s.ref.replay = false) (hdue : s.ref.replayDue = false)
    (hmany : 3 ≤ s.ref.discards.getD h.val 0) : ∃ t, exec (.earlyFaultRecovery ⟨h, .nothing⟩) s = .next t ∧
      t = { s with ref := { s.ref with faults := t.ref.faults } } ∧ ∀ x ∈ t.ref.faults, x.half = some h → x.lost = true := by
  have hhalves : s.toDiscard h = [h] := by
    unfold State.toDiscard
    rw [hdue, hreplay]
    rfl
  have hgo : ¬ (s.repsOf h = [] ∨ s.eohGone h = true) := by
    rw [heoh, hreps]
    rintro (hnil | hgone)
    · exact List.cons_ne_nil r [] hnil
    · exact Bool.false_ne_true hgone
  have hmore : ([h].any fun g => decide (3 ≤ s.ref.discards.getD g.val 0)) = true := by
    rw [List.any_cons, decide_eq_true hmany]
    rfl
  rw [earlyFault_eq (State.noHalf_of_named hnamed), hhalves, if_neg hgo, hmore]
  refine ⟨s.stepLost (s.repsOf h), rfl, rfl, fun x hx hhalf => ?_⟩
  obtain ⟨y, hy, rfl⟩ := List.mem_map.1 (hx : x ∈ s.ref.faults.map fun r => if (s.repsOf h).contains r then { r with lost := true } else r)
  by_cases hc : (s.repsOf h).contains y = true
  · rw [if_pos hc]
  · rw [if_neg hc] at hhalf ⊢
    by_contra hlost
    refine hc (List.contains_iff_mem.2 (List.mem_filter.2 ⟨hy, ?_⟩))
    rw [decide_eq_true hhalf, Bool.eq_false_iff.2 hlost]
    rfl

end Early

theorem State.repsOf_of_no_faults {s : State} (hnone : s.ref.faults = []) (h : Half) : s.repsOf h = [] := by
  unfold State.repsOf
  rw [hnone]
  rfl

/-- Settles O57: the watchdog by its target, the faults by what is reported and how often, and the replay by whether it is due. -/
theorem faultRecovery : Obligations.FaultRecovery := by
  unfold Obligations.FaultRecovery
  refine ⟨fun s c k ok u => ⟨fun hu hstart hres => watchdog_command hu hstart hres ok, fun hissue r hr => ?_, fun hissue => ?_⟩,
    fun s h f => ⟨earlyFault_found s h f, lateFault_found s h f, rfl, rfl, rfl, rfl, rfl, s.found_unconserved h, fun hnone => ?_⟩,
    fun s h r hnamed hreps hmech heoh hreplay hdue => ⟨fun hfew => earlyFault_discards hnamed hreps hmech heoh hreplay hdue hfew,
      fun hmany => earlyFault_loses hnamed hreps heoh hreplay hdue hmany⟩,
    fun s => ⟨fun hidle => ?_, fun hdue hheld hnvs => replay_runs hdue hheld hnvs⟩, fun s h hnamed => ⟨fun hkept hreps heoh => ?_, fun hlost => ?_⟩⟩
  · simp only [watchdog_context hr]
    rw [hissue]
    refine ⟨rfl, fun hnone => ?_, fun hsome => ?_⟩
    · rw [hnone]
      rfl
    · rw [Option.isSome_iff_ne_none.2 hsome]
      rfl
  · rw [watchdog_context rfl, hissue]
    rfl
  · have hhalf := State.noHalf_of_no_faults hnone
    refine ⟨?_, ?_⟩
    · rw [earlyFault_eq hhalf, if_pos (Or.inl (State.repsOf_of_no_faults hnone h))]
    · rw [lateFault_nothing, hhalf, hnone, State.repsOf_of_no_faults hnone]
      rfl
  · have hraw : exec .replay s = execReplay s := rfl
    have hno : (!s.ref.replayDue || decide (s.ref.heldFor ≠ []) || decide (s.kick.nvsq ≠ [])) = true := by
      rcases hidle with h | h | h
      · rw [h]
        rfl
      · rw [decide_eq_true h, Bool.or_true, Bool.true_or]
      · rw [decide_eq_true h, Bool.or_true]
    rw [hraw]
    unfold execReplay
    rw [hno]
    rfl
  · have hnone : s.ref.faults.filter (·.lost) = [] := List.filter_eq_nil_iff.2 fun x hx => by
      rw [hkept x hx]
      exact Bool.false_ne_true
    rw [lateFault_nothing, State.noHalf_of_named hnamed, hnone, if_neg (fun h => h rfl), if_pos ⟨hreps, heoh⟩]
    exact ⟨_, rfl, s.lateHalf_does h (s.repsOf h)⟩
  · have hsome : s.ref.faults.filter (·.lost) ≠ [] := fun hnil => by
      obtain ⟨x, hx, hl⟩ := hlost
      exact List.filter_eq_nil_iff.1 hnil x hx hl
    rw [lateFault_nothing, State.noHalf_of_named hnamed, if_pos hsome]
    exact ⟨_, rfl, s.stepLoss_does _⟩

end Sys2Proof.Machine
end

section
/-! PROOF. COPY: the bytes it moves (R92, R106, R113), its pass through the memory unit (R63, R305), and the obligation about it (R87). -/

namespace Sys2Proof.Machine

open Safety

/-! ### Pieces written to the stacks -/

theorem State.writes_append (s : State) (l m : List (Nat × List Byte)) : s.writes (l ++ m) = (s.writes l).writes m := by
  induction l generalizing s with
  | nil => rfl
  | cons p l ih => exact ih (s.setBytes p.1 p.2)

/-- Pieces change the stacks only. -/
theorem State.writes_frame (s : State) (l : List (Nat × List Byte)) : s.writes l = { s with mem := (s.writes l).mem } := by
  induction l generalizing s with
  | nil => rfl
  | cons p l ih => exact ih (s.setBytes p.1 p.2)

theorem State.writes_mem_congr {s t : State} (h : t.mem = s.mem) (l : List (Nat × List Byte)) : (t.writes l).mem = (s.writes l).mem := by
  induction l generalizing s t with
  | nil => exact h
  | cons p l ih => exact ih (congrArg (fun m => bytesWrite m p.1 p.2) h)

theorem State.writes_byte_outside (s : State) {l : List (Nat × List Byte)} {x : Nat} (h : ∀ p ∈ l, x < p.1 ∨ p.1 + p.2.length ≤ x) :
    (s.writes l).byte x = s.byte x := by
  induction l generalizing s with
  | nil => rfl
  | cons p l ih =>
    calc ((s.setBytes p.1 p.2).writes l).byte x = (s.setBytes p.1 p.2).byte x := ih _ fun q hq => h q (List.mem_cons_of_mem _ hq)
      _ = s.byte x := s.setBytes_byte_outside p.1 p.2 (h p List.mem_cons_self)

/-- Rows at a stride that is at least their length read as written. -/
theorem State.writes_rows_byte (s : State) {base st n : Nat} {row : Nat → List Byte} (hlen : ∀ r, (row r).length = n) (hst : n ≤ st)
    {r j k : Nat} {v : Byte} (hr : r < k) (hv : (row r)[j]? = some v) :
    (s.writes ((List.range k).map fun r => (base + r * st, row r))).byte (base + r * st + j) = v := by
  have hj : j < n := hlen r ▸ (List.getElem?_eq_some_iff.1 hv).1
  induction k with
  | zero => exact absurd hr (Nat.not_lt_zero r)
  | succ k ih =>
    rw [List.range_succ, List.map_append, State.writes_append]
    rcases Nat.lt_succ_iff_lt_or_eq.1 hr with hlt | rfl
    · have hnext : r * st + st ≤ k * st := by
        rw [← Nat.succ_mul]
        exact Nat.mul_le_mul_right st hlt
      exact (State.setBytes_byte_outside _ _ _ (Or.inl (by omega))).trans (ih hlt)
    · exact State.setBytes_byte_inside _ _ _ hv

/-! ### A row of the copy -/

theorem bytesRead_add (m : Tab Byte) (a i j : Nat) : bytesRead m a (i + j) = bytesRead m a i ++ bytesRead m (a + i) j := by
  induction i generalizing a with
  | zero => rw [Nat.zero_add]; rfl
  | succ i ih =>
    rw [Nat.succ_add]
    refine (congrArg (bytesGet m a :: ·) (ih (a + 1))).trans ?_
    rw [Nat.add_right_comm a 1 i]
    rfl

theorem bytesRead_length (m : Tab Byte) (a n : Nat) : (bytesRead m a n).length = n := by
  induction n generalizing a with
  | zero => rfl
  | succ n ih => exact congrArg (· + 1) (ih (a + 1))

/-- The units of a run, read one after the other, are its bytes. -/
theorem flatMap_bytesRead (m : Tab Byte) (a z n : Nat) :
    ((List.range n).flatMap fun j => bytesRead m (a + j * z) z) = bytesRead m a (n * z) := by
  induction n with
  | zero => rw [Nat.zero_mul]; rfl
  | succ n ih => rw [List.range_succ, List.flatMap_append, ih, Nat.succ_mul, bytesRead_add, List.flatMap_singleton]

/-- Between runs of the same number of units, all valid, COPY moves the bytes. -/
theorem State.moveUnits_all (s : State) (fmt n a : Nat) : s.moveUnits fmt n n n (some a) = s.bytes a (n * unitSize fmt) := by
  refine Eq.trans (List.flatMap_congr fun j hj => ?_) (flatMap_bytesRead s.mem a (unitSize fmt) n)
  have hj : j < n := List.mem_range.1 hj
  have hmin : Min.min j (n - 1) = j := by omega
  dsimp only
  rw [hmin, if_pos hj]
  rfl

theorem isElem_iff {f : Nat} : isElem f = true ↔ 1 ≤ f ∧ f ≤ 7 := by
  unfold isElem
  rw [Bool.and_eq_true, decide_eq_true_iff, decide_eq_true_iff]

theorem unitSize_pos {f : Nat} (h : isElem f = true) : 0 < unitSize f := by
  obtain ⟨hlow, hhigh⟩ := isElem_iff.1 h
  interval_cases f <;> decide

/-- A plain run of elements holds them one after the other. -/
theorem Desc.runBytes_plain {d : Desc} (hf : isElem d.fmt = true) (hs : d.sblk = 0) : d.runBytes = d.ext 0 * unitSize d.fmt := by
  have hhigh := (isElem_iff.1 hf).2
  unfold Desc.runBytes Desc.header
  dsimp only
  rw [if_neg (show d.fmt ≠ W2 from (hhigh.trans_lt (by decide)).ne), if_neg (show d.fmt ≠ TERN from (hhigh.trans_lt (by decide)).ne),
    if_neg (show d.fmt ≠ RXI8 from (hhigh.trans_lt (by decide)).ne), if_pos hs, Nat.zero_add]

theorem Desc.units_plain {d : Desc} (hf : isElem d.fmt = true) (hs : d.sblk = 0) : d.units = d.ext 0 := by
  have hhigh := (isElem_iff.1 hf).2
  unfold Desc.units
  rw [if_neg (show d.fmt ≠ RXI8 from (hhigh.trans_lt (by decide)).ne), Desc.runBytes_plain hf hs, Nat.mul_div_cancel _ (unitSize_pos hf)]

theorem clampTo_inside {n i : Nat} (h : i < n) : clampTo n (Int.ofNat i) = (i, false) := by
  unfold clampTo
  rw [if_neg (by exact Int.not_lt.2 (Int.natCast_nonneg i)), if_neg (by simpa using h)]
  rfl

/-- A valid row of a tensor of rank 2 has its run at the base plus its index times the stride. -/
theorem Desc.runFor_rank2 {d : Desc} {r : Nat} (hrank : d.rank = 2) (hext : r < d.ext 1) (hvext : r < d.vext) :
    (d.runFor none [Int.ofNat r]).1 = some (d.base + r * d.str 1) := by
  have hextent : d.extent 1 = d.ext 1 := by
    unfold Desc.extent
    rw [hrank]
    rfl
  have hrow : (((List.range 5).map fun i => clampTo (d.extent (i + 1)) ([Int.ofNat r].getD i 0)).take (d.rank - 1)).map (·.1) = [r] := by
    rw [hrank]
    have hclamp : clampTo (d.extent 1) (Int.ofNat r) = (r, false) := by rw [hextent, clampTo_inside hext]
    exact congrArg (fun x : Nat × Bool => [x.1]) hclamp
  unfold Desc.runFor
  dsimp only
  rw [hrow]
  exact if_pos hvext

theorem Desc.oneRun_rank2 {d : Desc} (h : d.rank = 2) : d.oneRun = d := by
  unfold Desc.oneRun
  rw [h]
  rfl

theorem Desc.middle_rank2 {d : Desc} (h : d.rank = 2) : d.middle = [[]] := by
  unfold Desc.middle
  rw [h]
  rfl

/-- What the obligation asks of a source and a destination: rank 2, the same format and row length, no scales, rows that are there and
do not meet. -/
structure PlainCopy (a b : Desc) : Prop where
  rankA : a.rank = 2
  rankB : b.rank = 2
  sblkA : a.sblk = 0
  sblkB : b.sblk = 0
  elem : isElem a.fmt = true
  fmt : a.fmt = b.fmt
  ext : a.ext 0 = b.ext 0
  vext : b.vext ≤ a.vext
  rows : b.vext ≤ a.ext 1
  apart : b.runBytes ≤ b.str 1

/-- The bytes of row `r` of a source, and where they go. -/
def State.rowCopied (s : State) (a b : Desc) (r : Nat) : Nat × List Byte :=
  (b.base + r * b.str 1, s.bytes (a.base + r * a.str 1) b.runBytes)

/-- What COPY does with row `r`. -/
def State.copyRow (s : State) (u : UCmd) (r : Nat) : List (Nat × List Byte) × Bool :=
  let l := u.descB.oneRun.middle.map fun m =>
    let (a, c) := u.descA.oneRun.runFor u.cov ((m ++ [r]).map Int.ofNat)
    (s.copyRun u.descA u.descB u.cov a (u.descB.oneRun.runAt (m ++ [r])), c)
  (l.flatMap (·.1), (l.any (·.2)) || decide (u.descA.oneRun.units < u.descB.oneRun.units))

theorem State.copyRow_plain {s : State} {u : UCmd} {r : Nat} (h : PlainCopy u.descA u.descB) (hcov : u.cov = none) (hr : r < u.descB.vext) :
    (s.copyRow u r).1 = [s.rowCopied u.descA u.descB r] := by
  have helem : isElem u.descB.fmt = true := h.fmt ▸ h.elem
  have hunits : u.descA.units = u.descB.ext 0 := (Desc.units_plain h.elem h.sblkA).trans h.ext
  have hrow : (s.copyRow u r).1 = s.copyRun u.descA u.descB u.cov (u.descA.oneRun.runFor u.cov [Int.ofNat r]).1
      (u.descB.oneRun.runAt [r]) := by
    unfold State.copyRow
    dsimp only
    rw [Desc.oneRun_rank2 h.rankB, Desc.middle_rank2 h.rankB]
    exact List.append_nil _
  have hnotA : ¬ u.descA.rank = 1 := by rw [h.rankA]; decide
  have hnotB : ¬ u.descB.rank = 1 := by rw [h.rankB]; decide
  rw [hrow, hcov, Desc.oneRun_rank2 h.rankA, Desc.oneRun_rank2 h.rankB,
    Desc.runFor_rank2 h.rankA (hr.trans_le h.rows) (hr.trans_le h.vext)]
  unfold State.copyRun State.rowCopied
  rw [if_pos h.sblkB, if_neg hnotA, if_neg hnotB, hunits, Desc.units_plain helem h.sblkB, State.moveUnits_all,
    Desc.runBytes_plain helem h.sblkB]
  rfl

/-! ### The work of COPY -/

/-- The rows that COPY moves, each read before the first is written. -/
def State.rowsCopied (s : State) (a b : Desc) : List (Nat × List Byte) := (List.range b.vext).map (s.rowCopied a b)

/-- The work moves the rows; beside them it may only raise a flag. -/
theorem copyWork_plain {s : State} {u : UCmd} (h : PlainCopy u.descA u.descB) (hcov : u.cov = none) :
    (copyWork s u).1 = u.moved u.descB.vext ∧ (copyWork s u).2 =
      { s with mem := (s.writes (s.rowsCopied u.descA u.descB)).mem, regs := (copyWork s u).2.regs } := by
  have hrows : ((List.range u.descB.vext).map (s.copyRow u)).flatMap (·.1) = s.rowsCopied u.descA u.descB := by
    rw [List.flatMap_map, State.rowsCopied, ← List.flatMap_pure_eq_map]
    exact List.flatMap_congr fun r hr => State.copyRow_plain h hcov (List.mem_range.1 hr)
  have hwork : ∃ n, copyWork s u = (u.moved u.descB.vext,
      if n = 0 then s.writes (((List.range u.descB.oneRun.vext).map (s.copyRow u)).flatMap (·.1))
      else (s.writes (((List.range u.descB.oneRun.vext).map (s.copyRow u)).flatMap (·.1))).raiseFlag 1 n) := ⟨_, rfl⟩
  obtain ⟨n, hwork⟩ := hwork
  rw [Desc.oneRun_rank2 h.rankB, hrows] at hwork
  rw [hwork]
  refine ⟨rfl, ?_⟩
  dsimp only
  have hframe := s.writes_frame (s.rowsCopied u.descA u.descB)
  generalize s.writes (s.rowsCopied u.descA u.descB) = t at hframe ⊢
  split
  · exact hframe.trans (by rw [hframe])
  · obtain ⟨-, -, -, -, hflag⟩ := t.raiseFlag_does 1 n (by decide)
    exact hflag.trans (congrArg (fun x : State => { x with regs := (t.raiseFlag 1 n).regs }) hframe)

/-! ### The pass of the memory unit -/

/-- No line of the stacks is poisoned, and no channel has lost its contents. -/
def State.Sound (s : State) : Prop := s.mp.poison = [] ∧ s.mp.lostCh = []

theorem State.Sound.lostIn {s : State} (h : s.Sound) (a n : Nat) : s.lostIn a n = none := if_pos h

theorem State.Sound.lostInput {s : State} (h : s.Sound) (u : UCmd) : s.lostInput u = none := by
  unfold State.lostInput
  rw [h.lostIn, h.lostIn, ite_self, ite_self]

theorem State.Sound.cureRows {s : State} (h : s.Sound) (d : Desc) (n : Nat) : s.cureRows d n = s := if_pos h

/-- Work that is done on sound inputs and leaves the stacks sound cures nothing. -/
theorem State.labour_sound {s : State} {u : UCmd} {work : State → UCmd → UCmd × State} {n : Nat} (h : s.Sound)
    (hout : (work s u).1.out = some n) (hafter : (work s u).2.Sound) : s.labour u work = work s u := by
  unfold State.labour
  rw [h.lostInput]
  generalize work s u = w at hout hafter
  obtain ⟨v, t⟩ := w
  dsimp only at hout hafter ⊢
  rw [hout]
  dsimp only
  rw [hafter.cureRows, ite_self]

theorem State.drain_unchained {s : State} {u : UCmd} (hA : u.chainA = false) (hC : u.chainC = false) : s.drain u = (u, s) := by
  unfold State.drain
  rw [hA]
  dsimp only
  rw [hC]

/-- With no tracked output a command whose work is done is finished. -/
theorem State.post_untracked {s : State} {u : UCmd} {n : Nat} (hout : u.out = some n) (hres : u.result = none) (htrk : u.dest.trk = false)
    (hC : writesC u.op = false) : s.post u = ({ u with lastD := true, lastC := true }.done codeOk u.value, s) := by
  have hdest : ((writesA u.op || writesB u.op) && u.dest.trk) = false := by rw [htrk, Bool.and_false]
  unfold State.post
  rw [hout]
  dsimp only
  rw [hres]
  dsimp only [Option.isSome]
  rw [if_neg Bool.false_ne_true, hdest, if_neg Bool.false_ne_true]
  dsimp only
  rw [hC, Bool.false_and, if_neg Bool.false_ne_true]
  rfl

/-- The command as the memory unit has accepted it. -/
def UCmd.accepted (u : UCmd) (h : Option Half) : UCmd := { u with half := h, started := true }

/-- The state in which the memory unit has accepted a command. -/
def State.accepts (s : State) (u : UCmd) (h : Option Half) : State :=
  (s.noteRows { u with half := h }).halfEntry u.c.val u.serial h

theorem State.accepts_frame (s : State) (u : UCmd) (h : Option Half) :
    s.accepts u h = { s with ref := { s.ref with journal := (s.accepts u h).ref.journal, rowHalf := (s.accepts u h).ref.rowHalf } } := rfl

/-- A new command between tensors that are not tracked and sound passes through its unit at once. -/
theorem State.drive_whole {s : State} {u : UCmd} {check : State → UCmd → Option Byte} {work : State → UCmd → UCmd × State} {n : Nat}
    (hres : u.result = none) (hstart : u.started = false) (hout : u.out = none) (hcheck : check s u = none) (hA : u.chainA = false)
    (hC : u.chainC = false) (htrk : u.dest.trk = false) (hcomp : writesC u.op = false) (hsound : s.Sound)
    (hwork : (work (s.accepts u (s.inputHalf u)) (u.accepted (s.inputHalf u))).1 = (u.accepted (s.inputHalf u)).moved n)
    (hafter : (work (s.accepts u (s.inputHalf u)) (u.accepted (s.inputHalf u))).2.Sound) :
    s.drive u check memStart work = (work (s.accepts u (s.inputHalf u)) (u.accepted (s.inputHalf u))).2.putCmd
      ({ (u.accepted (s.inputHalf u)).moved n with lastD := true, lastC := true }.done codeOk u.value) := by
  have haccepts : (s.accepts u (s.inputHalf u)).Sound := hsound
  have hdrain := State.drain_unchained (s := s.accepts u (s.inputHalf u)) (u := u.accepted (s.inputHalf u)) hA hC
  have hlabour := State.labour_sound haccepts ((congrArg UCmd.out hwork :).trans rfl) hafter
  have hends : (u.accepted (s.inputHalf u)).inputsEnd = true := by
    have hends : (u.accepted (s.inputHalf u)).inputsEnd = ((!u.chainA || u.endA) && (!u.chainC || u.endC)) := rfl
    rw [hends, hA, hC]
    rfl
  have hready : ((u.accepted (s.inputHalf u)).inputsEnd && (u.accepted (s.inputHalf u)).out.isNone &&
      (u.accepted (s.inputHalf u)).result.isNone) = true := by
    have hno : (u.accepted (s.inputHalf u)).out = none := hout
    have hnr : (u.accepted (s.inputHalf u)).result = none := hres
    rw [hends, hno, hnr]
    rfl
  have hpost := State.post_untracked (s := (work (s.accepts u (s.inputHalf u)) (u.accepted (s.inputHalf u))).2)
    (u := (u.accepted (s.inputHalf u)).moved n) rfl hres htrk hcomp
  unfold State.drive State.driveRows
  rw [hres, hstart]
  dsimp only [Option.isSome]
  rw [if_neg Bool.false_ne_true, if_neg Bool.false_ne_true, hcheck]
  dsimp only
  rw [if_neg Bool.false_ne_true]
  generalize hd : State.drain _ _ = d
  obtain rfl := hdrain.symm.trans hd
  dsimp only
  rw [ite_self]
  dsimp only
  rw [if_pos hready, hlabour, hwork, hpost]
  rfl

/-- A command behind others that are out of its unit's way is at the head of its queue. -/
theorem State.isHead_of_idle {s : State} {u : UCmd} {l : List UCmd} (hcmds : s.ucmds = l ++ [u])
    (hidle : ∀ v ∈ l, unitOf v.op = unitOf u.op → v.blocks = false) (hu : u.blocks = true) : s.isHead u = true := by
  have hnone : l.find? (fun v => decide (unitOf v.op = unitOf u.op) && v.blocks) = none :=
    List.find?_eq_none.2 fun v hv hboth => by
      obtain ⟨hunit, hblocks⟩ := Bool.and_eq_true_iff.1 hboth
      rw [hidle v hv (of_decide_eq_true hunit)] at hblocks
      exact Bool.false_ne_true hblocks
  have hself : [u].find? (fun v => decide (unitOf v.op = unitOf u.op) && v.blocks) = some u :=
    List.find?_cons_of_pos (Bool.and_eq_true_iff.2 ⟨decide_eq_true rfl, hu⟩)
  unfold State.isHead
  rw [hcmds, List.find?_append, hnone, Option.none_or, hself]
  exact Bool.and_eq_true_iff.2 ⟨decide_eq_true rfl, decide_eq_true rfl⟩

/-! ### COPY through the memory unit -/

/-- A COPY that its unit takes up has moved its rows, with OK, and changes nothing else but flags and what is noted of its half. -/
theorem copyRunCmd_does {s : State} {c : Ctx} {f : Fields} {u : UCmd} (hop : u.op = .copy c f) (hres : u.result = none)
    (hstart : u.started = false) (hout : u.out = none) (hcheck : copyCheck s u = none) (htrkA : u.descA.trk = false)
    (htrkB : u.descB.trk = false) (hsound : s.Sound) (h : PlainCopy u.descA u.descB) :
    (copyRunCmd s u).mem = (s.writes (s.rowsCopied u.descA u.descB)).mem ∧ (copyRunCmd s u).ctxs = s.ctxs ∧
      (copyRunCmd s u).sync = s.sync ∧
      (u ∈ s.ucmds → ∃ v ∈ (copyRunCmd s u).ucmds, v.c = u.c ∧ v.serial = u.serial ∧ ∃ r, v.result = some r ∧ r.code = codeOk) := by
  have hA : u.chainA = false := by
    unfold UCmd.chainA
    rw [htrkA, Bool.and_false]
    rfl
  have hC : u.chainC = false := by
    unfold UCmd.chainC
    rw [hop]
    rfl
  have hdest : u.dest.trk = false := by
    unfold UCmd.dest
    rw [hop]
    exact htrkB
  have hcomp : writesC u.op = false := by
    rw [hop]
    rfl
  have hcov : (u.accepted (s.inputHalf u)).cov = none := by
    have hcov : (u.accepted (s.inputHalf u)).cov = if u.chainA then some u.covA else none := rfl
    rw [hcov, hA]
    rfl
  obtain ⟨hmoved, hframe⟩ := copyWork_plain (s := s.accepts u (s.inputHalf u)) (u := u.accepted (s.inputHalf u)) h hcov
  have hafter : (copyWork (s.accepts u (s.inputHalf u)) (u.accepted (s.inputHalf u))).2.Sound := by
    rw [hframe]
    exact hsound
  have hrun := State.drive_whole hres hstart hout hcheck hA hC hdest hcomp hsound hmoved hafter
  have hmem : ((s.accepts u (s.inputHalf u)).writes ((s.accepts u (s.inputHalf u)).rowsCopied u.descA u.descB)).mem =
      (s.writes (s.rowsCopied u.descA u.descB)).mem :=
    State.writes_mem_congr (s := s) (t := s.accepts u (s.inputHalf u)) rfl _
  unfold copyRunCmd
  rw [hrun]
  generalize (copyWork (s.accepts u (s.inputHalf u)) (u.accepted (s.inputHalf u))).2 = t at hframe
  refine ⟨((congrArg State.mem hframe :).trans hmem :), (congrArg State.ctxs hframe :), (congrArg State.sync hframe :), fun hu => ?_⟩
  have hcmds : t.ucmds = s.ucmds := (congrArg State.ucmds hframe :)
  exact ⟨_, List.mem_map.2 ⟨u, hcmds ▸ hu, if_pos ⟨rfl, rfl⟩⟩, rfl, rfl, _, rfl, rfl⟩

/-! ### The obligation -/

/-- Settles O59: the COPY is at the head of its unit's queue, passes through the unit at once, and its rows lie apart. -/
theorem copyMovesRows : Obligations.CopyMovesRows := by
  unfold Obligations.CopyMovesRows
  intro s c f u a b hi hj hu ha hb hidle hcode hcheck _ hpoison hlost htrkA htrkB hrankA hrankB hsblkA hsblkB helem hfmt hext hvext hrows
    hapart
  subst ha hb
  have hplain : PlainCopy u.descA u.descB := ⟨hrankA, hrankB, hsblkA, hsblkB, helem, hfmt, hext, hvext, hrows, hapart⟩
  obtain ⟨v, ⟨hv, -⟩, hexec⟩ := unitCommand_issues (i := .copy c f) rfl (by decide) (by decide) hi hj
  rw [← hu, State.checked_none hcode] at hexec
  have hop : u.op = .copy c f := (congrArg UCmd.op hu).trans (s.newCmd_op c _ f)
  have hres : u.result = none := (congrArg UCmd.result hu :)
  have hcu : u.c = c := (congrArg UCmd.c hu :)
  obtain ⟨hpush, -, hother, -⟩ := v.pushed_does c u
  have hctx (d : Nat) (hd : d ≠ c.val) : (v.pushed c u).ctx d = s.ctx d :=
    (hother d hd).trans (congrArg (fun x : State => x.ctx d) hv :)
  generalize v.pushed c u = t at hexec hpush hctx
  rw [hv] at hpush
  have hcmds : t.ucmds = s.ucmds ++ [u] := (congrArg State.ucmds hpush :)
  have hmem : t.mem = s.mem := (congrArg State.mem hpush :)
  have hmp : t.mp = s.mp := (congrArg State.mp hpush :)
  have hhead : t.isHead u = true := State.isHead_of_idle hcmds (fun w hw hunit => by
    rw [hop] at hunit
    have hdone := hidle w hw hunit
    unfold UCmd.blocks
    rw [hunit]
    cases hr : w.result with
    | none => exact absurd hr hdone
    | some r => rfl) (by
    unfold UCmd.blocks
    rw [hres]
    rfl)
  have htaken : t.taken u unitRun = copyRunCmd t u := by
    unfold State.taken
    rw [hres, hhead]
    refine (if_pos rfl).trans ?_
    unfold unitRun
    rw [hop]
  have hsound : t.Sound := ⟨(congrArg MemPort.poison hmp :).trans hpoison, (congrArg MemPort.lostCh hmp :).trans hlost⟩
  obtain ⟨hdone, hctxs, hsync, hresult⟩ := copyRunCmd_does (s := t) hop hres (congrArg UCmd.started hu :) (congrArg UCmd.out hu :)
    hcheck htrkA htrkB hsound hplain
  have hrowsMem : (t.writes (t.rowsCopied u.descA u.descB)).mem = (s.writes (s.rowsCopied u.descA u.descB)).mem := by
    have hread : t.rowsCopied u.descA u.descB = s.rowsCopied u.descA u.descB := by
      unfold State.rowsCopied State.rowCopied State.bytes
      rw [hmem]
    rw [hread]
    exact State.writes_mem_congr hmem _
  have hbyte (x : Nat) : (copyRunCmd t u).byte x = (s.writes (s.rowsCopied u.descA u.descB)).byte x :=
    congrArg (fun m => Tab.get 0#8 m x) (hdone.trans hrowsMem)
  rw [htaken] at hexec
  refine ⟨_, hexec, fun r hr j hj => (hbyte _).trans ?_, fun x hx => (hbyte x).trans (State.writes_byte_outside s fun p hp => ?_), ?_,
    fun d hd => (congrArg (fun m => Tab.get Context.reset m d) hctxs).trans (hctx d hd),
    hsync.trans ((congrArg State.sync hpush :).trans rfl)⟩
  · refine State.writes_rows_byte s (row := fun r => s.bytes (u.descA.base + r * u.descA.str 1) u.descB.runBytes)
      (fun r => bytesRead_length _ _ _) hapart hr ?_
    exact (bytesRead_getElem? s.mem _ _ _).trans (if_pos hj)
  · obtain ⟨r, hr, rfl⟩ := List.mem_map.1 hp
    have hlen : (s.rowCopied u.descA u.descB r).2.length = u.descB.runBytes := bytesRead_length _ _ _
    rw [hlen]
    exact hx r (List.mem_range.1 hr)
  · obtain ⟨w, hw, hwc, hserial, hcodeOk⟩ := hresult (hcmds ▸ List.mem_append_right _ List.mem_cons_self)
    exact ⟨w, hw, hwc.trans hcu, hserial, hcodeOk⟩

end Sys2Proof.Machine
end
